-- ==== Sys2Proof/Word.lean ====
section
/-! DEFINITION. The word types of the SK4 (R4, R14, R40): a byte, the 32-bit value of a lane, a 64-bit
word, and a mask with one bit for each lane. -/

namespace Sys2Proof

/-- One byte of memory. -/
abbrev Byte := BitVec 8
/-- What one lane of a vector register holds (R14). -/
abbrev Word32 := BitVec 32
/-- An instruction word, a scalar register, or a 64-bit lane value. -/
abbrev Word64 := BitVec 64
/-- Bit l stands for lane l (R17). -/
abbrev Mask := BitVec 32

end Sys2Proof
end

