-- ==== Sys2Proof/Syntax.lean ====
section
/-! DEFINITION. The words of the Krevy ISA as data, and the events of the device.

`Instr` has one constructor for each row of the opcode table: the instructions of R61 with their
control field (R41) and the fields of their payload format (R45), and the device's own steps (header
passes, completions, placements, engine turns, calls, requests, errors). The fields of a payload stay
the codes the word holds, because the fallbacks of R65 are decided on the codes. -/

namespace Sys2Proof

/-- The control field of R41, bits [63:40] of the first word. -/
structure Ctl where
  dist : BitVec 3
  wait : BitVec 12
  setf : BitVec 4
  wb   : BitVec 1
  pred : BitVec 3
  pn   : BitVec 1
  deriving DecidableEq, Repr

/-- Format A (R45). `lit` is the literal of the second word (R48). -/
structure PayA where
  d   : BitVec 8
  s1  : BitVec 8
  s2  : BitVec 8
  mod : BitVec 8
  lit : Option (BitVec 64)
  deriving DecidableEq, Repr

/-- Format B (R45). `ext` is the second word: a literal (R48), or the extension word of R49. -/
structure PayB where
  d   : BitVec 8
  s1  : BitVec 8
  s2  : BitVec 8
  s3  : BitVec 8
  ext : Option (BitVec 64)
  deriving DecidableEq, Repr

/-- Format I (R45). -/
structure PayI where
  d   : BitVec 8
  s1  : BitVec 8
  imm : BitVec 16
  lit : Option (BitVec 64)
  deriving DecidableEq, Repr

/-- Format C (R45). `zero` holds the reserved bits [4:0]. -/
structure PayC where
  d    : BitVec 8
  s1   : BitVec 8
  dt   : BitVec 4
  st   : BitVec 4
  rnd  : BitVec 2
  sat  : BitVec 1
  zero : BitVec 5
  lit  : Option (BitVec 64)
  deriving DecidableEq, Repr

/-- Format M (R45). -/
structure PayM where
  d     : BitVec 8
  ix    : BitVec 8
  h     : BitVec 4
  ty    : BitVec 4
  scope : BitVec 4
  w     : BitVec 1
  ch    : BitVec 2
  x     : BitVec 1
  lit   : Option (BitVec 64)
  deriving DecidableEq, Repr

/-- Format ML (R45). -/
structure PayML where
  d   : BitVec 8
  ix  : BitVec 8
  sp  : BitVec 2
  ty  : BitVec 4
  off : BitVec 10
  lit : Option (BitVec 64)
  deriving DecidableEq, Repr

/-- Format J (R45): condition or link code and signed word count. -/
structure PayJ where
  c1  : BitVec 8
  tgt : BitVec 24
  deriving DecidableEq, Repr

/-- Format E over M (atom, cas): word 0 in format M and the second word of R191. -/
structure PayEM where
  d     : BitVec 8
  ix    : BitVec 8
  h     : BitVec 4
  ty    : BitVec 4
  scope : BitVec 4
  w     : BitVec 1
  ch    : BitVec 2
  x     : BitVec 1
  w1    : BitVec 64
  deriving DecidableEq, Repr

/-- Format E over ML (atoms). -/
structure PayEML where
  d   : BitVec 8
  ix  : BitVec 8
  sp  : BitVec 2
  ty  : BitVec 4
  off : BitVec 10
  w1  : BitVec 64
  deriving DecidableEq, Repr

/-- Who executes instructions (R14, R37): group `g` of the team with key `team`, or the control-core
program of the package's quad number `quad` (0 to 159). -/
inductive Agent where
  | grp (team g : Nat)
  | ctl (quad : Nat)
  deriving DecidableEq, Repr

/-- How a call reached firmware (R365): the interface, and whether it came inside a secured session
(R366, R367) rather than over the mailbox. -/
structure CallHdr where
  qif     : Nat
  session : Option Nat
  deriving DecidableEq, Repr

/-- Arguments of MAP (R301): the interface whose table is changed, the page's address, the leaf, the
level it is placed at, and the nodes firmware has ready for levels that have none yet. -/
structure MapArgs where
  iface : Nat
  va    : Nat
  leaf  : BitVec 128
  level : Nat
  nodes : List Nat
  deriving DecidableEq, Repr

/-- Arguments of REGION (R317): the region entry and the ranges of up to 8 first views. -/
structure RegionArgs where
  part  : Nat
  index : Nat
  iface : Nat
  rbase : Nat
  esh   : Nat
  hdie  : Nat
  pages : Nat
  ctree : Nat
  views : List (Nat × Nat)
  deriving DecidableEq, Repr

/-- What PART_CONFIG sets for one interface (R364, R295, R337). -/
structure IfaceArgs where
  qif   : Nat
  pasid : Nat
  part  : Nat
  call  : Nat
  level : Nat
  root  : Nat
  deriving DecidableEq, Repr

/-- Ownership bitmaps of Table 23.1, one list of resource numbers for each class. -/
structure Bitmaps where
  quads    : List Nat
  banks    : List Nat
  channels : List Nat
  copy     : List Nat
  sqes     : List Nat
  taps     : List Nat
  finper   : List Nat
  cxl      : List Nat
  dieUnits : List Nat
  deriving DecidableEq, Repr

/-- Arguments of PART_CONFIG (R363 to R366, R302): the partition, its kind, its bitmaps, leave to use
the shared pool, Tq, frame records (frame number, owned or not) and interfaces. What firmware sets beside the fields of
Table 23.3 comes with it: member lists of coll (R202), the scratchpad boundary of quads (R136), and bytes of the save pool
on each die (R314). (DESIGN CHOICE, log entry 69.) -/
structure PartArgs where
  part      : Nat
  guarded   : Bool
  maps      : Bitmaps
  useShared : Bool
  tq        : Nat
  frames    : List (Nat × Bool)
  ifaces    : List IfaceArgs
  members   : List (Nat × List Agent)
  quadParts : List (Nat × Nat)
  savePools : List (Nat × Nat)
  deriving DecidableEq, Repr

/-- An entry of the extent table (R308, Table 20.6). -/
structure ExtentArgs where
  lba0  : BitVec 64
  nsid  : BitVec 32
  port  : BitVec 3
  lb4k  : Bool
  ro    : Bool
  skey  : BitVec 12
  valid : Bool
  pages : BitVec 32
  deriving DecidableEq, Repr

/-- What every SPDM request carries (R368): its version, the session it arrives in (none: outside a
session), whether its fields are well formed, and whether the host has read the response before it. -/
structure SpdmReq where
  version : BitVec 8
  session : Option Nat
  good    : Bool
  read    : Bool
  deriving DecidableEq, Repr

/-- Where an ECC error lies (R371). Addresses are bytes; `code` is a fetch address of an agent. -/
inductive EccPlace where
  | memory (pa : Nat)
  | coreScratch (core off : Nat)
  | dieScratch (die off : Nat)
  | register (a : Agent) (reg lane : Nat)
  | accumulator (quad acc element : Nat)
  | code (a : Agent)
  | handle (a : Agent) (n : Nat)
  | metadata (part : Nat)
  deriving DecidableEq, Repr

/-- One constructor for each row of the opcode table: the instructions of R61, then the device's own
steps. The comment of a constructor names its row and opcode. -/
inductive Instr where
  /-- NOP, opcode 0x00. -/
  | nop (c : Ctl) (p : PayA)
  /-- ADD, opcode 0x01. -/
  | add (c : Ctl) (p : PayA)
  /-- SUB, opcode 0x02. -/
  | sub (c : Ctl) (p : PayA)
  /-- MUL, opcode 0x03. -/
  | mul (c : Ctl) (p : PayA)
  /-- MULHI, opcode 0x04. -/
  | mulhi (c : Ctl) (p : PayA)
  /-- MAD, opcode 0x05. -/
  | mad (c : Ctl) (p : PayB)
  /-- MIN, opcode 0x06. -/
  | min (c : Ctl) (p : PayA)
  /-- MAX, opcode 0x07. -/
  | max (c : Ctl) (p : PayA)
  /-- ABS, opcode 0x08. -/
  | abs (c : Ctl) (p : PayA)
  /-- NEG, opcode 0x09. -/
  | neg (c : Ctl) (p : PayA)
  /-- AND, opcode 0x0A. -/
  | and (c : Ctl) (p : PayA)
  /-- OR, opcode 0x0B. -/
  | or (c : Ctl) (p : PayA)
  /-- XOR, opcode 0x0C. -/
  | xor (c : Ctl) (p : PayA)
  /-- NOT, opcode 0x0D. -/
  | not (c : Ctl) (p : PayA)
  /-- SHL, opcode 0x0E. -/
  | shl (c : Ctl) (p : PayA)
  /-- SHR, opcode 0x0F. -/
  | shr (c : Ctl) (p : PayA)
  /-- SAR, opcode 0x10. -/
  | sar (c : Ctl) (p : PayA)
  /-- ROT, opcode 0x11. -/
  | rot (c : Ctl) (p : PayA)
  /-- POPC, opcode 0x12. -/
  | popc (c : Ctl) (p : PayA)
  /-- CLZ, opcode 0x13. -/
  | clz (c : Ctl) (p : PayA)
  /-- BFE, opcode 0x14. -/
  | bfe (c : Ctl) (p : PayB)
  /-- BFI, opcode 0x15. -/
  | bfi (c : Ctl) (p : PayB)
  /-- SEL, opcode 0x16. -/
  | sel (c : Ctl) (p : PayB)
  /-- CMP, opcode 0x17. -/
  | cmp (c : Ctl) (p : PayA)
  /-- ADDI, opcode 0x18. -/
  | addi (c : Ctl) (p : PayI)
  /-- LI, opcode 0x19. -/
  | li (c : Ctl) (p : PayI)
  /-- LIH, opcode 0x1A. -/
  | lih (c : Ctl) (p : PayI)
  /-- MOV, opcode 0x1B. -/
  | mov (c : Ctl) (p : PayA)
  /-- LEA, opcode 0x1C. -/
  | lea (c : Ctl) (p : PayA)
  /-- CVT, opcode 0x1D. -/
  | cvt (c : Ctl) (p : PayC)
  /-- DIV, opcode 0x1E. -/
  | div (c : Ctl) (p : PayA)
  /-- REM, opcode 0x1F. -/
  | rem (c : Ctl) (p : PayA)
  /-- FADD, opcode 0x20. -/
  | fadd (c : Ctl) (p : PayA)
  /-- FSUB, opcode 0x21. -/
  | fsub (c : Ctl) (p : PayA)
  /-- FMUL, opcode 0x22. -/
  | fmul (c : Ctl) (p : PayA)
  /-- FMA, opcode 0x23. -/
  | fma (c : Ctl) (p : PayB)
  /-- FMIN, opcode 0x24. -/
  | fmin (c : Ctl) (p : PayA)
  /-- FMAX, opcode 0x25. -/
  | fmax (c : Ctl) (p : PayA)
  /-- FABS, opcode 0x26. -/
  | fabs (c : Ctl) (p : PayA)
  /-- FNEG, opcode 0x27. -/
  | fneg (c : Ctl) (p : PayA)
  /-- FCMP, opcode 0x28. -/
  | fcmp (c : Ctl) (p : PayA)
  /-- FCVT, opcode 0x29. -/
  | fcvt (c : Ctl) (p : PayC)
  /-- FROUND, opcode 0x2A. -/
  | fround (c : Ctl) (p : PayA)
  /-- FCLASS, opcode 0x2B. -/
  | fclass (c : Ctl) (p : PayA)
  /-- FSCL, opcode 0x2C. -/
  | fscl (c : Ctl) (p : PayA)
  /-- FGETX, opcode 0x2D. -/
  | fgetx (c : Ctl) (p : PayA)
  /-- RCPS, opcode 0x2E. -/
  | rcps (c : Ctl) (p : PayA)
  /-- RSQS, opcode 0x2F. -/
  | rsqs (c : Ctl) (p : PayA)
  /-- EXS, opcode 0x30. -/
  | exs (c : Ctl) (p : PayA)
  /-- LGS, opcode 0x31. -/
  | lgs (c : Ctl) (p : PayA)
  /-- SNS, opcode 0x32. -/
  | sns (c : Ctl) (p : PayA)
  /-- CSS, opcode 0x33. -/
  | css (c : Ctl) (p : PayA)
  /-- FDIV, opcode 0x34. -/
  | fdiv (c : Ctl) (p : PayA)
  /-- FSQRT, opcode 0x35. -/
  | fsqrt (c : Ctl) (p : PayA)
  /-- DOT2, opcode 0x40. -/
  | dot2 (c : Ctl) (p : PayB)
  /-- DOT4, opcode 0x41. -/
  | dot4 (c : Ctl) (p : PayB)
  /-- PK2, opcode 0x42. -/
  | pk2 (c : Ctl) (p : PayA)
  /-- UPK2, opcode 0x43. -/
  | upk2 (c : Ctl) (p : PayA)
  /-- PK4, opcode 0x44. -/
  | pk4 (c : Ctl) (p : PayA)
  /-- UPK4, opcode 0x45. -/
  | upk4 (c : Ctl) (p : PayA)
  /-- HADD2, opcode 0x46. -/
  | hadd2 (c : Ctl) (p : PayA)
  /-- HMUL2, opcode 0x47. -/
  | hmul2 (c : Ctl) (p : PayA)
  /-- HFMA2, opcode 0x48. -/
  | hfma2 (c : Ctl) (p : PayB)
  /-- SHFL, opcode 0x50. -/
  | shfl (c : Ctl) (p : PayA)
  /-- VOTE, opcode 0x51. -/
  | vote (c : Ctl) (p : PayA)
  /-- MATCH, opcode 0x52. -/
  | match_ (c : Ctl) (p : PayA)
  /-- CMPCT, opcode 0x53. -/
  | cmpct (c : Ctl) (p : PayA)
  /-- SCAN, opcode 0x54. -/
  | scan (c : Ctl) (p : PayA)
  /-- RED, opcode 0x55. -/
  | red (c : Ctl) (p : PayA)
  /-- SEGRED, opcode 0x56. -/
  | segred (c : Ctl) (p : PayA)
  /-- SRT, opcode 0x57. -/
  | srt (c : Ctl) (p : PayA)
  /-- TOPK, opcode 0x58. -/
  | topk (c : Ctl) (p : PayA)
  /-- KMERGE, opcode 0x59. -/
  | kmerge (c : Ctl) (p : PayA)
  /-- RGPUT, opcode 0x5A. -/
  | rgput (c : Ctl) (p : PayA)
  /-- RGGET, opcode 0x5B. -/
  | rgget (c : Ctl) (p : PayA)
  /-- LPERM, opcode 0x5C. -/
  | lperm (c : Ctl) (p : PayA)
  /-- BCAST, opcode 0x5D. -/
  | bcast (c : Ctl) (p : PayA)
  /-- FFS, opcode 0x5E. -/
  | ffs (c : Ctl) (p : PayA)
  /-- BR, opcode 0x60. -/
  | br (c : Ctl) (p : PayJ)
  /-- BRC, opcode 0x61. -/
  | brc (c : Ctl) (p : PayJ)
  /-- BRL, opcode 0x62. -/
  | brl (c : Ctl) (p : PayJ)
  /-- BRX, opcode 0x63. -/
  | brx (c : Ctl) (p : PayA)
  /-- CALL, opcode 0x64. -/
  | call (c : Ctl) (p : PayJ)
  /-- RET, opcode 0x65. -/
  | ret (c : Ctl) (p : PayA)
  /-- EXIT, opcode 0x66. -/
  | exit (c : Ctl) (p : PayA)
  /-- YIELD, opcode 0x67. -/
  | yield (c : Ctl) (p : PayA)
  /-- HALT, opcode 0x68. -/
  | halt (c : Ctl) (p : PayA)
  /-- TRAP, opcode 0x69. -/
  | trap (c : Ctl) (p : PayA)
  /-- TRET, opcode 0x6A. -/
  | tret (c : Ctl) (p : PayA)
  /-- BRK, opcode 0x6B. -/
  | brk (c : Ctl) (p : PayA)
  /-- BAR, opcode 0x70. -/
  | bar (c : Ctl) (p : PayA)
  /-- BARV, opcode 0x71. -/
  | barv (c : Ctl) (p : PayA)
  /-- BARW, opcode 0x72. -/
  | barw (c : Ctl) (p : PayA)
  /-- FENCE_FULL, opcode 0x73. -/
  | fenceFull (c : Ctl) (p : PayA)
  /-- FENCE_ACQ, opcode 0x73. -/
  | fenceAcq (c : Ctl) (p : PayA)
  /-- FENCE_REL, opcode 0x73. -/
  | fenceRel (c : Ctl) (p : PayA)
  /-- TWANY, opcode 0x74. -/
  | twany (c : Ctl) (p : PayA)
  /-- TWALL, opcode 0x75. -/
  | twall (c : Ctl) (p : PayA)
  /-- TFFS, opcode 0x76. -/
  | tffs (c : Ctl) (p : PayA)
  /-- TCLR, opcode 0x77. -/
  | tclr (c : Ctl) (p : PayA)
  /-- RACQ, opcode 0x78. -/
  | racq (c : Ctl) (p : PayA)
  /-- RREL, opcode 0x79. -/
  | rrel (c : Ctl) (p : PayA)
  /-- TGROW, opcode 0x7A. -/
  | tgrow (c : Ctl) (p : PayA)
  /-- TSHRINK, opcode 0x7B. -/
  | tshrink (c : Ctl) (p : PayA)
  /-- TAG, opcode 0x7C. -/
  | tag (c : Ctl) (p : PayA)
  /-- TAGSET, opcode 0x7D. -/
  | tagset (c : Ctl) (p : PayA)
  /-- LD, opcode 0x80. -/
  | ld (c : Ctl) (p : PayM)
  /-- ST, opcode 0x81. -/
  | st (c : Ctl) (p : PayM)
  /-- LDS, opcode 0x82. -/
  | lds (c : Ctl) (p : PayML)
  /-- STS, opcode 0x83. -/
  | sts (c : Ctl) (p : PayML)
  /-- PF, opcode 0x84. -/
  | pf (c : Ctl) (p : PayM)
  /-- ATOM, opcode 0x85. -/
  | atom (c : Ctl) (p : PayEM)
  /-- CAS, opcode 0x86. -/
  | cas (c : Ctl) (p : PayEM)
  /-- ATOMS, opcode 0x87. -/
  | atoms (c : Ctl) (p : PayEML)
  /-- HLD, opcode 0x88. -/
  | hld (c : Ctl) (p : PayA)
  /-- HST, opcode 0x89. -/
  | hst (c : Ctl) (p : PayA)
  /-- HMK, opcode 0x8A. -/
  | hmk (c : Ctl) (p : PayA)
  /-- HGET, opcode 0x8B. -/
  | hget (c : Ctl) (p : PayA)
  /-- VOPEN, opcode 0xA0. -/
  | vopen (c : Ctl) (p : PayA)
  /-- VNAR, opcode 0xA1. -/
  | vnar (c : Ctl) (p : PayA)
  /-- VSPLIT, opcode 0xA2. -/
  | vsplit (c : Ctl) (p : PayA)
  /-- VCLOSE, opcode 0xA3. -/
  | vclose (c : Ctl) (p : PayA)
  /-- VINFO, opcode 0xA4. -/
  | vinfo (c : Ctl) (p : PayA)
  /-- HPUB, opcode 0xA5. -/
  | hpub (c : Ctl) (p : PayA)
  /-- CPY, opcode 0xB0. -/
  | cpy (c : Ctl) (p : PayA)
  /-- CPY2, opcode 0xB1. -/
  | cpy2 (c : Ctl) (p : PayA)
  /-- GTH, opcode 0xB2. -/
  | gth (c : Ctl) (p : PayA)
  /-- SCT, opcode 0xB3. -/
  | sct (c : Ctl) (p : PayA)
  /-- COLL, opcode 0xB4. -/
  | coll (c : Ctl) (p : PayA)
  /-- FILL, opcode 0xB5. -/
  | fill (c : Ctl) (p : PayA)
  /-- FBSET, opcode 0xB6. -/
  | fbset (c : Ctl) (p : PayA)
  /-- FBCLR, opcode 0xB7. -/
  | fbclr (c : Ctl) (p : PayA)
  /-- SFPRE, opcode 0xB8. -/
  | sfpre (c : Ctl) (p : PayA)
  /-- MMA, opcode 0xC0. -/
  | mma (c : Ctl) (p : PayA)
  /-- MMZ, opcode 0xC1. -/
  | mmz (c : Ctl) (p : PayA)
  /-- MST, opcode 0xC2. -/
  | mst (c : Ctl) (p : PayA)
  /-- MLD, opcode 0xC3. -/
  | mld (c : Ctl) (p : PayA)
  /-- MSCL, opcode 0xC4. -/
  | mscl (c : Ctl) (p : PayA)
  /-- MFEED, opcode 0xC5. -/
  | mfeed (c : Ctl) (p : PayA)
  /-- MDRAIN, opcode 0xC6. -/
  | mdrain (c : Ctl) (p : PayA)
  /-- TAP, opcode 0xD0. -/
  | tap (c : Ctl) (p : PayA)
  /-- ROWSEL, opcode 0xD1. -/
  | rowsel (c : Ctl) (p : PayA)
  /-- RSET, opcode 0xD2. -/
  | rset (c : Ctl) (p : PayA)
  /-- TAPGET, opcode 0xD3. -/
  | tapget (c : Ctl) (p : PayA)
  /-- WRET, opcode 0xD4. -/
  | wret (c : Ctl) (p : PayA)
  /-- WRD, opcode 0xD5. -/
  | wrd (c : Ctl) (p : PayA)
  /-- TLAUNCH, opcode 0xD6. -/
  | tlaunch (c : Ctl) (p : PayA)
  /-- QPUSH, opcode 0xD7. -/
  | qpush (c : Ctl) (p : PayA)
  /-- QCLOSE, opcode 0xD8. -/
  | qclose (c : Ctl) (p : PayA)
  /-- SRD, opcode 0xE0. -/
  | srd (c : Ctl) (p : PayA)
  /-- SWR, opcode 0xE1. -/
  | swr (c : Ctl) (p : PayA)
  /-- SEGSET, opcode 0xE2. -/
  | segset (c : Ctl) (p : PayA)
  /-- FPADD, opcode 0xE3. -/
  | fpadd (c : Ctl) (p : PayA)
  /-- PGEV, opcode 0xE4. -/
  | pgev (c : Ctl) (p : PayA)
  /-- TLBI_PAGE, opcode 0xE5. -/
  | tlbiPage (c : Ctl) (p : PayA)
  /-- TLBI_INTERFACE, opcode 0xE5. -/
  | tlbiInterface (c : Ctl) (p : PayA)
  /-- TLBI_ALL, opcode 0xE5. -/
  | tlbiAll (c : Ctl) (p : PayA)
  /-- DBGSET, opcode 0xE6. -/
  | dbgset (c : Ctl) (p : PayA)
  /-- MRST, opcode 0xE7. -/
  | mrst (c : Ctl) (p : PayA)
  /-- HEADER_PASS, a step of the device. -/
  | headerPass
  /-- FIXED_RESULT_LAND, a step of the device. -/
  | fixedResultLand (a : Agent)
  /-- VARIABLE_OP_COMPLETE, a step of the device. -/
  | variableOpComplete (a : Agent) (k : Nat)
  /-- BLOCKING_OP_COMPLETE, a step of the device. -/
  | blockingOpComplete (a : Agent)
  /-- GROUP_END, a step of the device. -/
  | groupEnd (a : Agent)
  /-- TEAM_RETIRE, a step of the device. -/
  | teamRetire (team : Nat)
  /-- LATCH_PIN_RELEASE, a step of the device. -/
  | latchPinRelease (a : Agent)
  /-- RUNAHEAD_ENTRY, a step of the device. -/
  | runaheadEntry (a : Agent)
  /-- RUNAHEAD_LIMIT, a step of the device. -/
  | runaheadLimit (a : Agent)
  /-- THAW, a step of the device. -/
  | thaw (a : Agent)
  /-- CACHE_COPY_EXPIRY, a step of the device. -/
  | cacheCopyExpiry (core : Nat)
  /-- FIBRE_SCANNER, a step of the device. -/
  | fibreScanner (quad : Nat)
  /-- DISTRIBUTOR_PLACE, a step of the device. -/
  | distributorPlace (die : Nat)
  /-- STEAL_REQUEST, a step of the device. -/
  | stealRequest (die launch : Nat)
  /-- EQUINOX_STOP, a step of the device. -/
  | equinoxStop (a : Agent)
  /-- SOLSTICE_SAVE, a step of the device. -/
  | solsticeSave (team : Nat)
  /-- CONTROL_CORE_SAVE, a step of the device. -/
  | controlCoreSave (quad : Nat)
  /-- SWAP_OUT, a step of the device. -/
  | swapOut (team : Nat)
  /-- SQE_FILL_READ, a step of the device. -/
  | sqeFillRead (die sqe : Nat)
  /-- FILL_COMPLETE, a step of the device. -/
  | fillComplete (sqe : Nat)
  /-- FILL_READ_FAIL, a step of the device. -/
  | fillReadFail (sqe : Nat)
  /-- NVME_READ_TIMEOUT, a step of the device. -/
  | nvmeReadTimeout (sqe : Nat)
  /-- STORAGE_DMA_REJECT, a step of the device. -/
  | storageDmaReject (port addr : Nat)
  /-- HARVEST_FREE, a step of the device. -/
  | harvestFree (die : Nat)
  /-- REGISTER_DEADLOCK, a step of the device. -/
  | registerDeadlock (core : Nat)
  /-- MATRIX_ENGINE_TURN, a step of the device. -/
  | matrixEngineTurn (quad : Nat)
  /-- ENGINE_COMMAND_COMPLETE, a step of the device. -/
  | engineCommandComplete (k : Nat)
  /-- TAP_COMMAND_SERVE, a step of the device. -/
  | tapCommandServe (die : Nat)
  /-- BACKGROUND_ENCODE, a step of the device. -/
  | backgroundEncode (die : Nat)
  /-- ROW_FATE, a step of the device. -/
  | rowFate (die : Nat)
  /-- TAIL, a step of the device. -/
  | tail (qif : Nat) (v : BitVec 64)
  /-- CHAIN_LAUNCH, a step of the device. -/
  | chainLaunch (qif : Nat)
  /-- CHAIN_WAIT, a step of the device. -/
  | chainWait (qif : Nat)
  /-- WAIT_ENTRY_FINISH, a step of the device. -/
  | waitEntryFinish (qif : Nat)
  /-- CHAIN_SIGNAL, a step of the device. -/
  | chainSignal (qif : Nat)
  /-- CHAIN_INVALID_OP, a step of the device. -/
  | chainInvalidOp (qif : Nat)
  /-- LAUNCH_FINISH, a step of the device. -/
  | launchFinish (launch : Nat)
  /-- CONTROL_PROGRAM_START, a step of the device. -/
  | controlProgramStart (quad : Nat)
  /-- MAP, a step of the device. -/
  | map (call : CallHdr) (a : MapArgs)
  /-- UNMAP, a step of the device. -/
  | unmap (call : CallHdr) (iface va : Nat)
  /-- REGION, a step of the device. -/
  | region (call : CallHdr) (a : RegionArgs)
  /-- KEYNEW, a step of the device. -/
  | keynew (call : CallHdr) (keyId : Nat) (key : BitVec 512)
  /-- KEYDEL, a step of the device. -/
  | keydel (call : CallHdr) (keyId : Nat)
  /-- PREEMPT, a step of the device. -/
  | preempt (call : CallHdr) (cores : List Nat) (ctls : List Nat)
  /-- PART_CONFIG, a step of the device. -/
  | partConfig (call : CallHdr) (a : PartArgs)
  /-- EXTENT, a step of the device. -/
  | extent (call : CallHdr) (part index : Nat) (e : ExtentArgs)
  /-- UNKNOWN_CALL, a step of the device. -/
  | unknownCall (call : CallHdr) (code : BitVec 8)
  /-- GET_TDISP_VERSION, a step of the device. -/
  | getTdispVersion (r : SpdmReq) (qif : Nat)
  /-- GET_TDISP_CAPABILITIES, a step of the device. -/
  | getTdispCapabilities (r : SpdmReq) (qif : Nat)
  /-- LOCK_INTERFACE_REQUEST, a step of the device. -/
  | lockInterfaceRequest (r : SpdmReq) (qif : Nat)
  /-- GET_DEVICE_INTERFACE_REPORT, a step of the device. -/
  | getDeviceInterfaceReport (r : SpdmReq) (qif : Nat)
  /-- GET_DEVICE_INTERFACE_STATE, a step of the device. -/
  | getDeviceInterfaceState (r : SpdmReq) (qif : Nat)
  /-- START_INTERFACE_REQUEST, a step of the device. -/
  | startInterfaceRequest (r : SpdmReq) (qif : Nat)
  /-- STOP_INTERFACE_REQUEST, a step of the device. -/
  | stopInterfaceRequest (r : SpdmReq) (qif : Nat)
  /-- GET_VERSION, a step of the device. -/
  | getVersion (r : SpdmReq)
  /-- GET_CAPABILITIES, a step of the device. -/
  | getCapabilities (r : SpdmReq)
  /-- NEGOTIATE_ALGORITHMS, a step of the device. -/
  | negotiateAlgorithms (r : SpdmReq)
  /-- GET_DIGESTS, a step of the device. -/
  | getDigests (r : SpdmReq)
  /-- GET_CERTIFICATE, a step of the device. -/
  | getCertificate (r : SpdmReq)
  /-- CHALLENGE, a step of the device. -/
  | challenge (r : SpdmReq) (nonce : BitVec 256)
  /-- GET_MEASUREMENTS, a step of the device. -/
  | getMeasurements (r : SpdmReq) (signed : Bool) (nonce : BitVec 256)
  /-- KEY_EXCHANGE, a step of the device. -/
  | keyExchange (r : SpdmReq) (exchange : BitVec 512)
  /-- FINISH, a step of the device. -/
  | finish (r : SpdmReq)
  /-- END_SESSION, a step of the device. -/
  | endSession (r : SpdmReq)
  /-- UNSUPPORTED_REQUEST, a step of the device. -/
  | unsupportedRequest (r : SpdmReq) (code : BitVec 8)
  /-- HOST_LINK_RESET, a step of the device. -/
  | hostLinkReset
  /-- ECC_CORRECTABLE, a step of the device. -/
  | eccCorrectable (w : EccPlace)
  /-- ECC_UNCORRECTABLE, a step of the device. -/
  | eccUncorrectable (w : EccPlace)
  /-- SHARED_TAG_PARITY_ERROR, a step of the device. -/
  | sharedTagParityError (bank : Nat)
  /-- FINPER_FLIT, a step of the device. -/
  | finperFlit (port : Nat) (seq : Nat) (crcGood room : Bool)
  /-- FINPER_REPLAY, a step of the device. -/
  | finperReplay (port seq : Nat)
  /-- LINK_RETRAIN, a step of the device. -/
  | linkRetrain (port : Nat)
  /-- CLOCK_STEP_DOWN, a step of the device. -/
  | clockStepDown
  /-- CLOCK_STEP_UP, a step of the device. -/
  | clockStepUp
  /-- THERMAL_SHUTDOWN, a step of the device. -/
  | thermalShutdown
  /-- POWER_CAP_SET, a step of the device. -/
  | powerCapSet (milliwatts : Nat)
  /-- PACKAGE_RESET, a step of the device. -/
  | packageReset (digests : List (BitVec 256)) (unlock : Bool)
  /-- CONTROL_CORE_RESTART, a step of the device. -/
  | controlCoreRestart (quad : Nat)
  /-- FIRMWARE_ENDS_PROGRAM, a step of the device. -/
  | firmwareEndsProgram (quad : Nat)
  /-- DIE_FIRMWARE_RESET, a step of the device. -/
  | dieFirmwareReset (die : Nat)
  /-- LEASE_CLOCK_RESYNC, a step of the device. -/
  | leaseClockResync
  /-- IDE_KM, a step of the device. -/
  | ideKm (session stream : Nat) (key : BitVec 256)
  deriving DecidableEq, Repr

/-- What reaches the device from outside beside the rows of the opcode table: bytes of CALLREQ, a BELL (R364, R365), a tenant's
request for its PC-sampled trace in its session (R374), and the rate in flits a cycle that a package sets for the flow to it by
its congestion signal (R376). -/
inductive HostAct where
  | callReq (qif off : Nat) (bytes : List (BitVec 8))
  | bell (qif : Nat)
  | trace (r : SpdmReq) (part : Nat) (on : Bool)
  | congestion (pkg : BitVec 9) (rate : Nat)
  deriving DecidableEq, Repr

/-- One turn of the device: a clock cycle passes, a quarter or a control core takes its issue slot,
one of the device's own steps happens, or the outside world acts. -/
inductive Turn where
  | tick
  | quarter (core q : Nat)
  | control (quad : Nat)
  | event (i : Instr)
  | host (h : HostAct)
  deriving DecidableEq, Repr, Inhabited

/-- The latency classes of Table 4.10 (R59). -/
inductive Cls where
  | short | exch | seed | var | blocking
  deriving DecidableEq, Repr

/-- The modes an opcode is legal in (R63, Table 4.12a). -/
inductive ModeReq where
  | both | lane | scalar
  deriving DecidableEq, Repr

/-- The byte fields of a payload: [31:24], [23:16], [15:8], [7:0]. -/
inductive Fld where
  | d | s1 | s2 | s3
  deriving DecidableEq, Repr

/-- How wide an operand is read or written: as TYPE, as DT or ST of format C, 32 bits, 32 bits of a type that the entry
names (so that W1 watches a literal in both modes), 64 bits (a pair
in lane mode), an operand without a type (32 bits in lane mode, 64 in scalar mode, R48), or a pair that
must be an even register code in lane mode (R353). -/
inductive Wd where
  | ty | dt | st | w32 | t32 | w64 | nat | pair
  deriving DecidableEq, Repr

/-- A source operand of an instruction: its field, its width, and whether it is uniform (R33). -/
structure SrcSpec where
  fld  : Fld
  wd   : Wd
  unif : Bool
  deriving DecidableEq, Repr

/-- What the field D of an instruction names as a destination. -/
inductive DstKind where
  | none | reg (w : Wd) | pred | other
  deriving DecidableEq, Repr

/-- Where an instruction's type code stands. -/
inductive TyAt where
  | none | mod | c | m | ml | ext
  deriving DecidableEq, Repr

/-- What an instruction makes of its RND or SAT field: it has none, ignores it with a warning (W5, W4),
or uses it. -/
inductive FieldUse where
  | absent | ignored | used
  deriving DecidableEq, Repr

/-- The payload formats of R45. -/
inductive Fmt where
  | A | B | Bx | I | C | M | ML | J | EM | EML
  deriving DecidableEq, Repr

/-- What the opcode table and the entry of an instruction fix before any operand is read. `resv` has a
bit for every reserved payload bit; `types` and `dflt` are the accepted type codes and the default of
W7, `stypes` further codes accepted in scalar mode; `satBit` is the place of SAT. -/
structure Row where
  opc    : BitVec 8
  fmt    : Fmt
  cls    : Cls
  mode   : ModeReq := .both
  lvl    : Nat := 0
  noPred : Bool := false
  srcs   : List SrcSpec := []
  dst    : DstKind := .none
  tyAt   : TyAt := .none
  types  : List Nat := []
  stypes : List Nat := []
  dflt   : Nat := 0
  rnd    : FieldUse := .absent
  sat    : FieldUse := .absent
  satBit : Nat := 1
  resv   : BitVec 32 := 0
  /-- Source fields that this execution does not read: those of the operands that mma takes from feed buffers (R256). -/
  fed    : List Fld := []
  deriving DecidableEq, Repr

/-- An instruction as the shared issue path sees it: control field, row, payload bits [31:0], and the
second word where it has one (R40). -/
structure Ins where
  c   : Ctl
  row : Row
  pay : BitVec 32
  w1  : Option (BitVec 64)
  deriving DecidableEq, Repr

end Sys2Proof
end

