-- ==== Sys2Proof/Config.lean ====
section
/-! DEFINITION. What the module fixes (R1, Table 0.1, and the sizes of the chapters), and the free values:
constants with no body, for what the manual leaves open. Nothing can evaluate a free value or prove what
it is, so a statement about one holds whatever it is. -/

namespace Sys2Proof.Config

/-! ### Sizes -/

/-- Quads of the package (R1). -/
def quads : Nat := 160
/-- Cores of the package: four to a quad (R1, R2). -/
def cores : Nat := 640
/-- Compute dies (R1). -/
def dies : Nat := 4
/-- Quads of a die (R1). -/
def quadsPerDie : Nat := 40
/-- Bytes of a core's scratchpad (R136). -/
def scratchBytes : Nat := 524288
/-- Bytes of a die scratchpad (R136). -/
def dieScratchBytes : Nat := 67108864
/-- Registers of a core pool (R36). -/
def corePool : Nat := 3072
/-- Regrouping slots of a core (R185). -/
def regroupSlots : Nat := 256
/-- Tags of a core, and of a control core (R200). -/
def tags : Nat := 64
/-- Entries of a uniform queue (R38). -/
def uqEntries : Nat := 64
/-- Entries of the control core's queue table (R229). -/
def queueTable : Nat := 16
/-- Commands that a matrix engine holds (R255). -/
def matrixQueue : Nat := 16
/-- Checkpoint slots of a core, and its pages of 1 KiB (R215, R216). -/
def ckptSlots : Nat := 8
@[inherit_doc ckptSlots]
def ckptPages : Nat := 64
/-- Instructions that may issue in runahead (R219). -/
def runaheadLimit : Nat := 512
/-- Cycles of starvation (R212) and of an unanswered pin (R57), and of a register deadlock (R342). -/
def starveLimit : Nat := 256
@[inherit_doc starveLimit]
def pinLimit : Nat := 64
@[inherit_doc starveLimit]
def deadlockCycles : Nat := 64
/-- The life of an L1 or fibre-cache copy (R331). -/
def copyLife : Nat := 65536
/-- Entries of the L1 TLB of a core and of the L2 TLB of a die (R304). -/
def l1Tlb : Nat := 512
/-- Lines of 128 bytes that the L1 of a core holds: 192 KiB (R1). -/
def l1Lines : Nat := 1536
@[inherit_doc l1Tlb]
def l2Tlb : Nat := 16384
/-- Entries of a die's fill table (R305). -/
def fillTable : Nat := 256
/-- Records of a handler team's queue (R251). -/
def recordQueue : Nat := 256
/-- The scanner's window (R224). -/
def scanWindow : Nat := 65536
/-- Sets and ways of the fibre cache (R223). -/
def fibreSets : Nat := 512
@[inherit_doc fibreSets]
def fibreWays : Nat := 16
/-- Slots of the view table, entries of the region table and of the extent table (R317, R318, R308). -/
def viewSlots : Nat := 65536
@[inherit_doc viewSlots]
def regionEntries : Nat := 4096
@[inherit_doc viewSlots]
def extentEntries : Nat := 65536
/-- Key slots (R367), secured sessions (R368), IDE streams (R375). -/
def keySlots : Nat := 1024
@[inherit_doc keySlots]
def sessions : Nat := 16
@[inherit_doc keySlots]
def ideStreams : Nat := 8
/-- Flits that a Finper sender keeps (R376). -/
def flitBuffer : Nat := 4096
/-- Clock steps in MHz (R377). -/
def clockTop : Nat := 1750
@[inherit_doc clockTop]
def clockStep : Nat := 125
@[inherit_doc clockTop]
def clockFloor : Nat := 875

/-- The first byte of a physical region of Table 20.4 and the byte after its last (R298): HBM, the CXL
tier, host memory, the peer window. -/
def regions : List (Nat × Nat) :=
  [(0, 2 ^ 40), (2 ^ 44, 2 ^ 45), (2 ^ 46, 2 ^ 47), (2 ^ 49, 2 ^ 50)]

/-! ### Free values -/

/-- Which agent moves next where the agenda names none: the manual fixes no order between agents. -/
opaque nextTurn : Nat → Turn
/-- A free choice between two outcomes, for the counter and two places it is drawn at. -/
opaque freeBit : Nat → Nat → Nat → Bool
/-- A free 64-bit value, for the counter and a place. -/
opaque freeWord : Nat → Nat → BitVec 64
/-- What a seed instruction returns before its bound and its special values are applied (R128): a fixed
function of the operation and the operand's bits. -/
opaque seedRaw : Nat → BitVec 32 → BitVec 32
/-- ECDSA P-256 signature of a byte list with the device's leaf key (R368), which is derived from fused secrets and measurement
registers 1 and 2. -/
opaque signature : BitVec 256 → BitVec 256 → List (BitVec 8) → BitVec 512
/-- The device certificate chain of slot 0 (R368), from measurement registers 1 and 2. -/
opaque certificate : BitVec 256 → BitVec 256 → List (BitVec 8)
/-- The responder's exchange data and the session key of a key exchange (R368). -/
opaque exchangeData : Nat → BitVec 512
@[inherit_doc exchangeData]
opaque sessionKey : Nat → BitVec 512 → BitVec 256
/-- The partition key that the security processor draws for a protected partition (R363). -/
opaque partitionKey : Nat → BitVec 512
/-- The key that a wrapped key of KEYNEW unwraps to under a session key (R367). -/
opaque unwrap : BitVec 256 → BitVec 512 → BitVec 512
/-- The sector of physical memory at which the save area of a team lies (R314): firmware places the save pools. -/
opaque savePlace : Nat → Nat
/-- The digests that the bring-up after power-on extends the measurement registers with (R369, R378). -/
opaque bootDigests : List (BitVec 256)
/-- Whether the NVMe controller at a storage port satisfies R309. -/
opaque nvmeGood : Nat → Bool
/-- Package number within the pod (R350), fixed by the installation. -/
opaque pkgid : BitVec 9
/-- The package at the other end of a Finper port (R376), fixed by the installation. -/
opaque finperPeer : Nat → BitVec 9

end Sys2Proof.Config
end

