-- ==== Sys2Proof/Machine/Bits.lean ====
section
/-! DEFINITION. Lane masks, lists of lane values, sign extension and clamping (R4, R17, R76). -/

namespace Sys2Proof.Machine

/-- The lanes of a group. -/
def laneIds : List Nat := List.range 32

/-- The mask whose bit l is `p l` (R17). -/
def maskOf (p : Nat → Bool) : Mask := BitVec.ofFnLE (n := 32) fun i => p i

/-- The lanes of a mask, lowest first. -/
def lanesOf (m : Mask) : List Nat := laneIds.filter (m.getLsbD ·)

/-- The lowest lane of a mask; 32 where it is empty. -/
def lowestLane (m : Mask) : Nat := (lanesOf m).headD 32

/-- The highest lane of a mask; 32 where it is empty. -/
def highestLane (m : Mask) : Nat := (lanesOf m).getLastD 32

/-- A list with one value for each lane. -/
def perLane {α : Type} (f : Nat → α) : List α := laneIds.map f

/-- The value of lane l. -/
def lane64 (xs : List (BitVec 64)) (l : Nat) : BitVec 64 := xs.getD l 0
@[inherit_doc lane64]
def lane32 (xs : List (BitVec 32)) (l : Nat) : BitVec 32 := xs.getD l 0
@[inherit_doc lane64]
def lane48 (xs : List (BitVec 48)) (l : Nat) : BitVec 48 := xs.getD l 0

/-- Sign-extend the low `w` bits of a 64-bit value. -/
def sext (w : Nat) (x : BitVec 64) : BitVec 64 := (x.setWidth w).signExtend 64

/-- Zero-extend the low `w` bits of a 64-bit value. -/
def zext (w : Nat) (x : BitVec 64) : BitVec 64 := (x.setWidth w).setWidth 64

/-- The integer that the low `w` bits stand for, signed or not (R76). -/
def intOf (signed : Bool) (w : Nat) (x : BitVec 64) : Int :=
  if signed then (x.setWidth w).toInt else ((x.setWidth w).toNat : Int)

/-- The range of an integer type (R76). -/
def minOf (signed : Bool) (w : Nat) : Int := if signed then -(2 ^ (w - 1) : Nat) else 0
@[inherit_doc minOf]
def maxOf (signed : Bool) (w : Nat) : Int := if signed then (2 ^ (w - 1) : Nat) - 1 else (2 ^ w : Nat) - 1

/-- Clamp to a range. -/
def clampInt (lo hi x : Int) : Int := if x < lo then lo else if hi < x then hi else x

/-- An exact integer result in a type: clamped under SAT, else reduced modulo 2^w (R76). -/
def narrow (sat signed : Bool) (w : Nat) (x : Int) : BitVec 64 :=
  let y := if sat then clampInt (minOf signed w) (maxOf signed w) x else x
  (BitVec.ofInt w y).setWidth 64

/-- How many bits of the low `n` bits of `x` are set. -/
def countOnes (n : Nat) (x : BitVec 64) : Nat := (List.range n).countP (x.getLsbD ·)

/-- Leading zero bits of the low `w` bits. -/
def leadingZeros (w : Nat) (x : BitVec 64) : Nat :=
  if (x.setWidth w).toNat = 0 then w else w - 1 - Nat.log2 (x.setWidth w).toNat

/-- Lift a condition to 0 or 1. -/
def bit64 (b : Bool) : BitVec 64 := if b then 1 else 0

/-- A field of a Nat, bits [lo + w − 1 : lo]. -/
def bitsOf (x lo w : Nat) : Nat := x / 2 ^ lo % 2 ^ w

/-- Whether bit n of a Nat is set. -/
def bitAt (x n : Nat) : Bool := x / 2 ^ n % 2 == 1

/-- Rounding up. -/
def ceilDiv (a b : Nat) : Nat := (a + b - 1) / b

/-- A Bool list search that names the position. -/
def findIdx {α : Type} (p : α → Bool) : List α → Option Nat
  | [] => none
  | x :: r => if p x then some 0 else (findIdx p r).map (· + 1)

/-- Remove the element at a position. -/
def dropAt {α : Type} : Nat → List α → List α
  | _, [] => []
  | 0, _ :: r => r
  | n + 1, x :: r => x :: dropAt n r

/-- The element of a list that the order `lt` puts first, the earlier of equal ones. -/
def pickBy {α : Type} (lt : α → α → Bool) : List α → Option α
  | [] => none
  | x :: r =>
    match pickBy lt r with
    | none => some x
    | some y => if lt y x then some y else some x

/-- Stable insertion sort by `lt`. -/
def sortBy {α : Type} (lt : α → α → Bool) : List α → List α
  | [] => []
  | x :: r => insert x (sortBy lt r)
where
  insert (x : α) : List α → List α
    | [] => [x]
    | y :: ys => if lt y x then y :: insert x ys else x :: y :: ys

/-- The members of a list, each once, in the order of their first places. -/
def setOf (l : List Nat) : List Nat := l.foldl (fun r x => if r.contains x then r else r ++ [x]) []

end Sys2Proof.Machine
end

