-- ==== Sys2Proof/Machine/Rows.lean ====
section
/-! DEFINITION. The static facts of every opcode: class (R59), mode (R63), least privilege (R63, R353),
whether the predicate is ignored (R44), operands and destination, accepted types and default (W7), the
use of RND and SAT (W5, W4), and the reserved payload bits (W8). Each row follows the entry of its
instruction and the field tables of its chapter. -/

namespace Sys2Proof.Rows

open Sys2Proof

def rowNop : Row :=
  { opc := 0x00, fmt := .A, cls := .short, resv := 0xFFFFFFFF }
def rowAdd : Row := { opc := 0x01, fmt := .A, cls := .short, srcs := [⟨.s1, .ty, false⟩, ⟨.s2, .ty, false⟩], dst := .reg .ty, tyAt := .mod, types := [0, 1, 2, 3], rnd := .ignored, sat := .used, resv := 0x1 }
def rowSub : Row := { opc := 0x02, fmt := .A, cls := .short, srcs := [⟨.s1, .ty, false⟩, ⟨.s2, .ty, false⟩], dst := .reg .ty, tyAt := .mod, types := [0, 1, 2, 3], rnd := .ignored, sat := .used, resv := 0x1 }
def rowMul : Row := { opc := 0x03, fmt := .A, cls := .short, srcs := [⟨.s1, .ty, false⟩, ⟨.s2, .ty, false⟩], dst := .reg .ty, tyAt := .mod, types := [0, 1, 2, 3], rnd := .ignored, sat := .used, resv := 0x1 }
def rowMulhi : Row := { opc := 0x04, fmt := .A, cls := .short, srcs := [⟨.s1, .ty, false⟩, ⟨.s2, .ty, false⟩], dst := .reg .ty, tyAt := .mod, types := [0, 1, 2, 3], rnd := .ignored, sat := .ignored, resv := 0x1 }
def rowMad : Row := { opc := 0x05, fmt := .Bx, cls := .short, srcs := [⟨.s1, .ty, false⟩, ⟨.s2, .ty, false⟩, ⟨.s3, .ty, false⟩], dst := .reg .ty, tyAt := .ext, types := [0, 1, 2, 3], rnd := .ignored, sat := .used }
def rowMin : Row := { opc := 0x06, fmt := .A, cls := .short, srcs := [⟨.s1, .ty, false⟩, ⟨.s2, .ty, false⟩], dst := .reg .ty, tyAt := .mod, types := [0, 1, 2, 3], rnd := .ignored, sat := .ignored, resv := 0x1 }
def rowMax : Row := { opc := 0x07, fmt := .A, cls := .short, srcs := [⟨.s1, .ty, false⟩, ⟨.s2, .ty, false⟩], dst := .reg .ty, tyAt := .mod, types := [0, 1, 2, 3], rnd := .ignored, sat := .ignored, resv := 0x1 }
def rowAbs : Row := { opc := 0x08, fmt := .A, cls := .short, srcs := [⟨.s1, .ty, false⟩], dst := .reg .ty, tyAt := .mod, types := [0, 2], rnd := .ignored, sat := .used, resv := 0xFF01 }
def rowNeg : Row := { opc := 0x09, fmt := .A, cls := .short, srcs := [⟨.s1, .ty, false⟩], dst := .reg .ty, tyAt := .mod, types := [0, 2], rnd := .ignored, sat := .used, resv := 0xFF01 }
def rowAnd : Row := { opc := 0x0A, fmt := .A, cls := .short, srcs := [⟨.s1, .ty, false⟩, ⟨.s2, .ty, false⟩], dst := .reg .ty, tyAt := .mod, types := [0, 1, 2, 3], rnd := .ignored, sat := .ignored, resv := 0x1 }
def rowOr : Row := { opc := 0x0B, fmt := .A, cls := .short, srcs := [⟨.s1, .ty, false⟩, ⟨.s2, .ty, false⟩], dst := .reg .ty, tyAt := .mod, types := [0, 1, 2, 3], rnd := .ignored, sat := .ignored, resv := 0x1 }
def rowXor : Row := { opc := 0x0C, fmt := .A, cls := .short, srcs := [⟨.s1, .ty, false⟩, ⟨.s2, .ty, false⟩], dst := .reg .ty, tyAt := .mod, types := [0, 1, 2, 3], rnd := .ignored, sat := .ignored, resv := 0x1 }
def rowNot : Row := { opc := 0x0D, fmt := .A, cls := .short, srcs := [⟨.s1, .ty, false⟩], dst := .reg .ty, tyAt := .mod, types := [0, 1, 2, 3], rnd := .ignored, sat := .ignored, resv := 0xFF01 }
def rowShl : Row := { opc := 0x0E, fmt := .A, cls := .short, srcs := [⟨.s1, .ty, false⟩, ⟨.s2, .w32, false⟩], dst := .reg .ty, tyAt := .mod, types := [0, 1, 2, 3], rnd := .ignored, sat := .ignored, resv := 0x1 }
def rowShr : Row := { opc := 0x0F, fmt := .A, cls := .short, srcs := [⟨.s1, .ty, false⟩, ⟨.s2, .w32, false⟩], dst := .reg .ty, tyAt := .mod, types := [0, 1, 2, 3], rnd := .ignored, sat := .ignored, resv := 0x1 }
def rowSar : Row := { opc := 0x10, fmt := .A, cls := .short, srcs := [⟨.s1, .ty, false⟩, ⟨.s2, .w32, false⟩], dst := .reg .ty, tyAt := .mod, types := [0, 1, 2, 3], rnd := .ignored, sat := .ignored, resv := 0x1 }
def rowRot : Row := { opc := 0x11, fmt := .A, cls := .short, srcs := [⟨.s1, .ty, false⟩, ⟨.s2, .w32, false⟩], dst := .reg .ty, tyAt := .mod, types := [0, 1, 2, 3], rnd := .ignored, sat := .ignored, resv := 0x1 }
def rowPopc : Row := { opc := 0x12, fmt := .A, cls := .short, srcs := [⟨.s1, .ty, false⟩], dst := .reg .w32, tyAt := .mod, types := [0, 1, 2, 3], rnd := .ignored, sat := .ignored, resv := 0xFF01 }
def rowClz : Row := { opc := 0x13, fmt := .A, cls := .short, srcs := [⟨.s1, .ty, false⟩], dst := .reg .w32, tyAt := .mod, types := [0, 1, 2, 3], rnd := .ignored, sat := .ignored, resv := 0xFF01 }
def rowBfe : Row := { opc := 0x14, fmt := .B, cls := .short, srcs := [⟨.s1, .t32, false⟩, ⟨.s2, .t32, false⟩], dst := .reg .w32, resv := 0xFF }
def rowBfi : Row := { opc := 0x15, fmt := .B, cls := .short, srcs := [⟨.s1, .t32, false⟩, ⟨.s2, .t32, false⟩, ⟨.s3, .t32, false⟩], dst := .reg .w32 }
def rowSel : Row := { opc := 0x16, fmt := .B, cls := .short, srcs := [⟨.s1, .nat, false⟩, ⟨.s2, .nat, false⟩], dst := .reg .nat, resv := 0xF8 }
def rowCmp : Row := { opc := 0x17, fmt := .A, cls := .short, srcs := [⟨.s1, .ty, false⟩, ⟨.s2, .ty, false⟩], dst := .pred, tyAt := .mod, types := [0, 1, 2, 3], sat := .ignored, satBit := 0 }
def rowAddi : Row :=
  { opc := 0x18, fmt := .I, cls := .short, srcs := [⟨.s1, .nat, false⟩], dst := .reg .nat }
def rowLi : Row :=
  { opc := 0x19, fmt := .I, cls := .short, dst := .reg .nat, resv := 0xFF0000 }
def rowLih : Row :=
  { opc := 0x1A, fmt := .I, cls := .short, srcs := [⟨.s1, .nat, false⟩], dst := .reg .nat }
def rowMov : Row := { opc := 0x1B, fmt := .A, cls := .short, srcs := [⟨.s1, .ty, false⟩], dst := .reg .ty, tyAt := .mod, types := [0, 1, 2, 3, 4, 6, 7], stypes := [5], rnd := .ignored, sat := .ignored, resv := 0xFF01 }
def rowLea : Row := { opc := 0x1C, fmt := .A, cls := .short, srcs := [⟨.s1, .w64, false⟩, ⟨.s2, .t32, false⟩], dst := .reg .w64, tyAt := .mod, types := [0, 1], rnd := .ignored, sat := .ignored }
def rowCvt : Row := { opc := 0x1D, fmt := .C, cls := .short, srcs := [⟨.s1, .st, false⟩], dst := .reg .dt, tyAt := .c, types := [0, 1, 2, 3, 13, 14], rnd := .ignored, sat := .used, resv := 0x1F }
def rowDiv : Row := { opc := 0x1E, fmt := .A, cls := .var, srcs := [⟨.s1, .ty, false⟩, ⟨.s2, .ty, false⟩], dst := .reg .ty, tyAt := .mod, types := [0, 1, 2, 3], rnd := .ignored, sat := .used, resv := 0x1 }
def rowRem : Row := { opc := 0x1F, fmt := .A, cls := .var, srcs := [⟨.s1, .ty, false⟩, ⟨.s2, .ty, false⟩], dst := .reg .ty, tyAt := .mod, types := [0, 1, 2, 3], rnd := .ignored, sat := .ignored, resv := 0x1 }
def rowFadd : Row := { opc := 0x20, fmt := .A, cls := .short, srcs := [⟨.s1, .ty, false⟩, ⟨.s2, .ty, false⟩], dst := .reg .ty, tyAt := .mod, types := [4, 6, 7], stypes := [5], dflt := 4, rnd := .used, sat := .ignored, resv := 0x1 }
def rowFsub : Row := { opc := 0x21, fmt := .A, cls := .short, srcs := [⟨.s1, .ty, false⟩, ⟨.s2, .ty, false⟩], dst := .reg .ty, tyAt := .mod, types := [4, 6, 7], stypes := [5], dflt := 4, rnd := .used, sat := .ignored, resv := 0x1 }
def rowFmul : Row := { opc := 0x22, fmt := .A, cls := .short, srcs := [⟨.s1, .ty, false⟩, ⟨.s2, .ty, false⟩], dst := .reg .ty, tyAt := .mod, types := [4, 6, 7], stypes := [5], dflt := 4, rnd := .used, sat := .ignored, resv := 0x1 }
def rowFma : Row := { opc := 0x23, fmt := .Bx, cls := .short, srcs := [⟨.s1, .ty, false⟩, ⟨.s2, .ty, false⟩, ⟨.s3, .ty, false⟩], dst := .reg .ty, tyAt := .ext, types := [4, 6, 7], stypes := [5], dflt := 4, rnd := .used, sat := .ignored }
def rowFmin : Row := { opc := 0x24, fmt := .A, cls := .short, srcs := [⟨.s1, .ty, false⟩, ⟨.s2, .ty, false⟩], dst := .reg .ty, tyAt := .mod, types := [4, 6, 7], stypes := [5], dflt := 4, rnd := .ignored, sat := .ignored, resv := 0x1 }
def rowFmax : Row := { opc := 0x25, fmt := .A, cls := .short, srcs := [⟨.s1, .ty, false⟩, ⟨.s2, .ty, false⟩], dst := .reg .ty, tyAt := .mod, types := [4, 6, 7], stypes := [5], dflt := 4, rnd := .ignored, sat := .ignored, resv := 0x1 }
def rowFabs : Row := { opc := 0x26, fmt := .A, cls := .short, srcs := [⟨.s1, .ty, false⟩], dst := .reg .ty, tyAt := .mod, types := [4, 6, 7], stypes := [5], dflt := 4, rnd := .ignored, sat := .ignored, resv := 0xFF01 }
def rowFneg : Row := { opc := 0x27, fmt := .A, cls := .short, srcs := [⟨.s1, .ty, false⟩], dst := .reg .ty, tyAt := .mod, types := [4, 6, 7], stypes := [5], dflt := 4, rnd := .ignored, sat := .ignored, resv := 0xFF01 }
def rowFcmp : Row := { opc := 0x28, fmt := .A, cls := .short, srcs := [⟨.s1, .ty, false⟩, ⟨.s2, .ty, false⟩], dst := .pred, tyAt := .mod, types := [4, 6, 7], stypes := [5], dflt := 4, sat := .ignored, satBit := 0 }
def rowFcvt : Row := { opc := 0x29, fmt := .C, cls := .short, srcs := [⟨.s1, .st, false⟩], dst := .reg .dt, tyAt := .c, types := [0, 1, 2, 3, 4, 6, 7, 8, 9, 13, 14], stypes := [5], dflt := 4, rnd := .used, sat := .used, resv := 0x1F }
def rowFround : Row := { opc := 0x2A, fmt := .A, cls := .short, srcs := [⟨.s1, .ty, false⟩], dst := .reg .ty, tyAt := .mod, types := [4, 6, 7], stypes := [5], dflt := 4, rnd := .used, sat := .ignored, resv := 0xFF00 }
def rowFclass : Row := { opc := 0x2B, fmt := .A, cls := .short, srcs := [⟨.s1, .ty, false⟩], dst := .reg .w32, tyAt := .mod, types := [4, 6, 7], stypes := [5], dflt := 4, rnd := .ignored, sat := .ignored, resv := 0xFF01 }
def rowFscl : Row := { opc := 0x2C, fmt := .A, cls := .short, srcs := [⟨.s1, .ty, false⟩, ⟨.s2, .w32, false⟩], dst := .reg .ty, tyAt := .mod, types := [4, 6, 7], stypes := [5], dflt := 4, rnd := .used, sat := .ignored, resv := 0x1 }
def rowFgetx : Row := { opc := 0x2D, fmt := .A, cls := .short, srcs := [⟨.s1, .ty, false⟩], dst := .reg .w32, tyAt := .mod, types := [4, 6, 7], stypes := [5], dflt := 4, rnd := .ignored, sat := .ignored, resv := 0xFF01 }
def rowRcps : Row := { opc := 0x2E, fmt := .A, cls := .seed, srcs := [⟨.s1, .ty, false⟩], dst := .reg .ty, tyAt := .mod, types := [4], dflt := 4, rnd := .ignored, sat := .ignored, resv := 0xFF01 }
def rowRsqs : Row := { opc := 0x2F, fmt := .A, cls := .seed, srcs := [⟨.s1, .ty, false⟩], dst := .reg .ty, tyAt := .mod, types := [4], dflt := 4, rnd := .ignored, sat := .ignored, resv := 0xFF01 }
def rowExs : Row := { opc := 0x30, fmt := .A, cls := .seed, srcs := [⟨.s1, .ty, false⟩], dst := .reg .ty, tyAt := .mod, types := [4], dflt := 4, rnd := .ignored, sat := .ignored, resv := 0xFF01 }
def rowLgs : Row := { opc := 0x31, fmt := .A, cls := .seed, srcs := [⟨.s1, .ty, false⟩], dst := .reg .ty, tyAt := .mod, types := [4], dflt := 4, rnd := .ignored, sat := .ignored, resv := 0xFF01 }
def rowSns : Row := { opc := 0x32, fmt := .A, cls := .seed, srcs := [⟨.s1, .ty, false⟩], dst := .reg .ty, tyAt := .mod, types := [4], dflt := 4, rnd := .ignored, sat := .ignored, resv := 0xFF01 }
def rowCss : Row := { opc := 0x33, fmt := .A, cls := .seed, srcs := [⟨.s1, .ty, false⟩], dst := .reg .ty, tyAt := .mod, types := [4], dflt := 4, rnd := .ignored, sat := .ignored, resv := 0xFF01 }
def rowFdiv : Row := { opc := 0x34, fmt := .A, cls := .var, srcs := [⟨.s1, .ty, false⟩, ⟨.s2, .ty, false⟩], dst := .reg .ty, tyAt := .mod, types := [4, 6, 7], stypes := [5], dflt := 4, rnd := .used, sat := .ignored, resv := 0x1 }
def rowFsqrt : Row := { opc := 0x35, fmt := .A, cls := .var, srcs := [⟨.s1, .ty, false⟩], dst := .reg .ty, tyAt := .mod, types := [4, 6, 7], stypes := [5], dflt := 4, rnd := .used, sat := .ignored, resv := 0xFF01 }
def rowDot2 : Row := { opc := 0x40, fmt := .Bx, cls := .short, srcs := [⟨.s1, .w32, false⟩, ⟨.s2, .w32, false⟩, ⟨.s3, .w32, false⟩], dst := .reg .w32, tyAt := .ext, types := [6, 7], dflt := 7, rnd := .used, sat := .ignored }
def rowDot4 : Row := { opc := 0x41, fmt := .Bx, cls := .short, srcs := [⟨.s1, .w32, false⟩, ⟨.s2, .w32, false⟩, ⟨.s3, .w32, false⟩], dst := .reg .w32, tyAt := .ext, types := [13], dflt := 13, rnd := .ignored, sat := .used }
def rowPk2 : Row := { opc := 0x42, fmt := .A, cls := .short, srcs := [⟨.s1, .t32, false⟩, ⟨.s2, .t32, false⟩], dst := .reg .w32, tyAt := .mod, types := [6, 7], dflt := 6, rnd := .used, sat := .ignored, resv := 0x1 }
def rowUpk2 : Row := { opc := 0x43, fmt := .A, cls := .short, srcs := [⟨.s1, .t32, false⟩], dst := .reg .w32, tyAt := .mod, types := [6, 7], dflt := 6, rnd := .ignored, sat := .ignored, resv := 0xFF00 }
def rowPk4 : Row := { opc := 0x44, fmt := .A, cls := .short, srcs := [⟨.s1, .t32, false⟩, ⟨.s2, .t32, false⟩, ⟨.d, .t32, false⟩], dst := .reg .w32, tyAt := .mod, types := [8, 9, 13, 14], dflt := 8, rnd := .used, sat := .used }
def rowUpk4 : Row := { opc := 0x45, fmt := .A, cls := .short, srcs := [⟨.s1, .t32, false⟩, ⟨.s2, .w32, false⟩], dst := .reg .w32, tyAt := .mod, types := [8, 9, 13, 14], dflt := 8, rnd := .ignored, sat := .ignored, resv := 0x1 }
def rowHadd2 : Row := { opc := 0x46, fmt := .A, cls := .short, srcs := [⟨.s1, .t32, false⟩, ⟨.s2, .t32, false⟩], dst := .reg .w32, tyAt := .mod, types := [6, 7], dflt := 6, rnd := .used, sat := .ignored, resv := 0x1 }
def rowHmul2 : Row := { opc := 0x47, fmt := .A, cls := .short, srcs := [⟨.s1, .t32, false⟩, ⟨.s2, .t32, false⟩], dst := .reg .w32, tyAt := .mod, types := [6, 7], dflt := 6, rnd := .used, sat := .ignored, resv := 0x1 }
def rowHfma2 : Row := { opc := 0x48, fmt := .Bx, cls := .short, srcs := [⟨.s1, .w32, false⟩, ⟨.s2, .w32, false⟩, ⟨.s3, .w32, false⟩], dst := .reg .w32, tyAt := .ext, types := [6, 7], dflt := 6, rnd := .used, sat := .ignored }
def rowShfl : Row := { opc := 0x50, fmt := .A, cls := .exch, mode := .lane, srcs := [⟨.s1, .ty, false⟩, ⟨.s2, .w32, false⟩], dst := .reg .ty, tyAt := .mod, types := [0, 1, 2, 3, 4, 6, 7], resv := 0x3 }
def rowVote : Row := { opc := 0x51, fmt := .A, cls := .exch, mode := .lane, srcs := [⟨.s1, .ty, false⟩], dst := .reg .w32, tyAt := .mod, types := [0, 1, 2, 3, 4, 6, 7], resv := 0xFF01 }
def rowMatch : Row := { opc := 0x52, fmt := .A, cls := .exch, mode := .lane, srcs := [⟨.s1, .ty, false⟩], dst := .reg .w32, tyAt := .mod, types := [0, 1, 2, 3, 4, 6, 7], resv := 0xFF0F }
def rowCmpct : Row := { opc := 0x53, fmt := .A, cls := .exch, mode := .lane, srcs := [⟨.s1, .ty, false⟩], dst := .reg .w32, tyAt := .mod, types := [0, 1, 2, 3, 4, 6, 7], resv := 0xFF0F }
def rowScan : Row := { opc := 0x54, fmt := .A, cls := .exch, mode := .lane, srcs := [⟨.s1, .ty, false⟩], dst := .reg .ty, tyAt := .mod, types := [0, 1, 2, 3, 4], resv := 0xFF00 }
def rowRed : Row := { opc := 0x55, fmt := .A, cls := .exch, mode := .lane, srcs := [⟨.s1, .ty, false⟩], dst := .reg .ty, tyAt := .mod, types := [0, 1, 2, 3, 4], resv := 0xFF01 }
def rowSegred : Row := { opc := 0x56, fmt := .A, cls := .exch, mode := .lane, srcs := [⟨.s1, .ty, false⟩, ⟨.s2, .w32, false⟩], dst := .reg .ty, tyAt := .mod, types := [0, 1, 2, 3, 4], resv := 0x1 }
def rowSrt : Row := { opc := 0x57, fmt := .A, cls := .var, mode := .lane, srcs := [⟨.s1, .w32, false⟩, ⟨.s2, .w32, false⟩], dst := .other, resv := 0x1E }
def rowTopk : Row := { opc := 0x58, fmt := .A, cls := .var, mode := .lane, srcs := [⟨.s1, .w32, false⟩, ⟨.s2, .w32, false⟩], dst := .other }
def rowKmerge : Row :=
  { opc := 0x59, fmt := .A, cls := .var, mode := .lane, dst := .other, resv := 0x1F }
def rowRgput : Row := { opc := 0x5A, fmt := .A, cls := .var, mode := .lane, srcs := [⟨.s2, .w32, false⟩], resv := 0xFC0000FC }
def rowRgget : Row :=
  { opc := 0x5B, fmt := .A, cls := .var, mode := .lane, dst := .other, resv := 0xFFE0 }
def rowLperm : Row := { opc := 0x5C, fmt := .A, cls := .exch, mode := .lane, srcs := [⟨.s1, .ty, false⟩, ⟨.s2, .w32, false⟩], dst := .reg .ty, tyAt := .mod, types := [0, 1, 2, 3, 4, 6, 7], resv := 0xF }
def rowBcast : Row := { opc := 0x5D, fmt := .A, cls := .exch, mode := .lane, srcs := [⟨.s1, .ty, false⟩], dst := .reg .ty, tyAt := .mod, types := [0, 1, 2, 3, 4, 6, 7], resv := 0xFF0E }
def rowFfs : Row := { opc := 0x5E, fmt := .A, cls := .exch, mode := .lane, srcs := [⟨.s1, .w32, false⟩], dst := .reg .w32, resv := 0xFFFE }
def rowBr : Row :=
  { opc := 0x60, fmt := .J, cls := .blocking, noPred := true, resv := 0xFF000000 }
def rowBrc : Row :=
  { opc := 0x61, fmt := .J, cls := .blocking, noPred := true, srcs := [⟨.d, .nat, true⟩] }
def rowBrl : Row :=
  { opc := 0x62, fmt := .J, cls := .blocking, srcs := [⟨.d, .nat, false⟩] }
def rowBrx : Row :=
  { opc := 0x63, fmt := .A, cls := .blocking, srcs := [⟨.s1, .w32, false⟩], resv := 0xFF00FFFF }
def rowCall : Row :=
  { opc := 0x64, fmt := .J, cls := .blocking, dst := .reg .w64 }
def rowRet : Row :=
  { opc := 0x65, fmt := .A, cls := .blocking, srcs := [⟨.s1, .w64, false⟩], resv := 0xFF00FFFF }
def rowExit : Row :=
  { opc := 0x66, fmt := .A, cls := .blocking, resv := 0xFFFFFFFF }
def rowYield : Row :=
  { opc := 0x67, fmt := .A, cls := .blocking, mode := .lane, noPred := true, resv := 0xFFFFFFFF }
def rowHalt : Row :=
  { opc := 0x68, fmt := .A, cls := .blocking, mode := .scalar, resv := 0xFFFFFFFF }
def rowTrap : Row :=
  { opc := 0x69, fmt := .A, cls := .blocking, srcs := [⟨.s1, .nat, true⟩], resv := 0xFF00FFFF }
def rowTret : Row :=
  { opc := 0x6A, fmt := .A, cls := .blocking, resv := 0xFFFFFFFF }
def rowBrk : Row :=
  { opc := 0x6B, fmt := .A, cls := .blocking, resv := 0xFFFF0000 }
def rowBar : Row := { opc := 0x70, fmt := .A, cls := .blocking, mode := .lane, noPred := true, srcs := [⟨.s1, .w32, true⟩, ⟨.s2, .w32, true⟩], resv := 0xFF00000F }
def rowBarv : Row := { opc := 0x71, fmt := .A, cls := .blocking, mode := .lane, noPred := true, srcs := [⟨.s1, .w32, true⟩, ⟨.s2, .w32, true⟩], dst := .reg .w32, resv := 0xF }
def rowBarw : Row := { opc := 0x72, fmt := .A, cls := .blocking, mode := .lane, noPred := true, srcs := [⟨.s1, .w32, true⟩, ⟨.s2, .w32, false⟩], resv := 0xFF00000F }
def rowFence : Row :=
  { opc := 0x73, fmt := .A, cls := .blocking, noPred := true, resv := 0xFFFFFF03 }
def rowTwany : Row := { opc := 0x74, fmt := .A, cls := .blocking, noPred := true, srcs := [⟨.s1, .w64, true⟩], resv := 0xFFFF }
def rowTwall : Row := { opc := 0x75, fmt := .A, cls := .blocking, noPred := true, srcs := [⟨.s1, .w64, true⟩], resv := 0xFFFF }
def rowTffs : Row := { opc := 0x76, fmt := .A, cls := .short, srcs := [⟨.s1, .w64, true⟩], dst := .reg .w32, resv := 0xFFFF }
def rowTclr : Row := { opc := 0x77, fmt := .A, cls := .blocking, noPred := true, srcs := [⟨.s1, .w64, true⟩], resv := 0xFFFF }
def rowRacq : Row := { opc := 0x78, fmt := .A, cls := .blocking, mode := .lane, noPred := true, srcs := [⟨.s1, .w32, true⟩], resv := 0xFF00FFFF }
def rowRrel : Row := { opc := 0x79, fmt := .A, cls := .blocking, mode := .lane, noPred := true, srcs := [⟨.s1, .w32, true⟩], resv := 0xFF00FFFF }
def rowTgrow : Row := { opc := 0x7A, fmt := .A, cls := .blocking, mode := .lane, noPred := true, srcs := [⟨.s1, .w32, true⟩], resv := 0xFF00FFFF }
def rowTshrink : Row := { opc := 0x7B, fmt := .A, cls := .blocking, mode := .lane, noPred := true, srcs := [⟨.s1, .w32, true⟩], resv := 0xFF00FFFF }
def rowTag : Row :=
  { opc := 0x7C, fmt := .A, cls := .short, mode := .lane, dst := .reg .w32, resv := 0xFFFF }
def rowTagset : Row := { opc := 0x7D, fmt := .A, cls := .short, mode := .lane, srcs := [⟨.s1, .w32, true⟩], resv := 0xFFFF }
def rowLd : Row := { opc := 0x80, fmt := .M, cls := .var, srcs := [⟨.s1, .w32, false⟩], dst := .reg .ty, tyAt := .m, types := [0, 1, 2, 3, 4, 6, 7, 8, 9, 13, 14], stypes := [5], resv := 0x1 }
def rowSt : Row := { opc := 0x81, fmt := .M, cls := .var, srcs := [⟨.s1, .w32, false⟩, ⟨.d, .ty, false⟩], tyAt := .m, types := [0, 1, 2, 3, 4, 6, 7, 8, 9, 13, 14], stypes := [5], resv := 0x1 }
def rowLds : Row := { opc := 0x82, fmt := .ML, cls := .var, srcs := [⟨.s1, .w32, false⟩], dst := .reg .ty, tyAt := .ml, types := [0, 1, 2, 3, 4, 6, 7, 13, 14] }
def rowSts : Row := { opc := 0x83, fmt := .ML, cls := .var, srcs := [⟨.s1, .w32, false⟩, ⟨.d, .ty, false⟩], tyAt := .ml, types := [0, 1, 2, 3, 4, 6, 7, 13, 14] }
def rowPf : Row :=
  { opc := 0x84, fmt := .M, cls := .var, srcs := [⟨.s1, .w32, false⟩], resv := 0xFF0000F8 }
def rowAtom : Row := { opc := 0x85, fmt := .EM, cls := .var, srcs := [⟨.s1, .w32, false⟩], dst := .reg .ty, tyAt := .m, types := [0, 1, 2, 3, 4], resv := 0x9 }
def rowCas : Row := { opc := 0x86, fmt := .EM, cls := .var, srcs := [⟨.s1, .w32, false⟩], dst := .reg .ty, tyAt := .m, types := [0, 1, 2, 3, 4], resv := 0x9 }
def rowAtoms : Row := { opc := 0x87, fmt := .EML, cls := .var, srcs := [⟨.s1, .w32, false⟩], dst := .reg .ty, tyAt := .ml, types := [0, 1, 2, 3, 4] }
def rowHld : Row :=
  { opc := 0x88, fmt := .A, cls := .var, srcs := [⟨.s1, .w32, true⟩], resv := 0xFF01 }
def rowHst : Row :=
  { opc := 0x89, fmt := .A, cls := .var, srcs := [⟨.s1, .w32, true⟩], resv := 0xFF01 }
def rowHmk : Row := { opc := 0x8A, fmt := .A, cls := .short, srcs := [⟨.s1, .w32, true⟩, ⟨.s2, .w32, true⟩], resv := 0xFF }
def rowHget : Row :=
  { opc := 0x8B, fmt := .A, cls := .short, dst := .other, resv := 0xF0FFF0 }
def rowVopen : Row := { opc := 0xA0, fmt := .A, cls := .var, srcs := [⟨.s1, .w32, true⟩, ⟨.s2, .w32, true⟩], resv := 0xFF }
def rowVnar : Row := { opc := 0xA1, fmt := .A, cls := .var, srcs := [⟨.s1, .w32, true⟩, ⟨.s2, .w32, true⟩], resv := 0xF00000FF }
def rowVsplit : Row :=
  { opc := 0xA2, fmt := .A, cls := .var, srcs := [⟨.s1, .w32, true⟩], resv := 0xFFFF }
def rowVclose : Row :=
  { opc := 0xA3, fmt := .A, cls := .var, resv := 0xF0FFFFFF }
def rowVinfo : Row :=
  { opc := 0xA4, fmt := .A, cls := .var, dst := .other, resv := 0xF0FFFF }
def rowHpub : Row :=
  { opc := 0xA5, fmt := .A, cls := .var, resv := 0xF0FFFFFF }
def rowCpy : Row :=
  { opc := 0xB0, fmt := .A, cls := .var, srcs := [⟨.s2, .w32, true⟩] }
def rowCpy2 : Row :=
  { opc := 0xB1, fmt := .A, cls := .var }
def rowGth : Row :=
  { opc := 0xB2, fmt := .A, cls := .var, mode := .lane }
def rowSct : Row :=
  { opc := 0xB3, fmt := .A, cls := .var, mode := .lane }
def rowColl : Row :=
  { opc := 0xB4, fmt := .A, cls := .var, srcs := [⟨.s2, .w32, true⟩], resv := 0x3 }
def rowFill : Row :=
  { opc := 0xB5, fmt := .A, cls := .var, srcs := [⟨.s2, .w32, true⟩], resv := 0xF000000 }
def rowFbset : Row :=
  { opc := 0xB6, fmt := .A, cls := .var, resv := 0xFF03 }
def rowFbclr : Row :=
  { opc := 0xB7, fmt := .A, cls := .var, resv := 0xFFFFFFFF }
def rowSfpre : Row := { opc := 0xB8, fmt := .A, cls := .var, srcs := [⟨.s1, .w32, true⟩, ⟨.s2, .w32, true⟩], resv := 0xF00000FF }
def rowMma : Row :=
  { opc := 0xC0, fmt := .A, cls := .var, mode := .scalar, resv := 0xFC000000 }
def rowMmz : Row :=
  { opc := 0xC1, fmt := .A, cls := .var, mode := .scalar, resv := 0xFCFFFFFE }
def rowMst : Row := { opc := 0xC2, fmt := .A, cls := .var, mode := .scalar, tyAt := .mod, types := [0, 4, 7], dflt := 4, resv := 0xFC00FF0D, sat := .used }
def rowMld : Row := { opc := 0xC3, fmt := .A, cls := .var, mode := .scalar, tyAt := .mod, types := [0, 2, 4, 5], dflt := 4, resv := 0xFC00FF0F }
def rowMscl : Row := { opc := 0xC4, fmt := .A, cls := .var, mode := .scalar, srcs := [⟨.s1, .nat, false⟩, ⟨.s2, .nat, false⟩], resv := 0xFE0000FF }
def rowMfeed : Row := { opc := 0xC5, fmt := .A, cls := .var, mode := .lane, srcs := [⟨.d, .w32, false⟩, ⟨.s1, .w32, true⟩], resv := 0xFFFC }
def rowMdrain : Row := { opc := 0xC6, fmt := .A, cls := .var, mode := .lane, srcs := [⟨.s1, .w32, true⟩], dst := .reg .ty, tyAt := .mod, types := [0, 2, 4, 5], dflt := 4, resv := 0xFC0D, sat := .used }
def rowTap : Row :=
  { opc := 0xD0, fmt := .A, cls := .var, mode := .scalar, resv := 0xF000FFFF }
def rowRowsel : Row := { opc := 0xD1, fmt := .A, cls := .var, mode := .scalar, srcs := [⟨.s1, .nat, false⟩], dst := .other, resv := 0xFFF }
def rowRset : Row := { opc := 0xD2, fmt := .A, cls := .var, mode := .scalar, srcs := [⟨.s2, .nat, false⟩], resv := 0xF00000FF }
def rowTapget : Row := { opc := 0xD3, fmt := .A, cls := .var, mode := .scalar, srcs := [⟨.s1, .nat, false⟩], dst := .reg .w64, resv := 0xFFC }
def rowWret : Row := { opc := 0xD4, fmt := .A, cls := .blocking, mode := .lane, noPred := true, srcs := [⟨.s1, .w32, true⟩], resv := 0xFF00FFFF }
def rowWrd : Row :=
  { opc := 0xD5, fmt := .A, cls := .var, mode := .lane, dst := .other, resv := 0xFFFFFF }
def rowTlaunch : Row := { opc := 0xD6, fmt := .A, cls := .var, mode := .scalar, srcs := [⟨.s1, .w64, false⟩], dst := .reg .w64, resv := 0xFFFF }
def rowQpush : Row := { opc := 0xD7, fmt := .A, cls := .blocking, mode := .scalar, srcs := [⟨.s1, .nat, false⟩, ⟨.s2, .nat, false⟩], resv := 0xFF0000FF }
def rowQclose : Row := { opc := 0xD8, fmt := .A, cls := .blocking, mode := .scalar, srcs := [⟨.s1, .nat, false⟩], resv := 0xFF00FFFF }
def rowSrd : Row :=
  { opc := 0xE0, fmt := .A, cls := .short, dst := .other, resv := 0xFFFF }
def rowSwr : Row :=
  { opc := 0xE1, fmt := .A, cls := .blocking, srcs := [⟨.s2, .nat, true⟩], resv := 0xFF0000FF }
def rowSegset : Row := { opc := 0xE2, fmt := .A, cls := .blocking, mode := .lane, lvl := 1, srcs := [⟨.s1, .pair, true⟩], resv := 0xFC00FFFF }
def rowFpadd : Row := { opc := 0xE3, fmt := .A, cls := .blocking, lvl := 2, srcs := [⟨.s1, .pair, true⟩, ⟨.s2, .w32, true⟩], resv := 0xFF0000FF }
def rowPgev : Row := { opc := 0xE4, fmt := .A, cls := .blocking, lvl := 1, srcs := [⟨.s1, .pair, true⟩], dst := .reg .w32, resv := 0xFFFF }
def rowTlbi : Row := { opc := 0xE5, fmt := .A, cls := .blocking, lvl := 2, srcs := [⟨.s1, .pair, true⟩, ⟨.s2, .w32, true⟩], resv := 0xFF0000FC }
def rowDbgset : Row := { opc := 0xE6, fmt := .A, cls := .blocking, lvl := 1, srcs := [⟨.s1, .w32, true⟩], resv := 0xFF0000FF }
def rowMrst : Row := { opc := 0xE7, fmt := .A, cls := .blocking, lvl := 2, srcs := [⟨.s1, .w32, true⟩], resv := 0xFF00FFFF }

/-- The row of an opcode (R61); none for an opcode marked "—" in Table 4.11 (R64). -/
def ofOpc (o : BitVec 8) : Option Row :=
  match o.toNat with
  | 0x00 => some rowNop
  | 0x01 => some rowAdd
  | 0x02 => some rowSub
  | 0x03 => some rowMul
  | 0x04 => some rowMulhi
  | 0x05 => some rowMad
  | 0x06 => some rowMin
  | 0x07 => some rowMax
  | 0x08 => some rowAbs
  | 0x09 => some rowNeg
  | 0x0A => some rowAnd
  | 0x0B => some rowOr
  | 0x0C => some rowXor
  | 0x0D => some rowNot
  | 0x0E => some rowShl
  | 0x0F => some rowShr
  | 0x10 => some rowSar
  | 0x11 => some rowRot
  | 0x12 => some rowPopc
  | 0x13 => some rowClz
  | 0x14 => some rowBfe
  | 0x15 => some rowBfi
  | 0x16 => some rowSel
  | 0x17 => some rowCmp
  | 0x18 => some rowAddi
  | 0x19 => some rowLi
  | 0x1A => some rowLih
  | 0x1B => some rowMov
  | 0x1C => some rowLea
  | 0x1D => some rowCvt
  | 0x1E => some rowDiv
  | 0x1F => some rowRem
  | 0x20 => some rowFadd
  | 0x21 => some rowFsub
  | 0x22 => some rowFmul
  | 0x23 => some rowFma
  | 0x24 => some rowFmin
  | 0x25 => some rowFmax
  | 0x26 => some rowFabs
  | 0x27 => some rowFneg
  | 0x28 => some rowFcmp
  | 0x29 => some rowFcvt
  | 0x2A => some rowFround
  | 0x2B => some rowFclass
  | 0x2C => some rowFscl
  | 0x2D => some rowFgetx
  | 0x2E => some rowRcps
  | 0x2F => some rowRsqs
  | 0x30 => some rowExs
  | 0x31 => some rowLgs
  | 0x32 => some rowSns
  | 0x33 => some rowCss
  | 0x34 => some rowFdiv
  | 0x35 => some rowFsqrt
  | 0x40 => some rowDot2
  | 0x41 => some rowDot4
  | 0x42 => some rowPk2
  | 0x43 => some rowUpk2
  | 0x44 => some rowPk4
  | 0x45 => some rowUpk4
  | 0x46 => some rowHadd2
  | 0x47 => some rowHmul2
  | 0x48 => some rowHfma2
  | 0x50 => some rowShfl
  | 0x51 => some rowVote
  | 0x52 => some rowMatch
  | 0x53 => some rowCmpct
  | 0x54 => some rowScan
  | 0x55 => some rowRed
  | 0x56 => some rowSegred
  | 0x57 => some rowSrt
  | 0x58 => some rowTopk
  | 0x59 => some rowKmerge
  | 0x5A => some rowRgput
  | 0x5B => some rowRgget
  | 0x5C => some rowLperm
  | 0x5D => some rowBcast
  | 0x5E => some rowFfs
  | 0x60 => some rowBr
  | 0x61 => some rowBrc
  | 0x62 => some rowBrl
  | 0x63 => some rowBrx
  | 0x64 => some rowCall
  | 0x65 => some rowRet
  | 0x66 => some rowExit
  | 0x67 => some rowYield
  | 0x68 => some rowHalt
  | 0x69 => some rowTrap
  | 0x6A => some rowTret
  | 0x6B => some rowBrk
  | 0x70 => some rowBar
  | 0x71 => some rowBarv
  | 0x72 => some rowBarw
  | 0x73 => some rowFence
  | 0x74 => some rowTwany
  | 0x75 => some rowTwall
  | 0x76 => some rowTffs
  | 0x77 => some rowTclr
  | 0x78 => some rowRacq
  | 0x79 => some rowRrel
  | 0x7A => some rowTgrow
  | 0x7B => some rowTshrink
  | 0x7C => some rowTag
  | 0x7D => some rowTagset
  | 0x80 => some rowLd
  | 0x81 => some rowSt
  | 0x82 => some rowLds
  | 0x83 => some rowSts
  | 0x84 => some rowPf
  | 0x85 => some rowAtom
  | 0x86 => some rowCas
  | 0x87 => some rowAtoms
  | 0x88 => some rowHld
  | 0x89 => some rowHst
  | 0x8A => some rowHmk
  | 0x8B => some rowHget
  | 0xA0 => some rowVopen
  | 0xA1 => some rowVnar
  | 0xA2 => some rowVsplit
  | 0xA3 => some rowVclose
  | 0xA4 => some rowVinfo
  | 0xA5 => some rowHpub
  | 0xB0 => some rowCpy
  | 0xB1 => some rowCpy2
  | 0xB2 => some rowGth
  | 0xB3 => some rowSct
  | 0xB4 => some rowColl
  | 0xB5 => some rowFill
  | 0xB6 => some rowFbset
  | 0xB7 => some rowFbclr
  | 0xB8 => some rowSfpre
  | 0xC0 => some rowMma
  | 0xC1 => some rowMmz
  | 0xC2 => some rowMst
  | 0xC3 => some rowMld
  | 0xC4 => some rowMscl
  | 0xC5 => some rowMfeed
  | 0xC6 => some rowMdrain
  | 0xD0 => some rowTap
  | 0xD1 => some rowRowsel
  | 0xD2 => some rowRset
  | 0xD3 => some rowTapget
  | 0xD4 => some rowWret
  | 0xD5 => some rowWrd
  | 0xD6 => some rowTlaunch
  | 0xD7 => some rowQpush
  | 0xD8 => some rowQclose
  | 0xE0 => some rowSrd
  | 0xE1 => some rowSwr
  | 0xE2 => some rowSegset
  | 0xE3 => some rowFpadd
  | 0xE4 => some rowPgev
  | 0xE5 => some rowTlbi
  | 0xE6 => some rowDbgset
  | 0xE7 => some rowMrst
  | _ => none

/-- The byte of a payload that a field names (R45). -/
def fieldOf (pay : BitVec 32) : Fld → BitVec 8
  | .d  => pay.extractLsb' 24 8
  | .s1 => pay.extractLsb' 16 8
  | .s2 => pay.extractLsb' 8 8
  | .s3 => pay.extractLsb' 0 8

/-- The sources of a word: S2 of bar and barv at .team is reserved (R197). -/
def srcsOf (r : Row) (pay : BitVec 32) : List SrcSpec :=
  if (r.opc == 0x70 || r.opc == 0x71) && decide ((pay.extractLsb' 4 4).toNat ≤ 2) then r.srcs.filter (·.fld != .s2) else r.srcs

/-- Whether a first word calls for a second one (R48, R49, R50): a source coded 0xFF, the extension word
of mad, fma, dot2, dot4 and hfma2, or format E. A format J instruction never has one (R105), and a field that no row lists
as a source calls for none. -/
def twoWords (r : Row) (pay : BitVec 32) : Bool :=
  match r.fmt with
  | .J => false
  | .EM | .EML => true
  | .Bx => fieldOf pay .s3 == 0xFF
  | _ => (srcsOf r pay).any fun x => fieldOf pay x.fld == 0xFF

end Sys2Proof.Rows

namespace Sys2Proof

/-- The payload bits [31:0] of a format (R45). -/
def PayA.bits (p : PayA) : BitVec 32 := p.d ++ p.s1 ++ p.s2 ++ p.mod
@[inherit_doc PayA.bits]
def PayB.bits (p : PayB) : BitVec 32 := p.d ++ p.s1 ++ p.s2 ++ p.s3
@[inherit_doc PayA.bits]
def PayI.bits (p : PayI) : BitVec 32 := p.d ++ p.s1 ++ p.imm
@[inherit_doc PayA.bits]
def PayC.bits (p : PayC) : BitVec 32 := p.d ++ p.s1 ++ p.dt ++ p.st ++ p.rnd ++ p.sat ++ p.zero
@[inherit_doc PayA.bits]
def PayM.bits (p : PayM) : BitVec 32 := p.d ++ p.ix ++ p.h ++ p.ty ++ p.scope ++ p.w ++ p.ch ++ p.x
@[inherit_doc PayA.bits]
def PayML.bits (p : PayML) : BitVec 32 := p.d ++ p.ix ++ p.sp ++ p.ty ++ p.off
@[inherit_doc PayA.bits]
def PayJ.bits (p : PayJ) : BitVec 32 := p.c1 ++ p.tgt
@[inherit_doc PayA.bits]
def PayEM.bits (p : PayEM) : BitVec 32 := p.d ++ p.ix ++ p.h ++ p.ty ++ p.scope ++ p.w ++ p.ch ++ p.x
@[inherit_doc PayA.bits]
def PayEML.bits (p : PayEML) : BitVec 32 := p.d ++ p.ix ++ p.sp ++ p.ty ++ p.off

/-- An instruction seen through its row and payload bits. -/
def PayA.ins (r : Row) (c : Ctl) (p : PayA) : Ins := ⟨c, r, p.bits, p.lit⟩
@[inherit_doc PayA.ins]
def PayB.ins (r : Row) (c : Ctl) (p : PayB) : Ins := ⟨c, r, p.bits, p.ext⟩
@[inherit_doc PayA.ins]
def PayI.ins (r : Row) (c : Ctl) (p : PayI) : Ins := ⟨c, r, p.bits, p.lit⟩
@[inherit_doc PayA.ins]
def PayC.ins (r : Row) (c : Ctl) (p : PayC) : Ins := ⟨c, r, p.bits, p.lit⟩
@[inherit_doc PayA.ins]
def PayM.ins (r : Row) (c : Ctl) (p : PayM) : Ins := ⟨c, r, p.bits, p.lit⟩
@[inherit_doc PayA.ins]
def PayML.ins (r : Row) (c : Ctl) (p : PayML) : Ins := ⟨c, r, p.bits, p.lit⟩
@[inherit_doc PayA.ins]
def PayJ.ins (r : Row) (c : Ctl) (p : PayJ) : Ins := ⟨c, r, p.bits, none⟩
@[inherit_doc PayA.ins]
def PayEM.ins (r : Row) (c : Ctl) (p : PayEM) : Ins := ⟨c, r, p.bits, some p.w1⟩
@[inherit_doc PayA.ins]
def PayEML.ins (r : Row) (c : Ctl) (p : PayEML) : Ins := ⟨c, r, p.bits, some p.w1⟩

/-- The instruction behind a constructor; none for a step of the device, which has no words. -/
def insOf : Instr → Option Ins
  | .nop c p => some (p.ins Rows.rowNop c)
  | .add c p => some (p.ins Rows.rowAdd c)
  | .sub c p => some (p.ins Rows.rowSub c)
  | .mul c p => some (p.ins Rows.rowMul c)
  | .mulhi c p => some (p.ins Rows.rowMulhi c)
  | .mad c p => some (p.ins Rows.rowMad c)
  | .min c p => some (p.ins Rows.rowMin c)
  | .max c p => some (p.ins Rows.rowMax c)
  | .abs c p => some (p.ins Rows.rowAbs c)
  | .neg c p => some (p.ins Rows.rowNeg c)
  | .and c p => some (p.ins Rows.rowAnd c)
  | .or c p => some (p.ins Rows.rowOr c)
  | .xor c p => some (p.ins Rows.rowXor c)
  | .not c p => some (p.ins Rows.rowNot c)
  | .shl c p => some (p.ins Rows.rowShl c)
  | .shr c p => some (p.ins Rows.rowShr c)
  | .sar c p => some (p.ins Rows.rowSar c)
  | .rot c p => some (p.ins Rows.rowRot c)
  | .popc c p => some (p.ins Rows.rowPopc c)
  | .clz c p => some (p.ins Rows.rowClz c)
  | .bfe c p => some (p.ins Rows.rowBfe c)
  | .bfi c p => some (p.ins Rows.rowBfi c)
  | .sel c p => some (p.ins Rows.rowSel c)
  | .cmp c p => some (p.ins Rows.rowCmp c)
  | .addi c p => some (p.ins Rows.rowAddi c)
  | .li c p => some (p.ins Rows.rowLi c)
  | .lih c p => some (p.ins Rows.rowLih c)
  | .mov c p => some (p.ins Rows.rowMov c)
  | .lea c p => some (p.ins Rows.rowLea c)
  | .cvt c p => some (p.ins Rows.rowCvt c)
  | .div c p => some (p.ins Rows.rowDiv c)
  | .rem c p => some (p.ins Rows.rowRem c)
  | .fadd c p => some (p.ins Rows.rowFadd c)
  | .fsub c p => some (p.ins Rows.rowFsub c)
  | .fmul c p => some (p.ins Rows.rowFmul c)
  | .fma c p => some (p.ins Rows.rowFma c)
  | .fmin c p => some (p.ins Rows.rowFmin c)
  | .fmax c p => some (p.ins Rows.rowFmax c)
  | .fabs c p => some (p.ins Rows.rowFabs c)
  | .fneg c p => some (p.ins Rows.rowFneg c)
  | .fcmp c p => some (p.ins Rows.rowFcmp c)
  | .fcvt c p => some (p.ins Rows.rowFcvt c)
  | .fround c p => some (p.ins Rows.rowFround c)
  | .fclass c p => some (p.ins Rows.rowFclass c)
  | .fscl c p => some (p.ins Rows.rowFscl c)
  | .fgetx c p => some (p.ins Rows.rowFgetx c)
  | .rcps c p => some (p.ins Rows.rowRcps c)
  | .rsqs c p => some (p.ins Rows.rowRsqs c)
  | .exs c p => some (p.ins Rows.rowExs c)
  | .lgs c p => some (p.ins Rows.rowLgs c)
  | .sns c p => some (p.ins Rows.rowSns c)
  | .css c p => some (p.ins Rows.rowCss c)
  | .fdiv c p => some (p.ins Rows.rowFdiv c)
  | .fsqrt c p => some (p.ins Rows.rowFsqrt c)
  | .dot2 c p => some (p.ins Rows.rowDot2 c)
  | .dot4 c p => some (p.ins Rows.rowDot4 c)
  | .pk2 c p => some (p.ins Rows.rowPk2 c)
  | .upk2 c p => some (p.ins Rows.rowUpk2 c)
  | .pk4 c p => some (p.ins Rows.rowPk4 c)
  | .upk4 c p => some (p.ins Rows.rowUpk4 c)
  | .hadd2 c p => some (p.ins Rows.rowHadd2 c)
  | .hmul2 c p => some (p.ins Rows.rowHmul2 c)
  | .hfma2 c p => some (p.ins Rows.rowHfma2 c)
  | .shfl c p => some (p.ins Rows.rowShfl c)
  | .vote c p => some (p.ins Rows.rowVote c)
  | .match_ c p => some (p.ins Rows.rowMatch c)
  | .cmpct c p => some (p.ins Rows.rowCmpct c)
  | .scan c p => some (p.ins Rows.rowScan c)
  | .red c p => some (p.ins Rows.rowRed c)
  | .segred c p => some (p.ins Rows.rowSegred c)
  | .srt c p => some (p.ins Rows.rowSrt c)
  | .topk c p => some (p.ins Rows.rowTopk c)
  | .kmerge c p => some (p.ins Rows.rowKmerge c)
  | .rgput c p => some (p.ins Rows.rowRgput c)
  | .rgget c p => some (p.ins Rows.rowRgget c)
  | .lperm c p => some (p.ins Rows.rowLperm c)
  | .bcast c p => some (p.ins Rows.rowBcast c)
  | .ffs c p => some (p.ins Rows.rowFfs c)
  | .br c p => some (p.ins Rows.rowBr c)
  | .brc c p => some (p.ins Rows.rowBrc c)
  | .brl c p => some (p.ins Rows.rowBrl c)
  | .brx c p => some (p.ins Rows.rowBrx c)
  | .call c p => some (p.ins Rows.rowCall c)
  | .ret c p => some (p.ins Rows.rowRet c)
  | .exit c p => some (p.ins Rows.rowExit c)
  | .yield c p => some (p.ins Rows.rowYield c)
  | .halt c p => some (p.ins Rows.rowHalt c)
  | .trap c p => some (p.ins Rows.rowTrap c)
  | .tret c p => some (p.ins Rows.rowTret c)
  | .brk c p => some (p.ins Rows.rowBrk c)
  | .bar c p => some (p.ins Rows.rowBar c)
  | .barv c p => some (p.ins Rows.rowBarv c)
  | .barw c p => some (p.ins Rows.rowBarw c)
  | .fenceFull c p => some (p.ins Rows.rowFence c)
  | .fenceAcq c p => some (p.ins Rows.rowFence c)
  | .fenceRel c p => some (p.ins Rows.rowFence c)
  | .twany c p => some (p.ins Rows.rowTwany c)
  | .twall c p => some (p.ins Rows.rowTwall c)
  | .tffs c p => some (p.ins Rows.rowTffs c)
  | .tclr c p => some (p.ins Rows.rowTclr c)
  | .racq c p => some (p.ins Rows.rowRacq c)
  | .rrel c p => some (p.ins Rows.rowRrel c)
  | .tgrow c p => some (p.ins Rows.rowTgrow c)
  | .tshrink c p => some (p.ins Rows.rowTshrink c)
  | .tag c p => some (p.ins Rows.rowTag c)
  | .tagset c p => some (p.ins Rows.rowTagset c)
  | .ld c p => some (p.ins Rows.rowLd c)
  | .st c p => some (p.ins Rows.rowSt c)
  | .lds c p => some (p.ins Rows.rowLds c)
  | .sts c p => some (p.ins Rows.rowSts c)
  | .pf c p => some (p.ins Rows.rowPf c)
  | .atom c p => some (p.ins Rows.rowAtom c)
  | .cas c p => some (p.ins Rows.rowCas c)
  | .atoms c p => some (p.ins Rows.rowAtoms c)
  | .hld c p => some (p.ins Rows.rowHld c)
  | .hst c p => some (p.ins Rows.rowHst c)
  | .hmk c p => some (p.ins Rows.rowHmk c)
  | .hget c p => some (p.ins Rows.rowHget c)
  | .vopen c p => some (p.ins Rows.rowVopen c)
  | .vnar c p => some (p.ins Rows.rowVnar c)
  | .vsplit c p => some (p.ins Rows.rowVsplit c)
  | .vclose c p => some (p.ins Rows.rowVclose c)
  | .vinfo c p => some (p.ins Rows.rowVinfo c)
  | .hpub c p => some (p.ins Rows.rowHpub c)
  | .cpy c p => some (p.ins Rows.rowCpy c)
  | .cpy2 c p => some (p.ins Rows.rowCpy2 c)
  | .gth c p => some (p.ins Rows.rowGth c)
  | .sct c p => some (p.ins Rows.rowSct c)
  | .coll c p => some (p.ins Rows.rowColl c)
  | .fill c p => some (p.ins Rows.rowFill c)
  | .fbset c p => some (p.ins Rows.rowFbset c)
  | .fbclr c p => some (p.ins Rows.rowFbclr c)
  | .sfpre c p => some (p.ins Rows.rowSfpre c)
  | .mma c p => some (p.ins Rows.rowMma c)
  | .mmz c p => some (p.ins Rows.rowMmz c)
  | .mst c p => some (p.ins Rows.rowMst c)
  | .mld c p => some (p.ins Rows.rowMld c)
  | .mscl c p => some (p.ins Rows.rowMscl c)
  | .mfeed c p => some (p.ins Rows.rowMfeed c)
  | .mdrain c p => some (p.ins Rows.rowMdrain c)
  | .tap c p => some (p.ins Rows.rowTap c)
  | .rowsel c p => some (p.ins Rows.rowRowsel c)
  | .rset c p => some (p.ins Rows.rowRset c)
  | .tapget c p => some (p.ins Rows.rowTapget c)
  | .wret c p => some (p.ins Rows.rowWret c)
  | .wrd c p => some (p.ins Rows.rowWrd c)
  | .tlaunch c p => some (p.ins Rows.rowTlaunch c)
  | .qpush c p => some (p.ins Rows.rowQpush c)
  | .qclose c p => some (p.ins Rows.rowQclose c)
  | .srd c p => some (p.ins Rows.rowSrd c)
  | .swr c p => some (p.ins Rows.rowSwr c)
  | .segset c p => some (p.ins Rows.rowSegset c)
  | .fpadd c p => some (p.ins Rows.rowFpadd c)
  | .pgev c p => some (p.ins Rows.rowPgev c)
  | .tlbiPage c p => some (p.ins Rows.rowTlbi c)
  | .tlbiInterface c p => some (p.ins Rows.rowTlbi c)
  | .tlbiAll c p => some (p.ins Rows.rowTlbi c)
  | .dbgset c p => some (p.ins Rows.rowDbgset c)
  | .mrst c p => some (p.ins Rows.rowMrst c)
  | .headerPass => none
  | .fixedResultLand _ => none
  | .variableOpComplete _ _ => none
  | .blockingOpComplete _ => none
  | .groupEnd _ => none
  | .teamRetire _ => none
  | .latchPinRelease _ => none
  | .runaheadEntry _ => none
  | .runaheadLimit _ => none
  | .thaw _ => none
  | .cacheCopyExpiry _ => none
  | .fibreScanner _ => none
  | .distributorPlace _ => none
  | .stealRequest _ _ => none
  | .equinoxStop _ => none
  | .solsticeSave _ => none
  | .controlCoreSave _ => none
  | .swapOut _ => none
  | .sqeFillRead _ _ => none
  | .fillComplete _ => none
  | .fillReadFail _ => none
  | .nvmeReadTimeout _ => none
  | .storageDmaReject _ _ => none
  | .harvestFree _ => none
  | .registerDeadlock _ => none
  | .matrixEngineTurn _ => none
  | .engineCommandComplete _ => none
  | .tapCommandServe _ => none
  | .backgroundEncode _ => none
  | .rowFate _ => none
  | .tail _ _ => none
  | .chainLaunch _ => none
  | .chainWait _ => none
  | .waitEntryFinish _ => none
  | .chainSignal _ => none
  | .chainInvalidOp _ => none
  | .launchFinish _ => none
  | .controlProgramStart _ => none
  | .map _ _ => none
  | .unmap _ _ _ => none
  | .region _ _ => none
  | .keynew _ _ _ => none
  | .keydel _ _ => none
  | .preempt _ _ _ => none
  | .partConfig _ _ => none
  | .extent _ _ _ _ => none
  | .unknownCall _ _ => none
  | .getTdispVersion _ _ => none
  | .getTdispCapabilities _ _ => none
  | .lockInterfaceRequest _ _ => none
  | .getDeviceInterfaceReport _ _ => none
  | .getDeviceInterfaceState _ _ => none
  | .startInterfaceRequest _ _ => none
  | .stopInterfaceRequest _ _ => none
  | .getVersion _ => none
  | .getCapabilities _ => none
  | .negotiateAlgorithms _ => none
  | .getDigests _ => none
  | .getCertificate _ => none
  | .challenge _ _ => none
  | .getMeasurements _ _ _ => none
  | .keyExchange _ _ => none
  | .finish _ => none
  | .endSession _ => none
  | .unsupportedRequest _ _ => none
  | .hostLinkReset => none
  | .eccCorrectable _ => none
  | .eccUncorrectable _ => none
  | .sharedTagParityError _ => none
  | .finperFlit _ _ _ _ => none
  | .finperReplay _ _ => none
  | .linkRetrain _ => none
  | .clockStepDown => none
  | .clockStepUp => none
  | .thermalShutdown => none
  | .powerCapSet _ => none
  | .packageReset _ _ => none
  | .controlCoreRestart _ => none
  | .firmwareEndsProgram _ => none
  | .dieFirmwareReset _ => none
  | .leaseClockResync => none
  | .ideKm _ _ _ => none

/-- The two 64-bit words of an instruction, the second only where it has one (R40, R41, R45). -/
def Ins.words (n : Ins) : List (BitVec 64) :=
  (n.c.dist ++ n.c.wait ++ n.c.setf ++ n.c.wb ++ n.c.pred ++ n.c.pn ++ n.row.opc ++ n.pay)
    :: (match n.w1 with | some w => [w] | none => [])

/-- The first word, which ILLEGAL, MODE and PRIV report in tval (Table 18.1). -/
def Ins.word0 (n : Ins) : BitVec 64 :=
  n.c.dist ++ n.c.wait ++ n.c.setf ++ n.c.wb ++ n.c.pred ++ n.c.pn ++ n.row.opc ++ n.pay

/-- How many words the instruction takes (R40). -/
def Ins.len (n : Ins) : Nat := if n.w1.isSome then 2 else 1

/-- A field of the payload, bits [lo + w − 1 : lo]. -/
def Ins.bits (n : Ins) (lo w : Nat) : BitVec w := n.pay.extractLsb' lo w

/-- A byte field of the payload. -/
def Ins.fld (n : Ins) (f : Fld) : BitVec 8 := Rows.fieldOf n.pay f

end Sys2Proof
end

