-- ==== Sys2Proof/Machine/Sparse.lean ====
section
/-! DEFINITION. Finite maps as plain data: lists of (key, value) pairs with strictly rising keys. What an
unlisted key reads as is the `d` handed to `get`. `put` keeps every entry; `write` also drops an entry
equal to `d`, which is the one canonical form that memory is kept in. -/

namespace Sys2Proof.Sparse

/-- The value at a key, `d` where none is listed. -/
def get {α : Type} (d : α) (k : Nat) : List (Nat × α) → α
  | [] => d
  | (i, v) :: r => if i = k then v else get d k r

/-- Set the value at a key. -/
def put {α : Type} (k : Nat) (v : α) : List (Nat × α) → List (Nat × α)
  | [] => [(k, v)]
  | (i, w) :: r =>
    if k < i then (k, v) :: (i, w) :: r
    else if i = k then (k, v) :: r
    else (i, w) :: put k v r

/-- Remove a key. -/
def del {α : Type} (k : Nat) (m : List (Nat × α)) : List (Nat × α) := m.filter fun p => p.1 != k

/-- Set the value at a key, keeping no entry equal to `d`. -/
def write {α : Type} [DecidableEq α] (d : α) (k : Nat) (v : α) (m : List (Nat × α)) : List (Nat × α) :=
  if v = d then del k m else put k v m

/-- Every key is above `lo`, keys rise strictly, and no entry equals `d`. -/
def wfFrom {α : Type} [DecidableEq α] (d : α) : Option Nat → List (Nat × α) → Bool
  | _, [] => true
  | lo, (i, v) :: r =>
    (match lo with | none => true | some l => decide (l < i)) && decide (v ≠ d) && wfFrom d (some i) r

/-- The canonical form: keys strictly rising, no entry equal to `d`. -/
def wf {α : Type} [DecidableEq α] (d : α) (m : List (Nat × α)) : Bool := wfFrom d none m

end Sys2Proof.Sparse
end

