-- ==== Sys2Proof/Machine/State.lean ====
section
/-! DEFINITION. The state of the SK4 as plain data: what R14, R229, Tables 3.1, 16.1, 18.2, 22.4, 23.2
and the chapters give the machine, and `State.reset`, the machine right after package reset.
Maps keyed by a number are sparse lists; what an unlisted key holds is the default named with the map. -/

namespace Sys2Proof.Machine

/-! ### Stops -/

/-- Why the machine stops with a fault. -/
inductive Fault where
  /-- Raised by an access whose translation names a physical address that lies in none of the regions of
  Table 20.4. The manual says no such memory exists and firmware installs no such leaf (R298, R301). Safe:
  the hardware has no behaviour there. -/
  | noSuchMemory
  deriving DecidableEq, Repr

/-- Why an instruction is refused. -/
inductive Refusal where
  /-- Raised by an arm of `exec` whose instruction has no meaning in the model. Safe: nothing is claimed. -/
  | notModelled (mnemonic : String)
  deriving DecidableEq, Repr

/-! ### Registers of a group or program -/

/-- Shape tags (R29, Table 3.3): A carries its base and stride. -/
inductive Tag where
  | U
  | A (base stride : BitVec 32)
  | G
  deriving DecidableEq, Repr

/-- A vector register: 32 lanes, its tag (R29), its poisoned lanes (R156), its Frost lanes (R217). -/
structure VReg where
  v      : List (BitVec 32)
  tag    : Tag
  poison : BitVec 32
  frost  : BitVec 32
  deriving DecidableEq, Repr

/-- What a newly held register holds: zero with tag U (R32). -/
def VReg.zero : VReg := ⟨List.replicate 32 0, .U, 0, 0⟩

/-- A scalar register (R37) with its poison mark (R156). -/
structure SReg where
  v      : BitVec 64
  poison : Bool
  deriving DecidableEq, Repr

/-- A predicate register with its Frost lanes (R14, R217). -/
structure PReg where
  v     : BitVec 32
  frost : BitVec 32
  deriving DecidableEq, Repr

/-- Lanes of a value that depend on what a load or atomic of the thread has returned (R331): its place in issue order, and
whether they depend on every lane of it or each on its own. -/
structure Dep where
  seq   : Nat
  lanes : BitVec 32
  all   : Bool
  deriving DecidableEq, Repr

/-- A latch entry (R53): up to 64 bits per lane, a valid bit per lane, a tag; `wide` where it holds a
64-bit result; the poison and Frost marks of the result. -/
structure Latch where
  v      : List (BitVec 64)
  valid  : BitVec 32
  wide   : Bool
  tag    : Tag
  poison : BitVec 32
  frost  : BitVec 32
  deriving DecidableEq, Repr

/-- An entry that is invalid in every lane (R53, R54). -/
def Latch.invalid : Latch := ⟨List.replicate 32 0, 0, false, .G, 0, 0⟩

/-- A handle register (R139) with its poison mark (R160) and Frost mark (R217). -/
structure HReg where
  v      : BitVec 128
  poison : Bool
  frost  : Bool
  deriving DecidableEq, Repr

/-- A place a result lands in: register position n of Table 18.5 (0 to 247 the registers, 248 to 255 the
handler bank), a scalar register, a predicate, or a handle register (its value is two 64-bit words). -/
inductive Tgt where
  | v (pos : Nat)
  | s (n : Nat)
  | k (p : Nat)
  | h (n : Nat)
  deriving DecidableEq, Repr

/-- A result on its way to a register: the lanes it reaches, their values, its tag and marks. Lanes in
`dead` have been written meanwhile by a later-issued instruction and are discarded (R60). -/
structure RegW where
  tgt    : Tgt
  mask   : BitVec 32
  v      : List (BitVec 64)
  tag    : Tag
  poison : BitVec 32
  frost  : BitVec 32
  dead   : BitVec 32
  deriving DecidableEq, Repr

/-- Fixed-latency results in flight: they land at cycle `due` (R60), and `flag` then clears (R43). -/
structure PendW where
  due  : Nat
  seq  : Nat
  flag : Option Nat
  ws   : List RegW
  deriving DecidableEq, Repr

/-- The storage an element lies in: physical memory, the scratchpads of the cores, the scratchpads of the
dies. A scratchpad byte's address is (core or die number) × size + offset. -/
inductive Sp where
  | mem | scr | dsp
  deriving DecidableEq, Repr

/-- How a store is passed on by an order of Table 25.1: its bytes, its stamp and cycle, and the widest scope, counted from
the observer that holds it, within which it is known to come before. -/
structure Carry where
  sp  : Sp
  a   : Nat
  n   : Nat
  at_ : Nat
  clk : Nat
  k   : Nat
  deriving DecidableEq, Repr

/-- What a thread has met (R327, R331, R332): a value no older than a stamp in some bytes. `seq` and `lane` name the access
that has met it, `acc` the bytes of that access, `strong` is one more than the scope in which it is strong (0: weak), `weak` whether
it is a weak load, `load` whether it is a load or atomic. `via` says that it is known only as something that comes before the value
which that load has returned, `rel` is one more than the widest scope of a fence that has put that access before the thread's later
stores. -/
structure Know where
  c      : Carry
  seq    : Nat
  lane   : Nat
  acc    : Nat × Nat
  strong : Nat
  load   : Bool
  weak   : Bool
  via    : Bool
  rel    : Nat
  deriving DecidableEq, Repr

/-- A store that has been performed, while a cached copy may still be older: its bytes, stamp and cycle; its issuer with
its place in issue order, one more than the scope in which it is strong, and what comes before it (R392); of an engine
command its owner and tag. -/
structure StoreRec where
  sp     : Sp
  a      : Nat
  n      : Nat
  at_    : Nat
  clk    : Nat
  by_    : Option (Agent × Nat)
  strong : Nat
  view   : List Carry
  cmd    : Option (Agent × Nat)
  deriving DecidableEq, Repr

/-- One lane's element of an access: where it lies, its width in bytes, the key ID of its page, the format
of its page and its position in the block at `a`, the data and second data operand, a poison mark, and on a
shadow page the pair and the place in the other copy (R205). -/
structure Elem where
  lane   : Nat
  sp     : Sp
  a      : Nat
  w      : Nat
  key    : Nat
  fmt    : Nat
  pos    : Nat
  data   : BitVec 64
  data2  : BitVec 64
  poison : Bool
  alt    : Option (Nat × Nat) := none
  deriving DecidableEq, Repr

/-- A request of the control core to the tap engine outside its FIFO (R263). -/
inductive TapReq where
  | rowsel (desc : Nat) (layer : BitVec 16)
  | rset (desc : Nat) (mask : BitVec 128) (word : BitVec 32)
  | tapget (desc : Nat) (f : Nat) (row : Nat)
  deriving DecidableEq, Repr

/-- The fields of a launch entry (Table 18.7), as they stand in it. -/
structure Entry where
  groups : Nat
  cls    : Nat
  kind   : Nat
  code   : Nat
  ext    : Nat
  base   : Nat
  hbmap  : Nat
  fen    : BitVec 5
  args   : Nat
  bq     : Nat
  bd     : Nat
  bp     : Nat
  bo     : Nat
  trap   : Nat
  entry  : Nat
  quad   : Nat
  gdx    : Nat
  gdy    : Nat
  gdz    : Nat
  tags   : Nat
  rgq    : Nat
  lanesl : Nat
  coresp : Nat
  sg2    : BitVec 64
  sg3    : BitVec 64
  deriving DecidableEq, Repr, Inhabited

/-- A variable-latency operation in flight (R43). `view` has changed its view and will write a handle; `accept`
is an accepted engine command; `engine` waits for a matrix or tap command by number; `fail` is a tap command or
request that has failed and will be reported with a rank and a tval when its flag clears; `launch` is a tlaunch
whose entry has been read and that waits for queue entries; `record` is wrd. A load carries CH, hld also how many
lanes were active. -/
inductive VKind where
  | result (ws : List RegW) (fl : BitVec 5)
  | load (els : List Elem) (ty : Nat) (fmt : Nat) (ws : List RegW) (ch : Nat)
  | store (els : List Elem) (fmt : Nat) (ch : Nat)
  | atomic (els : List Elem) (op ty : Nat) (ws : List RegW)
  | hld (el : Elem) (n : Nat) (ch lanes : Nat)
  | hst (el : Elem) (h : BitVec 128)
  | prefetch (els : List Elem) (ch : Nat)
  | accept
  | publish (pair : Nat)
  | engine (id : Nat) (ws : List RegW)
  | tapReq (q : TapReq) (ws : List RegW)
  | fail (rank : Nat) (tval : BitVec 64)
  | launch (e : Entry) (hargs : List (BitVec 128)) (ws : List RegW)
  | record (d : Nat) (ws : List RegW)
  deriving DecidableEq, Repr

/-- An operation in flight: its place in issue order, the flag it holds busy, whether the LSU has marked
the flag long (R214), its strength and scope (R155), and the address of its instruction. `passed` is one more than the
widest scope at which a later operation has been performed before it (R330), `view` the partition and region whose view
it has been checked against (R320, R324), `deps` what its address depends on and, of a store, its data and the branches before it
(R331). -/
structure VOp where
  seq    : Nat
  flag   : Option Nat
  strong : Bool
  scope  : Nat
  addr   : BitVec 48
  kind   : VKind
  passed : Nat := 0
  view   : Option (Nat × Nat) := none
  deps   : List Dep := []
  deriving DecidableEq, Repr

/-- What a blocking instruction waits for (R59). `arrive` is bar or barv before its arrival (it acts as a
release first, R199), with the results that barv writes; `barrier` waits at one instance for the tokens of its active
lanes (R198); `drain` waits for operations named by agent and place
in issue order; `evict` is pgev, with the leaf that it found once it has cleared RES, and the status it writes. -/
inductive Hold where
  | fence (kind scope : Nat)
  | arrive (scope id count : Nat) (bar : Bool) (ws : List RegW)
  | barrier (scope id inst : Nat) (tokens : List (BitVec 32))
  | tags (all : Bool) (mask : BitVec 64)
  | racq (c : Nat)
  | tgrow (c : Nat)
  | tshrink (c : Nat)
  | wret (mode : Nat)
  | qpush (mask : BitVec 16) (v : BitVec 32)
  | drain (ops : List (Agent × Nat))
  | evict (va pte : Nat) (begun : Option (BitVec 128)) (ops : List (Agent × Nat)) (ws : List RegW)
  deriving DecidableEq, Repr

/-- A blocking instruction that has issued and not completed: what it waits for, its words, its flag. -/
structure Wait where
  hold : Hold
  len  : Nat
  flag : Option Nat
  deriving DecidableEq, Repr

/-- The chain a group is in (R56): its head's address and place in issue order, how many readers have
followed the head, whether its latest instruction may only stand last, the register positions and
predicates its instructions have read, and what the head's destinations held before, in the lanes the head
wrote (R58). -/
structure Chain where
  head  : BitVec 48
  seq   : Nat
  last  : Bool
  n     : Nat
  reads : List Nat
  preds : List Nat
  undo  : List RegW
  deriving DecidableEq, Repr

/-- A block that a thread has entered and that still holds one of its lanes: its header's address, LEN, LIVE, RECONV and
RA, and the register positions written since the header was passed (R23, R215, R216). -/
structure CodeBlock where
  addr  : BitVec 48
  len   : Nat
  live  : BitVec 16
  reconv : BitVec 20
  ra    : Bool
  wrote : List Nat
  deriving DecidableEq, Repr

/-- A runahead checkpoint (Table 14.3): the pcv, the saved registers, predicates and fixed-latency writes,
the pages it takes, the flags its waiting instruction names, the instructions issued since, whether runahead
has ended before the thaw (R219), and the blocks with the registers written in them. -/
structure Ckpt where
  pcv   : List (BitVec 48)
  regs  : List (Nat × VReg)
  preds : List (Nat × PReg)
  pend  : List PendW
  pages : Nat
  need  : BitVec 12
  count : Nat
  ended : Bool
  blocks : List CodeBlock
  deriving DecidableEq, Repr

/-- A watch record (Table 15.8), with the tap command and row it belongs to. -/
structure Rec where
  cmd  : Nat
  row  : Nat
  rs   : BitVec 16
  tap  : BitVec 16
  feat : BitVec 32
  val  : BitVec 32
  thr  : BitVec 32
  rule : BitVec 16
  cause : BitVec 32
  deriving DecidableEq, Repr

/-- The architectural state of a lane group (Table 3.1) or of a control-core program (Table 16.1), with
what the chapters on issue, latches, runahead and traps hold for it. -/
structure Thr where
  scalar    : Bool
  pcv       : List (BitVec 48)
  regs      : List (Nat × VReg)      -- unlisted: VReg.zero
  sregs     : List (Nat × SReg)      -- unlisted: zero
  preds     : List (Nat × PReg)      -- unlisted: zero; k0 is never listed
  latches   : List Latch
  busy      : BitVec 12
  long      : BitVec 12
  hs        : List (Nat × HReg)      -- unlisted: zero
  segs      : List (Nat × BitVec 64) -- unlisted: zero
  fsr       : BitVec 32
  wsr       : BitVec 32
  handler   : Bool
  uqPos     : Nat
  cause     : BitVec 32
  pendBits  : BitVec 24
  also      : BitVec 24
  epc       : BitVec 48
  tval      : BitVec 64
  lmask     : BitVec 32
  recPcv    : List (BitVec 48)
  pendTval  : List (Nat × BitVec 64)
  skipCmp   : Option (BitVec 48)
  chunks    : Nat
  baseChunks : Nat
  level     : Nat
  chain     : Option Chain
  pend      : List PendW
  ops       : List VOp
  wait      : Option Wait
  lastIssue : Option Nat
  seq       : Nat
  starve    : Nat
  yielded   : Option Nat
  pinned    : Nat
  pinOther  : Bool
  pinFree   : Bool
  ra        : Option Ckpt
  live      : BitVec 16
  blocks    : List CodeBlock
  slot      : Nat
  ended     : Bool
  equinox   : Bool
  saved     : Nat                    -- 0 not saved, 1 Equinox, 2 Solstice (Table 18.4)
  lost      : Option (BitVec 12)     -- flags a mrst cleared: MATRIX_RESET at the next issue (R242)
  awaits    : List Nat               -- leaves whose fill the cancelled instruction waits for (R305, R313)
  stErr     : List Nat               -- leaves whose fills failed: STORAGE_ERR at the re-issue (R310)
  faultAt   : BitVec 48              -- address of the instruction that a storage fault has cancelled last (R310, R313)
  reopen    : Option Chain           -- the chain that a word which could not be fetched may continue (R58, R313)
  recs      : List Rec               -- records read and not yet answered, oldest first (R264)
  seen      : List Know              -- values that the thread has met and that some copy is older than (R327, R331, R332)
  deps      : List (Tgt × Dep)       -- what the values of registers, predicates and handles depend on (R331); k0 is never listed
  latchDeps : List (List Dep)        -- the same for the latch entries
  ctlDeps   : List Nat               -- loads and atomics that a branch condition has depended on (R331)
  owed      : List (Bool × Agent × Nat) -- accesses behind entries taken by rgget, and whether an acquire has followed (R190)
  fences    : List (Nat × Nat × Nat) -- place in issue order, kind and scope of fences passed that still order something (R196)
  deriving DecidableEq, Repr

/-- A thread before any launch: every register zero, no lane alive. -/
def Thr.idle (scalar : Bool) : Thr :=
  { scalar := scalar, pcv := List.replicate (if scalar then 1 else 32) (BitVec.allOnes 48), regs := [],
    sregs := [], preds := [], latches := List.replicate 4 Latch.invalid, busy := 0, long := 0, hs := [],
    segs := [], fsr := 0, wsr := 0, handler := false, uqPos := 0, cause := 0, pendBits := 0, also := 0,
    epc := 0, tval := 0, lmask := 0, recPcv := [], pendTval := [], skipCmp := none, chunks := 0,
    baseChunks := 0, level := 0, chain := none, pend := [], ops := [], wait := none, lastIssue := none,
    seq := 0, starve := 0, yielded := none, pinned := 0, pinOther := false, pinFree := false, ra := none,
    live := 0, blocks := [], slot := 0, ended := true, equinox := false, saved := 0,
    lost := none, awaits := [], stErr := [], faultAt := 0, reopen := none, recs := [], seen := [], deps := [],
    latchDeps := List.replicate 4 [], ctlDeps := [], owed := [], fences := [] }

/-! ### Launches and teams -/

/-- Who started a launch (R25, R251): entry number `n` of an interface's chain, at a chain address; a
control-core program of a quad, itself started by launch `by_`; the tap engine for a command and class. -/
inductive Source where
  | chain (qif n addr : Nat)
  | program (quad by_ : Nat)
  | tap (die cmd cls : Nat)
  deriving DecidableEq, Repr

/-- A barrier at a scope wider than .team (Table 12.3): its phase counter, the count set by the phase's
first arrival, the groups that have arrived, and what the arrivals of each phase have released (R199). -/
structure WideBar where
  scope   : Nat
  id      : Nat
  inst    : Nat
  phase   : BitVec 32
  want    : Nat
  arrived : List Agent
  view    : List (BitVec 32 × Carry) := []
  deriving DecidableEq, Repr

/-- A launch (R282 to R286): its source, interface, partition and level, its entry and argument handles,
the unstarted chunks that each die queues in the order dealt, the teams it has started, the cause that failed
it, and whether it has failed. `live` is clear once it has finished; a `mute` launch writes no completion word
(R370). -/
structure Launch where
  live   : Bool
  src    : Source
  qif    : Nat
  part   : Nat
  level  : Nat
  clk    : Nat                 -- the cycle of its acceptance
  e      : Entry
  hargs  : List (BitVec 128)
  chunks : List (Nat × List Nat)
  teams  : List Nat
  cause  : Option (BitVec 8)
  failed : Bool
  mute   : Bool
  bars   : List WideBar
  deriving DecidableEq, Repr

/-- An entry of the launch table where no launch stands; every field of its queue entry is 0. -/
def Launch.absent : Launch :=
  { live := false, src := .program 0 0, qif := 0, part := 0, level := 0, clk := 0,
    e := default, hargs := [],
    chunks := [], teams := [], cause := none, failed := false, mute := false, bars := [] }

/-- Where a team stands in its life (R26 to R28, R312 to R316). `draining` has begun a swap-out or save
with its REASON (Table 20.7); `saved` has left its core. -/
inductive Stage where
  | absent | waiting | resident | draining (reason : Nat) | saved (reason : Nat) | retired
  deriving DecidableEq, Repr

/-- A regrouping entry (R185): up to four values, the tag, and a poison mark for each (bit 4: the tag); the cycle and
group of its rgput (R186), and what that group had released before it, with
what it had still in flight (R190). -/
structure RgEntry where
  vals   : List (BitVec 32)
  tag    : BitVec 32
  poison : BitVec 5
  clk    : Nat := 0
  grp    : Nat := 0
  view   : List Carry := []
  ops    : List (Agent × Nat) := []
  deriving DecidableEq, Repr

/-- A waiting request of a pool, in arrival order (R341): the group, the registers asked for, and the cycle and slot of its
arrival. -/
structure PoolReq where
  a    : Agent
  n    : Nat
  clk  : Nat
  slot : Nat
  deriving DecidableEq, Repr

/-- A team (R25 to R28) with the state it shares: tags, barriers, uniform queue, pool, regrouping bins,
allotment, and for a handler team its records (R251). -/
structure Team where
  stage    : Stage
  stopped  : Bool              -- met a cause it has no trap entry for (R285)
  launch   : Nat
  teamid   : Nat
  die      : Nat
  quad     : Option Nat        -- placement confined to this quad (R251, R265), or held by its quad set
  core     : Nat
  cls      : Nat
  order    : Nat               -- order of swap-out, or of placement while resident
  groups   : List (Nat × Thr)  -- unlisted: Thr.idle
  n        : Nat
  pool     : Nat               -- registers of the extended pool, held and unheld together
  poolReqs : List PoolReq
  ready    : BitVec 64
  err      : BitVec 64
  errCause : List (Nat × BitVec 8)
  ntags    : Nat
  bars     : List (Nat × BitVec 32 × List Nat)
  barView  : List (Nat × BitVec 32 × Carry) -- what the arrivals at a .team barrier's phase have released (R199)
  uq       : List (BitVec 32)
  uqView   : List (List Carry) -- what each entry's qpush has released (R230)
  uqBase   : Nat
  producer : Option Nat
  uqOpen   : Bool
  rgq      : Nat
  bins     : List (Nat × List RgEntry)
  scrBase  : Nat
  scrLen   : Nat
  scratch  : List (Nat × Byte) -- the allotment's bytes while the team is off its core, at 2 × offset + (1 if poisoned)
  waits    : List Nat          -- leaves awaited (R305, R313)
  recs     : List Rec
  readers  : List Nat          -- groups whose wrd waits, first come first (R264)
  preempt  : Option Nat        -- under pre-emption: the cycle at which Tq ends (R275)
  area     : List Byte         -- the save area's records (Tables 18.4, 20.7)
  deriving DecidableEq, Repr

/-- An entry of the team table where no team stands. -/
def Team.absent : Team :=
  { stage := .absent, stopped := false, launch := 0, teamid := 0, die := 0, quad := none, core := 0, cls := 0, order := 0,
    groups := [], n := 0, pool := 0, poolReqs := [], ready := 0, err := 0, errCause := [], ntags := 0,
    bars := [], barView := [], uq := [], uqView := [], uqBase := 0, producer := none, uqOpen := false, rgq := 0, bins := [],
    scrBase := 0, scrLen := 0, scratch := [], waits := [], recs := [], readers := [],
    preempt := none, area := [] }

/-! ### Engines -/

/-- What an engine command does (R202). `i j n` and so on are its operands. -/
inductive EngOp where
  | cpy (i j n : Nat)
  | cpy2 (i j pd ps l r : Nat)
  | gth (o j m l : Nat)
  | sct (o j m l : Nat)
  | coll (i j id op n : Nat)
  | fill (i : Nat) (x : BitVec 32) (n : Nat)
  deriving DecidableEq, Repr

/-- An engine command in flight (R200 to R204): its owner and tag, its handles as read at acceptance, its
element width, the core space it reaches, the interface and partition of its launch, the place in its owner's issue order
before which every access is performed first (R196, R204), the stamp of its acceptance, the regions it pins (R320), and
the leaf whose fill it stalls on, with whether that fill has failed. -/
structure EngCmd where
  a    : Agent
  die  : Nat
  tag  : Nat
  op   : EngOp
  hd   : BitVec 128
  hs   : BitVec 128
  w    : Nat
  sg1  : BitVec 64
  qif  : Nat
  part : Nat
  after : Nat
  at_  : Nat
  pins : List Nat
  stall : Option (Nat × Bool)
  deriving DecidableEq, Repr

/-- A command in a matrix engine's queue (R255 to R260), with the operation it answers. `start` of an mma counts the
groups of k-steps that it has finished (R241). -/
inductive MOp where
  | mma (n : Nat) (da db : BitVec 128) (cw : BitVec 64) (mask : BitVec 128) (start : Nat)
  | mmz (n : Nat) (i : Bool)
  | mst (n : Nat) (d : BitVec 128) (ty : Nat) (sat : Bool)
  | mld (n : Nat) (d : BitVec 128) (ty : Nat)
  | mscl (b : Bool) (src base shift : Nat)
  | mfeed (b : Bool) (chunk : Nat) (last : Bool) (mask : BitVec 32) (v : List (BitVec 32))
  | mdrain (n : Nat) (sel : Nat) (ty : Nat) (sat : Bool)
  deriving DecidableEq, Repr

/-- A queued matrix command: its number, its issuer, the operation, the cycle of its acceptance, and how many faults and
pre-emptions of its program have met it in flight (R241). -/
structure MCmd where
  id  : Nat
  a   : Agent
  op  : MOp
  clk : Nat
  met : Nat := 0
  deriving DecidableEq, Repr

/-- An accumulator: mode (true: I) and its elements, element (m, n) at 128 m + n (R232, R233), with the
poisoned ones (R371). -/
structure Acc where
  int    : Bool
  el     : List (Nat × BitVec 64)
  poison : List Nat
  deriving DecidableEq, Repr

/-- A scale table (R239): entries (unlisted: 0x7F), base and shift. -/
structure Scale where
  tab   : List (Nat × Byte)
  base  : BitVec 32
  shift : Nat
  deriving DecidableEq, Repr

/-- A feed buffer (R238): its bytes (unlisted: zero) and whether it is full. -/
structure Feed where
  bytes : List (Nat × Byte)
  full  : Bool
  deriving DecidableEq, Repr

/-- A line of the fibre cache (R223): set, way, physical line, last use and fill cycles, the stamp of its fill and
its bytes. -/
structure FibLine where
  set  : Nat
  way  : Nat
  line : Nat
  used : Nat
  fill : Nat
  at_  : Nat
  v    : List Byte
  deriving DecidableEq, Repr

/-- The scanner's program (R202, R224): hX, hR, hC, the window, the element width, the position, the
columns read so far, and whether the window has been read. -/
structure Scan where
  hx   : BitVec 128
  hr   : BitVec 128
  hc   : BitVec 128
  r    : Nat
  q    : Nat
  w    : Nat
  pos  : Nat
  cols : List Nat
  done : Bool
  qif  : Nat
  deriving DecidableEq, Repr

/-- A quad (R229 to R242): its control core and program, the scratchpad boundary, its matrix engine with
feed buffers and scale cache, its fibre cache and scanner. -/
structure Quad where
  quadPart : Nat                     -- bytes of each core's scratchpad in quad-shared memory (R136)
  prog     : Option Nat              -- the launch whose program runs
  ctl      : Thr
  queued   : List Nat                -- KIND 1 launches waiting (R229)
  halted   : Bool
  issued   : Nat                     -- one more than the cycle of the control core's last issue slot (R229)
  preempt  : Bool                    -- pre-emption of the control core has been requested (R281)
  spare    : Option (Nat × Thr)      -- a program saved whole by pre-emption (R281)
  ready    : BitVec 64
  err      : BitVec 64
  errCause : List (Nat × BitVec 8)
  queues   : List (Nat × Nat)        -- queue number and team (R230)
  closed   : List Nat                -- queue numbers this program has closed (R266)
  acc      : List (Nat × Acc)        -- unlisted: +0 in mode F
  modes    : List (Nat × Bool)       -- modes the control core tracks (R255); unlisted: F
  mq       : List MCmd
  spill    : List (Nat × Acc)        -- accumulators of an interrupted program (R241)
  feedA    : Feed
  feedB    : Feed
  scaleA   : Scale
  scaleB   : Scale
  fib      : List FibLine
  scan     : Option Scan
  deriving DecidableEq, Repr

/-- A quad after reset (R239, R242). (DESIGN CHOICE, log entry 4.) -/
def Quad.reset : Quad :=
  { quadPart := 131072, prog := none, ctl := Thr.idle true, queued := [], halted := false, issued := 0, preempt := false, spare := none,
    ready := 0, err := 0, errCause := [], queues := [], closed := [], acc := [], modes := [], mq := [],
    spill := [], feedA := ⟨[], false⟩, feedB := ⟨[], false⟩, scaleA := ⟨[], 0, 0⟩, scaleB := ⟨[], 0, 0⟩,
    fib := [], scan := none }

/-- An accumulator holding +0 in mode F (R242). -/
def Acc.zero : Acc := ⟨false, [], []⟩

/-- A translation held in a TLB (R304): interface, page number and size class, the leaf, its address. -/
structure TlbEnt where
  qif  : Nat
  page : Nat
  ps   : Nat
  leaf : BitVec 128
  pa   : Nat
  deriving DecidableEq, Repr

/-- A cached copy of a 128-byte line (R331): what the line held at home at its fill, the cycle and the stamp of which
it keeps. -/
structure Copy where
  line : Nat
  v    : List Byte
  fill : Nat
  at_  : Nat
  deriving DecidableEq, Repr

/-- A core (R26, R36, R185, R215, R304, R358): registers free in its pool and the requests that wait for
them, comparators (PC word in [63:0], control word in [127:64]), L1 TLB and line copies, per quarter the
last pick of each class (class 4: runahead) and the cycle of its last slot, the leaves of Table 23.6 for each partition
(at 16 × partition + leaf) and the diverged issue slots of each (R23), the cycles that a register deadlock has lasted, and
the team that it swaps out. -/
structure Core where
  free   : Nat
  reqs   : List PoolReq
  cmps   : List (Nat × BitVec 128)
  tlb    : List TlbEnt
  copies : List Copy
  picks  : List (Nat × Nat)
  issued : List (Nat × Nat)
  leaves : List (Nat × Nat)
  split  : List (Nat × Nat)
  stuck  : Nat
  busyWith : Option Nat              -- team whose deadlock swap-out is under way (R342)
  deriving DecidableEq, Repr

/-- A core after reset. -/
def Core.reset : Core := ⟨3072, [], [], [], [], [], [], [], [], 0, none⟩

/-- A fill of the fill table (R305): the leaf, the interface's partition, the page it names, who waits,
and whether an SQE has it or a pgev holds it back. -/
structure Fill where
  pte   : Nat
  part  : Nat
  teams : List Nat
  ctls  : List Nat
  taken : Bool
  deriving DecidableEq, Repr

/-- A row that a tap command has selected: its number, its rule set, and its elements as read at acceptance
(none where they could not be read). -/
structure TapRow where
  row  : Nat
  rs   : Nat
  copy : Option (List (BitVec 16))
  deriving DecidableEq, Repr

/-- The encode of a held row (R251): the row, its records not yet answered, the strongest answer (0 RESUME, 1
RETAP, 2 DROP), and the classes of the teams that its records went to. -/
structure Encode where
  row  : Nat
  left : Nat
  best : Nat
  clss : List Nat
  deriving DecidableEq, Repr

/-- An accepted tap command (R249): its number, issuer and launch, the descriptor's bytes as read, the issuer's
sg2, sg3 and level (R285), the rows it selected, its handler teams by class, and the rows it holds. -/
structure TapCmd where
  id     : Nat
  a      : Agent
  launch : Nat
  desc   : List Byte
  sg2    : BitVec 64
  sg3    : BitVec 64
  level  : Nat
  rows   : List TapRow
  teams  : List (Nat × Nat)
  held   : List Encode
  deriving DecidableEq, Repr

/-- An item of a tap engine's FIFO (R249, R251): a command not yet accepted (with its descriptor's address, its
mask and its place in issue order), the watched rows of an accepted command still to be encoded, records to be queued to
handler teams (and whether they are the last that step 2 of the command queues), a background encode, a fate. -/
inductive TapItem where
  | command (c : TapCmd) (desc : Nat) (mask : BitVec 128) (seq : Nat)
  | watched (cmd : Nat) (rows : List Nat)
  | push (cmd : Nat) (recs : List (Nat × Rec)) (close : Bool)
  | encode (cmd row : Nat)
  | fate (cmd row mode : Nat)
  deriving DecidableEq, Repr

/-- A page that a Harvest engine drains (R324): the operations in flight that were checked before the commit, the
stamp of the commit, and the cycle in which the wait for them and for earlier engine commands ended. -/
structure Drain where
  part   : Nat
  region : Nat
  page   : Nat
  ops    : List (Agent × Nat)
  at_    : Nat
  done   : Option Nat
  deriving DecidableEq, Repr

/-- A die (R243, R287, R304, R305, R324): L2 TLB, fill table and faults waiting for an entry, tap FIFO and commands,
cached rule-table entries, Harvest work, the cycle in which its distributor last placed a team, and what comes before the row
states that its tap engine has written (R253, R264, R269). -/
structure Die where
  tlb    : List TlbEnt
  fills  : List Fill
  items  : List TapItem
  cmds   : List TapCmd
  cache  : List (Nat × Nat × BitVec 128) -- rule-table entries: interface, virtual address, entry
  tapStall : Option (Nat × Bool)     -- leaf that the FIFO's head waits for, and whether its fill failed
  drains : List Drain
  placed : Nat
  tapView : List Carry
  deriving DecidableEq, Repr

/-- A die after reset. -/
def Die.reset : Die := ⟨[], [], [], [], [], none, [], 0, []⟩

/-- A shadow pair (R205, R336): whether its mappings have been exchanged an odd number of times, and the stamp, cycle and
issuer of the latest exchange. -/
structure Shadow where
  swapped : Bool
  at_     : Nat
  clk     : Nat
  by_     : Option Agent
  deriving DecidableEq, Repr

/-- A shadow pair that has never been exchanged. -/
def Shadow.fresh : Shadow := ⟨false, 0, 0, none⟩

/-! ### Partitions, interfaces, storage, security -/

/-- A region table entry (Table 21.1) with the coverage the device keeps: harvested and draining pages. -/
structure Region where
  live      : Bool
  rbase     : Nat
  views     : Nat
  hdie      : Nat
  esh       : Nat
  pages     : Nat
  ctree     : Nat
  qif       : Nat
  harvested : List Nat
  draining  : List Nat
  deriving DecidableEq, Repr

/-- A view table entry (Table 21.2). `freed` is the order in which the slot became free (R323). -/
structure View where
  isOpen : Bool
  lo     : Nat
  hi     : Nat
  region : Nat
  freed  : Nat
  deriving DecidableEq, Repr

/-- A region table entry where no region exists. -/
def Region.absent : Region := ⟨false, 0, 0, 0, 0, 0, 0, 0, [], []⟩
/-- A view slot that has never been open. -/
def View.free : View := ⟨false, 0, 0, 0, 0⟩

/-- A partition (R307, R308, R317, R318, R362, R363, R275). -/
structure Part where
  live      : Bool
  guarded   : Bool
  maps      : Bitmaps
  useShared : Bool
  key       : BitVec 512
  tq        : BitVec 32
  pool      : List Nat               -- free frames, first taken first
  mark      : BitVec 32
  extents   : List (Nat × ExtentArgs)
  regions   : List (Nat × Region)
  views     : List (Nat × View)
  freeCount : Nat                    -- how many slots vclose has freed
  members   : List (Nat × List Agent) -- member lists of coll
  stopped   : Bool                   -- unbound interfaces stop walking after a kill (R372)
  nextSqe   : Nat
  vacated   : List Nat               -- cores that pre-emption has taken away (R280)
  savePools : List (Nat × Nat)       -- bytes of the save pool on each die (R314); unlisted: none
  nodes     : List (Nat × Nat)       -- address and bytes of the page-table nodes that firmware has made for it (R295, R371)
  traced    : Bool                   -- the tenant has enabled its PC-sampled trace (R374)
  deriving DecidableEq, Repr

/-- No resource at all. -/
def Bitmaps.empty : Bitmaps := ⟨[], [], [], [], [], [], [], [], []⟩
/-- An extent entry that is not in use. -/
def ExtentArgs.unused : ExtentArgs := ⟨0, 0, 0, false, false, 0, false, 0⟩
/-- A partition that is not configured; Tq is 10 µs by default (R275). -/
def Part.absent : Part :=
  { live := false, guarded := false, maps := Bitmaps.empty, useShared := false, key := 0, tq := 10,
    pool := [], mark := 0, extents := [], regions := [], views := [], freeCount := 0, members := [],
    stopped := false, nextSqe := 0, vacated := [], savePools := [], nodes := [], traced := false }

/-- TDISP states (Table 23.4). -/
inductive Tdi where
  | unlocked | locked | run | error
  deriving DecidableEq, Repr

/-- A queue interface (R364, R282, R295): Table 23.2, its walker's progress, and what PART_CONFIG and
firmware set for it. `fin` lists the entries that have finished beyond DONE. -/
structure Qif where
  tail    : Nat
  head    : Nat
  done    : Nat
  tdi     : Tdi
  callst  : BitVec 8
  busy    : Bool
  drain   : List (Agent × Nat)       -- accesses that the call in progress waits for (R303)
  callreq : List (BitVec 8)
  rsp     : List (BitVec 8)
  pasid   : Nat
  part    : Nat
  call    : Nat
  level   : Nat
  root    : Nat
  num     : Nat                      -- entries numbered so far
  fin     : List Nat
  waitAt  : Option (Nat × Nat × Nat) -- number, address and ARG of a wait entry in hand
  signals : List (Nat × Nat × Nat × BitVec 64) -- number, address, ADDR and ARG of pending signal entries
  walking : Bool
  counts  : List (Nat × Nat)         -- COUNT: slots of its groups, by leaf of Table 23.6 (R373)
  deriving DecidableEq, Repr

/-- An interface before PART_CONFIG (Table 23.2). -/
def Qif.reset : Qif :=
  { tail := 0, head := 0, done := 0, tdi := .unlocked, callst := 0, busy := false, drain := [],
    callreq := List.replicate 64 0, rsp := List.replicate 64 0, pasid := 0,
    part := 0, call := 0, level := 0, root := 0, num := 0, fin := [], waitAt := none, signals := [],
    walking := false, counts := [] }

/-- A key slot (R367). -/
structure KeySlot where
  active : Bool
  id     : Nat
  part   : Nat
  key    : BitVec 512
  deriving DecidableEq, Repr

/-- A record of the frame ownership table (R302): the owner, the key ID under which the frame is mapped,
how many leaves map it, and whether it lies in a pool. -/
structure FrameRec where
  owner  : Option Nat
  key    : Option Nat
  maps   : Nat
  pooled : Bool
  deriving DecidableEq, Repr

/-- A frame that nobody owns. -/
def FrameRec.free : FrameRec := ⟨none, none, 0, false⟩

/-- What an SQE does (R309): the fill of a leaf into a frame, since a cycle. -/
structure Sqe where
  die   : Nat
  pte   : Nat
  part  : Nat
  frame : Nat
  since : Nat
  deriving DecidableEq, Repr

/-- How far the SPDM connection has come (R368). -/
inductive Spdm where
  | closed | version | capabilities | algorithms
  deriving DecidableEq, Repr

/-- A secured session (R368): its key, whether FINISH has completed it, and the protected partition whose tenant holds it
(R366, R367). -/
structure Session where
  id    : Nat
  key   : BitVec 256
  ready : Bool
  part  : Option Nat
  deriving DecidableEq, Repr

/-- A Finper port (R376): the next sequence number to send and to expect, the unacknowledged flits, the
replays that have failed in a row, whether it has replayed, the flits accepted, whether the link is up, and the replay that
the receiver has asked for. -/
structure Port where
  next     : Nat
  expect   : Nat
  buffer   : List Nat
  failed   : Nat
  replayed : Bool
  accepted : List Nat
  up       : Bool
  asked    : Option Nat
  deriving DecidableEq, Repr

/-- A port after training. -/
def Port.reset : Port := ⟨0, 0, [], 0, false, [], true, none⟩

/-- A flow to another package (R376): the rate in flits a cycle that its destination has set, and the cycle up to which the flow
has used it. -/
structure Flow where
  rate : Option Nat
  at_  : Nat
  deriving DecidableEq, Repr

/-- A call that has been rung and that firmware has not taken (R365): the cycle of its BELL, its interface, and CALLREQ as it
stood then. -/
structure Bell where
  clk : Nat
  qif : Nat
  req : List (BitVec 8)
  deriving DecidableEq, Repr

/-- Bring-up (R378): how many of its five steps are done, the digests that it extends registers 1 to 16 with, and whether the
device is in diagnostic mode. -/
structure Boot where
  stage   : Nat
  digests : List (BitVec 256)
  diag    : Bool
  deriving DecidableEq, Repr

/-- What management and the environment hold (R377): power in mW, highest junction temperature in
tenths of a degree, the cap in mW, the clock in MHz, the cycle since which no limit condition holds, the
cycle since which the hot floor condition holds. -/
structure Power where
  power    : Nat
  junction : Nat
  inlet    : Nat                     -- inlet coolant temperature, tenths of a degree
  flow     : Nat                     -- coolant flow, ml a minute
  cap      : Nat
  clock    : Nat
  since    : Nat
  hot      : Option Nat
  deriving DecidableEq, Repr

/-! ### The device -/

/-- The state of the package. -/
structure State where
  /-- Turns still to take; where none is left, `Config.nextTurn` names the next one. The model's own. -/
  agenda   : List Turn
  /-- The counter that free values are drawn with. The model's own. -/
  freeCtr  : Nat
  /-- The agent whose instruction is being executed. The model's own. -/
  cur      : Agent
  /-- Cycles since package reset (R350). -/
  clk      : Nat
  /-- Physical memory; an unlisted byte reads as zero. -/
  mem      : List Host.Cell
  /-- The cores' scratchpads; an unlisted byte reads as zero. -/
  scr      : List Host.Cell
  /-- The die scratchpads; an unlisted byte reads as zero. -/
  dsp      : List Host.Cell
  /-- The NVMe drives (R309): (port × 2^32 + namespace) × 2^80 + byte; an unlisted byte reads as zero. -/
  drive    : List Host.Cell
  /-- Poisoned 32-byte sectors (R371): of memory, of the core scratchpads, of the die scratchpads. -/
  poisonM  : List Nat
  poisonS  : List Nat
  poisonD  : List Nat
  /-- Stores performed while some cached copy may still be older (R329, R331, R392). -/
  log      : List StoreRec
  teams    : List (Nat × Team)       -- unlisted: Team.absent
  nTeams   : Nat
  launches : List (Nat × Launch)     -- unlisted: Launch.absent
  nLaunch  : Nat
  order    : Nat                     -- counts placements and swap-outs
  cores    : List (Nat × Core)       -- unlisted: Core.reset
  quads    : List (Nat × Quad)       -- unlisted: Quad.reset
  dies     : List (Nat × Die)        -- unlisted: Die.reset
  cmds     : List EngCmd             -- engine commands in flight, oldest first
  cmdIds   : Nat                     -- numbers given to matrix and tap commands
  shadow   : List (Nat × Shadow)     -- shadow pairs (R205); unlisted: Shadow.fresh
  parts    : List (Nat × Part)       -- unlisted: Part.absent
  qifs     : List (Nat × Qif)        -- unlisted: Qif.reset
  keys     : List (Nat × KeySlot)    -- unlisted: free
  frames   : List (Nat × FrameRec)   -- unlisted: FrameRec.free
  sqes     : List (Nat × Sqe)        -- unlisted: idle (R309)
  spdm     : Spdm
  unread   : Bool                    -- a response has not been read yet (R368)
  response : List Byte               -- the last SPDM response, code first
  sessions : List Session
  tdiRsp   : List Nat                -- the last TDISP response
  measure  : List (Nat × BitVec 256) -- measurement registers 1 to 16 (R369); unlisted: zero
  unlock   : Bool                    -- a maker debug unlock is in force (R369)
  lsync    : Bool                    -- lease clock network synchronised (R378)
  linkUp   : Bool                    -- the host link (R370)
  doeOpen  : Bool                    -- the DOE mailbox (R378)
  boot     : Boot                    -- bring-up (R378)
  nvme     : List Nat                -- storage ports whose controllers have been brought up (R309, R378)
  bells    : List Bell               -- calls rung and not yet taken, in the order in which they are taken (R365)
  taken    : Option Nat              -- the interface whose call is in progress (R365)
  flows    : List (Nat × Flow)       -- flows by destination package (R376); unlisted: no rate set
  ide      : List (Nat × BitVec 256) -- keyed IDE streams (R375)
  ports    : List (Nat × Port)       -- Finper ports; unlisted: Port.reset
  power    : Power
  ecc      : List (Nat × Nat)        -- correctable errors counted, by place class (R371)
  kills    : List Nat                -- partitions killed (R374)
  poolLog  : List Nat                -- FRAMEPOOL raised for these leaves (R307)
  unsup    : Nat                     -- Unsupported Request completions given to drives (R309)
  sqeStats : List (Nat × Nat)        -- reads of each SQE at 4 × SQE: completed, + 1: failed, + 2: timed out (R374)
  deriving DecidableEq, Repr

/-- The machine right after package reset, before the first step of bring-up (R378): no team, no program, no partition, every
sparse map empty, the measurement registers zero, lsync clear, the host link down and the DOE mailbox closed, the clock at
1,750 MHz and the cap at 5.2 kW (R3, R377). (DESIGN CHOICE, log entry 3.) -/
def State.reset : State :=
  { agenda := [], freeCtr := 0, cur := .ctl 0, clk := 0, mem := [], scr := [], dsp := [], drive := [],
    poisonM := [], poisonS := [], poisonD := [], log := [], teams := [], nTeams := 0, launches := [], nLaunch := 0,
    order := 0, cores := [], quads := [], dies := [], cmds := [], cmdIds := 0, shadow := [],
    parts := [], qifs := [], keys := [], frames := [], sqes := [], spdm := .closed, unread := false,
    response := [], sessions := [], tdiRsp := [], measure := [], unlock := false, lsync := false,
    linkUp := false, doeOpen := false, boot := ⟨0, Config.bootDigests, false⟩, nvme := [], bells := [], taken := none,
    flows := [], ide := [], ports := [],
    power := { power := 0, junction := 400, inlet := 400, flow := 6000, cap := 5200000, clock := 1750, since := 0, hot := none },
    ecc := [], kills := [], poolLog := [], unsup := 0, sqeStats := [] }

end Sys2Proof.Machine
end

