-- ==== Sys2Proof/Machine/Ops.lean ====
section
/-! DEFINITION. The named operations over state: access to the tables, the lanes of a thread (R15 to R18), the
landing of results (R60), latches and chains (R53 to R58), taking a trap (R272, R274, R284, R285) and
returning from one (R113, R273). -/

namespace Sys2Proof.Machine

open Sys2Proof

/-! ### Tables -/

def State.team (s : State) (k : Nat) : Team := Sparse.get Team.absent k s.teams
def State.setTeam (s : State) (k : Nat) (t : Team) : State := { s with teams := Sparse.put k t s.teams }
def State.mapTeam (s : State) (k : Nat) (f : Team → Team) : State := s.setTeam k (f (s.team k))
def State.launch (s : State) (k : Nat) : Launch := Sparse.get Launch.absent k s.launches
def State.mapLaunch (s : State) (k : Nat) (f : Launch → Launch) : State :=
  { s with launches := Sparse.put k (f (s.launch k)) s.launches }
def State.coreOf (s : State) (k : Nat) : Core := Sparse.get Core.reset k s.cores
def State.mapCore (s : State) (k : Nat) (f : Core → Core) : State :=
  { s with cores := Sparse.put k (f (s.coreOf k)) s.cores }
def State.quad (s : State) (k : Nat) : Quad := Sparse.get Quad.reset k s.quads
def State.mapQuad (s : State) (k : Nat) (f : Quad → Quad) : State :=
  { s with quads := Sparse.put k (f (s.quad k)) s.quads }
def State.die (s : State) (k : Nat) : Die := Sparse.get Die.reset k s.dies
def State.mapDie (s : State) (k : Nat) (f : Die → Die) : State :=
  { s with dies := Sparse.put k (f (s.die k)) s.dies }
def State.part (s : State) (k : Nat) : Part := Sparse.get Part.absent k s.parts
def State.mapPart (s : State) (k : Nat) (f : Part → Part) : State :=
  { s with parts := Sparse.put k (f (s.part k)) s.parts }
def State.qif (s : State) (k : Nat) : Qif := Sparse.get Qif.reset k s.qifs
def State.mapQif (s : State) (k : Nat) (f : Qif → Qif) : State :=
  { s with qifs := Sparse.put k (f (s.qif k)) s.qifs }
def State.frame (s : State) (k : Nat) : FrameRec := Sparse.get FrameRec.free k s.frames
def State.mapFrame (s : State) (k : Nat) (f : FrameRec → FrameRec) : State :=
  { s with frames := Sparse.put k (f (s.frame k)) s.frames }

/-- The thread of an agent. -/
def State.thr (s : State) : Agent → Thr
  | .grp t g => Sparse.get (Thr.idle false) g (s.team t).groups
  | .ctl q => (s.quad q).ctl

/-- Replace the thread of an agent. -/
def State.setThr (s : State) (a : Agent) (th : Thr) : State :=
  match a with
  | .grp t g => s.mapTeam t fun x => { x with groups := Sparse.put g th x.groups }
  | .ctl q => s.mapQuad q fun x => { x with ctl := th }

def State.mapThr (s : State) (a : Agent) (f : Thr → Thr) : State := s.setThr a (f (s.thr a))

/-- The launch an agent belongs to. -/
def State.launchOf (s : State) : Agent → Nat
  | .grp t _ => (s.team t).launch
  | .ctl q => (s.quad q).prog.getD 0

/-- The quad of the package an agent runs on (R2, R229). -/
def State.quadOf (s : State) : Agent → Nat
  | .grp t _ => (s.team t).core / 4
  | .ctl q => q

/-- The die an agent runs on. -/
def State.dieOf (s : State) (a : Agent) : Nat := s.quadOf a / Config.quadsPerDie

/-- The core whose comparators and caches an agent uses (R358); a control core counts after the cores. -/
def State.coreNo (s : State) : Agent → Nat
  | .grp t _ => (s.team t).core
  | .ctl q => Config.cores + q

/-- The queue interface and the partition of an agent's launch (R282, R364). -/
def State.qifOf (s : State) (a : Agent) : Nat := (s.launch (s.launchOf a)).qif
@[inherit_doc State.qifOf]
def State.partOf (s : State) (a : Agent) : Nat := (s.launch (s.launchOf a)).part

/-- Every agent that has a thread. -/
def State.agents (s : State) : List Agent :=
  s.teams.flatMap (fun t => t.2.groups.map fun g => .grp t.1 g.1) ++ s.quads.map fun q => .ctl q.1

/-- The operations in flight that meet a condition, by agent and place in issue order. -/
def State.inFlight (s : State) (p : Agent → VOp → Bool) : List (Agent × Nat) :=
  s.agents.flatMap fun a => ((s.thr a).ops.filter (p a)).map fun o => (a, o.seq)

/-- Whether all of a list of operations have left flight. -/
def State.landed (s : State) (ops : List (Agent × Nat)) : Bool :=
  ops.all fun o => !(s.thr o.1).ops.any (·.seq == o.2)

/-- Partitions of the device (R362). -/
def partitionCount : Nat := 64

/-! ### Lanes (R15 to R18) -/

/-- The PC of an exited lane (R16). -/
def exitedPc : BitVec 48 := BitVec.allOnes 48

/-- The lanes that a thread has: 32, or 1 in scalar mode (R37). -/
def Thr.width (th : Thr) : Nat := if th.scalar then 1 else 32

/-- The lanes that have not exited. -/
def Thr.alive (th : Thr) : Mask := maskOf fun l => decide (l < th.width) && th.pcv.getD l exitedPc != exitedPc

/-- The unsigned minimum of a list of PCs. -/
def minPc : List (BitVec 48) → BitVec 48
  | [] => exitedPc
  | p :: r => let q := minPc r; if p.toNat ≤ q.toNat then p else q

/-- The issue address (R17). -/
def Thr.issueAddr (th : Thr) : BitVec 48 := minPc th.pcv

/-- The present lanes (R17). -/
def Thr.present (th : Thr) : Mask :=
  maskOf fun l => decide (l < th.width) && th.pcv.getD l exitedPc == th.issueAddr && th.issueAddr != exitedPc

/-- Set the PC of the lanes of a mask. -/
def Thr.setPc (th : Thr) (m : Mask) (f : Nat → BitVec 48) : Thr :=
  { th with pcv := (List.range th.pcv.length).map fun l => if m.getLsbD l then f l else th.pcv.getD l exitedPc }

/-- Move the lanes of a mask by a number of words (R18). -/
def Thr.advance (th : Thr) (m : Mask) (words : Nat) : Thr :=
  th.setPc m fun l => th.pcv.getD l exitedPc + BitVec.ofNat 48 (8 * words)

/-! ### Registers -/

/-- The position of register n (Table 18.5): in handler mode v240 to v247 are the handler bank (R35). -/
def Thr.pos (th : Thr) (n : Nat) : Nat := if th.handler ∧ 240 ≤ n then n + 8 else n

/-- Whether register vn is held (R35). -/
def Thr.holds (th : Thr) (n : Nat) : Bool := decide (n / 16 < th.chunks) || (th.handler && decide (240 ≤ n))

def Thr.vreg (th : Thr) (pos : Nat) : VReg := Sparse.get VReg.zero pos th.regs
def Thr.sreg (th : Thr) (n : Nat) : SReg := Sparse.get ⟨0, false⟩ n th.sregs
/-- A predicate register; k0 reads as all lanes (Table 3.1). -/
def Thr.pred (th : Thr) (p : Nat) : PReg :=
  if p = 0 then ⟨BitVec.allOnes 32, 0⟩ else Sparse.get ⟨0, 0⟩ p th.preds
def Thr.hreg (th : Thr) (n : Nat) : HReg := Sparse.get ⟨0, false, false⟩ n th.hs
def Thr.seg (th : Thr) (n : Nat) : BitVec 64 := Sparse.get 0 n th.segs

/-- Write a handle register; a write clears its marks (R160). -/
def Thr.setH (th : Thr) (n : Nat) (v : BitVec 128) : Thr := { th with hs := Sparse.put n ⟨v, false, false⟩ th.hs }

/-- Replace some lanes of a vector register. -/
def VReg.put (r : VReg) (m : Mask) (v : List (BitVec 64)) (tag : Tag) (poison frost : Mask) : VReg :=
  { v := perLane fun l => if m.getLsbD l then (lane64 v l).setWidth 32 else lane32 r.v l
    tag := tag
    poison := (r.poison &&& ~~~m) ||| (poison &&& m)
    frost := (r.frost &&& ~~~m) ||| (frost &&& m) }

/-- Replace some lanes of a predicate. -/
def PReg.put (r : PReg) (m : Mask) (v : List (BitVec 64)) (frost : Mask) : PReg :=
  { v := maskOf fun l => if m.getLsbD l then (lane64 v l).getLsbD 0 else r.v.getLsbD l
    frost := (r.frost &&& ~~~m) ||| (frost &&& m) }

/-- Note register positions as written in every block that a thread is in (R216). -/
def Thr.noteWrites (th : Thr) (ps : List Nat) : Thr :=
  { th with blocks := th.blocks.map fun b => { b with wrote := b.wrote ++ ps.filter fun p => !b.wrote.contains p } }

/-- The block that holds a thread's issue address, among those it has entered. -/
def Thr.block (th : Thr) : Option CodeBlock :=
  th.blocks.find? fun b => decide (b.addr.toNat < th.issueAddr.toNat) && decide (th.issueAddr.toNat ≤ b.addr.toNat + 8 * b.len)

/-- The register positions that results are for. -/
def positions (ws : List RegW) : List Nat := ws.filterMap fun w => match w.tgt with | .v p => some p | _ => none

/-- Write a result into registers, in the lanes that are still its own (R31, R60). -/
def Thr.writeW (th : Thr) (w : RegW) : Thr :=
  let m := w.mask &&& ~~~w.dead
  if m = 0 then th
  else match w.tgt with
    | .v p =>
      let r := (th.vreg p).put m w.v (if w.mask &&& w.dead = 0 then w.tag else .G) w.poison w.frost
      { th with regs := Sparse.put p r th.regs }
    | .s n => { th with sregs := Sparse.put n ⟨lane64 w.v 0, w.poison.getLsbD 0⟩ th.sregs }
    | .k p => if p = 0 then th else { th with preds := Sparse.put p ((th.pred p).put m w.v w.frost) th.preds }
    | .h n => { th with hs := Sparse.put n ⟨lane64 w.v 1 ++ lane64 w.v 0, w.poison.getLsbD 0, w.frost.getLsbD 0⟩ th.hs }

/-! ### Landing (R60) -/

/-- The lanes of `w` that a later write `l` has taken become dead. -/
def RegW.shade (l w : RegW) : RegW := if w.tgt = l.tgt then { w with dead := w.dead ||| l.mask } else w

/-- The results that an operation in flight will write. -/
def VKind.results : VKind → List RegW
  | .result ws _ => ws
  | .load _ _ _ ws _ => ws
  | .atomic _ _ _ ws => ws
  | .record _ ws => ws
  | .engine _ ws => ws
  | .tapReq _ ws => ws
  | .launch _ _ ws => ws
  | _ => []

/-- The elements of an operation. -/
def VKind.elems : VKind → List Elem
  | .load els _ _ _ _ => els
  | .store els _ _ => els
  | .atomic els _ _ _ => els
  | .hld e .. => [e]
  | .hst e _ => [e]
  | _ => []

/-- Whether an operation in flight is a load or atomic, and whether it is a store or atomic. -/
def VKind.reads : VKind → Bool
  | .load .. => true
  | .atomic .. => true
  | .hld .. => true
  | _ => false
@[inherit_doc VKind.reads]
def VKind.writes : VKind → Bool
  | .store .. => true
  | .atomic .. => true
  | .hst .. => true
  | .publish _ => true
  | _ => false

/-- The place in issue order of the instruction that a thread is about: one that waits has issued already. -/
def Thr.place (th : Thr) : Nat := if th.wait.isSome then th.seq - 1 else th.seq

/-- Note a fence that a thread has passed, while earlier accesses are in flight that it orders (R196). -/
def Thr.noteFence (kind scope : Nat) (th : Thr) : Thr :=
  if th.ops.any fun o => o.kind.reads || o.kind.writes then { th with fences := th.fences ++ [(th.place, kind, scope)] } else th

/-- Change those results. -/
def VKind.mapResults (f : RegW → RegW) : VKind → VKind
  | .result ws fl => .result (ws.map f) fl
  | .load els ty fmt ws ch => .load els ty fmt (ws.map f) ch
  | .atomic els op ty ws => .atomic els op ty (ws.map f)
  | .record d ws => .record d (ws.map f)
  | .engine id ws => .engine id (ws.map f)
  | .tapReq q ws => .tapReq q (ws.map f)
  | .launch e hs ws => .launch e hs (ws.map f)
  | k => k

/-- Results issued before `seq` no longer reach the lanes that `w` has taken. -/
def shadePend (seq : Nat) (w : RegW) (ps : List PendW) : List PendW :=
  ps.map fun p => if p.seq < seq then { p with ws := p.ws.map w.shade } else p
@[inherit_doc shadePend]
def shadeOps (seq : Nat) (w : RegW) (os : List VOp) : List VOp :=
  os.map fun o => if o.seq < seq then { o with kind := o.kind.mapResults w.shade } else o

/-- After `w`, issued at `seq`, has landed: older results no longer reach its lanes. In runahead the operations
issued before entry land in the checkpoint and are not touched (R221). -/
def Thr.killOlder (th : Thr) (seq : Nat) (w : RegW) : Thr :=
  { th with
    pend := shadePend seq w th.pend
    ops := if th.ra.isSome then th.ops else shadeOps seq w th.ops }

/-- Land one result of the thread's own registers; after the last exit it is discarded (R19). -/
def Thr.land (th : Thr) (seq : Nat) (w : RegW) : Thr := if th.alive = 0 then th else (th.writeW w).killOlder seq w

/-- Land a result in a runahead checkpoint (R221): only what the checkpoint holds. -/
def Ckpt.land (c : Ckpt) (w : RegW) : Ckpt :=
  let m := w.mask &&& ~~~w.dead
  match w.tgt with
  | .v p =>
    match c.regs.find? (·.1 = p) with
    | none => c
    | some (_, r) => { c with regs := Sparse.put p (r.put m w.v (if w.mask &&& w.dead = 0 then w.tag else .G) w.poison 0) c.regs }
  | .s _ => c
  | .h _ => c
  | .k p => if p = 0 then c else { c with preds := Sparse.put p ((Sparse.get ⟨0, 0⟩ p c.preds).put m w.v 0) c.preds }

/-- Land a result that was issued before runahead began: in the checkpoint (R221), or in a handle register, which
runahead never changes and which keeps its Frost mark (R217). -/
def Thr.landCkpt (th : Thr) (seq : Nat) (w : RegW) : Thr :=
  match th.ra with
  | none => th
  | some c =>
    let c := c.land w
    let th := { th with ra := some { c with pend := shadePend seq w c.pend }, ops := shadeOps seq w th.ops }
    match w.tgt with
    | .h n => { th with hs := Sparse.put n { (th.hreg n) with v := lane64 w.v 1 ++ lane64 w.v 0, poison := w.poison.getLsbD 0 } th.hs }
    | _ => th

/-- Clear a completion flag with its long mark (R43, R214). -/
def Thr.clearFlag (th : Thr) : Option Nat → Thr
  | none => th
  | some f => { th with busy := th.busy &&& ~~~(1#12 <<< f), long := th.long &&& ~~~(1#12 <<< f) }

/-- Mark a completion flag busy (R43). -/
def Thr.setFlag (th : Thr) : Option Nat → Thr
  | none => th
  | some f => { th with busy := th.busy ||| (1#12 <<< f) }

/-- The order in which due results land: by cycle, then by issue. -/
def PendW.before (a b : PendW) : Bool := decide (a.due < b.due) || (a.due == b.due && decide (a.seq < b.seq))

/-- Land the fixed-latency results that are due at cycle `clk` and clear their flags (R43, R60); in
runahead those issued before it land in the checkpoint (R221). -/
def Thr.landDue (clk : Nat) (th : Thr) : Thr :=
  let due := sortBy PendW.before (th.pend.filter fun p => decide (p.due ≤ clk))
  let th := { th with pend := th.pend.filter fun p => !decide (p.due ≤ clk) }
  let th := due.foldl (fun t p => (p.ws.foldl (fun t w => t.land p.seq w) t).clearFlag p.flag) th
  match th.ra with
  | none => th
  | some c =>
    let dueC := sortBy PendW.before (c.pend.filter fun p => decide (p.due ≤ clk))
    let th := { th with ra := some { c with pend := c.pend.filter fun p => !decide (p.due ≤ clk) } }
    dueC.foldl (fun t p => (p.ws.foldl (fun t w => t.landCkpt p.seq w) t).clearFlag p.flag) th

/-- Land every fixed-latency result at once: what a team leaves its core with. -/
def Thr.landAll (th : Thr) : Thr :=
  th.landDue ((th.pend.foldl (fun m p => max m p.due) 0) + ((th.ra.map (·.pend)).getD []).foldl (fun m p => max m p.due) 0)

/-- Land a result of a variable-latency operation: in the checkpoint while in runahead (R221). -/
def Thr.landVar (th : Thr) (seq : Nat) (w : RegW) : Thr :=
  if th.ra.isSome then th.landCkpt seq w else th.land seq w

/-! ### Latches (R53, R54) -/

def Thr.dropLatches (th : Thr) : Thr := { th with latches := List.replicate 4 Latch.invalid }
def Thr.pushLatch (th : Thr) (e : Latch) : Thr :=
  { th with latches := e :: th.latches.take 3, latchDeps := [] :: th.latchDeps.take 3 }

/-! ### Causes (Table 18.1) -/

/-- The causes of a trap. -/
inductive Cause where
  | illegal | mode | priv | nonunif | latch | orphan | nomap | perm | keyalias | viewclosed | widen
  | bounds | align | fmtpart | poison | storageErr | divzero | fptrap | tapfault | matrixReset | swtrap
  | brkpt | brk
  deriving DecidableEq, Repr

/-- Priority: a lower rank is reported first (R270, R271). -/
def Cause.rank : Cause → Nat
  | .illegal => 1 | .mode => 2 | .priv => 3 | .nonunif => 4 | .latch => 5 | .orphan => 6 | .nomap => 7
  | .perm => 8 | .keyalias => 9 | .viewclosed => 10 | .widen => 11 | .bounds => 12 | .align => 13
  | .fmtpart => 14 | .poison => 15 | .storageErr => 16 | .divzero => 17 | .fptrap => 18 | .tapfault => 19
  | .matrixReset => 20 | .swtrap => 21 | .brkpt => 22 | .brk => 23

/-- The code of a cause. -/
def Cause.code : Cause → BitVec 8
  | .illegal => 0x01 | .mode => 0x02 | .priv => 0x03 | .nonunif => 0x04 | .latch => 0x05 | .orphan => 0x06
  | .nomap => 0x13 | .perm => 0x12 | .keyalias => 0x16 | .viewclosed => 0x14 | .widen => 0x15
  | .bounds => 0x10 | .align => 0x11 | .fmtpart => 0x17 | .poison => 0x1A | .storageErr => 0x18
  | .divzero => 0x20 | .fptrap => 0x21 | .tapfault => 0x31 | .matrixReset => 0x50 | .swtrap => 0x40
  | .brkpt => 0x41 | .brk => 0x42

/-- The cause of a code, for a cause recorded on a tag (R200). -/
def Cause.ofCode (c : BitVec 8) : Cause :=
  match c.toNat with
  | 0x13 => .nomap | 0x12 => .perm | 0x16 => .keyalias | 0x14 => .viewclosed | 0x10 => .bounds | 0x11 => .align
  | 0x1A => .poison | _ => .storageErr

/-- The cause of a rank, for a cause held pending. -/
def Cause.ofRank : Nat → Cause
  | 1 => .illegal | 2 => .mode | 3 => .priv | 4 => .nonunif | 5 => .latch | 6 => .orphan | 7 => .nomap
  | 8 => .perm | 9 => .keyalias | 10 => .viewclosed | 11 => .widen | 12 => .bounds | 13 => .align
  | 14 => .fmtpart | 15 => .poison | 16 => .storageErr | 17 => .divzero | 18 => .fptrap | 19 => .tapfault
  | 20 => .matrixReset | 21 => .swtrap | 22 => .brkpt | _ => .brk

/-- A trap as the lanes of one instruction raise it. -/
structure Trap where
  cause : Cause
  lmask : Mask
  tval  : BitVec 64
  also  : BitVec 24 := 0
  deriving DecidableEq, Repr

/-- Drop from later candidates the lanes that earlier ones have raised, and empty candidates: each lane
raises at most one cause (R144, R271). -/
def Trap.claim : Mask → List Trap → List Trap
  | _, [] => []
  | m, t :: r =>
    if t.lmask &&& ~~~m = 0 then Trap.claim m r
    else { t with lmask := t.lmask &&& ~~~m } :: Trap.claim (m ||| t.lmask) r

/-- The trap that a group reports from candidates listed one for each lane or set of lanes (R271): the
highest rank, the lanes that raised it, the value of the lowest of them, and the other ranks in ALSO. -/
def Trap.merge (ts : List Trap) : Option Trap :=
  match pickBy (fun a b => decide (a.cause.rank < b.cause.rank)) ts with
  | none => none
  | some t =>
    let same := ts.filter (·.cause = t.cause)
    let first := (pickBy (fun a b => decide (lowestLane a.lmask < lowestLane b.lmask)) same).getD t
    some { cause := t.cause, lmask := same.foldl (fun m x => m ||| x.lmask) 0, tval := first.tval,
           also := ts.foldl (fun b x => if x.cause = t.cause then b else b ||| (1#24 <<< x.cause.rank)) 0 }

/-! ### Taking a trap -/

/-- The code image of an agent's launch, and the entry of its trap handler; 0 where TRAP is 0 (R283). -/
def State.trapEntry (s : State) (a : Agent) : Nat :=
  let e := (s.launch (s.launchOf a)).e
  if e.trap = 0 then 0 else e.code + 8 * e.trap

/-- Whether a matrix command fills a feed buffer, and which. -/
def MOp.feeds : MOp → Option Bool
  | .mfeed b .. => some b
  | _ => none

/-- Whether a queued command has started: an mma that has been split before, or the first of the queue by free choice. -/
def Quad.started (x : Quad) (free : Nat) (c : MCmd) : Bool :=
  (match c.op with | .mma _ _ _ _ _ g0 => decide (0 < g0) | _ => false)
    || ((x.mq.find? fun y => y.op.feeds.isNone) == some c && Config.freeBit free 720000 c.id)

/-- A fault or pre-emption of a control-core program meets the command that its matrix engine has in flight (R241). -/
def State.meetMatrix (s : State) : Agent → State
  | .grp .. => s
  | .ctl q =>
    match (s.quad q).mq.find? fun y => y.op.feeds.isNone with
    | none => s
    | some c => s.mapQuad q fun x => { x with mq := x.mq.map fun (y : MCmd) => if y.id = c.id then { y with met := y.met + 1 } else y }

/-- Close the queues that a program feeds, and drop its matrix commands that have not started (R229, R231). The queues keep
their entries until their teams retire (Table 16.1). -/
def State.closeProgram (s : State) (q : Nat) : State :=
  let x := s.quad q
  let s := (x.queues.filter fun p => (s.launch (s.team p.2).launch).src == .program q ((x.prog.orElse fun _ => x.spare.map (·.1)).getD 0)).foldl
    (fun s p => s.mapTeam p.2 fun t => { t with uqOpen := false }) s
  let goes (c : MCmd) : Bool := c.a == .ctl q && !x.started s.freeCtr c
  let s := s.mapThr (.ctl q) fun th =>
    let gone := (x.mq.filter goes).map (·.id)
    let mine := th.ops.filter fun o => match o.kind with | .engine id _ => gone.contains id | _ => false
    mine.foldl (fun th o => { th.clearFlag o.flag with ops := th.ops.filter (·.seq != o.seq) }) th
  s.mapQuad q fun x => { x with closed := [], mq := x.mq.filter fun c => !goes c }

/-- End a control-core program: its lane has exited, and GROUP_END follows once its operations complete. -/
def State.endProgram (s : State) (q : Nat) : State :=
  (s.closeProgram q).mapThr (.ctl q) fun th => { th with pcv := th.pcv.map fun _ => exitedPc, wait := none }

/-- A cause that cannot be taken (R284, R285): the launch of a host fails, a program ends, a team of tlaunch
or of the tap engine stops. -/
def State.stopFor (s : State) (a : Agent) (c : BitVec 8) : State :=
  let k := s.launchOf a
  let note (l : Launch) : Launch := { l with cause := some (l.cause.getD c) }
  match a with
  | .ctl q => (s.mapLaunch k fun l => { note l with failed := true }).endProgram q
  | .grp t _ =>
    match (s.launch k).src with
    | .chain .. => s.mapLaunch k fun l => { note l with failed := true }
    | .program _ by_ => (s.mapTeam t fun x => { x with stopped := true }).mapLaunch by_ note
    | .tap .. => s.mapTeam t fun x => { x with stopped := true }

/-- An operation in flight whose results no longer reach any register. -/
def VKind.cancelled : VKind → VKind
  | .hld e _ ch _ => .prefetch [e] ch
  | k => k.mapResults fun w => { w with dead := w.dead ||| w.mask }

/-- Restore what the head of a chain wrote and return every present lane to it (R57, R58); results of the head that
are still on their way no longer reach anything. Another member that wrote the head's own destination loses that value to
the restored one. (DEDUCED, log entry 65.) -/
def Thr.unwind (th : Thr) : Thr :=
  match th.chain with
  | none => th
  | some c =>
    let th := { th with
      pend := th.pend.map fun (p : PendW) =>
        if p.seq < c.seq then p else { p with ws := if p.seq = c.seq then [] else p.ws.filter fun w => c.undo.all (·.tgt != w.tgt) }
      ops := th.ops.map fun (o : VOp) =>
        if o.seq = c.seq then { o with kind := o.kind.cancelled } else o }
    let th := c.undo.foldl (fun t w => t.writeW w) th
    { (th.setPc th.present fun _ => c.head) with chain := none }

/-- Enter handler mode (R272) with a return address and a trap entry; the recorded PC vector is the pcv as
it stands. -/
def Thr.enterHandler (th : Thr) (epc entry : BitVec 48) (t : Trap) : Thr :=
  { (th.dropLatches.setPc th.alive fun _ => entry) with
    recPcv := th.pcv, cause := t.cause.code.setWidth 32, tval := t.tval, lmask := t.lmask, also := t.also,
    pendBits := 0, pendTval := [], epc := epc, handler := true, chain := none, reopen := none, lastIssue := none, wait := none }

/-- Hold a cause pending in handler mode (R274): the first tval of a rank is kept. -/
def Thr.holdCause (th : Thr) (t : Trap) : Thr :=
  if th.pendBits.getLsbD t.cause.rank then th
  else { th with pendBits := th.pendBits ||| (1#24 <<< t.cause.rank),
                 pendTval := Sparse.put t.cause.rank t.tval th.pendTval }

/-- Leave runahead (R220): the checkpoint comes back, every other held register holds a free value, Frost is gone. -/
def Thr.thaw (free : Nat → Nat → BitVec 64) (th : Thr) : Thr :=
  match th.ra with
  | none => th
  | some c =>
    let others := (List.range (min 248 (16 * th.chunks))).filter fun p => (c.regs.find? (·.1 = p)).isNone
    let th := others.foldl (fun t p =>
      { t with regs := Sparse.put p { VReg.zero with v := perLane fun l => (free p l).setWidth 32, tag := .G } t.regs }) th
    let th := c.regs.foldl (fun t r => { t with regs := Sparse.put r.1 r.2 t.regs }) th
    { th.dropLatches with
      pcv := c.pcv, preds := c.preds, pend := c.pend, blocks := c.blocks, ra := none, lastIssue := none, chain := none,
      hs := th.hs.map fun h => (h.1, { h.2 with frost := false }),
      regs := th.regs.map fun r => (r.1, { r.2 with frost := 0 }) }

/-- Thaw an agent and give its checkpoint's room back: slot and pages are counted from the resident
groups, so nothing else changes. (DEDUCED, log entry 60.) -/
def State.thaw (s : State) (a : Agent) : State := s.mapThr a (Thr.thaw fun p l => Config.freeWord s.freeCtr (64 * p + l))

/-- Take a trap in normal mode: enter the handler, or stop where there is no trap entry (R272, R284). -/
def State.enterTrap (s : State) (a : Agent) (epc : BitVec 48) (t : Trap) : State :=
  let e := s.trapEntry a
  if e = 0 then s.stopFor a t.cause.code
  else (s.meetMatrix a).mapThr a fun th => th.enterHandler epc (BitVec.ofNat 48 e) t

/-- Take the trap `t` at an instruction of `len` words that reads a latch where `reads` (R270 to R274). In
handler mode the cause is held and the present lanes step on; the instruction pushes an invalid latch entry, and where it
reads no latch the older entries are invalid too (R54). SWTRAP and BRK return after the instruction,
any other cause to it, or to the head of its chain. The first issue after the entry waits until every fixed-latency result
has landed (R42). -/
def State.takeTrap (s : State) (a : Agent) (len : Nat) (reads : Bool) (t : Trap) : State :=
  let th := s.thr a
  let addr := th.issueAddr
  if th.handler then
    s.mapThr a fun th =>
      let th' := (th.holdCause t).advance th.present len
      { (if reads then th' else th'.dropLatches).pushLatch Latch.invalid with lastIssue := some s.clk, wait := none }
  else
    if t.cause = .swtrap ∨ t.cause = .brk then s.enterTrap a (addr + BitVec.ofNat 48 (8 * len)) t
    else if reads then (s.mapThr a Thr.unwind).enterTrap a ((th.chain.map (·.head)).getD addr) t
    else s.enterTrap a addr t

/-- Take a cause that no instruction raises (R274, R242): in handler mode an ILLEGAL stops the group's
team, any other cause is held pending. -/
def State.takeCause (s : State) (a : Agent) (t : Trap) : State :=
  let s := if (s.thr a).ra.isSome then s.thaw a else s
  let th := s.thr a
  if th.handler then
    if t.cause = .illegal then s.stopFor a t.cause.code else s.mapThr a fun th => th.holdCause t
  else s.enterTrap a th.issueAddr t

/-! ### Returning from a trap (R113, R273, R274) -/

/-- The lowest rank held pending. -/
def Thr.lowestPending (th : Thr) : Option Nat := (List.range 24).find? fun n => th.pendBits.getLsbD n

/-- tret in handler mode: deliver the next pending cause, or return each lane of lmask to epc and every
other lane to its recorded PC. -/
def Thr.returnTrap (entry : BitVec 48) (th : Thr) : Thr :=
  match th.lowestPending with
  | some n =>
    { (th.dropLatches.setPc th.alive fun _ => entry) with
      cause := ((Cause.ofRank n).code.setWidth 32) ||| 0x100,
      tval := Sparse.get 0 n th.pendTval, also := 0,
      pendBits := th.pendBits &&& ~~~(1#24 <<< n), pendTval := Sparse.del n th.pendTval,
      chain := none, lastIssue := none }
  | none =>
    { (th.dropLatches.setPc th.alive fun l => if th.lmask.getLsbD l then th.epc else th.recPcv.getD l exitedPc) with
      handler := false, chain := none, lastIssue := none,
      skipCmp := if th.cause = 0x41 then some th.epc else th.skipCmp }

end Sys2Proof.Machine
end

