-- ==== Sys2Proof/Machine/Sha.lean ====
section
/-! DEFINITION. SHA-256 (FIPS 180-4), with which the measurement registers are extended (R369). The round
constants are the first 32 bits of the fractional parts of the cube roots of the first 64 primes. -/

namespace Sys2Proof.Machine.Sha

open Sys2Proof

/-- The integer cube root, one bit a step. -/
def icbrtFrom (n : Nat) : Nat → Nat → Nat
  | 0, r => r
  | b + 1, r => icbrtFrom n b (if (r + 2 ^ b) ^ 3 ≤ n then r + 2 ^ b else r)

/-- The integer square root, one bit a step. -/
def isqrtFrom (n : Nat) : Nat → Nat → Nat
  | 0, r => r
  | b + 1, r => isqrtFrom n b (if (r + 2 ^ b) ^ 2 ≤ n then r + 2 ^ b else r)

/-- The first 64 primes. -/
def primes : List Nat :=
  [2, 3, 5, 7, 11, 13, 17, 19, 23, 29, 31, 37, 41, 43, 47, 53] ++
  [59, 61, 67, 71, 73, 79, 83, 89, 97, 101, 103, 107, 109, 113, 127, 131] ++
  [137, 139, 149, 151, 157, 163, 167, 173, 179, 181, 191, 193, 197, 199, 211, 223] ++
  [227, 229, 233, 239, 241, 251, 257, 263, 269, 271, 277, 281, 283, 293, 307, 311]

/-- The round constants. -/
def K : List Word32 := primes.map fun p => BitVec.ofNat 32 (icbrtFrom (p * 2 ^ 96) 40 0)

/-- The first hash value: square roots of the first 8 primes. -/
def H0 : List Word32 := (primes.take 8).map fun p => BitVec.ofNat 32 (isqrtFrom (p * 2 ^ 64) 40 0)

/-- Extend the message schedule by n words, newest first. -/
def extend : Nat → List Word32 → List Word32
  | 0, w => w
  | n + 1, w =>
    let w2 := w.getD 1 0
    let w15 := w.getD 14 0
    let s0 := w15.rotateRight 7 ^^^ w15.rotateRight 18 ^^^ (w15 >>> 3)
    let s1 := w2.rotateRight 17 ^^^ w2.rotateRight 19 ^^^ (w2 >>> 10)
    extend n ((w.getD 15 0 + s0 + w.getD 6 0 + s1) :: w)

/-- One round on the eight working variables. -/
def round (h : List Word32) (kw : Word32) : List Word32 :=
  match h with
  | [a, b, c, d, e, f, g, hh] =>
    let s1 := e.rotateRight 6 ^^^ e.rotateRight 11 ^^^ e.rotateRight 25
    let ch := (e &&& f) ^^^ (~~~e &&& g)
    let t1 := hh + s1 + ch + kw
    let s0 := a.rotateRight 2 ^^^ a.rotateRight 13 ^^^ a.rotateRight 22
    let maj := (a &&& b) ^^^ (a &&& c) ^^^ (b &&& c)
    [t1 + s0 + maj, a, b, c, d + t1, e, f, g]
  | _ => h

/-- The compression of one block of 16 words. -/
def block (h : List Word32) (ws : List Word32) : List Word32 :=
  let w := (extend 48 ws.reverse).reverse
  List.zipWith (· + ·) h ((List.zipWith (· + ·) K w).foldl round h)

/-- Four bytes, most significant first. -/
def wordOf (bs : List Byte) : Word32 := bs.foldl (fun x b => (x <<< 8) ||| b.setWidth 32) 0

/-- Words of a padded message, n of them. -/
def wordsOf : Nat → List Byte → List Word32
  | 0, _ => []
  | n + 1, bs => wordOf (bs.take 4) :: wordsOf n (bs.drop 4)

/-- Compress n blocks. -/
def blocks : Nat → List Word32 → List Word32 → List Word32
  | 0, h, _ => h
  | n + 1, h, ws => blocks n (block h (ws.take 16)) (ws.drop 16)

/-- The n low bytes of a number, most significant first. -/
def highBytes (n v : Nat) : List Byte :=
  (List.range n).map fun i => BitVec.ofNat 8 (v / 256 ^ (n - 1 - i))

/-- The digest of a list of bytes. -/
def sha256 (bs : List Byte) : BitVec 256 :=
  let pad := (119 - bs.length % 64) % 64
  let m := bs ++ [0x80] ++ List.replicate pad 0 ++ highBytes 8 (8 * bs.length)
  let n := m.length / 64
  BitVec.ofNat 256 ((blocks n H0 (wordsOf (16 * n) m)).foldl (fun x w => x * 2 ^ 32 + w.toNat) 0)

/-- new ← SHA-256(old ‖ digest) (R369). -/
def extendRegister (old digest : BitVec 256) : BitVec 256 :=
  sha256 (highBytes 32 old.toNat ++ highBytes 32 digest.toNat)

end Sys2Proof.Machine.Sha
end

