-- ==== Sys2Proof/Machine/Boot.lean ====
section
/-! DEFINITION. Bring-up (R378): its steps in order, and the measurement registers that they extend (R369). -/

namespace Sys2Proof.Machine

open Sys2Proof

/-- Whether bring-up is over, so that the interface pages accept what the host writes. -/
def State.booted (s : State) : Bool := decide (5 ≤ s.boot.stage)

/-- A measurement register (R369). -/
def State.measured (s : State) (i : Nat) : BitVec 256 := Sparse.get 0 i s.measure

/-- The digest that extends a register: that of register 4 is taken of the debug state, whose last byte says whether a maker
unlock is in force. (DESIGN CHOICE, log entry 56.) -/
def State.bootDigest (s : State) (i : Nat) : BitVec 256 :=
  let d := s.boot.digests.getD (i - 1) 0
  if i = 4 then Sha.sha256 (Sha.highBytes 32 d.toNat ++ [if s.unlock then 1 else 0]) else d

/-- The registers that a step extends. -/
def bootRegisters (stage : Nat) : List Nat :=
  match stage with
  | 0 => [1, 3]
  | 1 => [2, 4]
  | 2 => (List.range 11).map (5 + ·)
  | 4 => [16]
  | _ => []

/-- Extend measurement registers. -/
def State.extend (s : State) (is_ : List Nat) : State :=
  is_.foldl (fun s i => { s with measure := Sparse.put i (Sha.extendRegister (s.measured i) (s.bootDigest i)) s.measure }) s

/-- NVMe ports of the package (Table 20.6). -/
def nvmePorts : Nat := 8

/-- One step of bring-up (R378). The lease clock network does not synchronise in diagnostic mode. -/
def State.bootStep (s : State) : State :=
  let k := s.boot.stage
  let s := { (s.extend (bootRegisters k)) with boot := { s.boot with stage := k + 1 } }
  match k with
  | 0 | 1 | 2 => s
  | 3 => { s with lsync := !s.boot.diag }
  | 4 => { s with linkUp := true, doeOpen := true, nvme := (List.range nvmePorts).filter Config.nvmeGood }
  | _ => { s with boot := { s.boot with stage := k } }

end Sys2Proof.Machine
end

