-- ==== Sys2Proof/WellFormed.lean ====
section
/-! DEFINITION. Which instructions of `Instr` stand for words of the machine: the second word is present
exactly where R48, R49 and R50 call for it, and the KIND of fence and the K of tlbi are those of the
constructor (R196, R357). -/

namespace Sys2Proof

/-- The second word is present exactly where the first word calls for one (R40). -/
def Ins.secondWordOk (n : Ins) : Bool := n.w1.isSome == Rows.twoWords n.row n.pay

/-- KIND, MOD[3:2] of fence (R196). -/
def PayA.fenceKind (p : PayA) : BitVec 2 := p.mod.extractLsb' 2 2

/-- K, MOD[1:0] of tlbi (R357). -/
def PayA.tlbiKind (p : PayA) : BitVec 2 := p.mod.extractLsb' 0 2

/-- The variants that one opcode holds are told apart by a field, which agrees with the constructor. -/
def Instr.variantOk : Instr → Bool
  | .fenceFull _ p => p.fenceKind == 0
  | .fenceAcq _ p => p.fenceKind == 1
  | .fenceRel _ p => p.fenceKind == 2
  | .tlbiPage _ p => p.tlbiKind == 0
  | .tlbiInterface _ p => p.tlbiKind == 1
  | .tlbiAll _ p => p.tlbiKind == 2
  | _ => true

/-- Well-formed: an instruction whose words exist and decode to it. A step of the device has no words and
is not an instruction word. -/
def Instr.wellFormed (i : Instr) : Bool :=
  match insOf i with
  | some n => n.secondWordOk && i.variantOk
  | none => false

end Sys2Proof
end

