-- ==== Sys2Proof/Decode.lean ====
section
/-! DEFINITION. From bytes to instructions and back (R40 to R50, R61, R62, R64). `decode` is total on any
bytes and rejects by name; `encode` gives the words of an instruction. Also the bit helpers that the
fetch uses. -/

namespace Sys2Proof

/-- Why bytes are no instruction: fewer bytes than the words need; an opcode marked "—" in Table 4.11,
with the first word (R64); KIND 3 of fence (R196); K = 3 of tlbi (R357). -/
inductive DecErr where
  | short
  | undefinedOpcode (w : BitVec 64)
  | fenceKind (c : Ctl) (p : PayA)
  | tlbiKind (c : Ctl) (p : PayA)
  deriving DecidableEq, Repr

namespace Decode

/-- The little-endian value of a list of bytes (R4). -/
def leNat : List Byte → Nat
  | [] => 0
  | b :: bs => b.toNat + 256 * leNat bs

/-- The n low bytes of a value, lowest address first (R4). -/
def leBytes : Nat → Nat → List Byte
  | 0, _ => []
  | n + 1, v => BitVec.ofNat 8 v :: leBytes n (v / 256)

/-- A 64-bit word from its 8 bytes. -/
def word (bs : List Byte) : BitVec 64 := BitVec.ofNat 64 (leNat bs)

/-- The control field of a first word (R41). -/
def ctl (w : BitVec 64) : Ctl :=
  { dist := w.extractLsb' 61 3, wait := w.extractLsb' 49 12, setf := w.extractLsb' 45 4,
    wb := w.extractLsb' 44 1, pred := w.extractLsb' 41 3, pn := w.extractLsb' 40 1 }

/-- The opcode of a first word (R45). -/
def opc (w : BitVec 64) : BitVec 8 := w.extractLsb' 32 8

/-- The payload bits [31:0] of a first word. -/
def pay (w : BitVec 64) : BitVec 32 := w.extractLsb' 0 32

def payA (b : BitVec 32) (w1 : Option (BitVec 64)) : PayA :=
  ⟨b.extractLsb' 24 8, b.extractLsb' 16 8, b.extractLsb' 8 8, b.extractLsb' 0 8, w1⟩
def payB (b : BitVec 32) (w1 : Option (BitVec 64)) : PayB :=
  ⟨b.extractLsb' 24 8, b.extractLsb' 16 8, b.extractLsb' 8 8, b.extractLsb' 0 8, w1⟩
def payI (b : BitVec 32) (w1 : Option (BitVec 64)) : PayI :=
  ⟨b.extractLsb' 24 8, b.extractLsb' 16 8, b.extractLsb' 0 16, w1⟩
def payC (b : BitVec 32) (w1 : Option (BitVec 64)) : PayC :=
  ⟨b.extractLsb' 24 8, b.extractLsb' 16 8, b.extractLsb' 12 4, b.extractLsb' 8 4, b.extractLsb' 6 2,
   b.extractLsb' 5 1, b.extractLsb' 0 5, w1⟩
def payM (b : BitVec 32) (w1 : Option (BitVec 64)) : PayM :=
  ⟨b.extractLsb' 24 8, b.extractLsb' 16 8, b.extractLsb' 12 4, b.extractLsb' 8 4, b.extractLsb' 4 4,
   b.extractLsb' 3 1, b.extractLsb' 1 2, b.extractLsb' 0 1, w1⟩
def payML (b : BitVec 32) (w1 : Option (BitVec 64)) : PayML :=
  ⟨b.extractLsb' 24 8, b.extractLsb' 16 8, b.extractLsb' 14 2, b.extractLsb' 10 4, b.extractLsb' 0 10, w1⟩
def payJ (b : BitVec 32) : PayJ := ⟨b.extractLsb' 24 8, b.extractLsb' 0 24⟩
def payEM (b : BitVec 32) (w1 : BitVec 64) : PayEM :=
  ⟨b.extractLsb' 24 8, b.extractLsb' 16 8, b.extractLsb' 12 4, b.extractLsb' 8 4, b.extractLsb' 4 4,
   b.extractLsb' 3 1, b.extractLsb' 1 2, b.extractLsb' 0 1, w1⟩
def payEML (b : BitVec 32) (w1 : BitVec 64) : PayEML :=
  ⟨b.extractLsb' 24 8, b.extractLsb' 16 8, b.extractLsb' 14 2, b.extractLsb' 10 4, b.extractLsb' 0 10, w1⟩

/-- fence by its KIND (R196). -/
def fence (c : Ctl) (p : PayA) : Except DecErr Instr :=
  if p.fenceKind = 0 then .ok (.fenceFull c p)
  else if p.fenceKind = 1 then .ok (.fenceAcq c p)
  else if p.fenceKind = 2 then .ok (.fenceRel c p)
  else .error (.fenceKind c p)

/-- tlbi by its K (R357). -/
def tlbi (c : Ctl) (p : PayA) : Except DecErr Instr :=
  if p.tlbiKind = 0 then .ok (.tlbiPage c p)
  else if p.tlbiKind = 1 then .ok (.tlbiInterface c p)
  else if p.tlbiKind = 2 then .ok (.tlbiAll c p)
  else .error (.tlbiKind c p)

/-- The instruction of an opcode, with its payload bits and, where it has one, its second word (R61,
R62, R64). -/
def instr (w : BitVec 64) (w1 : Option (BitVec 64)) : Except DecErr Instr :=
  let c := ctl w
  let b := pay w
  match (opc w).toNat with
  | 0x00 => .ok (.nop c (payA b w1))
  | 0x01 => .ok (.add c (payA b w1))
  | 0x02 => .ok (.sub c (payA b w1))
  | 0x03 => .ok (.mul c (payA b w1))
  | 0x04 => .ok (.mulhi c (payA b w1))
  | 0x05 => .ok (.mad c (payB b w1))
  | 0x06 => .ok (.min c (payA b w1))
  | 0x07 => .ok (.max c (payA b w1))
  | 0x08 => .ok (.abs c (payA b w1))
  | 0x09 => .ok (.neg c (payA b w1))
  | 0x0A => .ok (.and c (payA b w1))
  | 0x0B => .ok (.or c (payA b w1))
  | 0x0C => .ok (.xor c (payA b w1))
  | 0x0D => .ok (.not c (payA b w1))
  | 0x0E => .ok (.shl c (payA b w1))
  | 0x0F => .ok (.shr c (payA b w1))
  | 0x10 => .ok (.sar c (payA b w1))
  | 0x11 => .ok (.rot c (payA b w1))
  | 0x12 => .ok (.popc c (payA b w1))
  | 0x13 => .ok (.clz c (payA b w1))
  | 0x14 => .ok (.bfe c (payB b w1))
  | 0x15 => .ok (.bfi c (payB b w1))
  | 0x16 => .ok (.sel c (payB b w1))
  | 0x17 => .ok (.cmp c (payA b w1))
  | 0x18 => .ok (.addi c (payI b w1))
  | 0x19 => .ok (.li c (payI b w1))
  | 0x1A => .ok (.lih c (payI b w1))
  | 0x1B => .ok (.mov c (payA b w1))
  | 0x1C => .ok (.lea c (payA b w1))
  | 0x1D => .ok (.cvt c (payC b w1))
  | 0x1E => .ok (.div c (payA b w1))
  | 0x1F => .ok (.rem c (payA b w1))
  | 0x20 => .ok (.fadd c (payA b w1))
  | 0x21 => .ok (.fsub c (payA b w1))
  | 0x22 => .ok (.fmul c (payA b w1))
  | 0x23 => .ok (.fma c (payB b w1))
  | 0x24 => .ok (.fmin c (payA b w1))
  | 0x25 => .ok (.fmax c (payA b w1))
  | 0x26 => .ok (.fabs c (payA b w1))
  | 0x27 => .ok (.fneg c (payA b w1))
  | 0x28 => .ok (.fcmp c (payA b w1))
  | 0x29 => .ok (.fcvt c (payC b w1))
  | 0x2A => .ok (.fround c (payA b w1))
  | 0x2B => .ok (.fclass c (payA b w1))
  | 0x2C => .ok (.fscl c (payA b w1))
  | 0x2D => .ok (.fgetx c (payA b w1))
  | 0x2E => .ok (.rcps c (payA b w1))
  | 0x2F => .ok (.rsqs c (payA b w1))
  | 0x30 => .ok (.exs c (payA b w1))
  | 0x31 => .ok (.lgs c (payA b w1))
  | 0x32 => .ok (.sns c (payA b w1))
  | 0x33 => .ok (.css c (payA b w1))
  | 0x34 => .ok (.fdiv c (payA b w1))
  | 0x35 => .ok (.fsqrt c (payA b w1))
  | 0x40 => .ok (.dot2 c (payB b w1))
  | 0x41 => .ok (.dot4 c (payB b w1))
  | 0x42 => .ok (.pk2 c (payA b w1))
  | 0x43 => .ok (.upk2 c (payA b w1))
  | 0x44 => .ok (.pk4 c (payA b w1))
  | 0x45 => .ok (.upk4 c (payA b w1))
  | 0x46 => .ok (.hadd2 c (payA b w1))
  | 0x47 => .ok (.hmul2 c (payA b w1))
  | 0x48 => .ok (.hfma2 c (payB b w1))
  | 0x50 => .ok (.shfl c (payA b w1))
  | 0x51 => .ok (.vote c (payA b w1))
  | 0x52 => .ok (.match_ c (payA b w1))
  | 0x53 => .ok (.cmpct c (payA b w1))
  | 0x54 => .ok (.scan c (payA b w1))
  | 0x55 => .ok (.red c (payA b w1))
  | 0x56 => .ok (.segred c (payA b w1))
  | 0x57 => .ok (.srt c (payA b w1))
  | 0x58 => .ok (.topk c (payA b w1))
  | 0x59 => .ok (.kmerge c (payA b w1))
  | 0x5A => .ok (.rgput c (payA b w1))
  | 0x5B => .ok (.rgget c (payA b w1))
  | 0x5C => .ok (.lperm c (payA b w1))
  | 0x5D => .ok (.bcast c (payA b w1))
  | 0x5E => .ok (.ffs c (payA b w1))
  | 0x60 => .ok (.br c (payJ b))
  | 0x61 => .ok (.brc c (payJ b))
  | 0x62 => .ok (.brl c (payJ b))
  | 0x63 => .ok (.brx c (payA b w1))
  | 0x64 => .ok (.call c (payJ b))
  | 0x65 => .ok (.ret c (payA b w1))
  | 0x66 => .ok (.exit c (payA b w1))
  | 0x67 => .ok (.yield c (payA b w1))
  | 0x68 => .ok (.halt c (payA b w1))
  | 0x69 => .ok (.trap c (payA b w1))
  | 0x6A => .ok (.tret c (payA b w1))
  | 0x6B => .ok (.brk c (payA b w1))
  | 0x70 => .ok (.bar c (payA b w1))
  | 0x71 => .ok (.barv c (payA b w1))
  | 0x72 => .ok (.barw c (payA b w1))
  | 0x73 => fence c (payA b w1)
  | 0x74 => .ok (.twany c (payA b w1))
  | 0x75 => .ok (.twall c (payA b w1))
  | 0x76 => .ok (.tffs c (payA b w1))
  | 0x77 => .ok (.tclr c (payA b w1))
  | 0x78 => .ok (.racq c (payA b w1))
  | 0x79 => .ok (.rrel c (payA b w1))
  | 0x7A => .ok (.tgrow c (payA b w1))
  | 0x7B => .ok (.tshrink c (payA b w1))
  | 0x7C => .ok (.tag c (payA b w1))
  | 0x7D => .ok (.tagset c (payA b w1))
  | 0x80 => .ok (.ld c (payM b w1))
  | 0x81 => .ok (.st c (payM b w1))
  | 0x82 => .ok (.lds c (payML b w1))
  | 0x83 => .ok (.sts c (payML b w1))
  | 0x84 => .ok (.pf c (payM b w1))
  | 0x85 => .ok (.atom c (payEM b (w1.getD 0)))
  | 0x86 => .ok (.cas c (payEM b (w1.getD 0)))
  | 0x87 => .ok (.atoms c (payEML b (w1.getD 0)))
  | 0x88 => .ok (.hld c (payA b w1))
  | 0x89 => .ok (.hst c (payA b w1))
  | 0x8A => .ok (.hmk c (payA b w1))
  | 0x8B => .ok (.hget c (payA b w1))
  | 0xA0 => .ok (.vopen c (payA b w1))
  | 0xA1 => .ok (.vnar c (payA b w1))
  | 0xA2 => .ok (.vsplit c (payA b w1))
  | 0xA3 => .ok (.vclose c (payA b w1))
  | 0xA4 => .ok (.vinfo c (payA b w1))
  | 0xA5 => .ok (.hpub c (payA b w1))
  | 0xB0 => .ok (.cpy c (payA b w1))
  | 0xB1 => .ok (.cpy2 c (payA b w1))
  | 0xB2 => .ok (.gth c (payA b w1))
  | 0xB3 => .ok (.sct c (payA b w1))
  | 0xB4 => .ok (.coll c (payA b w1))
  | 0xB5 => .ok (.fill c (payA b w1))
  | 0xB6 => .ok (.fbset c (payA b w1))
  | 0xB7 => .ok (.fbclr c (payA b w1))
  | 0xB8 => .ok (.sfpre c (payA b w1))
  | 0xC0 => .ok (.mma c (payA b w1))
  | 0xC1 => .ok (.mmz c (payA b w1))
  | 0xC2 => .ok (.mst c (payA b w1))
  | 0xC3 => .ok (.mld c (payA b w1))
  | 0xC4 => .ok (.mscl c (payA b w1))
  | 0xC5 => .ok (.mfeed c (payA b w1))
  | 0xC6 => .ok (.mdrain c (payA b w1))
  | 0xD0 => .ok (.tap c (payA b w1))
  | 0xD1 => .ok (.rowsel c (payA b w1))
  | 0xD2 => .ok (.rset c (payA b w1))
  | 0xD3 => .ok (.tapget c (payA b w1))
  | 0xD4 => .ok (.wret c (payA b w1))
  | 0xD5 => .ok (.wrd c (payA b w1))
  | 0xD6 => .ok (.tlaunch c (payA b w1))
  | 0xD7 => .ok (.qpush c (payA b w1))
  | 0xD8 => .ok (.qclose c (payA b w1))
  | 0xE0 => .ok (.srd c (payA b w1))
  | 0xE1 => .ok (.swr c (payA b w1))
  | 0xE2 => .ok (.segset c (payA b w1))
  | 0xE3 => .ok (.fpadd c (payA b w1))
  | 0xE4 => .ok (.pgev c (payA b w1))
  | 0xE5 => tlbi c (payA b w1)
  | 0xE6 => .ok (.dbgset c (payA b w1))
  | 0xE7 => .ok (.mrst c (payA b w1))
  | _ => .error (.undefinedOpcode w)

/-- Whether a first word calls for a second one (R40). -/
def needsSecond (w : BitVec 64) : Bool :=
  match Rows.ofOpc (opc w) with
  | some r => Rows.twoWords r (pay w)
  | none => false

/-- The instruction of a first word and the word that follows it; the second is used only where the
first calls for it. -/
def words (w w1 : BitVec 64) : Except DecErr Instr :=
  instr w (if needsSecond w then some w1 else none)

end Decode

/-- Decode the first instruction of a list of bytes (R40): the instruction and the bytes after it. -/
def decode (bs : List Byte) : Except DecErr (Instr × List Byte) :=
  if bs.length < 8 then .error .short
  else
    let w := Decode.word (bs.take 8)
    if Decode.needsSecond w then
      if bs.length < 16 then .error .short
      else (Decode.instr w (some (Decode.word ((bs.drop 8).take 8)))).map (·, bs.drop 16)
    else (Decode.instr w none).map (·, bs.drop 8)

/-- The words of an instruction (R40, R41, R45). -/
def encode (i : Instr) : List (BitVec 64) :=
  match insOf i with
  | some n => n.words
  | none => []

/-- The bytes of an instruction, as memory holds them (R40). -/
def encodeBytes (i : Instr) : List Byte := (encode i).flatMap fun w => Decode.leBytes 8 w.toNat

/-- The instruction the decoder reads from an instruction whose bits are `w`, bit 0 being the least
significant bit of the first 64-bit word and bit 64 that of the second; bits above `nbits` are zero. -/
def decodeTableWord (nbits w : Nat) : Option Instr :=
  match decode (Decode.leBytes 16 (w % 2 ^ nbits)) with
  | .ok (i, _) => some i
  | .error _ => none

end Sys2Proof
end

