-- ==== Sys2Proof/Machine/Float.lean ====
section
/-! DEFINITION. The binary floating-point formats and their exact arithmetic (R67 to R72): values are
decoded to a sign, a magnitude and a power of two, combined exactly, and rounded once. -/

namespace Sys2Proof.Machine.Fp

/-- A binary format of Table 5.1: exponent and fraction bits, and whether it is e4m3, which has no
infinity and one NaN code, or e5m2; these two have no signalling NaN. -/
structure Fmt where
  eb   : Nat
  fb   : Nat
  e4m3 : Bool
  quiet : Bool
  deriving DecidableEq, Repr

def f32 : Fmt := ⟨8, 23, false, false⟩
def f64 : Fmt := ⟨11, 52, false, false⟩
def f16 : Fmt := ⟨5, 10, false, false⟩
def bf16 : Fmt := ⟨8, 7, false, false⟩
def e4m3 : Fmt := ⟨4, 3, true, true⟩
def e5m2 : Fmt := ⟨5, 2, false, true⟩

/-- The format of a type code (Table 4.6); f32 for every code that is no float type. -/
def ofTy (t : Nat) : Fmt :=
  match t with
  | 5 => f64 | 6 => f16 | 7 => bf16 | 8 => e4m3 | 9 => e5m2 | _ => f32

/-- Whether a type code is a binary float type. -/
def isFloat (t : Nat) : Bool := t == 4 || t == 5 || t == 6 || t == 7 || t == 8 || t == 9

def Fmt.width (f : Fmt) : Nat := 1 + f.eb + f.fb
def Fmt.bias (f : Fmt) : Int := (2 ^ (f.eb - 1) : Nat) - 1
/-- The exponent of the smallest normal value. -/
def Fmt.emin (f : Fmt) : Int := 1 - f.bias
/-- The exponent of the largest finite value. -/
def Fmt.emax (f : Fmt) : Int := if f.e4m3 then f.bias + 1 else f.bias

/-- A decoded value (R67): a NaN, signalling or not, with its bits discarded; an infinity; or
(−1)^s × m × 2^e, where m = 0 is a zero. -/
inductive Val where
  | nan (signalling : Bool)
  | inf (s : Bool)
  | num (s : Bool) (m : Nat) (e : Int)
  deriving DecidableEq, Repr

/-- Decode the low bits of a register (R67, R68). -/
def decode (f : Fmt) (x : BitVec 64) : Val :=
  let n := x.toNat % 2 ^ f.width
  let s := bitAt n (f.width - 1)
  let e := bitsOf n f.fb f.eb
  let fr := n % 2 ^ f.fb
  if f.e4m3 then
    if e = 15 ∧ fr = 7 then .nan false
    else if e = 0 then .num s fr (f.emin - f.fb)
    else .num s (2 ^ f.fb + fr) ((e : Int) - f.bias - f.fb)
  else if e = 2 ^ f.eb - 1 then
    if fr = 0 then .inf s else .nan (!f.quiet && !bitAt fr (f.fb - 1))
  else if e = 0 then .num s fr (f.emin - f.fb)
  else .num s (2 ^ f.fb + fr) ((e : Int) - f.bias - f.fb)

/-! ### Flags, in the places of fsr[4:0] (R73) -/

def NV : BitVec 5 := 1
def DZ : BitVec 5 := 2
def OF : BitVec 5 := 4
def UF : BitVec 5 := 8
def NX : BitVec 5 := 16

/-- The canonical NaN of a format (R70, Table 5.1). -/
def Fmt.nan (f : Fmt) : Nat :=
  if f.e4m3 then 0x7F else (2 ^ f.eb - 1) * 2 ^ f.fb + 2 ^ (f.fb - 1)
/-- An infinity; e4m3 has none and never packs one. -/
def Fmt.inf (f : Fmt) (s : Bool) : Nat := (if s then 2 ^ (f.eb + f.fb) else 0) + (2 ^ f.eb - 1) * 2 ^ f.fb
/-- The largest finite value. -/
def Fmt.maxFin (f : Fmt) (s : Bool) : Nat :=
  (if s then 2 ^ (f.eb + f.fb) else 0) + (if f.e4m3 then 0x7E else (2 ^ f.eb - 1) * 2 ^ f.fb - 1)
/-- A signed zero. -/
def Fmt.zero (f : Fmt) (s : Bool) : Nat := if s then 2 ^ (f.eb + f.fb) else 0

/-! ### Rounding (R69, Table 4.7) -/

/-- Whether a magnitude between k and k + 1 units rounds up, from twice its excess compared with one
unit: `odd` says whether k is odd. -/
def roundsUp (rm : Nat) (s odd : Bool) (half : Ordering) (exact : Bool) : Bool :=
  if exact then false
  else match rm with
    | 1 => false
    | 2 => s
    | 3 => !s
    | _ => match half with
      | .gt => true
      | .lt => false
      | .eq => odd

/-- Round m × 2^e (plus a positive excess below one unit of m where `sticky`) to a multiple of 2^q: the
multiple, and whether it is exact. -/
def roundAt (rm : Nat) (s : Bool) (m : Nat) (e : Int) (sticky : Bool) (q : Int) : Nat × Bool :=
  if q ≤ e then (m * 2 ^ (e - q).toNat, !sticky)
  else
    let sh := (q - e).toNat
    let k := m / 2 ^ sh
    let r := m % 2 ^ sh
    let exact := r == 0 && !sticky
    let half : Ordering :=
      if 2 * r < 2 ^ sh then .lt else if 2 * r = 2 ^ sh then (if sticky then .gt else .eq) else .gt
    (if roundsUp rm s (k % 2 == 1) half exact then k + 1 else k, exact)

/-- The floor of the base-2 logarithm of m × 2^e, for m ≠ 0. -/
def expOf (m : Nat) (e : Int) : Int := (Nat.log2 m : Int) + e

/-- What a finite nonzero exact value rounds to: bits and flags (R69). SAT is that of a conversion into an
8-bit float (R71, Table 5.3). -/
def roundNum (f : Fmt) (rm : Nat) (sat : Bool) (s : Bool) (m : Nat) (e : Int) (sticky : Bool) :
    BitVec 64 × BitVec 5 :=
  let E := expOf m e
  let q := (if E < f.emin then f.emin else E) - f.fb
  let (k, exact) := roundAt rm s m e sticky q
  let (k', _) := roundAt rm s m e sticky (E - f.fb)
  let tiny := decide (expOf k' (E - f.fb) < f.emin)
  let nx : BitVec 5 := if exact then 0 else NX
  if k = 0 then (BitVec.ofNat 64 (f.zero s), nx ||| (if exact then 0 else UF))
  else
    let R := expOf k q
    let beyond := decide (f.emax < R) || (f.e4m3 && decide (R = f.emax) && decide (k = 15))
    if beyond then
      if f.quiet && sat then (BitVec.ofNat 64 (f.maxFin s), OF ||| NX)
      else if f.e4m3 then (0x7F, OF ||| NX)
      else
        let toMax := rm = 1 ∨ (rm = 2 ∧ s = false) ∨ (rm = 3 ∧ s = true)
        (BitVec.ofNat 64 (if toMax then f.maxFin s else f.inf s), OF ||| NX)
    else
      let uf : BitVec 5 := if tiny && !exact then UF else 0
      let body :=
        if R < f.emin then k
        else (R - f.emin + 1).toNat * 2 ^ f.fb + (k / 2 ^ (R - f.fb - q).toNat - 2 ^ f.fb)
      (BitVec.ofNat 64 (f.zero s + body), nx ||| uf)

/-- An exact result before rounding: invalid (NaN), an infinity, a zero, or a nonzero value with an excess
below one unit where `sticky`. -/
inductive Exact where
  | nan
  | inf (s : Bool)
  | zero (s : Bool)
  | num (s : Bool) (m : Nat) (e : Int) (sticky : Bool)
  deriving DecidableEq, Repr

/-- Pack an exact result into a format (R69, R70). -/
def pack (f : Fmt) (rm : Nat) (x : Exact) : BitVec 64 × BitVec 5 :=
  match x with
  | .nan => (BitVec.ofNat 64 f.nan, 0)
  | .inf s => (BitVec.ofNat 64 (f.inf s), 0)
  | .zero s => (BitVec.ofNat 64 (f.zero s), 0)
  | .num s m e st => roundNum f rm false s m e st

/-- An exact integer multiple of 2^e as an exact result; zero takes the sign `zs`. -/
def ofInt (x : Int) (e : Int) (zs : Bool) : Exact :=
  if x = 0 then .zero zs else .num (decide (x < 0)) x.natAbs e false

/-- The signed magnitude of a finite value at exponent `q ≤ e`. -/
def scaled (s : Bool) (m : Nat) (e q : Int) : Int :=
  let n : Int := (m * 2 ^ (e - q).toNat : Nat)
  if s then -n else n

/-- Whether any of the values is a signalling NaN: NV (R70). -/
def sigNV (vs : List Val) : BitVec 5 := if vs.any (fun v => v == .nan true) then NV else 0

/-- The sign of an exact zero sum (R119): −0 where both addends are −0, else −0 under RDN and +0
otherwise; two zeros of one sign keep it. -/
def zeroSign (rm : Nat) (sa sb : Bool) : Bool := if sa == sb then sa else rm == 2

/-- Exact a + b. -/
def addX (rm : Nat) : Val → Val → Exact × BitVec 5
  | .nan _, _ => (.nan, 0)
  | _, .nan _ => (.nan, 0)
  | .inf s, .inf t => if s == t then (.inf s, 0) else (.nan, NV)
  | .inf s, .num .. => (.inf s, 0)
  | .num .., .inf t => (.inf t, 0)
  | .num s m e, .num t n d =>
    let q := min e d
    let x := scaled s m e q + scaled t n d q
    if x = 0 then
      (.zero (if m = 0 ∧ n = 0 then zeroSign rm s t else rm == 2), 0)
    else (ofInt x q false, 0)

/-- Exact a × b. -/
def mulX : Val → Val → Exact × BitVec 5
  | .nan _, _ => (.nan, 0)
  | _, .nan _ => (.nan, 0)
  | .inf s, .inf t => (.inf (s != t), 0)
  | .inf s, .num t n _ => if n = 0 then (.nan, NV) else (.inf (s != t), 0)
  | .num s m _, .inf t => if m = 0 then (.nan, NV) else (.inf (s != t), 0)
  | .num s m e, .num t n d =>
    if m * n = 0 then (.zero (s != t), 0) else (.num (s != t) (m * n) (e + d) false, 0)

/-- An exact result, as far as it is exact, seen again as a value. -/
def Exact.val : Exact → Val
  | .nan => .nan false
  | .inf s => .inf s
  | .zero s => .num s 0 0
  | .num s m e _ => .num s m e

/-- Exact a × b + c (R120): a product of ∞ and zero is invalid even where c is a NaN. -/
def fmaX (rm : Nat) (a b c : Val) : Exact × BitVec 5 :=
  let (p, fl) := mulX a b
  let (r, fl') := addX rm p.val c
  (r, fl ||| fl')

/-- The quotient of two finite values with enough bits to round once, for nonzero operands. -/
def quotient (f : Fmt) (m n : Nat) (e d : Int) (s : Bool) : Exact :=
  let k := f.fb + 4 + Nat.log2 n
  .num s (m * 2 ^ k / n) (e - d - k) (m * 2 ^ k % n != 0)

/-- a / b (R121). -/
def divX (f : Fmt) : Val → Val → Exact × BitVec 5
  | .nan _, _ => (.nan, 0)
  | _, .nan _ => (.nan, 0)
  | .inf _, .inf _ => (.nan, NV)
  | .inf s, .num t _ _ => (.inf (s != t), 0)
  | .num s _ _, .inf t => (.zero (s != t), 0)
  | .num s m e, .num t n d =>
    if n = 0 then (if m = 0 then (.nan, NV) else (.inf (s != t), DZ))
    else if m = 0 then (.zero (s != t), 0)
    else (quotient f m n e d (s != t), 0)

/-- Integer square root, one bit of the result a step from bit `b` down. -/
def isqrtFrom (n : Nat) : Nat → Nat → Nat
  | 0, r => r
  | b + 1, r => isqrtFrom n b (if (r + 2 ^ b) * (r + 2 ^ b) ≤ n then r + 2 ^ b else r)

/-- The floor of the square root. -/
def isqrt (n : Nat) : Nat := isqrtFrom n (Nat.log2 n / 2 + 1) 0

/-- The square root of a value (R121). -/
def sqrtX (f : Fmt) : Val → Exact × BitVec 5
  | .nan _ => (.nan, 0)
  | .inf s => if s then (.nan, NV) else (.inf false, 0)
  | .num s m e =>
    if m = 0 then (.zero s, 0)
    else if s then (.nan, NV)
    else
      let k := 2 * (f.fb + 4) + (if e % 2 = 0 then 0 else 1)
      let n := m * 2 ^ k
      let r := isqrt n
      (.num false r ((e - k) / 2) (r * r != n), 0)

/-- Compare two values that are not NaN; zeros are equal. -/
def cmpV : Val → Val → Ordering
  | .inf s, .inf t => if s == t then .eq else if s then .lt else .gt
  | .inf s, _ => if s then .lt else .gt
  | _, .inf t => if t then .gt else .lt
  | .num s m e, .num t n d =>
    let q := min e d
    compare (scaled s m e q) (scaled t n d q)
  | .nan _, _ => .eq
  | _, .nan _ => .eq

/-- Whether a value is a NaN. -/
def Val.isNan : Val → Bool
  | .nan _ => true
  | _ => false

/-- The sign of a value that is not a NaN. -/
def Val.sign : Val → Bool
  | .inf s => s
  | .num s _ _ => s
  | .nan _ => false

/-! ### The operations of the instructions, on register bits -/

/-- fadd (R119). -/
def add (f : Fmt) (rm : Nat) (a b : BitVec 64) : BitVec 64 × BitVec 5 :=
  let (x, fl) := addX rm (decode f a) (decode f b)
  let (r, fl') := pack f rm x
  (r, fl ||| fl' ||| sigNV [decode f a, decode f b])

/-- The sign bit of a format inverted (R119, fneg). -/
def neg (f : Fmt) (a : BitVec 64) : BitVec 64 := (a ^^^ (1 <<< (f.width - 1))) &&& (BitVec.ofNat 64 (2 ^ f.width - 1))
/-- The sign bit of a format cleared (R119, fabs). -/
def abs (f : Fmt) (a : BitVec 64) : BitVec 64 := a &&& BitVec.ofNat 64 (2 ^ (f.width - 1) - 1)

/-- fsub (R119). -/
def sub (f : Fmt) (rm : Nat) (a b : BitVec 64) : BitVec 64 × BitVec 5 :=
  let vb := match decode f b with
    | .nan q => Val.nan q | .inf s => .inf (!s) | .num s m e => .num (!s) m e
  let (x, fl) := addX rm (decode f a) vb
  let (r, fl') := pack f rm x
  (r, fl ||| fl' ||| sigNV [decode f a, decode f b])

/-- fmul (R119). -/
def mul (f : Fmt) (rm : Nat) (a b : BitVec 64) : BitVec 64 × BitVec 5 :=
  let (x, fl) := mulX (decode f a) (decode f b)
  let (r, fl') := pack f rm x
  (r, fl ||| fl' ||| sigNV [decode f a, decode f b])

/-- fma (R120). -/
def fma (f : Fmt) (rm : Nat) (a b c : BitVec 64) : BitVec 64 × BitVec 5 :=
  let (x, fl) := fmaX rm (decode f a) (decode f b) (decode f c)
  let (r, fl') := pack f rm x
  (r, fl ||| fl' ||| sigNV [decode f a, decode f b, decode f c])

/-- fdiv (R121). -/
def div (f : Fmt) (rm : Nat) (a b : BitVec 64) : BitVec 64 × BitVec 5 :=
  let (x, fl) := divX f (decode f a) (decode f b)
  let (r, fl') := pack f rm x
  (r, fl ||| fl' ||| sigNV [decode f a, decode f b])

/-- fsqrt (R121). -/
def sqrt (f : Fmt) (rm : Nat) (a : BitVec 64) : BitVec 64 × BitVec 5 :=
  let (x, fl) := sqrtX f (decode f a)
  let (r, fl') := pack f rm x
  (r, fl ||| fl' ||| sigNV [decode f a])

/-- minimumNumber and maximumNumber of IEEE 754-2019 (R119): −0 counts as less than +0. -/
def minMax (f : Fmt) (max : Bool) (a b : BitVec 64) : BitVec 64 × BitVec 5 :=
  let va := decode f a
  let vb := decode f b
  let low (x : BitVec 64) := BitVec.ofNat 64 (x.toNat % 2 ^ f.width)
  let r :=
    if va.isNan && vb.isNan then BitVec.ofNat 64 f.nan
    else if va.isNan then low b
    else if vb.isNan then low a
    else
      let less := match cmpV va vb with
        | .lt => true
        | .gt => false
        | .eq => va.sign && !vb.sign
      if less != max then low a else low b
  (r, sigNV [va, vb])

/-- fcmp (R122, Table 7.2): outcome and flags. -/
def compare (f : Fmt) (c : Nat) (a b : BitVec 64) : Bool × BitVec 5 :=
  let va := decode f a
  let vb := decode f b
  let un := va.isNan || vb.isNan
  let o := cmpV va vb
  let quietFl := sigNV [va, vb]
  let anyFl : BitVec 5 := if un then NV else 0
  match c with
  | 0 => (!un && o == .eq, quietFl)
  | 1 => (un || o != .eq, quietFl)
  | 2 => (!un && o == .lt, anyFl)
  | 3 => (!un && o != .gt, anyFl)
  | 4 => (!un && o == .gt, anyFl)
  | 5 => (!un && o != .lt, anyFl)
  | 6 => (un, quietFl)
  | _ => (!un, quietFl)

/-- fround (R123). -/
def roundInt (f : Fmt) (rm : Nat) (exactForm : Bool) (a : BitVec 64) : BitVec 64 × BitVec 5 :=
  match decode f a with
  | .nan q => (BitVec.ofNat 64 f.nan, if q then NV else 0)
  | .inf s => (BitVec.ofNat 64 (f.inf s), 0)
  | .num s m e =>
    if m = 0 then (BitVec.ofNat 64 (f.zero s), 0)
    else
      let (k, ex) := roundAt rm s m e false 0
      let k' := if 0 ≤ e then m * 2 ^ e.toNat else k
      let ex' := decide (0 ≤ e) || ex
      let r := if k' = 0 then BitVec.ofNat 64 (f.zero s) else (roundNum f rm false s k' 0 false).1
      (r, if exactForm && !ex' then NX else 0)

/-- fclass (R124, Table 7.3). -/
def classify (f : Fmt) (a : BitVec 64) : BitVec 64 :=
  match decode f a with
  | .nan q => if q then 0x100 else 0x200
  | .inf s => if s then 0x1 else 0x80
  | .num s m e =>
    if m = 0 then (if s then 0x8 else 0x10)
    else if expOf m e < f.emin then (if s then 0x4 else 0x20)
    else (if s then 0x2 else 0x40)

/-- fscl (R125). -/
def scale (f : Fmt) (rm : Nat) (a : BitVec 64) (n : Int) : BitVec 64 × BitVec 5 :=
  match decode f a with
  | .nan q => (BitVec.ofNat 64 f.nan, if q then NV else 0)
  | .inf s => (BitVec.ofNat 64 (f.inf s), 0)
  | .num s m e => if m = 0 then (BitVec.ofNat 64 (f.zero s), 0) else roundNum f rm false s m (e + clampInt (-5000) 5000 n) false

/-- fgetx (R126). -/
def getExp (f : Fmt) (a : BitVec 64) : BitVec 64 × BitVec 5 :=
  match decode f a with
  | .nan q => (0x80000001, if q then NV else 0)
  | .inf _ => (0x7FFFFFFF, 0)
  | .num _ m e => if m = 0 then (0x80000000, 0) else ((BitVec.ofInt 32 (expOf m e)).setWidth 64, 0)

/-! ### Conversions -/

/-- Whether format g holds every value of f, so that a conversion f → g is exact (Table 7.4). -/
def holds (src dst : Nat) : Bool :=
  src == dst || dst == 5 || ((src == 6 || src == 7) && dst == 4)
    || ((src == 8 || src == 9) && (dst == 6 || dst == 7 || dst == 4))

/-- Float to float (R69 to R71). -/
def convert (g h : Fmt) (rm : Nat) (sat : Bool) (a : BitVec 64) : BitVec 64 × BitVec 5 :=
  match decode g a with
  | .nan q => (BitVec.ofNat 64 h.nan, if q then NV else 0)
  | .inf s =>
    if h.quiet && sat then (BitVec.ofNat 64 (h.maxFin s), 0)
    else if h.e4m3 then (0x7F, NV)
    else (BitVec.ofNat 64 (h.inf s), 0)
  | .num s m e => if m = 0 then (BitVec.ofNat 64 (h.zero s), 0) else roundNum h rm sat s m e false

/-- Float to integer (R72): a NaN gives 0, a value out of range the nearest bound, both with NV. -/
def toInt (g : Fmt) (rm : Nat) (signed : Bool) (w : Nat) (a : BitVec 64) : Int × BitVec 5 :=
  match decode g a with
  | .nan _ => (0, NV)
  | .inf s => (if s then minOf signed w else maxOf signed w, NV)
  | .num s m e =>
    let (k, ex) := if 0 ≤ e then (m * 2 ^ e.toNat, true) else roundAt rm s m e false 0
    let x : Int := if s then -(k : Int) else k
    if x < minOf signed w then (minOf signed w, NV)
    else if maxOf signed w < x then (maxOf signed w, NV)
    else (x, if ex then 0 else NX)

/-- Integer to float. -/
def fromInt (h : Fmt) (rm : Nat) (sat : Bool) (x : Int) : BitVec 64 × BitVec 5 :=
  if x = 0 then (BitVec.ofNat 64 (h.zero false), 0) else roundNum h rm sat (decide (x < 0)) x.natAbs 0 false

/-! ### Sums (R85, R87, R88) -/

/-- A running exact sum: a multiple of 2^e, whether anything invalid or a NaN has entered, the infinities
that have entered, and whether every addend so far was −0, or was +0. -/
structure Sum where
  x    : Int
  e    : Int
  nan  : Bool
  nv   : Bool
  pinf : Bool
  ninf : Bool
  allNegZero : Bool
  allPosZero : Bool
  deriving DecidableEq, Repr

/-- The empty sum. -/
def Sum.empty : Sum := ⟨0, 0, false, false, false, false, true, true⟩

/-- Add an exact addend. -/
def Sum.add (t : Sum) (v : Exact) (nv : Bool) : Sum :=
  let z (b : Bool) : Bool := match v with | .zero s => s == b | _ => false
  let t := { t with nv := t.nv || nv, allNegZero := t.allNegZero && z true, allPosZero := t.allPosZero && z false }
  match v with
  | .nan => { t with nan := true }
  | .inf s => if s then { t with ninf := true } else { t with pinf := true }
  | .zero _ => t
  | .num s m e _ =>
    let none0 : Bool := decide (t.x = (0 : Int))
    let q : Int := if none0 then e else min t.e e
    let x0 : Int := if none0 then 0 else t.x * (2 ^ (t.e - q).toNat : Nat)
    { t with x := x0 + scaled s m e q, e := q }

/-- The exact value of a sum; an exact zero keeps the sign that all its addends are zeros of, and is
otherwise −0 under RDN and +0 in the other modes. `any` says whether any addend was given. Infinities of both signs raise NV
beside a quiet NaN too. (DEDUCED, log entry 17.) -/
def Sum.exact (rm : Nat) (t : Sum) (any : Bool) : Exact × BitVec 5 :=
  if t.pinf && t.ninf then (.nan, NV)
  else if t.nan || t.nv then (.nan, if t.nv then NV else 0)
  else if t.pinf then (.inf false, 0)
  else if t.ninf then (.inf true, 0)
  else if t.x = 0 then (.zero (if any && t.allNegZero then true else if t.allPosZero then false else rm == 2), 0)
  else (ofInt t.x t.e false, 0)

end Sys2Proof.Machine.Fp
end

