-- ==== Sys2Proof/Machine/Order.lean ====
section
/-! DEFINITION. Observers and scopes (R326), the strength of an access (R155, R330), and what a thread has met: which
stores come before its accesses by the orders of Table 25.1, so that no cached copy older than they may serve it (R327,
R331, R332, R392). -/

namespace Sys2Proof.Machine

open Sys2Proof

/-! ### Observers and scopes (R326) -/

/-- An observer: an agent, a copy or tap engine of a die, the matrix engine of a quad, an SQE or a launch walker. -/
inductive Observer where
  | agent (a : Agent)
  | die (d : Nat)
  | matrix (q : Nat)
  | package
  deriving DecidableEq, Repr

/-- Whether an agent's instance of scope `k` contains an observer (Table 21.5). -/
def State.contains (s : State) (k : Nat) (a : Agent) (o : Observer) : Bool :=
  decide (6 ≤ k) || o == .agent a ||
  match o with
  | .agent b =>
    match a, b with
    | .grp t _, .grp u _ =>
      (k == 2 && t == u) || (k == 3 && s.coreNo a == s.coreNo b) || (k == 4 && s.quadOf a == s.quadOf b) || (k == 5 && s.dieOf a == s.dieOf b)
    | _, _ => (k == 4 && s.quadOf a == s.quadOf b) || (k == 5 && s.dieOf a == s.dieOf b)
  | .die d => k == 5 && s.dieOf a == d
  | .matrix q => (k == 4 && s.quadOf a == q) || (k == 5 && s.dieOf a == q / Config.quadsPerDie)
  | .package => false

/-- One more than the scope within which an operation is strong: 0 for a weak one, or one whose scope is too narrow for peer
or host memory (R330). -/
def VOp.strength (o : VOp) : Nat :=
  let mem := o.kind.elems.filter (·.sp = .mem)
  if !o.strong || (decide (o.scope < 7) && mem.any fun e => decide (2 ^ 49 ≤ e.a))
      || (decide (o.scope < 8) && mem.any fun e => decide (2 ^ 46 ≤ e.a) && decide (e.a < 2 ^ 47)) then 0
  else o.scope + 1

/-- The scope within which an operation is strong: none (0) for a weak one. -/
def VOp.strongIn (o : VOp) : Nat := o.strength - 1

/-! ### Old copies -/

/-- Where an agent keeps the value of a pair's selector that it has met, beside the memory that it has met (R327). -/
def selectorPlace (pair : Nat) : Nat := 2 ^ 60 + pair

/-- Whether n bytes at `a` share a byte with m bytes at `b`. -/
def overlap (a n b m : Nat) : Bool := decide (a < b + m) && decide (b < a + n)

/-- Whether a line of bytes kept since a stamp is older, in some of n bytes at `a`, than what stands there now. -/
def State.differs (s : State) (a n at_ : Nat) (line : Nat) (kept : Nat) (v : List Byte) : Bool :=
  decide (kept < at_) && overlap a n (128 * line) 128 &&
    (List.range n).any fun i => decide ((a + i) / 128 = line) && v.getD ((a + i) % 128) 0 != Sparse.get 0 (a + i) s.mem

/-- Whether some cached copy is older than a stamp in n bytes at `a`: while none is, no load can return an older value. A
selector stands in no line and counts until R331's limit has passed. -/
def State.hasOlder (s : State) (c : Carry) : Bool :=
  c.sp == .mem && decide (s.clk < c.clk + Config.copyLife) &&
    (decide (2 ^ 60 ≤ c.a)
      || s.cores.any (fun k => k.2.copies.any fun x => s.differs c.a c.n c.at_ x.line x.at_ x.v)
      || s.quads.any fun q => q.2.fib.any fun x => s.differs c.a c.n c.at_ x.line x.at_ x.v)

/-! ### Meeting, releasing and acquiring -/

/-- What fences that the thread has passed say of a value met by an access that was then in flight (R196). -/
def Know.fencedBy (fences : List (Nat × Nat × Nat)) (e : Know) : Know :=
  fences.foldl (fun e f =>
    if e.seq < f.1 ∧ (f.2.1 ≠ 1 ∨ e.load) then { e with rel := max e.rel (f.2.2 + 1), via := e.via && f.2.1 == 2 } else e) e

/-- A thread meets values; what no copy is older than is not kept. -/
def State.note (s : State) (a : Agent) (ks : List Know) : State :=
  let ks := ks.filter fun e => s.hasOlder e.c
  if ks.isEmpty then s
  else s.mapThr a fun th =>
    { th with seen := (th.seen.filter fun e => decide (s.clk < e.c.clk + Config.copyLife)) ++ ks.map (Know.fencedBy th.fences) }

/-- A fence of a kind (0 full, 1 acquire, 2 release) at a scope has been passed: accesses before it come before later stores
for the observers within the scope, and what the values of earlier loads have made known holds for later loads (R196, R332). -/
def Thr.passFence (kind scope : Nat) (th : Thr) : Thr :=
  { th with
    seen := th.seen.map fun e =>
      if kind = 1 ∧ !e.load then e
      else { e with rel := max e.rel (scope + 1), via := e.via && kind == 2 }
    owed := th.owed.map fun x => (x.1 || kind != 2, x.2) }

/-- An acquire at a scope (R196). (DEDUCED, log entry 13.) -/
def State.acquire (s : State) (a : Agent) (scope : Nat) : State := s.mapThr a (Thr.passFence 1 scope)

/-- What a release at a scope passes on: everything that the thread has met (R332). -/
def Thr.released (scope : Nat) (th : Thr) : List Carry := th.seen.map fun e => { e.c with k := min e.c.k scope }

/-- What a thread has released by the fences that it has passed. -/
def Thr.fencedOff (th : Thr) : List Carry :=
  (th.seen.filter fun e => decide (0 < e.rel)).map fun e => { e.c with k := min e.c.k (e.rel - 1) }

/-- A value met by an access of the thread. -/
def VOp.met (o : VOp) (s : State) (e : Elem) (at_ : Nat) (load : Bool) : Know :=
  { c := ⟨e.sp, e.a, e.w, at_, s.clk, 10⟩, seq := o.seq, lane := e.lane, acc := (e.a, e.w), strong := o.strength, load := load,
    weak := load && !o.strong, via := false, rel := 0 }

/-- An agent meets, as an acquire at a scope gives them, stores that another observer has passed on. -/
def State.join (s : State) (a : Agent) (scope : Nat) (cs : List Carry) : State :=
  let seq := (s.thr a).place
  s.note a (cs.map fun c =>
    { c := c, seq := seq, lane := 0, acc := (c.a, c.n), strong := 0, load := true, weak := false, via := false, rel := scope + 1 })

/-- The latest of the noted stores at or before a stamp to each of n bytes at `a`. -/
def State.storesAt (s : State) (sp : Sp) (a n at_ : Nat) : List StoreRec :=
  let l := (s.log.filter fun r => r.sp == sp && overlap a n r.a r.n && decide (r.at_ ≤ at_)).reverse
  (List.range n).foldl (fun m i => match l.find? fun r => decide (r.a ≤ a + i) && decide (a + i < r.a + r.n) with
    | some r => if m.contains r then m else m ++ [r]
    | none => m) []

/-- A load or atomic of an agent has returned what an element held at a stamp: the agent has met it, and behind it what came
before the stores that it returns, in the scopes that contain the agent (R332, R392). -/
def State.meetRead (s : State) (a : Agent) (o : VOp) (e : Elem) (at_ : Nat) : State :=
  let behind := (s.storesAt e.sp e.a e.w at_).flatMap fun r => match r.by_ with
    | some (b, _) => (r.view.filter fun c => s.contains c.k b (.agent a)).map fun c =>
        { (o.met s e at_ true) with c := c, via := true }
    | none => []
  s.note a (o.met s e at_ true :: behind)

/-- Whether lane `l` of an operation depends on the access that has met a value (R331). -/
def VOp.dependsOn (o : VOp) (l : Nat) (e : Know) : Bool :=
  o.deps.any fun d => d.seq == e.seq && d.lanes.getLsbD l && (d.all || e.lane == l)

/-- The widest scope within which a value that the thread has met comes before a store element of operation `o`: by a fence,
by strength, by a dependency, or since the accesses share a byte (Table 25.1). -/
def Know.before (o : VOp) (x : Elem) (e : Know) : Nat :=
  if e.seq = o.seq ∨ o.seq < e.seq then (if e.seq = o.seq ∧ e.load then 10 else 0)
  else if (e.load && o.dependsOn x.lane e) || (e.c.sp == x.sp && overlap x.a x.w e.acc.1 e.acc.2) then 10
  else max (e.rel - 1) (min e.strong o.strength - 1)

/-- A store of an agent has been performed: it is noted with what comes before it, while that or it can still be missed by a
copy, and the agent has met it. An operation that later ones have overtaken is passed on by them as well. -/
def State.meetStore (s : State) (a : Agent) (o : VOp) (x : Elem) : State :=
  let view := ((s.thr a).seen.filter fun e => decide (2 ≤ e.before o x)).map fun e => { e.c with k := min e.c.k (e.before o x) }
  let me := o.met s x s.freeCtr false
  let r : StoreRec := ⟨x.sp, x.a, x.w, s.freeCtr, s.clk, some (a, o.seq), o.strength, view, none⟩
  let fresh := s.log.filter fun r => decide (s.clk < r.clk + Config.copyLife)
  let s := if view.isEmpty && !s.hasOlder me.c then s else { s with log := fresh ++ [r] }
  s.note a [me]

/-- What an operation has met is passed on by the later stores of its agent that have been performed before it, to the
observers that had to wait for it (R164, R392). -/
def State.passLate (s : State) (a : Agent) (o : VOp) : State :=
  let late := ((s.thr a).ops.find? (·.seq = o.seq)).elim 0 (·.passed)
  let mine := ((s.thr a).seen.filter fun e => e.seq == o.seq).map fun e => { e.c with k := min e.c.k (late - 1) }
  if late = 0 ∨ mine.isEmpty then s
  else { s with log := s.log.map fun r => match r.by_ with
      | some (b, q) => if b = a ∧ o.seq < q then { r with view := r.view ++ mine } else r
      | none => r }

/-- Stores of an operation of an agent have been performed. -/
def State.meetStores (s : State) (a : Agent) (o : VOp) (els : List Elem) : State :=
  (els.foldl (fun s x => s.meetStore a o x) s).passLate a o

/-- Whether a value that the thread has met binds lane `l` of a load: known from its own accesses or behind an acquire, or
behind a load that this one follows by strength or by its address (R164, R331). `relaxed` leaves out what earlier weak loads
have read (R334). -/
def Know.binds (o : VOp) (l : Nat) (relaxed : Bool) (e : Know) : Bool :=
  if e.via then (decide (0 < e.strong) && decide (0 < o.strength)) || o.dependsOn l e
  else !(relaxed && e.weak && e.rel == 0)

/-- The least stamp of a copy that holds, in n bytes at `a`, nothing older than what binds lane `l` of a load. -/
def Thr.floor (th : Thr) (o : VOp) (l : Nat) (relaxed : Bool) (a n : Nat) : Nat :=
  th.seen.foldl (fun m e => if e.c.sp = .mem ∧ overlap a n e.c.a e.c.n ∧ e.binds o l relaxed then max m e.c.at_ else m) 0

/-- Whether a strong load must return a store that a copy is older than: it is strong for the reader, as the reader's load is
for its issuer (R328, R330). -/
def State.strongNewer (s : State) (a : Agent) (o : VOp) (x : Elem) (at_ : Nat) : Bool :=
  decide (0 < o.strength) && s.log.any fun r => match r.by_ with
    | some (b, _) => r.sp == x.sp && overlap x.a x.w r.a r.n && decide (at_ < r.at_) && decide (0 < r.strong)
        && s.contains (r.strong - 1) b (.agent a) && s.contains o.strongIn a (.agent b)
    | none => false

end Sys2Proof.Machine
end

