-- ==== Sys2Proof/Machine/Operands.lean ====
section
/-! DEFINITION. Operands: the sources an instruction names and their widths (R47 to R50, R395), how an operand
is read (R34, R35, R38, R53, R55, R60), uniform operands (R33), and the handles an instruction names (R141). -/

namespace Sys2Proof

/-! ### Types -/

/-- The extension word of mad, fma, dot2, dot4 and hfma2, where there is one (R49). -/
def Ins.ext (n : Ins) : Option (BitVec 64) := if n.row.fmt = .Bx then n.w1 else none

/-- The type code that stands in the word; the setting of Table 4.5 where an extension word is absent. -/
def Ins.tyCode (n : Ins) : Nat :=
  match n.row.tyAt with
  | .none => 0
  | .mod => (n.bits 4 4).toNat
  | .c => (n.bits 12 4).toNat
  | .m => (n.bits 8 4).toNat
  | .ml => (n.bits 10 4).toNat
  | .ext => match n.w1 with | some w => (w.extractLsb' 4 4).toNat | none => n.row.dflt

/-- Whether an instruction accepts a type code (R51; R192 for f32 atomics). -/
def Ins.accepts (n : Ins) (scal : Bool) (t : Nat) : Bool :=
  let op := ((n.w1.getD 0).extractLsb' 12 4).toNat
  (n.row.types.contains t || (scal && n.row.stypes.contains t))
    && !((n.row.opc == 0x85 || n.row.opc == 0x87) && t == 4 && (op == 3 || op == 4 || op == 5))

/-- Whether TYPE is a field that the instruction reads: vote reads it for .same only (R174). -/
def Ins.readsTy (n : Ins) : Bool :=
  match n.row.tyAt with
  | .none => false
  | _ => !(n.row.opc == 0x51 && (n.bits 1 3).toNat != 4)

/-- The source type of format C, with its fallback. -/
def Ins.st (n : Ins) (scal : Bool) : Nat :=
  let t := (n.bits 8 4).toNat
  if n.accepts scal t then t else n.row.dflt

/-- Whether a type code is an integer type (Table 4.6). -/
def isInt (t : Nat) : Bool := t == 0 || t == 1 || t == 2 || t == 3 || t == 13 || t == 14

/-- An fcvt whose DT and ST are both integer types: DT falls back to f32 (R127). -/
def Ins.bothInts (n : Ins) (scal : Bool) : Bool :=
  n.row.opc == 0x29 && isInt n.tyCode && isInt (n.st scal)

/-- The effective type (W7): what the word names, else the default of the entry; f64 in a load or store of
plain memory falls back to n64 (Table 9.2, R159). -/
def Ins.ty (n : Ins) (scal : Bool) : Nat :=
  if !n.readsTy then 0
  else if n.bothInts scal then n.row.dflt
  else if n.accepts scal n.tyCode then n.tyCode
  else if n.tyCode = 5 ∧ (n.row.fmt = .ML ∨ (n.row.dflt = 0 ∧ (n.row.opc = 0x80 ∨ n.row.opc = 0x81))) then 3
  else n.row.dflt

/-- Whether a type code takes 64 bits (Table 4.6). -/
def is64 (t : Nat) : Bool := t == 2 || t == 3 || t == 5

/-- Bytes of an element in memory (Table 4.6). -/
def tyBytes (t : Nat) : Nat :=
  if is64 t then 8 else if t = 6 ∨ t = 7 then 2 else if t = 8 ∨ t = 9 ∨ t = 13 ∨ t = 14 then 1 else 4

/-- Whether an integer type is signed. -/
def isSigned (t : Nat) : Bool := t == 0 || t == 2 || t == 13

/-- The rounding code of the word (Table 4.7); RNE where the instruction has no RND field. -/
def Ins.rnd (n : Ins) : Nat :=
  match n.row.fmt with
  | .C => (n.bits 6 2).toNat
  | .Bx => match n.w1 with | some w => (w.extractLsb' 2 2).toNat | none => 0
  | _ => (n.bits 2 2).toNat

/-- The SAT bit of the word. -/
def Ins.satBit (n : Ins) : Bool :=
  match n.row.fmt with
  | .C => n.pay.getLsbD 5
  | .Bx => match n.w1 with | some w => w.getLsbD 1 | none => false
  | _ => n.pay.getLsbD n.row.satBit

/-- SETF as a flag, after fallback W3 (R43). -/
def Ins.flag (n : Ins) : Option Nat := if n.c.setf.toNat < 12 then some n.c.setf.toNat else none

/-! ### Sources -/

/-- A source: its code, whether it reads 64 bits, whether it is uniform, and whether a literal of it is one
of 32 bits or fewer, which W1 watches (R48). -/
structure Src where
  code : BitVec 8
  wide : Bool
  unif : Bool
  w1   : Bool
  deriving DecidableEq, Repr

/-- Whether an operand of a width specification is read as 64 bits. -/
def Ins.wideOf (n : Ins) (scal : Bool) : Wd → Bool
  | .ty => is64 (n.ty scal)
  | .dt => is64 (n.ty scal)
  | .st => is64 (n.st scal)
  | .w32 | .t32 => false
  | .w64 => true
  | .nat => scal
  | .pair => true

/-- Whether a literal for such an operand has its high half watched by W1. -/
def Ins.watched (n : Ins) (scal : Bool) : Wd → Bool
  | .ty => !is64 (n.ty scal)
  | .dt => !is64 (n.ty scal)
  | .st => !is64 (n.st scal)
  | .t32 => true
  | .w32 => !scal
  | .nat => !scal
  | _ => false

/-- The code of a source field: of mad, fma, dot2, dot4 and hfma2 the third comes from S3X (R49). -/
def Ins.codeOf (n : Ins) (f : Fld) : BitVec 8 :=
  match n.ext, f with
  | some w, .s3 => w.extractLsb' 24 8
  | _, _ => n.fld f

/-- Sources that stand outside the row's list: consecutive registers of pairs and quads (R201, R254, R358),
the operands of word 1 (R191), the pairs of kmerge and the registers of rgput (R171). -/
def Ins.moreSrcs (n : Ins) (scal : Bool) : List Src :=
  let regs (f : Fld) (k : Nat) (wide : Bool) : List Src :=
    (List.range k).map fun i => ⟨n.fld f + BitVec.ofNat 8 i, wide, true, false⟩
  match n.row.opc.toNat with
  | 0xB0 | 0xB5 | 0xB6 => regs .s1 2 false
  | 0xB1 => regs .s1 4 false ++ regs .s2 2 false
  | 0xB2 | 0xB3 => regs .s1 2 false ++ regs .s2 2 false
  | 0xB4 => regs .s1 4 false
  | 0xC0 => (if n.row.fed.contains .s1 then [] else regs .s1 2 true) ++ (if n.row.fed.contains .s2 then [] else regs .s2 2 true)
      ++ [⟨n.fld .s3, true, true, false⟩]
  | 0xC2 | 0xC3 | 0xD0 | 0xD2 => regs .s1 2 true
  | 0xE6 => if scal then regs .s2 2 true else [⟨n.fld .s2, true, true, false⟩, ⟨n.fld .s2 + 2, true, true, false⟩]
  | 0x59 => [⟨n.fld .s1, false, false, false⟩, ⟨n.fld .s1 + 1, false, false, false⟩,
             ⟨n.fld .s2, false, false, false⟩, ⟨n.fld .s2 + 1, false, false, false⟩]
  | 0x5A => (List.range ((n.bits 0 2).toNat + 1)).map fun i => ⟨n.fld .s1 + BitVec.ofNat 8 i, false, false, false⟩
  | 0x85 => [⟨(n.w1.getD 0).extractLsb' 24 8, is64 (n.ty scal), false, false⟩]
  | 0x86 => [⟨(n.w1.getD 0).extractLsb' 24 8, is64 (n.ty scal), false, false⟩,
             ⟨(n.w1.getD 0).extractLsb' 16 8, is64 (n.ty scal), false, false⟩]
  | 0x87 => ⟨(n.w1.getD 0).extractLsb' 24 8, is64 (n.ty scal), false, false⟩ ::
      (if ((n.w1.getD 0).extractLsb' 12 4).toNat = 7 then [⟨(n.w1.getD 0).extractLsb' 16 8, is64 (n.ty scal), false, false⟩] else [])
  | _ => []

/-- Every source of an instruction, those of its row first. -/
def Ins.sources (n : Ins) (scal : Bool) : List Src :=
  ((Rows.srcsOf n.row n.pay).map fun x =>
    let wide := if n.row.opc = 0xE1 ∧ n.fld .s1 = 0x0F then true else n.wideOf scal x.wd
    ⟨n.codeOf x.fld, wide, x.unif, n.watched scal x.wd && !wide⟩) ++ n.moreSrcs scal

/-- Fields that must be multiples of a number, and register codes (R171, R201, R254, R267, R358, R395). -/
def Ins.aligned (n : Ins) (scal : Bool) : List (BitVec 8 × Nat) :=
  match n.row.opc.toNat with
  | 0xB0 | 0xB5 | 0xB6 => [(n.fld .s1, 2)]
  | 0xB1 => [(n.fld .s1, 4), (n.fld .s2, 2)]
  | 0xB2 | 0xB3 => [(n.fld .s1, 2), (n.fld .s2, 2)]
  | 0xB4 => [(n.fld .s1, 4)]
  | 0xC0 => (if n.row.fed.contains .s1 then [] else [(n.fld .s1, 2)]) ++ (if n.row.fed.contains .s2 then [] else [(n.fld .s2, 2)])
      ++ [(n.fld .s3, 1)]
  | 0xC6 => if is64 (n.ty scal) then [(n.fld .d, 2)] else []
  | 0xC2 | 0xC3 | 0xD0 | 0xD2 => [(n.fld .s1, 2)]
  | 0xD1 => [(n.fld .d, 2)]
  | 0x57 | 0x58 => [(n.fld .d, 2)]
  | 0x59 => [(n.fld .d, 2), (n.fld .s1, 2), (n.fld .s2, 2)]
  | 0x5A => [(n.fld .s1, 1)]
  | 0x5B => [(n.fld .d, 1), (n.fld .s1, 1)]
  | 0xA4 => if n.fld .d < 0xF8 then [(n.fld .d, 2)] else []
  | 0xD5 => [(n.fld .d, 8)]
  | 0xE2 => [(n.fld .s1, 2)]
  | 0xE3 | 0xE4 | 0xE5 => if scal then [] else [(n.fld .s1, 2)]
  | 0xE6 => [(n.fld .s2, 2)]
  | 0x50 | 0x51 | 0x52 | 0x53 | 0x5C | 0x5D =>
      if is64 (n.ty scal) then [(n.fld .d, 2), (n.fld .s1, 2)] else []
  | 0x54 | 0x55 | 0x56 => if is64 (n.ty scal) then [(n.fld .d, 2), (n.fld .s1, 2)] else []
  | _ => []

/-- The source codes that stand in the fields of the word, whether or not they are read; the further registers of a
pair or quad stand in no field. -/
def Ins.sourceCodes (n : Ins) (scal : Bool) : List (BitVec 8) :=
  (Rows.srcsOf n.row n.pay).map (fun x => n.codeOf x.fld) ++
  match n.row.opc.toNat with
  | 0x85 | 0x86 | 0x87 => (n.moreSrcs scal).map (·.code)
  | 0xB0 | 0xB4 | 0xB5 | 0xB6 | 0xC2 | 0xC3 | 0xD0 | 0xD2 => [n.fld .s1]
  | 0xB1 | 0xB2 | 0xB3 => [n.fld .s1, n.fld .s2]
  | 0xC0 => (if n.row.fed.contains .s1 then [] else [n.fld .s1]) ++ (if n.row.fed.contains .s2 then [] else [n.fld .s2])
      ++ [n.fld .s3]
  | 0xE6 => [n.fld .s2]
  | _ => []

/-- The result registers of an instruction with a register result (of match, cmpct and vote with a 64-bit TYPE, whose result is
n32, v(D) alone; DESIGN CHOICE, log entry 74): first code and count of registers, and
whether they are read as one 64-bit value. -/
def Ins.dests (n : Ins) (scal : Bool) : List (BitVec 8 × Bool) :=
  match n.row.dst with
  | .reg w => [(n.fld .d, n.wideOf scal w)]
  | .pred => if scal then [(n.fld .d, true)] else []
  | .other =>
    match n.row.opc.toNat with
    | 0x57 | 0x58 | 0x59 | 0xA4 => [(n.fld .d, false), (n.fld .d + 1, false)]
    | 0x5B => ((List.range ((n.bits 0 2).toNat + 1)).map fun i => (n.fld .d + BitVec.ofNat 8 i, false)) ++ [(n.fld .s1, false)]
    | 0x8B => [(n.fld .d, [0, 6, 7].contains (n.bits 0 4).toNat)]
    | 0xD1 => [(n.fld .d, true), (n.fld .d + 1, true)]
    | 0xD5 => (List.range 8).map fun i => (n.fld .d + BitVec.ofNat 8 i, false)
    | 0xE0 => [(n.fld .d, [0x07, 0x08, 0x0A, 0x0E, 0x0F, 0x10, 0x18].contains (n.fld .s1).toNat || decide (0x48 ≤ (n.fld .s1).toNat))]
    | _ => []
  | .none => []

/-- Whether D falls back under W2: a code from 0xF8 of an instruction with one destination (Tables 4.12, 11.4
and 17.4: several registers, and a destination that must be a pair, take ILLEGAL instead, but for vinfo, which no table
excepts). -/
def Ins.dstFalls (n : Ins) (scal : Bool) : Bool :=
  decide (0xF8 ≤ (n.fld .d).toNat) && ((n.dests scal).length == 1 || n.row.opc == 0xA4) && !(n.aligned scal).any (·.1 == n.fld .d)

/-- WB after fallback W2. -/
def Ins.wb (n : Ins) (scal : Bool) : Bool := n.c.wb == 1 && !n.dstFalls scal

/-- Whether a code names a latch. -/
def isLatch (c : BitVec 8) : Bool := decide (0xF8 ≤ c.toNat) && decide (c.toNat ≤ 0xFB)

/-- Whether the instruction reads a latch (R54, R56). -/
def Ins.readsLatch (n : Ins) (scal : Bool) : Bool := (n.sources scal).any fun x => isLatch x.code

/-- Whether the instruction reads uq (R38). -/
def Ins.readsUq (n : Ins) (scal : Bool) : Bool := (n.sources scal).any fun x => x.code == 0xFC

/-- The literal that 0xFF sources read (R48, R50). -/
def Ins.literal (n : Ins) (scal : Bool) (wide : Bool) (watched : Bool) : BitVec 64 :=
  let w := n.w1.getD 0
  match n.row.fmt with
  | .EM | .EML =>
    let v : BitVec 32 := w.extractLsb' 32 32
    if wide && n.ty scal == 2 then v.signExtend 64 else v.setWidth 64
  | _ => if wide || !watched then w else (w.setWidth 32).setWidth 64

/-! ### Handles (R141, R160) -/

/-- The handle registers that an instruction reads as operands. -/
def Ins.handleUses (n : Ins) : List Nat :=
  let hi := (n.bits 28 4).toNat
  let lo := (n.bits 24 4).toNat
  match n.row.opc.toNat with
  | 0x80 | 0x81 | 0x84 | 0x85 | 0x86 => [(n.bits 12 4).toNat]
  | 0x88 | 0x8A | 0xA0 | 0xA2 | 0xB5 => [hi]
  | 0x89 | 0xB0 | 0xB1 | 0xB2 | 0xB3 | 0xB4 => [hi, lo]
  | 0x8B | 0xA4 => [(n.bits 16 4).toNat]
  | 0xA1 | 0xA3 | 0xA5 | 0xB8 | 0xD0 | 0xD2 => [lo]
  | 0xB6 => [hi, lo, (n.bits 4 4).toNat]
  | 0xD1 | 0xD3 => [(n.bits 12 4).toNat]
  | _ => []

/-- The handle register that an instruction writes. -/
def Ins.handleDst (n : Ins) : Option Nat :=
  match n.row.opc.toNat with
  | 0x88 | 0x8A | 0xA0 | 0xA2 => some (n.bits 24 4).toNat
  | _ => none

/-- The handle registers that an instruction names. -/
def Ins.handleNames (n : Ins) : List Nat :=
  n.handleUses ++ (match n.handleDst with | some h => [h] | none => [])

/-- The tag of an engine command (Table 12.5). -/
def Ins.engineTag (n : Ins) : Option Nat :=
  match n.row.opc.toNat with
  | 0xB0 | 0xB1 | 0xB2 | 0xB3 | 0xB4 | 0xB5 => some (n.bits 2 6).toNat
  | _ => none

end Sys2Proof

namespace Sys2Proof.Machine

open Sys2Proof

/-- The handle registers that operations in flight will write. -/
def Thr.handlesPending (th : Thr) : List Nat :=
  (th.pend.flatMap fun p => p.ws.filterMap fun w => match w.tgt with | .h n => some n | _ => none)
    ++ th.ops.filterMap fun o => match o.kind with
      | .hld _ n .. => some n
      | _ => none

/-! ### Reading -/

/-- An operand as read: 64 bits for each lane, its tag, the lanes that are poisoned, Frost, or invalid in a
latch. -/
structure Opd where
  v       : List (BitVec 64)
  tag     : Tag
  poison  : Mask
  frost   : Mask
  invalid : Mask
  latch   : Option Nat
  deriving DecidableEq, Repr

/-- The results on their way to a register, oldest first, with whether their values are known yet. -/
def Thr.onTheWay (th : Thr) (t : Tgt) : List (Nat × RegW × Bool) :=
  let ps := th.pend.flatMap fun p => (p.ws.filter (·.tgt = t)).map fun w => (p.seq, w, true)
  let os := if th.ra.isSome then [] else th.ops.flatMap fun o =>
    (o.kind.results.filter (·.tgt = t)).map fun w => (o.seq, w, match o.kind with | .result .. | .load [] .. => true | _ => false)
  sortBy (fun a b => decide (a.1 < b.1)) (ps ++ os)

/-- Overlay a result in flight: in each lane a free choice of the old and the new value (R60).
A result that has not been computed yet cannot be read: the old value stands. (DEDUCED, log entry 8.) -/
def overlay (ctr place : Nat) (r : VReg) (x : Nat × RegW × Bool) : VReg :=
  let (seq, w, known) := x
  let m := maskOf fun l => known && (w.mask &&& ~~~w.dead).getLsbD l && Config.freeBit ctr (1024 * seq + place) l
  if m = 0 then r else r.put m w.v .G w.poison w.frost

/-- A vector register as an instruction reads it now. -/
def Thr.readV (th : Thr) (ctr pos : Nat) : VReg :=
  (th.onTheWay (.v pos)).foldl (overlay ctr pos) (th.vreg pos)

/-- A scalar register as an instruction reads it now. -/
def Thr.readS (th : Thr) (ctr n : Nat) : SReg :=
  (th.onTheWay (.s n)).foldl (fun r x =>
    let (seq, w, known) := x
    if known = true ∧ w.dead.getLsbD 0 = false ∧ Config.freeBit ctr (1024 * seq + 300 + n) 0 = true then
      ⟨lane64 w.v 0, w.poison.getLsbD 0⟩
    else r) (th.sreg n)

/-- A predicate register as an instruction reads it now. -/
def Thr.readP (th : Thr) (ctr p : Nat) : PReg :=
  if p = 0 then th.pred 0
  else (th.onTheWay (.k p)).foldl (fun r x =>
    let (seq, w, known) := x
    r.put (maskOf fun l => known && (w.mask &&& ~~~w.dead).getLsbD l && Config.freeBit ctr (1024 * seq + 380 + p) l) w.v w.frost) (th.pred p)

/-- The U operand with one value. -/
def Opd.const (x : BitVec 64) : Opd := ⟨List.replicate 32 x, .U, 0, 0, 0, none⟩

/-- A latch entry as an operand (R55): a 32-bit operand reads the low half; the lanes where it is invalid are all
lanes where a 64-bit operand meets a 32-bit result. -/
def Latch.opd (scal wide : Bool) (k : Nat) (e : Latch) : Opd :=
  { v := if wide || scal then e.v else e.v.map (zext 32), tag := e.tag, poison := e.poison, frost := e.frost,
    invalid := if wide && !e.wide && !scal then BitVec.allOnes 32 else ~~~e.valid, latch := some k }

/-- Read a source (R47). `uq` is the queue entry, where the instruction reads one. -/
def Thr.readSrc (th : Thr) (ctr : Nat) (n : Ins) (uq : BitVec 64) (x : Src) : Opd :=
  let c := x.code.toNat
  if c = 0xFF then Opd.const (n.literal th.scalar x.wide x.w1)
  else if c = 0xFE then
    if th.scalar then Opd.const 0 else ⟨perLane fun l => BitVec.ofNat 64 l, .A 0 1, 0, 0, 0, none⟩
  else if c = 0xFD then Opd.const 0
  else if c = 0xFC then Opd.const uq
  else if 0xF8 ≤ c then (th.latches.getD (c - 0xF8) Latch.invalid).opd th.scalar x.wide (c - 0xF8)
  else if th.scalar then
    let r := th.readS ctr c
    ⟨List.replicate 32 r.v, .U, if r.poison then BitVec.allOnes 32 else 0, 0, 0, none⟩
  else if x.wide then
    let a := th.readV ctr (th.pos c)
    let b := th.readV ctr (th.pos (c + 1))
    ⟨perLane fun l => (lane32 b.v l ++ lane32 a.v l), if a.tag = .U ∧ b.tag = .U then .U else .G,
     a.poison ||| b.poison, a.frost ||| b.frost, 0, none⟩
  else
    let r := th.readV ctr (th.pos c)
    ⟨r.v.map (·.setWidth 64), r.tag, r.poison, r.frost, 0, none⟩

/-- The lanes of a mask in which an operand differs from its value in the lowest of them. -/
def Opd.differs (o : Opd) (m : Mask) : Bool :=
  (lanesOf m).any fun l => lane64 o.v l != lane64 o.v (lowestLane m)

/-- The value of a uniform operand: that of the lowest active lane (R33). -/
def Opd.uni (o : Opd) (m : Mask) : BitVec 64 := lane64 o.v (lowestLane m)

/-- Base and stride of a 32-bit operand whose tag gives them (Table 3.3); a U operand has stride 0. -/
def Opd.line (o : Opd) (m : Mask) : Option (BitVec 32 × BitVec 32) :=
  match o.tag with
  | .U => some ((o.uni m).setWidth 32, 0)
  | .A b st => some (b, st)
  | .G => none

end Sys2Proof.Machine
end

