-- ==== Sys2Proof/Machine/Flags.lean ====
section
/-! DEFINITION. Every flag the manual computes: the fallback bits of wsr (R65, R66, Table 4.12), the sticky
flags and traps of fsr (R73, R74), and the shape tags of results (R30, R31). -/

namespace Sys2Proof

/-! ### Fallbacks -/

/-- Bit n of wsr where `b` holds. -/
def warnBit (n : Nat) (b : Bool) : BitVec 32 := if b then 1 <<< n else 0

/-- W1: a 0xFF source of 32 bits or fewer whose literal has a high half (R48). Format E has its literal in
the high half of its second word (R50). -/
def Ins.warn1 (n : Ins) (scal : Bool) : Bool :=
  match n.row.fmt with
  | .EM | .EML | .Bx => false
  | _ => match n.w1 with
    | some w => w.extractLsb' 32 32 != (0 : BitVec 32) && (n.sources scal).any fun x => x.code == 0xFF && x.w1
    | none => false

/-- W8 of an extension word (Table 4.4): reserved bits, SA and SB where they have no meaning. -/
def Ins.extReserved (n : Ins) : Bool :=
  match n.ext with
  | none => false
  | some w =>
    let keep : BitVec 64 := if n.row.opc = 0x41 then 0xFFFFFFFF00FCFF00 else 0xFFFFFFFF00FFFF00
    (w &&& (keep ||| 1)) != 0

/-- W8 of word 1 of format E (R191). -/
def Ins.word1Reserved (n : Ins) : Bool :=
  match n.row.fmt, n.w1 with
  | .EM, some w | .EML, some w =>
    let op := (w.extractLsb' 12 4).toNat
    let b : BitVec 64 := if n.row.opc = 0x86 ∨ (n.row.opc = 0x87 ∧ op = 7) then 0 else 0xFF0000
    let o : BitVec 64 := if n.row.opc = 0x86 then 0xF000 else 0
    (w &&& (b ||| o ||| 0xFFF)) != 0
  | _, _ => false

/-- Reserved bits that depend on more than the opcode: D[7:3] of cmp and fcmp in lane mode (R98), TYPE of a
vote other than .same (R174), S2 of bar and barv at .team (R197). -/
def Ins.moreReserved (n : Ins) (scal : Bool) : Bool :=
  if n.row.dst = .pred then !scal && (n.fld .d).extractLsb' 3 5 != (0 : BitVec 5)
  else if n.row.opc = 0x51 then (n.bits 1 3).toNat != 4 && n.bits 4 4 != (0 : BitVec 4)
  else if n.row.opc = 0x70 ∨ n.row.opc = 0x71 then decide ((n.bits 4 4).toNat ≤ 2) && n.fld .s2 != 0
  else false

/-- The scope code of the word, where it has one (W12). -/
def Ins.scopeCode (n : Ins) : Option Nat :=
  match n.row.opc.toNat with
  | 0x80 | 0x81 | 0x85 | 0x86 | 0x70 | 0x71 | 0x72 | 0x73 | 0x88 | 0x89 => some (n.bits 4 4).toNat
  | _ => none

/-- The scope after fallback W12: .sys for codes 9 to 15. -/
def Ins.scope (n : Ins) : Nat :=
  match n.scopeCode with
  | some c => if 9 ≤ c then 8 else c
  | none => 8

/-- W10: a CH value that the entry does not accept (Table 9.5). -/
def Ins.warn10 (n : Ins) : Bool := (n.row.opc == 0x81 || n.row.opc == 0x89) && n.bits 1 2 == (2 : BitVec 2)

/-- CH after W10. -/
def Ins.ch (n : Ins) : Nat := if n.warn10 then 0 else (n.bits 1 2).toNat

/-- Whether the word's TYPE (or DT or ST) is one that the entry does not accept (W7). -/
def Ins.warn7 (n : Ins) (scal : Bool) : Bool :=
  (n.readsTy && !n.accepts scal n.tyCode) || n.bothInts scal || (n.row.fmt == .C && !n.accepts scal (n.bits 8 4).toNat)
    || ((n.row.opc == 0x57 || n.row.opc == 0x58 || n.row.opc == 0x59) && decide (2 ≤ (n.bits 5 3).toNat))

/-- Whether SAT has a meaning for this instruction: mst and mdrain define it for i32 only (Table 17.4). -/
def Ins.satMeans (n : Ins) (scal : Bool) : Bool :=
  n.row.sat == .used && !((n.row.opc == 0xC2 || n.row.opc == 0xC6) && n.ty scal != 0)

/-- SAT after fallback W4. -/
def Ins.sat (n : Ins) (scal : Bool) : Bool := n.satMeans scal && n.satBit

/-- The fallback bits that an instruction sets by its words alone (Table 4.12). (DEDUCED, log entry 20.) -/
def Ins.warns (n : Ins) (scal : Bool) : BitVec 32 :=
  warnBit 1 (n.warn1 scal)
  ||| warnBit 2 (n.dstFalls scal)
  ||| warnBit 3 (decide (12 ≤ n.c.setf.toNat) && decide (n.c.setf.toNat ≤ 14))
  ||| warnBit 4 (n.row.sat != .absent && !n.satMeans scal && n.satBit)
  ||| warnBit 5 (n.row.rnd == .ignored && n.rnd != 0)
  ||| warnBit 7 (n.warn7 scal)
  ||| warnBit 8 ((n.pay &&& n.row.resv) != 0 || n.extReserved || n.word1Reserved || n.moreReserved scal)
  ||| warnBit 10 n.warn10
  ||| warnBit 11 (n.c.wb == 1 && n.row.dst == .none)
  ||| warnBit 12 (match n.scopeCode with | some c => decide (9 ≤ c) | none => false)
  ||| warnBit 13 (if n.row.noPred then n.c.pred != 0 || n.c.pn == 1 else n.c.pred == 0 && n.c.pn == 1)

end Sys2Proof

namespace Sys2Proof.Machine

open Sys2Proof

/-! ### fsr (R73, R74) -/

/-- The enable bits of fsr in the places of its flags. -/
def enables (fsr : BitVec 32) : BitVec 5 := fsr.extractLsb' 8 5

/-- The flags that the lanes of a mask raise together. -/
def unionFlags (m : Mask) (fl : List (BitVec 5)) : BitVec 5 :=
  (lanesOf m).foldl (fun b l => b ||| fl.getD l 0) 0

/-- The trap of a float instruction in which some active lane raises an enabled flag (R74). -/
def fpTrap (fsr : BitVec 32) (m : Mask) (fl : List (BitVec 5)) : List Trap :=
  let lanes := maskOf fun l => m.getLsbD l && (fl.getD l 0 &&& enables fsr) != 0
  if lanes = 0 then []
  else [{ cause := .fptrap, lmask := lanes, tval := (unionFlags m fl &&& enables fsr).setWidth 64 }]

/-! ### Shape tags (R29 to R31) -/

/-- The tag of a lane-wise result where Table 3.4 names no other: U where every operand is U. -/
def laneTag (ops : List Opd) : Tag := if ops.all (·.tag = .U) then .U else .G

/-- Whether the values agree over the lanes of a mask. -/
def isU (m : Mask) (v : List (BitVec 64)) : Bool := (lanesOf m).all fun l => lane64 v l == lane64 v (lowestLane m)

/-- The tag of a result that has a base and a stride: stride 0 is U (R30). -/
def lineTag (b st : BitVec 32) : Tag := if st = 0 then .U else .A b st

/-- The tag of a sum or difference of 32-bit operands: `f` acts on the bases and on the strides (Table 3.4). -/
def sumTag (f : BitVec 32 → BitVec 32 → BitVec 32) (m : Mask) (a b : Opd) : Tag :=
  match a.line m, b.line m with
  | some (x, p), some (y, q) => lineTag (f x y) (f p q)
  | _, _ => .G

/-- The tag of a product of 32-bit operands plus a uniform addend `c`: at most one factor may be affine (Table 3.4). -/
def scaleTag (m : Mask) (a b : Opd) (c : BitVec 32 := 0) : Tag :=
  match a.tag, b.tag with
  | .U, .U => .U
  | .A x p, .U => let k : BitVec 32 := (b.uni m).setWidth 32; lineTag (x * k + c) (p * k)
  | .U, .A x p => let k : BitVec 32 := (a.uni m).setWidth 32; lineTag (x * k + c) (p * k)
  | _, _ => .G

/-- The tag of a left shift by `k`: only the shifted operand may be affine. -/
def shlTag (a b : Opd) (k : Nat) : Tag :=
  match a.tag, b.tag with
  | t, .U => match t with | .A x p => lineTag (x <<< k) (p <<< k) | _ => t
  | _, _ => .G

/-- The tag of a negated 32-bit operand (Table 3.4). -/
def negTag (a : Opd) : Tag :=
  match a.tag with
  | .A x p => lineTag (-x) (-p)
  | t => t

/-- The tag that a write leaves (R31): G where it misses a lane that has not exited. -/
def writeTag (alive m : Mask) (t : Tag) : Tag := if alive &&& ~~~m = 0 then t else .G

end Sys2Proof.Machine
end

