-- ==== Sys2Proof/Machine/Issue.lean ====
section
/-! DEFINITION. The path that every instruction takes when it issues: the checks in the order of R65, the
reading of operands with the causes they raise (R33, R38, R55, R156, R160), the delivery of a trap or the
commit of results, latches, chain, flag and PCs (R18, R43, R53, R56, R60), and runahead (R217 to R219). -/

namespace Sys2Proof.Machine

open Sys2Proof

/-! ### What a meaning sees and gives -/

/-- What an instruction's meaning is given: its words, issue address, present and active lanes, its operands
in the order of `Ins.sources`, its effective type, source type, rounding, SAT and WB. `act` leaves out the
lanes that have raised a cause on an operand; `full` has them. -/
structure Go where
  n      : Ins
  addr   : BitVec 48
  pres   : Mask
  full   : Mask
  act    : Mask
  ops    : List Opd
  scal   : Bool
  ty     : Nat
  st     : Nat
  rm     : Nat
  sat    : Bool
  wb     : Bool
  alive  : Mask
  faults : List Trap
  deriving DecidableEq, Repr

/-- What a meaning gives back: the state with its effect, the latch entry to push, new PCs where they do
not simply advance, `hold` where a blocking instruction has not completed, `cancel` where the instruction
is to issue again as if it had not (R305, R306). -/
structure Fin where
  s      : State
  latch  : Latch := Latch.invalid
  pcs    : Option (List (BitVec 48)) := none
  hold   : Bool := false
  cancel : Bool := false

/-- The meaning of an instruction beyond the shared path: causes, or an effect. -/
abbrev Body := Go → State → Except (List Trap) Fin

/-- What an entry adds to the shared checks: further fallback bits, a MODE or ILLEGAL condition, another least
level, and what its lanes do in runahead (Table 14.4). -/
structure Extra where
  warn : BitVec 32 := 0
  mode : Bool := false
  lvl  : Option Nat := none
  bad  : Bool := false
  ra   : Option (Go → State → Fin) := none

/-- Operand i of an instruction. -/
def Go.op (g : Go) (i : Nat) : Opd := g.ops.getD i (Opd.const 0)
/-- The value of operand i as a uniform operand (R33). -/
def Go.uni (g : Go) (i : Nat) : BitVec 64 := (g.op i).uni g.full
/-- Operand i in lane l. -/
def Go.val (g : Go) (i l : Nat) : BitVec 64 := lane64 (g.op i).v l
/-- A cause in every active lane. -/
def Go.all (g : Go) (c : Cause) (tval : BitVec 64 := 0) : Trap := { cause := c, lmask := g.act, tval := tval }
/-- ILLEGAL with the first word in tval. -/
def Go.illegal (g : Go) : Trap := { cause := .illegal, lmask := g.full, tval := g.n.word0 }

/-! ### Checks before any operand is read (R65) -/

/-- The code of the destination field, where the instruction has one. -/
def destCodes (n : Ins) (scal : Bool) : List (BitVec 8) := ((n.dests scal).take 1).map (·.1)

/-- MODE (R37, R63). -/
def modeBad (n : Ins) (x : Extra) (scal : Bool) : Bool :=
  x.mode ||
  if scal then
    n.row.mode == .lane || n.c.pred != 0 || n.c.pn == 1
      || (n.sourceCodes true).any (· == 0xFC)
      || (n.sourceCodes true ++ destCodes n true).any fun c => decide (0x40 ≤ c.toNat) && decide (c.toNat ≤ 0xF7)
  else n.row.mode == .scalar

/-- The causes of steps 2 and 3 of R65. (DEDUCED, log entry 10.) -/
def earlyTrap (n : Ins) (x : Extra) (th : Thr) : Option Trap :=
  if modeBad n x th.scalar then some { cause := .mode, lmask := th.present, tval := n.word0 }
  else if th.level < x.lvl.getD n.row.lvl then some { cause := .priv, lmask := th.present, tval := n.word0 }
  else none

/-- The register positions that a word writes back. -/
def written (n : Ins) (th : Thr) : List Nat :=
  if n.wb th.scalar then
    (n.dests th.scalar).flatMap fun d =>
      if th.scalar then [d.1.toNat] else if d.2 then [th.pos d.1.toNat, th.pos (d.1.toNat + 1)] else [th.pos d.1.toNat]
  else []

/-- The predicate that a word writes back. -/
def writtenPred (n : Ins) (th : Thr) : List Nat :=
  if n.row.dst = .pred ∧ ¬th.scalar ∧ n.c.wb = 1 then [((n.fld .d).extractLsb' 0 3).toNat] else []

/-- A handle register among the registers that rule 2 of R56 speaks of. -/
def handlePos (h : Nat) : Nat := 1000 + h

/-- The registers that a word reads: register positions, that whose tag or values tag or tagset reads
(R343, R344), and handle registers. -/
def readRegs (n : Ins) (th : Thr) : List Nat :=
  ((n.sources th.scalar).flatMap fun x =>
    if 0xF8 ≤ x.code.toNat then []
    else if th.scalar then [x.code.toNat]
    else if x.wide then [th.pos x.code.toNat, th.pos (x.code.toNat + 1)] else [th.pos x.code.toNat])
  ++ (if n.row.opc = 0x7C then [th.pos (n.fld .s1).toNat] else if n.row.opc = 0x7D then [th.pos (n.fld .d).toNat] else [])
  ++ n.handleUses.map handlePos

/-- The handle register that a word writes, as `readRegs` numbers it. -/
def writtenHandle (n : Ins) : List Nat := match n.handleDst with | some h => [handlePos h] | none => []

/-- The predicates that a word reads. -/
def readPreds (n : Ins) (th : Thr) : List Nat :=
  if th.scalar then []
  else (if n.row.noPred then [] else [n.c.pred.toNat]) ++ (if n.row.opc = 0x16 then [(n.bits 0 3).toNat] else [])

/-- Whether an instruction may only stand last in a chain (rule 1 of R56). -/
def mustBeLast (n : Ins) (scal : Bool) : Bool :=
  n.row.cls == .var || n.row.cls == .blocking || n.readsUq scal

/-- The chain rules (R56). A handle register counts as a register, and a cmp or fcmp with WB = 1 whose destination is k0 as
one that writes back k0. (DEDUCED, log entry 65.) -/
def chainBad (n : Ins) (th : Thr) : Bool :=
  n.readsLatch th.scalar &&
  match th.chain with
  | none => false
  | some c =>
    c.last || decide (8 ≤ c.n) || (written n th ++ writtenHandle n).any (c.reads.contains ·) || (writtenPred n th).any (c.preds.contains ·)

/-- Odd registers, codes that are no register (R171, R186, R187), and codes that R49 and R105 forbid. An odd destination
of 64 bits is named, and takes ILLEGAL, whatever WB is (R34). (DEDUCED, log entry 9.) -/
def codesBad (n : Ins) (scal : Bool) : Bool :=
  (n.aligned scal).any (fun x => x.1.toNat % x.2 != 0 || decide (0xF8 ≤ x.1.toNat))
  || (!scal && (n.sources false).any fun x => x.wide && decide (x.code.toNat < 0xF8) && x.code.toNat % 2 == 1)
  || (!scal && (n.dests false).any fun d => d.2 && decide (d.1.toNat < 0xF8) && d.1.toNat % 2 == 1)
  || ((n.row.fed.contains .s1 && (n.fld .s1).toNat % 2 == 1) || (n.row.fed.contains .s2 && (n.fld .s2).toNat % 2 == 1))
  || (n.row.fmt == .Bx && (n.fld .s1 == 0xFF || n.fld .s2 == 0xFF || n.codeOf .s3 == 0xFF))
  || (!scal && n.row.opc == 0xE1 && n.fld .s1 == 0x0F && (n.fld .s2).toNat % 2 == 1)
  || (n.row.fmt == .J && n.row.opc != 0x60 && n.fld .d == 0xFF)
  || ((n.row.opc == 0x5A || n.row.opc == 0x5B) &&
      decide (0xF8 ≤ (n.fld (if n.row.opc = 0x5A then .s1 else .d)).toNat + (n.bits 0 2).toNat))

/-- A register that the word reads or writes, or that tag or tagset names, and the group does not hold (R35, R343);
the rule does not say which of several is reported, so it is of free choice. -/
def notHeld (n : Ins) (th : Thr) : Option Nat :=
  if th.scalar then none
  else
    let rs := ((n.sources false).filter (fun x => decide (x.code.toNat < 0xF8))).flatMap (fun x =>
        if x.wide then [x.code.toNat, x.code.toNat + 1] else [x.code.toNat])
      ++ (if n.wb false then (n.dests false).flatMap (fun d => if d.2 then [d.1.toNat, d.1.toNat + 1] else [d.1.toNat]) else [])
      ++ (if n.row.opc = 0x7C then [(n.fld .s1).toNat] else if n.row.opc = 0x7D then [(n.fld .d).toNat] else [])
    match rs.filter (fun r => decide (r < 0xF8) && !th.holds r) with
    | [] => none
    | r :: more => if more.all (· == r) then some r else (r :: more)[(Config.freeWord th.seq 900000).toNat % (more.length + 1)]?

/-- The remaining ILLEGAL conditions (step 5 of R65). (DEDUCED, log entry 9.) -/
def lateTrap (n : Ins) (x : Extra) (th : Thr) : Option Trap :=
  let ill (v : BitVec 64) : Option Trap := some { cause := .illegal, lmask := th.present, tval := v }
  if x.bad || chainBad n th || (n.row.cls == .var && n.flag.isNone) || codesBad n th.scalar then ill n.word0
  else match notHeld n th with
    | some r => ill (BitVec.ofNat 64 r)
    | none => none

/-! ### Operands -/

/-- Whether operand i of an instruction carries a poison mark on instead of trapping (R156, R170); the descriptor
pairs of mma are checked where they are read (R256). -/
def carriesPoison (n : Ins) (i : Nat) : Bool :=
  match n.row.opc.toNat with
  | 0x16 | 0x1B | 0x5A => true
  | 0x81 | 0x83 => i == 1
  | 0x50 | 0x5C | 0x5D => i == 0
  | 0xC0 => decide (i + 1 < (n.sources true).length)
  | _ => false

/-- The queue entry that an agent reads next: none where it has not been pushed (R38). -/
def State.uqNext (s : State) (a : Agent) : Option (BitVec 32) :=
  match a with
  | .ctl _ => none
  | .grp t g =>
    let x := s.team t
    let k := (s.thr (.grp t g)).uqPos
    if k < x.uqBase then none else x.uq[k - x.uqBase]?

/-- The causes that the operands raise over the active lanes `m`, each lane at most one, in rank order. A uniform operand is
compared across all of them, from a latch across those in which its entry is valid (R33, R55). In runahead what is Frost
raises neither NONUNIF nor POISON (R217, R219). (DEDUCED, log entry 11.) -/
def operandTraps (n : Ins) (th : Thr) (m : Mask) (orphan : Bool) (srcs : List Src) (ops : List Opd) : List Trap :=
  let bad := ops.foldl (fun b o => if o.latch.isSome then b ||| (m &&& o.invalid) else b) 0
  let low := ops.foldl (fun k o => match o.latch with
    | some j => if m &&& o.invalid ≠ 0 ∧ j < k then j else k
    | none => k) 4
  let frosty (o : Opd) : Mask := if th.ra.isSome then o.frost else 0
  let nonuni := (srcs.zip ops).any fun p => p.1.unif && p.2.tag != .U && (frosty p.2 &&& m) == 0
    && p.2.differs (if p.2.latch.isSome then m &&& ~~~p.2.invalid else m)
  let pois := (ops.zipIdx).foldl (fun b p => if carriesPoison n p.2 then b else b ||| (m &&& p.1.poison &&& ~~~(frosty p.1))) 0
  let hpois := n.handleUses.any fun h => (th.hreg h).poison && !(th.ra.isSome && (th.hreg h).frost)
  Trap.claim 0
    [⟨.nonunif, if nonuni then m else 0, 0, 0⟩, ⟨.latch, bad, BitVec.ofNat 64 low, 0⟩,
     ⟨.orphan, if orphan then m else 0, 0, 0⟩, ⟨.poison, if hpois then m else pois, 0, 0⟩]

/-- The lanes that are Frost in some operand, or whose predicate bit is (R217). -/
def frostOf (n : Ins) (ops : List Opd) (srcs : List Src) (m predFrost : Mask) : Mask :=
  let whole := n.row.cls == .exch || (srcs.zip ops).any fun p => p.1.unif && (p.2.frost &&& m) != 0
  let f := (ops.foldl (fun b o => b ||| o.frost) predFrost) &&& m
  if whole && f != 0 then m else f

/-- Read what an instruction names (R17, R33, R44, R47). In runahead a lane whose predicate bit is Frost counts as active
(R217). -/
def readOperands (n : Ins) (a : Agent) (s : State) : Go :=
  let th := s.thr a
  let scal := th.scalar
  let pres := th.present
  let pr := th.readP s.freeCtr n.c.pred.toNat
  let bits := if n.row.noPred ∨ n.c.pred = 0 then BitVec.allOnes 32 else if n.c.pn = 1 then ~~~pr.v else pr.v
  let full := pres &&& (if th.ra.isSome && !n.row.noPred then bits ||| pr.frost else bits)
  let srcs := n.sources scal
  let uq := s.uqNext a
  let ops := srcs.map (th.readSrc s.freeCtr n ((uq.getD 0).setWidth 64))
  let faults := operandTraps n th full (n.readsUq scal && uq.isNone && th.ra.isNone) srcs ops
  let act := faults.foldl (fun m t => m &&& ~~~t.lmask) full
  { n := n, addr := th.issueAddr, pres := pres, full := full, act := act, ops := ops, scal := scal,
    ty := n.ty scal, st := n.st scal, rm := n.rnd, sat := n.sat scal, wb := n.wb scal, alive := th.alive,
    faults := faults }

/-! ### Commit -/

/-- The latency of a fixed class (Table 4.10). -/
def latency (c : Cls) (scal : Bool) : Nat :=
  match c with
  | .short => if scal then 2 else 4
  | .exch => 8
  | .seed => if scal then 4 else 8
  | _ => 1

/-- A result of a lane-wise or exchange instruction: values, tag, poisoned lanes, float flags, causes, and the
lanes of the destination that are written where these are not all active lanes. -/
structure Res where
  vals   : List (BitVec 64)
  tag    : Tag := .G
  poison : Mask := 0
  flags  : List (BitVec 5) := []
  traps  : List Trap := []
  mask   : Option Mask := none
  deriving DecidableEq, Repr

/-- The register writes of a result over lanes `m`. -/
def regWrites (n : Ins) (th : Thr) (m alive : Mask) (r : Res) (frost : Mask) : List RegW :=
  let t := writeTag alive m r.tag
  let one (tgt : Tgt) (v : List (BitVec 64)) : RegW :=
    { tgt := tgt, mask := m, v := v, tag := t, poison := r.poison, frost := frost, dead := 0 }
  match n.row.dst with
  | .pred =>
    if th.scalar then (if n.wb true then [one (.s (n.fld .d).toNat) r.vals] else [])
    else if n.c.wb = 1 then [one (.k ((n.fld .d).extractLsb' 0 3).toNat) r.vals] else []
  | _ =>
    if n.wb th.scalar then
      match n.dests th.scalar with
      | (c, wide) :: _ =>
        if th.scalar then [one (.s c.toNat) r.vals]
        else if wide then
          [one (.v (th.pos c.toNat)) r.vals, one (.v (th.pos (c.toNat + 1))) (r.vals.map fun (x : BitVec 64) => x >>> 32)]
        else [one (.v (th.pos c.toNat)) r.vals]
      | [] => []
    else []

/-- What a register or predicate will hold once the results on their way have landed. -/
def Thr.prior (th : Thr) (w : RegW) : RegW :=
  match w.tgt with
  | .v p =>
    let r := (th.onTheWay (.v p)).foldl (fun r x => if x.2.2 then r.put (x.2.1.mask &&& ~~~x.2.1.dead) x.2.1.v .G x.2.1.poison 0 else r) (th.vreg p)
    { w with v := r.v.map (·.setWidth 64), tag := r.tag, poison := r.poison, frost := r.frost }
  | .s n =>
    let r := (th.onTheWay (.s n)).foldl (fun r x => if x.2.2 then ⟨lane64 x.2.1.v 0, x.2.1.poison.getLsbD 0⟩ else r) (th.sreg n)
    { w with v := List.replicate 32 r.v, poison := if r.poison then BitVec.allOnes 32 else 0 }
  | .k p =>
    let r := (th.onTheWay (.k p)).foldl (fun r x => r.put (x.2.1.mask &&& ~~~x.2.1.dead) x.2.1.v 0) (th.pred p)
    { w with v := perLane fun l => bit64 (r.v.getLsbD l), frost := r.frost }
  | .h n =>
    let r := th.hreg n
    { w with v := [r.v.setWidth 64, (r.v >>> 64).setWidth 64], poison := if r.poison then 1 else 0 }

/-- Put fixed-latency results on their way, with the instruction's flag (R43, R60). -/
def Thr.sendFixed (th : Thr) (clk lat : Nat) (flag : Option Nat) (ws : List RegW) : Thr :=
  let p : PendW := ⟨clk + lat, th.seq, flag, ws⟩
  let t : Thr := { (th.setFlag flag) with pend := if ws.isEmpty && flag.isNone then th.pend else th.pend ++ [p] }
  t.noteWrites (positions ws)

/-- Put a variable-latency operation in flight (R43). -/
def Thr.sendVar (th : Thr) (n : Ins) (strong : Bool) (scope : Nat) (long : Bool) (k : VKind) (view : Option (Nat × Nat) := none)
    (deps : List Dep := []) : Thr :=
  let o : VOp := { seq := th.seq, flag := n.flag, strong := strong, scope := scope, addr := th.issueAddr, kind := k, view := view, deps := deps }
  let t : Thr := { (th.setFlag n.flag) with
    ops := th.ops ++ [o]
    long := match n.flag with | some f => if long then th.long ||| (1#12 <<< f) else th.long | none => th.long }
  t.noteWrites (positions k.results)

/-- The latch entry of a result (R53). -/
def resLatch (g : Go) (wide : Bool) (r : Res) (frost : Mask) : Latch :=
  { v := perLane fun l => if g.act.getLsbD l then lane64 r.vals l else 0, valid := g.act, wide := wide,
    tag := r.tag, poison := r.poison &&& g.act, frost := frost }

/-- Commit a fixed-latency result (R53, R60, R73, R74). -/
def commitFixed (g : Go) (r : Res) (s : State) : Except (List Trap) Fin :=
  let a := s.cur
  let th := s.thr a
  let frost := match th.ra with
    | some _ => frostOf g.n g.ops (g.n.sources g.scal) g.act (th.readP s.freeCtr g.n.c.pred.toNat).frost
    | none => 0
  let fp := fpTrap th.fsr (g.act &&& ~~~frost) r.flags
  if r.traps.isEmpty && fp.isEmpty then
    let ws := regWrites g.n th (if frost = 0 then r.mask.getD g.act else g.act) g.alive r frost
    let wide := match g.n.row.dst with | .pred => false | _ => match g.n.dests g.scal with | (_, b) :: _ => b | [] => false
    .ok { s := s.mapThr a fun th =>
            { (th.sendFixed s.clk (latency g.n.row.cls g.scal) g.n.flag ws) with
              fsr := th.fsr ||| (unionFlags g.act r.flags).setWidth 32 },
          latch := resLatch g wide r frost }
  else .error (r.traps ++ fp)

/-- The meaning of a fixed-latency instruction whose result depends on its operands alone. -/
def fixedBody (f : Go → Res) : Body := fun g s => commitFixed g (f g) s

/-- A fixed-latency instruction without a register result that pushes an invalid entry. -/
def commitPlain (g : Go) (s : State) : Fin :=
  { s := s.mapThr s.cur fun th => th.sendFixed s.clk (latency g.n.row.cls g.scal) g.n.flag [] }

/-- Drop queue entries that every group of a team has read or ended before (R38). -/
def Team.freeQueue (t : Team) : Team :=
  let low := t.groups.foldl (fun m g => if g.2.ended then m else min m g.2.uqPos) (t.uqBase + t.uq.length)
  { t with uq := t.uq.drop (low - t.uqBase), uqView := t.uqView.drop (low - t.uqBase), uqBase := max t.uqBase low }

/-- Consume the queue entry that an agent has read. A queue read acts as an acquire fence at .die, of what the entry's qpush
has released (R230). -/
def State.consumeUq (s : State) (a : Agent) : State :=
  match a with
  | .ctl _ => s
  | .grp t _ =>
    let x := s.team t
    let view := x.uqView.getD ((s.thr a).uqPos - x.uqBase) []
    (((s.mapThr a fun th => { (th.noteFence 1 5) with uqPos := th.uqPos + 1 }).mapTeam t Team.freeQueue).acquire a 5).join a 5 view

/-! ### Dependencies (R331) -/

/-- What the value of a register, predicate or handle depends on. -/
def Thr.depsOf (th : Thr) (t : Tgt) : List Dep := (th.deps.filter (·.1 = t)).map (·.2)

/-- What a source depends on. -/
def Thr.srcDeps (th : Thr) (x : Src) : List Dep :=
  let c := x.code.toNat
  if 0xFC ≤ c then []
  else if 0xF8 ≤ c then th.latchDeps.getD (c - 0xF8) []
  else if th.scalar then th.depsOf (.s c)
  else th.depsOf (.v (th.pos c)) ++ (if x.wide then th.depsOf (.v (th.pos (c + 1))) else [])

/-- A dependency of each lane of `m` on its own, or of all of them where one lane's value reaches all. -/
def Dep.onto (m : Mask) (whole : Bool) (d : Dep) : Option Dep :=
  if d.lanes &&& m = 0 then none else some (if whole then ⟨d.seq, m, true⟩ else { d with lanes := d.lanes &&& m })

/-- What the active lanes depend on through some sources, and through handles. -/
def Go.dependsBy (g : Go) (th : Thr) (srcs : List Src) (hs : List Nat) : List Dep :=
  srcs.flatMap (fun x => (th.srcDeps x).filterMap (Dep.onto g.act (x.unif || g.n.row.cls == .exch)))
    ++ hs.flatMap fun h => (th.depsOf (.h h)).filterMap (Dep.onto g.act true)

/-- What the result of an instruction depends on: of a load or atomic on itself, else on what its operands depend on; sel reads a
predicate as data. An exchange depends in every lane on every lane. (DEDUCED, log entry 13.) -/
def Go.resultDeps (g : Go) (before after : Thr) : List Dep :=
  if after.ops.any fun o => o.seq == before.seq && o.kind.reads then
    [⟨before.seq, if g.n.handleDst.isSome then BitVec.allOnes 32 else g.act, g.n.handleDst.isSome⟩]
  else g.dependsBy before (g.n.sources g.scal) g.n.handleUses
    ++ (if g.n.row.opc = 0x16 then (before.depsOf (.k (g.n.bits 0 3).toNat)).filterMap (Dep.onto g.act false) else [])

/-- Whether an instruction is a branch, a call or a return. -/
def Ins.branches (n : Ins) : Bool := decide (0x60 ≤ n.row.opc.toNat) && decide (n.row.opc.toNat ≤ 0x65)

/-- Keep what the results of an instruction, its latch entry and, after a branch, later stores depend on. Loads of which the
thread has met nothing that a copy is older than are forgotten. -/
def Thr.track (th : Thr) (n : Ins) (g : Go) (before : Thr) : Thr :=
  if before.ra.isSome then th
  else
    let live (q : Nat) : Bool := th.ops.any (·.seq == q) || th.seen.any (·.seq == q)
    let new := (g.resultDeps before th).filter fun d => live d.seq
    let dst := (written n before).map (fun p => if before.scalar then Tgt.s p else Tgt.v p) ++ (writtenPred n before).map Tgt.k
      ++ (match n.handleDst with | some h => [Tgt.h h] | none => [])
    let taken (m : Mask) (t : Tgt) : Mask := match t with | .h _ => BitVec.allOnes 32 | _ => m
    let kept := (th.deps.map fun x => if dst.contains x.1 then (x.1, { x.2 with lanes := x.2.lanes &&& ~~~taken g.act x.1 }) else x).filter
      fun x => x.2.lanes != 0 && live x.2.seq
    let cond := if Ins.branches n then (g.dependsBy before (n.sources g.scal) []).map (·.seq)
        ++ (if n.row.noPred then [] else (before.depsOf (.k n.c.pred.toNat)).map (·.seq)) else []
    { th with
      deps := kept ++ (dst.filter (· != .k 0)).flatMap fun t => new.map fun d => (t, d)
      latchDeps := new :: th.latchDeps.drop 1
      ctlDeps := (th.ctlDeps ++ cond.filter fun q => !th.ctlDeps.contains q).filter live }

/-- What a chain's head will have written, and what the registers held before: results on their way, and what it wrote
at once in the lanes `m` (R58). -/
def undoOf (n : Ins) (m : Mask) (before after : Thr) : List RegW :=
  let sent := ((after.pend.filter (·.seq = before.seq)).flatMap (·.ws)) ++
    (after.ops.filter (·.seq = before.seq)).flatMap (·.kind.results)
  let now := (written n before).map (fun p => if before.scalar then Tgt.s p else Tgt.v p)
    ++ (match n.handleDst with | some h => [Tgt.h h] | none => [])
  let direct : List RegW := (now.filter fun t => sent.all (·.tgt ≠ t)).map fun t =>
    { tgt := t, mask := m, v := [], tag := .G, poison := 0, frost := 0, dead := 0 }
  (sent ++ direct).map before.prior

/-- The chain record after an instruction has issued over the lanes `m` (R56). (DEDUCED, log entry 23.) -/
def nextChain (n : Ins) (addr : BitVec 48) (m : Mask) (before after : Thr) : Option Chain :=
  let last := mustBeLast n before.scalar
  if n.readsLatch before.scalar then
    before.chain.map fun c => { c with n := c.n + 1, last := last, reads := c.reads ++ readRegs n before, preds := c.preds ++ readPreds n before }
  else
    some { head := addr, seq := before.seq, last := last, n := 0, reads := readRegs n before, preds := readPreds n before,
           undo := undoOf n m before after }

/-- After the effect: queue entry, latches, chain, place in issue order, PCs (R18, R38, R53, R54). Runahead reads no
queue entry (R218). DIST does not count from a tret (R42). Failed fills are kept for the instruction that met them, which a chain's
head may precede (R310, R313). (DEDUCED, log entry 16.) -/
def finish (n : Ins) (g : Go) (before : Thr) (f : Fin) : State :=
  let a := f.s.cur
  if f.cancel then f.s
  else
    let s := if n.readsUq g.scal && before.ra.isNone then f.s.consumeUq a else f.s
    s.mapThr a fun th =>
      let th := { th with chain := nextChain n g.addr g.act before th, seq := before.seq + 1,
                          stErr := if g.addr = before.faultAt then [] else th.stErr, reopen := none,
                          lastIssue := if n.row.opc = 0x6A then none else some s.clk }
      let th := ((if n.readsLatch g.scal then th else th.dropLatches).pushLatch f.latch).track n g before
      if f.hold then th
      else match f.pcs with
        | some p => { th with pcv := p }
        | none => th.advance g.pres n.len

/-- An instruction with no active lane has no effect, and its flag clears in the next cycle (R33, R43). One that names uq
steps over its queue entry, where there is one (R38). (DEDUCED, log entry 11.) So does exit in handler mode, with no cause,
where a predicate leaves no lane active (R43, R109). (DESIGN CHOICE, log entry 11.) -/
def skip (n : Ins) (g : Go) (s : State) : State :=
  let a := s.cur
  let before := s.thr a
  let s := if n.readsUq g.scal && (s.uqNext a).isSome then s.consumeUq a else s
  s.mapThr a fun th =>
    let th := th.sendFixed s.clk 1 n.flag []
    let th := { th with chain := nextChain n g.addr 0 before th, seq := th.seq + 1, lastIssue := some s.clk }
    ((if n.readsLatch g.scal then th else th.dropLatches).pushLatch Latch.invalid).advance g.pres n.len

/-- Deliver the trap of an instruction (R270 to R274). Flags of a float instruction that traps stay raised
(R74). A failed fill is reported once (R310). An instruction whose cause is held goes on in its chain, or heads one. -/
def deliver (n : Ins) (s : State) (ts : List Trap) (fl : BitVec 5 := 0) : State :=
  let a := s.cur
  match Trap.merge ts with
  | none => s
  | some t =>
    let s := if t.cause = .fptrap then s.mapThr a fun th => { th with fsr := th.fsr ||| fl.setWidth 32 } else s
    let th := s.thr a
    let s := s.takeTrap a n.len (n.readsLatch th.scalar) t
    s.mapThr a fun th' => { th' with seq := th'.seq + 1, stErr := []
                                     chain := if th.handler then nextChain n th.issueAddr 0 th th' else th'.chain }

/-! ### Runahead (R217 to R219) -/

/-- What an opcode does in runahead (Table 14.4). -/
inductive RaAct where
  | run | access | handle | drop | complete | branch | stop
  deriving DecidableEq, Repr

/-- Table 14.4. View instructions are dropped. A uq operand is read as Frost: its instruction is dropped where it does not
end runahead. -/
def raAct (n : Ins) (scal : Bool) (lvl : Nat) : RaAct :=
  let o := n.row.opc.toNat
  if 0 < lvl then .stop
  else match o with
    | 0x00 | 0x73 => .complete
    | 0x7C | 0x7D => .stop
    | 0x8A | 0x8B => .handle
    | 0x80 | 0x82 | 0x84 | 0x88 => .access
    | 0x1E | 0x1F | 0x34 | 0x35 | 0x57 | 0x58 | 0x59 | 0x5A | 0x81 | 0x83 | 0x85 | 0x86 | 0x87 | 0x89 => .drop
    | 0x60 | 0x61 | 0x62 | 0x63 | 0x64 | 0x65 => .branch
    | _ =>
      if (0xA0 ≤ o ∧ o ≤ 0xB8) ∨ (0xC0 ≤ o ∧ o ≤ 0xD8) then .drop
      else match n.row.cls with
        | .short | .exch | .seed => if n.readsUq scal then .drop else .run
        | _ => .stop

/-- Count an instruction issued in runahead. -/
def Thr.countRa (th : Thr) (stop : Bool) : Thr :=
  { th with ra := th.ra.map fun c => { c with count := c.count + 1, ended := c.ended || stop } }

/-- What a runahead instruction has on its way to a register no longer reaches lanes `m`, which a later one makes Frost. -/
def Thr.overtake (th : Thr) (t : Tgt) (m : Mask) : Thr :=
  { th with pend := shadePend th.seq ⟨t, m, [], .G, 0, 0, 0⟩ th.pend }

/-- Mark the destination of an instruction Frost in lanes `m` (R218). -/
def Thr.frostDst (th : Thr) (n : Ins) (m : Mask) : Thr :=
  let th := (written n th).foldl (fun t p =>
    { (t.overtake (.v p) m) with regs := Sparse.put p { (t.vreg p) with frost := (t.vreg p).frost ||| m } t.regs }) (th.noteWrites (written n th))
  let th := (writtenPred n th).foldl (fun t p =>
    if p = 0 then t else { (t.overtake (.k p) m) with preds := Sparse.put p { (t.pred p) with frost := (t.pred p).frost ||| m } t.preds }) th
  match n.handleDst with
  | some h => { th with hs := Sparse.put h { (th.hreg h) with frost := true } th.hs }
  | none => th

/-- The lanes in which an instruction that runahead drops can still meet a cause of its own: those in which no operand and no
handle is Frost, and for DIVZERO the divisor is not (R219). -/
def Go.certain (g : Go) (s : State) : Mask :=
  let th := s.thr s.cur
  let ops := if g.n.row.opc = 0x1E ∨ g.n.row.opc = 0x1F then [g.op 1] else g.ops
  let whole := (g.n.handleUses.any fun h => (th.hreg h).frost) || g.n.readsUq g.scal
    || ((g.n.sources g.scal).zip g.ops).any fun p => p.1.unif && (p.2.frost &&& g.full) != 0
  let pred := if g.n.row.noPred then 0 else (th.readP s.freeCtr g.n.c.pred.toNat).frost
  if whole then 0 else g.full &&& ~~~(ops.foldl (fun m o => m ||| o.frost) pred)

/-- Whether a dropped instruction meets a cause of its own: the checks of hmk, of divisions and of commands; what the lanes of an
access to memory meet is dropped with it (R219). -/
def Go.endsRa (g : Go) (body : Body) (s : State) : Bool :=
  let memory : Bool := [0x81, 0x83, 0x85, 0x86, 0x87, 0x89].contains g.n.row.opc.toNat
  !memory && g.certain s != 0 &&
    match body { g with act := g.certain s } s with
    | .error _ => true
    | .ok _ => false

/-- An instruction issued in runahead (R218): it neither marks nor clears a flag. A cause that it would raise in normal mode ends
runahead, but for those of dropped memory lanes (R219). -/
def issueRa (n : Ins) (x : Extra) (body : Body) (s : State) : State :=
  let a := s.cur
  let th := s.thr a
  let stop : State := s.mapThr a fun t => { (t.countRa true) with lastIssue := some s.clk }
  let m := { n with c := { n.c with setf := 15 } }
  let g := readOperands m a s
  let frostHandle := n.handleUses.any fun h => (th.hreg h).frost
  let uq := n.readsUq th.scalar
  let ok (f : Fin) : State := (finish m g th f).mapThr a fun t => { (t.countRa false) with fsr := th.fsr, wsr := th.wsr }
  let drop : State := ok { s := s.mapThr a fun t => t.frostDst n g.full,
                           latch := { Latch.invalid with valid := if n.row.cls = .var ∨ n.row.cls = .blocking then 0 else g.full,
                                                         frost := g.full } }
  let runs : State := match body g s with
    | .ok f => ok f
    | .error _ => stop
  if (earlyTrap n x th).isSome || (lateTrap n x th).isSome || !g.faults.isEmpty then stop
  else match raAct n th.scalar (x.lvl.getD n.row.lvl) with
    | .stop => stop
    | .complete => ok { s := s }
    | .drop => if g.endsRa body s then stop else drop
    | .handle =>
      if n.row.opc = 0x8A then (if g.endsRa body s then stop else ok { s := s.mapThr a fun t => t.frostDst n g.full })
      else if frostHandle || uq then drop
      else runs
    | .access =>
      if frostHandle || uq then drop
      else match x.ra with
        | some k => ok (k g s)
        | none => drop
    | .branch =>
      let fr := uq || g.ops.any (fun o => (o.frost &&& g.full) != 0)
        || (!n.row.noPred && ((th.readP s.freeCtr n.c.pred.toNat).frost &&& g.pres) != 0)
      if fr then stop
      else if g.full = 0 then ok { s := s }
      else runs
    | .run => if g.full = 0 then ok { s := s } else runs

/-! ### The shared path -/

/-- The causes of an effect beside those of operands: a lane that an operand has faulted raises no other (R144, R271). -/
def Go.others (g : Go) (ts : List Trap) : List Trap :=
  if g.faults.isEmpty then ts
  else (ts.map fun t => { t with lmask := t.lmask &&& g.act }).filter fun t => t.lmask != 0

/-- Issue an instruction of the agent `s.cur` (R65). `fl` gives the float flags that a trap leaves raised
(R74). -/
def issue (n : Ins) (x : Extra) (body : Body) (s : State) (fl : Go → BitVec 5 := fun _ => 0) : State :=
  let a := s.cur
  let s := s.mapThr a (Thr.landDue s.clk)
  let th := s.thr a
  if th.ra.isSome then issueRa n x body s
  else match earlyTrap n x th with
    | some t => deliver n s [t]
    | none =>
      let s := s.mapThr a fun t => { t with wsr := t.wsr ||| n.warns t.scalar ||| x.warn }
      match lateTrap n x th with
      | some t => deliver n s [t]
      | none =>
        let g := readOperands n a s
        if g.full = 0 then skip n g s
        else match body g s with
          | .error ts => deliver n s (g.faults ++ g.others ts) (fl g)
          | .ok f => if g.faults.isEmpty then finish n g (s.thr a) f else deliver n s g.faults

/-- Issue a fixed-latency instruction whose result depends on its operands alone. -/
def issueFixed (n : Ins) (x : Extra) (f : Go → Res) (s : State) : State :=
  issue n x (fixedBody f) s fun g => unionFlags g.act (f g).flags

end Sys2Proof.Machine
end

