-- ==== Sys2Proof/Machine/Integer.lean ====
section
/-! DEFINITION. Integer arithmetic and logic, bit fields, selection, comparison, immediates, moves,
addresses, conversion and division (R91 to R104). -/

namespace Sys2Proof.Machine

open Sys2Proof

/-- What the meanings return. -/
abbrev Out := Host.Outcome State Fault Refusal

/-- A value for each active lane, zero elsewhere. -/
def Go.lanes (g : Go) (f : Nat → BitVec 64) : List (BitVec 64) := perLane fun l => if g.act.getLsbD l then f l else 0

/-- The width of the type. -/
def Go.w (g : Go) : Nat := if is64 g.ty then 64 else 32
/-- Operand i of lane l as an integer of the type (R76, R91). -/
def Go.int (g : Go) (i l : Nat) : Int := intOf (isSigned g.ty) g.w (g.val i l)

/-- A result of the type as a register holds it: a scalar register takes i32 sign-extended and n32
zero-extended (R91). -/
def Go.fit (g : Go) (x : BitVec 64) : BitVec 64 :=
  if is64 g.ty then x else if g.scal && isSigned g.ty then sext 32 x else zext 32 x

/-- An exact integer result, clamped under SAT or reduced (R76, R93). -/
def Go.exact (g : Go) (x : Int) : BitVec 64 := g.fit (narrow g.sat (isSigned g.ty) g.w x)

/-- A lane-wise operation on two integers (R93); `t` is the tag of a 32-bit result (Table 3.4). With SAT = 1 the result of
affine operands need not be affine, and its tag is G. (DESIGN CHOICE, log entry 67.) -/
def intRes (f : Int → Int → Int) (t : Mask → Opd → Opd → Tag) (g : Go) : Res :=
  { vals := g.lanes fun l => g.exact (f (g.int 0 l) (g.int 1 l))
    tag := if is64 g.ty ∨ g.sat then laneTag g.ops else t g.act (g.op 0) (g.op 1) }

/-- The result tag of an operation that Table 3.4 does not list. -/
def plainTag (_ : Mask) (a b : Opd) : Tag := laneTag [a, b]

/-- A lane-wise operation on bits. -/
def bitRes (f : BitVec 64 → BitVec 64 → BitVec 64) (g : Go) : Res :=
  { vals := g.lanes fun l => g.fit (f (g.val 0 l) (g.val 1 l)), tag := laneTag g.ops }

/-- The shift count: bits [31:0] as n32, modulo the width (R93). -/
def Go.shift (g : Go) (l : Nat) : Nat := ((g.val 1 l).setWidth 32 : BitVec 32).toNat % g.w

def resAdd : Go → Res := intRes (· + ·) (sumTag (· + ·))
def resSub : Go → Res := intRes (· - ·) (sumTag (· - ·))
def resMul : Go → Res := intRes (· * ·) fun m a b => scaleTag m a b
/-- The upper half of the product (Table 6.1). -/
def resMulhi (g : Go) : Res :=
  { vals := g.lanes fun l => g.fit (BitVec.ofInt 64 ((g.int 0 l * g.int 1 l) / (2 ^ g.w : Nat))), tag := laneTag g.ops }
def resMin : Go → Res := intRes (fun a b => if a ≤ b then a else b) plainTag
def resMax : Go → Res := intRes (fun a b => if a ≤ b then b else a) plainTag
def resAbs : Go → Res := intRes (fun a _ => if a < 0 then -a else a) fun _ a _ => laneTag [a]
def resNeg : Go → Res := intRes (fun a _ => -a) fun _ a _ => negTag a
def resAnd : Go → Res := bitRes (· &&& ·)
def resOr : Go → Res := bitRes (· ||| ·)
def resXor : Go → Res := bitRes (· ^^^ ·)
def resNot : Go → Res := bitRes fun a _ => ~~~a
def resShl (g : Go) : Res :=
  { vals := g.lanes fun l => g.fit (g.val 0 l <<< g.shift l)
    tag := if is64 g.ty then laneTag g.ops else shlTag (g.op 0) (g.op 1) (g.shift (lowestLane g.act)) }
def resShr (g : Go) : Res :=
  { vals := g.lanes fun l => g.fit (zext g.w (g.val 0 l) >>> g.shift l), tag := laneTag g.ops }
def resSar (g : Go) : Res :=
  { vals := g.lanes fun l => g.fit ((sext g.w (g.val 0 l)).sshiftRight (g.shift l)), tag := laneTag g.ops }
def resRot (g : Go) : Res :=
  { vals := g.lanes fun l =>
      let a := zext g.w (g.val 0 l)
      g.fit ((a <<< g.shift l) ||| (if g.shift l = 0 then 0 else a >>> (g.w - g.shift l)))
    tag := laneTag g.ops }
def resPopc (g : Go) : Res :=
  { vals := g.lanes fun l => BitVec.ofNat 64 (countOnes g.w (g.val 0 l)), tag := laneTag g.ops }
def resClz (g : Go) : Res :=
  { vals := g.lanes fun l => BitVec.ofNat 64 (leadingZeros g.w (g.val 0 l)), tag := laneTag g.ops }

/-- a × b + c (R94); the tag is affine where one factor is and the rest is uniform (Table 3.4). -/
def resMad (g : Go) : Res :=
  { vals := g.lanes fun l => g.exact (g.int 0 l * g.int 1 l + g.int 2 l)
    tag :=
      if is64 g.ty ∨ g.sat then laneTag g.ops
      else if (g.op 2).tag = .U then scaleTag g.act (g.op 0) (g.op 1) (((g.op 2).uni g.act).setWidth 32)
      else .G }

/-- bfe (R96, Table 6.2). -/
def bfe (a ctl : BitVec 64) : BitVec 64 :=
  let pos := bitsOf ctl.toNat 0 5
  let len := bitsOf ctl.toNat 8 6
  let n := min len (32 - pos)
  if len = 0 then 0
  else
    let x := bitsOf a.toNat pos n
    if bitAt ctl.toNat 16 && n == len && bitAt x (n - 1) then BitVec.ofNat 64 (2 ^ 32 - 2 ^ n + x)
    else BitVec.ofNat 64 x

/-- bfi (R96). -/
def bfi (a b ctl : BitVec 64) : BitVec 64 :=
  let pos := bitsOf ctl.toNat 0 5
  let n := min (bitsOf ctl.toNat 8 6) (32 - pos)
  let a32 := a.toNat % 2 ^ 32
  BitVec.ofNat 64 (a32 - bitsOf a32 pos n * 2 ^ pos + bitsOf b.toNat 0 n * 2 ^ pos)

def resBfe (g : Go) : Res := { vals := g.lanes fun l => bfe (g.val 0 l) (g.val 1 l), tag := laneTag g.ops }
def resBfi (g : Go) : Res := { vals := g.lanes fun l => bfi (g.val 0 l) (g.val 1 l) (g.val 2 l), tag := laneTag g.ops }

/-- sel (R97): bit l of kP chooses; poison travels with the value chosen (R156). Where U operands leave different values in
the active lanes, the tag is G. (DESIGN CHOICE, log entry 67.) -/
def resSel (m : Mask) (g : Go) : Res :=
  { vals := g.lanes fun l => if m.getLsbD l then g.val 0 l else g.val 1 l
    poison := ((g.op 0).poison &&& m) ||| ((g.op 1).poison &&& ~~~m)
    tag :=
      let v := g.lanes fun l => if m.getLsbD l then g.val 0 l else g.val 1 l
      if isU g.act v then laneTag g.ops else .G }

/-- The conditions of cmp (R98). -/
def cmpInt (c : Nat) (a b : Int) : Bool :=
  match c with
  | 0 => decide (a = b) | 1 => decide (a ≠ b) | 2 => decide (a < b) | 3 => decide (a ≤ b)
  | 4 => decide (b < a) | _ => decide (b ≤ a)

def resCmp (c : Nat) (g : Go) : Res :=
  { vals := g.lanes fun l => bit64 (cmpInt c (g.int 0 l) (g.int 1 l)), tag := laneTag g.ops }

/-- IMM16 sign-extended (R99). -/
def Ins.simm (n : Ins) : BitVec 64 := (n.bits 0 16).signExtend 64

def natFit (g : Go) (x : BitVec 64) : BitVec 64 := if g.scal then x else zext 32 x

def resAddi (g : Go) : Res :=
  { vals := g.lanes fun l => natFit g (g.val 0 l + Ins.simm g.n), tag := sumTag (· + ·) g.act (g.op 0) (Opd.const (Ins.simm g.n)) }
def resLi (g : Go) : Res := { vals := g.lanes fun _ => natFit g (Ins.simm g.n), tag := .U }
def resLih (g : Go) : Res :=
  { vals := g.lanes fun l =>
      let x := g.val 0 l
      natFit g ((x &&& ~~~0xFFFF0000#64) ||| ((g.n.bits 0 16).setWidth 64 <<< 16))
    tag := if (g.op 0).tag = .U then .U else .G }

/-- mov (R100): all 64 bits in scalar mode, except that a 32-bit literal is extended as R91 gives. -/
def resMov (g : Go) : Res :=
  let lit := g.n.fld .s1 == 0xFF
  { vals := g.lanes fun l =>
      let x := g.val 0 l
      if g.scal then (if lit && g.ty == 0 then sext 32 x else x) else x
    poison := (g.op 0).poison
    tag := if is64 g.ty then laneTag g.ops else (g.op 0).tag }

/-- lea (R101). -/
def resLea (g : Go) : Res :=
  { vals := g.lanes fun l =>
      let b := if g.ty = 0 then sext 32 (g.val 1 l) else zext 32 (g.val 1 l)
      g.val 0 l + (b <<< (if g.n.pay.getLsbD 0 then 2 else 0))
    tag := laneTag g.ops }

/-- The width of an integer type code (Table 4.6). -/
def intWidth (t : Nat) : Nat := if t = 2 ∨ t = 3 then 64 else if t = 13 ∨ t = 14 then 8 else 32

/-- A converted integer as its register holds it: an 8-bit result by R68, a 32-bit one by R91. -/
def placeInt (scal : Bool) (t : Nat) (x : BitVec 64) : BitVec 64 :=
  match t with
  | 2 | 3 => x
  | 13 => if scal then sext 8 x else zext 32 (sext 8 x)
  | 14 => zext 8 x
  | 0 => if scal then sext 32 x else zext 32 x
  | _ => zext 32 x

/-- cvt (R102). -/
def resCvt (g : Go) : Res :=
  { vals := g.lanes fun l =>
      let x := intOf (isSigned g.st) (intWidth g.st) (g.val 0 l)
      placeInt g.scal g.ty (narrow g.sat (isSigned g.ty) (intWidth g.ty) x)
    tag := laneTag g.ops }

/-- The lanes with a zero divisor (R104). -/
def zeroDivisors (g : Go) : Mask := maskOf fun l => g.act.getLsbD l && g.int 1 l == 0

/-- Put a variable-latency register result in flight, or take its causes. -/
def commitVar (g : Go) (r : Res) (s : State) : Except (List Trap) Fin :=
  if r.traps.isEmpty then
    .ok { s := s.mapThr s.cur fun th => th.sendVar g.n false 8 false (.result (regWrites g.n th g.act g.alive r 0) 0) }
  else .error r.traps

/-- A quotient or remainder, or DIVZERO (R103, R104). -/
def divBody (f : Int → Int → Int) : Body := fun g s =>
  let z := zeroDivisors g
  if z = 0 then commitVar g { vals := g.lanes fun l => g.exact (f (g.int 0 l) (g.int 1 l)), tag := laneTag g.ops } s
  else .error [{ cause := .divzero, lmask := z, tval := 0 }]

/-! ### The instructions -/

def execNop (c : Ctl) (p : PayA) (s : State) : Out := .next (issue (p.ins Rows.rowNop c) {} (fun g s => .ok (commitPlain g s)) s)
def execAdd (c : Ctl) (p : PayA) (s : State) : Out := .next (issueFixed (p.ins Rows.rowAdd c) {} resAdd s)
def execSub (c : Ctl) (p : PayA) (s : State) : Out := .next (issueFixed (p.ins Rows.rowSub c) {} resSub s)
def execMul (c : Ctl) (p : PayA) (s : State) : Out := .next (issueFixed (p.ins Rows.rowMul c) {} resMul s)
def execMulhi (c : Ctl) (p : PayA) (s : State) : Out := .next (issueFixed (p.ins Rows.rowMulhi c) {} resMulhi s)
def execMad (c : Ctl) (p : PayB) (s : State) : Out := .next (issueFixed (p.ins Rows.rowMad c) {} resMad s)
def execMin (c : Ctl) (p : PayA) (s : State) : Out := .next (issueFixed (p.ins Rows.rowMin c) {} resMin s)
def execMax (c : Ctl) (p : PayA) (s : State) : Out := .next (issueFixed (p.ins Rows.rowMax c) {} resMax s)
def execAbs (c : Ctl) (p : PayA) (s : State) : Out := .next (issueFixed (p.ins Rows.rowAbs c) {} resAbs s)
def execNeg (c : Ctl) (p : PayA) (s : State) : Out := .next (issueFixed (p.ins Rows.rowNeg c) {} resNeg s)
def execAnd (c : Ctl) (p : PayA) (s : State) : Out := .next (issueFixed (p.ins Rows.rowAnd c) {} resAnd s)
def execOr (c : Ctl) (p : PayA) (s : State) : Out := .next (issueFixed (p.ins Rows.rowOr c) {} resOr s)
def execXor (c : Ctl) (p : PayA) (s : State) : Out := .next (issueFixed (p.ins Rows.rowXor c) {} resXor s)
def execNot (c : Ctl) (p : PayA) (s : State) : Out := .next (issueFixed (p.ins Rows.rowNot c) {} resNot s)
def execShl (c : Ctl) (p : PayA) (s : State) : Out := .next (issueFixed (p.ins Rows.rowShl c) {} resShl s)
def execShr (c : Ctl) (p : PayA) (s : State) : Out := .next (issueFixed (p.ins Rows.rowShr c) {} resShr s)
def execSar (c : Ctl) (p : PayA) (s : State) : Out := .next (issueFixed (p.ins Rows.rowSar c) {} resSar s)
def execRot (c : Ctl) (p : PayA) (s : State) : Out := .next (issueFixed (p.ins Rows.rowRot c) {} resRot s)
def execPopc (c : Ctl) (p : PayA) (s : State) : Out := .next (issueFixed (p.ins Rows.rowPopc c) {} resPopc s)
def execClz (c : Ctl) (p : PayA) (s : State) : Out := .next (issueFixed (p.ins Rows.rowClz c) {} resClz s)
def execBfe (c : Ctl) (p : PayB) (s : State) : Out := .next (issueFixed (p.ins Rows.rowBfe c) {} resBfe s)
def execBfi (c : Ctl) (p : PayB) (s : State) : Out := .next (issueFixed (p.ins Rows.rowBfi c) {} resBfi s)

/-- sel reads its predicate beside its operands (R97); in scalar mode a predicate other than k0 takes MODE.
A Frost predicate bit makes the lane's result Frost with its operands (R217). -/
def execSel (c : Ctl) (p : PayB) (s : State) : Out :=
  let n := p.ins Rows.rowSel c
  let k := (n.bits 0 3).toNat
  .next (issue n { mode := (s.thr s.cur).scalar && k != 0 } (fun g s =>
    let pr := (s.thr s.cur).readP s.freeCtr k
    commitFixed { g with ops := g.ops.map fun o => { o with frost := o.frost ||| pr.frost } } (resSel pr.v g) s) s)

def execCmp (c : Ctl) (p : PayA) (s : State) : Out :=
  let n := p.ins Rows.rowCmp c
  let k := (n.bits 1 3).toNat
  .next (issueFixed n { bad := decide (6 ≤ k) } (resCmp k) s)

def execAddi (c : Ctl) (p : PayI) (s : State) : Out := .next (issueFixed (p.ins Rows.rowAddi c) {} resAddi s)
def execLi (c : Ctl) (p : PayI) (s : State) : Out := .next (issueFixed (p.ins Rows.rowLi c) {} resLi s)
def execLih (c : Ctl) (p : PayI) (s : State) : Out := .next (issueFixed (p.ins Rows.rowLih c) {} resLih s)
def execMov (c : Ctl) (p : PayA) (s : State) : Out := .next (issueFixed (p.ins Rows.rowMov c) {} resMov s)
def execLea (c : Ctl) (p : PayA) (s : State) : Out := .next (issueFixed (p.ins Rows.rowLea c) {} resLea s)
def execCvt (c : Ctl) (p : PayC) (s : State) : Out := .next (issueFixed (p.ins Rows.rowCvt c) {} resCvt s)
def execDiv (c : Ctl) (p : PayA) (s : State) : Out := .next (issue (p.ins Rows.rowDiv c) {} (divBody Int.tdiv) s)
def execRem (c : Ctl) (p : PayA) (s : State) : Out := .next (issue (p.ins Rows.rowRem c) {} (divBody Int.tmod) s)

end Sys2Proof.Machine
end

