-- ==== Sys2Proof/Machine/Lane.lean ====
section
/-! DEFINITION. Lane and group instructions (R170 to R190): exchanges, reductions, sorting, and the
regrouping table. -/

namespace Sys2Proof.Machine

open Sys2Proof

/-! ### Moving values between lanes (R172, R173) -/

/-- The lane whose value lane l receives in shfl, where there is one. -/
def shflSource (mode l : Nat) (x : BitVec 64) : Option Nat :=
  let n : BitVec 32 := x.setWidth 32
  match mode with
  | 0 => some (n.toNat % 32)
  | 1 => if n.toNat ≤ l then some (l - n.toNat) else none
  | 2 => if l + n.toNat < 32 then some (l + n.toNat) else none
  | _ => some ((BitVec.ofNat 5 l) ^^^ (n.setWidth 5)).toNat

/-- shfl (R172). -/
def resShfl (g : Go) : Res :=
  let mode := (g.n.bits 2 2).toNat
  let from_ (l : Nat) : Nat :=
    match shflSource mode l (g.val 1 l) with
    | some j => if g.act.getLsbD j then j else l
    | none => l
  let named : Bool := (lanesOf g.act).all fun l => match shflSource mode l (g.val 1 l) with
    | some j => g.act.getLsbD j
    | none => false
  { vals := g.lanes fun l => g.val 0 (from_ l)
    poison := maskOf fun l => g.act.getLsbD l && (g.op 0).poison.getLsbD (from_ l)
    tag := if mode = 0 ∧ (g.op 1).tag = .U ∧ named ∧ g.alive &&& ~~~g.act = 0 then .U else .G }

/-- The highest active lane that names lane t in lperm (R173). -/
def lpermSource (g : Go) (t : Nat) : Option Nat :=
  (lanesOf g.act).reverse.find? fun j => (g.val 1 j).toNat % 32 = t

/-- lperm (R173): an active lane that no lane names keeps D. Its latch lane holds D with its Frost mark
(R217), or a free value where WB = 0. (DEDUCED, log entry 21.) -/
def lpermBody : Body := fun g s =>
  let th := s.thr s.cur
  let named : Mask := maskOf fun t => g.act.getLsbD t && (lpermSource g t).isSome
  let d := (g.n.fld .d).toNat
  let old (l : Nat) : BitVec 64 :=
    if g.wb then lane32 (th.readV s.freeCtr (th.pos (d + 1))).v l ++ lane32 (th.readV s.freeCtr (th.pos d)).v l
    else Config.freeWord s.freeCtr (70000 + l)
  let oldP := if g.wb then (th.readV s.freeCtr (th.pos d)).poison else 0
  let from_ (l : Nat) : Nat := (lpermSource g l).getD l
  let frost : Mask := if g.wb && th.ra.isSome then
      (th.readV s.freeCtr (th.pos d)).frost ||| (if is64 g.ty then (th.readV s.freeCtr (th.pos (d + 1))).frost else 0) else 0
  (commitFixed g
    { vals := g.lanes fun l => if named.getLsbD l then g.val 0 (from_ l) else if is64 g.ty then old l else zext 32 (old l)
      poison := maskOf fun l => if named.getLsbD l then (g.op 0).poison.getLsbD (from_ l) else g.act.getLsbD l && oldP.getLsbD l
      mask := some named } s).map fun f =>
    { f with latch := { f.latch with frost := f.latch.frost ||| (frost &&& g.act &&& ~~~named) } }

/-- bcast (R173). -/
def resBcast (g : Go) : Res :=
  let j := if g.n.pay.getLsbD 0 then highestLane g.act else lowestLane g.act
  { vals := g.lanes fun _ => g.val 0 j
    poison := if (g.op 0).poison.getLsbD j then g.act else 0
    tag := .U }

/-- A condition read as n32. -/
def Go.cond (g : Go) (l : Nat) : Bool := zext 32 (g.val 0 l) != 0

/-- ffs (R173). -/
def resFfs (g : Go) : Res :=
  let m : Mask := maskOf fun l => g.act.getLsbD l && g.cond l
  let j := if g.n.pay.getLsbD 0 then highestLane m else lowestLane m
  { vals := g.lanes fun _ => BitVec.ofNat 64 j, tag := .U }

/-- The bits that vote.same, match and cmpct compare, in the width of TYPE (R174, R175): of f16 and bf16 the low 16 (R68). -/
def Go.key (g : Go) (l : Nat) : BitVec 64 := if is64 g.ty then g.val 0 l else zext (8 * tyBytes g.ty) (g.val 0 l)

/-- The active lanes whose key is x. -/
def Go.sameKey (g : Go) (x : BitVec 64) : Mask := maskOf fun l => g.act.getLsbD l && g.key l == x

/-- vote (R174). -/
def resVote (g : Go) : Res :=
  let m : Mask := maskOf fun l => g.act.getLsbD l && g.cond l
  let x : BitVec 64 := match (g.n.bits 1 3).toNat with
    | 0 => m.setWidth 64
    | 1 => BitVec.ofNat 64 (lanesOf m).length
    | 2 => bit64 (m != 0)
    | 3 => bit64 (m == g.act)
    | _ => (g.sameKey (g.key (lowestLane g.act))).setWidth 64
  { vals := g.lanes fun _ => x, tag := .U }

/-! ### Grouping lanes by key (R175, R176) -/

def resMatch (g : Go) : Res := { vals := g.lanes fun l => (g.sameKey (g.key l)).setWidth 64 }

/-- The active lanes in grouped order: keys in the order of their first occurrence (R176). -/
def grouped (g : Go) : List Nat :=
  let a := lanesOf g.act
  sortBy (fun x y => decide (lowestLane (g.sameKey (g.key x)) < lowestLane (g.sameKey (g.key y)))) a

def resCmpct (g : Go) : Res :=
  let a := lanesOf g.act
  let order := grouped g
  { vals := g.lanes fun l => BitVec.ofNat 64 (a.getD ((findIdx (· == l) order).getD 0) 0) }

/-! ### Reductions (R86, R177 to R180) -/

/-- One combination (R177): 0 add, 1 min, 2 max, 3 and, 4 or, 5 xor. -/
def combine (op ty : Nat) (a b : BitVec 64) : BitVec 64 × BitVec 5 :=
  let w := if is64 ty then 64 else 32
  let less : Bool := decide (intOf (isSigned ty) w a ≤ intOf (isSigned ty) w b)
  match op with
  | 0 => if ty = 4 then Fp.add Fp.f32 0 a b else (zext w (a + b), 0)
  | 1 => if ty = 4 then Fp.minMax Fp.f32 false a b else (if less then a else b, 0)
  | 2 => if ty = 4 then Fp.minMax Fp.f32 true a b else (if less then b else a, 0)
  | 3 => (a &&& b, 0)
  | 4 => (a ||| b, 0)
  | _ => (a ^^^ b, 0)

/-- A slot of the trees of R86: EMPTY, or a value with the flags raised in forming it. -/
abbrev Slot := Option (BitVec 64 × BitVec 5)

/-- comb of R86. -/
def comb (op ty : Nat) (a b : Slot) : Slot :=
  match a, b with
  | none, y => y
  | x, none => x
  | some (x, f), some (y, h) => let r := combine op ty x y; some (r.1, r.2 ||| f ||| h)

/-- The slots of the active lanes of a mask. -/
def Go.slots (g : Go) (m : Mask) : List Slot :=
  perLane fun l => if m.getLsbD l then some (if is64 g.ty then g.val 0 l else zext 32 (g.val 0 l), 0) else none

/-- The pairwise tree of R86: one step combines neighbours and halves the list. -/
def pairUp (op ty : Nat) : List Slot → List Slot
  | a :: b :: r => comb op ty a b :: pairUp op ty r
  | r => r

/-- The tree over 32 slots. -/
def tree (op ty : Nat) (t : List Slot) : Slot :=
  let f := pairUp op ty
  (f (f (f (f (f t))))).headD none

/-- One step of the inclusive scan of R86. -/
def scanStep (op ty w : Nat) (t : List Slot) : List Slot :=
  perLane fun l => if l < w then t.getD l none else comb op ty (t.getD (l - w) none) (t.getD l none)

/-- The inclusive scan. -/
def scanAll (op ty : Nat) (t : List Slot) : List Slot := [1, 2, 4, 8, 16].foldl (fun t w => scanStep op ty w t) t

/-- The identity of an exclusive scan (Table 11.2). -/
def identity (op ty : Nat) : BitVec 64 :=
  let w := if is64 ty then 64 else 32
  if ty = 4 then
    match op with
    | 0 => 0x80000000 | 1 => 0x7F800000 | 2 => 0xFF800000 | 3 => 0xFFFFFFFF | _ => 0
  else
    match op with
    | 1 => zext w (BitVec.ofInt 64 (maxOf (isSigned ty) w))
    | 2 => zext w (BitVec.ofInt 64 (minOf (isSigned ty) w))
    | 3 => zext w (BitVec.allOnes 64)
    | _ => 0

def slotVal (x : Slot) : BitVec 64 := match x with | some (v, _) => v | none => 0
def slotFlags (x : Slot) : BitVec 5 := match x with | some (_, f) => f | none => 0

/-- The flags of every combination, counted as raised by every active lane (R177). -/
def Go.allFlags (g : Go) (f : BitVec 5) : List (BitVec 5) := perLane fun l => if g.act.getLsbD l then f else 0

/-- OP of scan, red and segred. -/
def Go.redOp (g : Go) : Nat := (g.n.bits 1 3).toNat

/-- red (R178). -/
def resRed (g : Go) : Res :=
  let x := tree g.redOp g.ty (g.slots g.act)
  { vals := g.lanes fun _ => slotVal x, tag := .U, flags := g.allFlags (slotFlags x) }

/-- scan (R179). An exclusive scan combines the highest active lane's operand too, which no result uses: its flags are raised, and
its poison is taken. (DESIGN CHOICE, log entry 74.) -/
def resScan (g : Go) : Res :=
  let t := scanAll g.redOp g.ty (g.slots g.act)
  let ex := g.n.pay.getLsbD 0
  { vals := g.lanes fun l =>
      if ex then
        match ((lanesOf g.act).filter (· < l)).getLast? with
        | some j => slotVal (t.getD j none)
        | none => identity g.redOp g.ty
      else slotVal (t.getD l none)
    flags := g.allFlags (t.foldl (fun f x => f ||| slotFlags x) 0) }

/-- The segment of each lane: the active lanes from it in either direction while the key stays the same (R180). -/
def segment (g : Go) (l : Nat) : Mask :=
  let k := zext 32 (g.val 1 l)
  let diff (j : Nat) : Bool := zext 32 (g.val 1 j) != k
  maskOf fun j => g.act.getLsbD j && !(lanesOf g.act).any fun i =>
    (decide (l ≤ i ∧ i ≤ j) || decide (j ≤ i ∧ i ≤ l)) && diff i

def resSegred (g : Go) : Res :=
  let xs := perLane fun l => if g.act.getLsbD l then tree g.redOp g.ty (g.slots (segment g l)) else none
  { vals := xs.map slotVal, flags := g.allFlags (xs.foldl (fun f x => f ||| slotFlags x) 0) }

/-! ### Sorting and selection (R181 to R184) -/

/-- A (key, id) pair. -/
abbrev KeyId := BitVec 32 × BitVec 32

/-- KT after fallback: whether keys are i32 (R171, R188). -/
def Go.intKeys (g : Go) : Bool := (g.n.bits 5 3).toNat == 1

/-- Compare two keys (R181). -/
def cmpKey (int : Bool) (a b : BitVec 32) : Ordering :=
  if int then compare a.toInt b.toInt
  else
    let x := Fp.decode Fp.f32 (a.setWidth 64)
    let y := Fp.decode Fp.f32 (b.setWidth 64)
    match x.isNan, y.isNan with
    | true, true => .eq
    | true, false => .lt
    | false, true => .gt
    | false, false => Fp.cmpV x y

/-- Whether a pair ranks above another by key and id (R181). -/
def ranksAbove (int : Bool) (p q : KeyId) : Bool :=
  match cmpKey int p.1 q.1 with
  | .gt => true
  | .lt => false
  | .eq => decide (p.2.toNat < q.2.toNat)

/-- The filler pair. -/
def filler (int : Bool) : KeyId := (if int then 0x80000000 else 0xFF800000, 0xFFFFFFFF)

/-- The pairs of two operands, with fillers in the lanes that are not active. -/
def Go.pairs (g : Go) (i j : Nat) : List KeyId :=
  perLane fun l => if g.act.getLsbD l then ((g.val i l).setWidth 32, (g.val j l).setWidth 32) else filler g.intKeys

/-- The pairs in rank order. -/
def ranked (g : Go) : List KeyId := sortBy (ranksAbove g.intKeys) (g.pairs 0 1)

/-- The merge of R184. -/
def mergeLists (int : Bool) : Nat → List KeyId → List KeyId → List KeyId
  | 0, _, _ => []
  | n + 1, a, b =>
    match a, b with
    | x :: xs, y :: ys => if ranksAbove int y x then y :: mergeLists int n a ys else x :: mergeLists int n xs b
    | x :: xs, [] => x :: mergeLists int n xs []
    | [], y :: ys => y :: mergeLists int n [] ys
    | [], [] => []

/-- Writes of several values, one for each destination of the instruction, over lanes `m`. -/
def manyWrites (g : Go) (th : Thr) (m : Mask) (t : Tag) (vs : List (List (BitVec 64) × Mask)) : List RegW :=
  if g.wb then
    ((g.n.dests g.scal).zip vs).flatMap fun x =>
      let w (tgt : Tgt) (v : List (BitVec 64)) : RegW :=
        { tgt := tgt, mask := m, v := v, tag := writeTag g.alive m t, poison := x.2.2, frost := 0, dead := 0 }
      if g.scal then [w (.s x.1.1.toNat) x.2.1]
      else if x.1.2 then
        [w (.v (th.pos x.1.1.toNat)) x.2.1, w (.v (th.pos (x.1.1.toNat + 1))) (x.2.1.map fun (y : BitVec 64) => y >>> 32)]
      else [w (.v (th.pos x.1.1.toNat)) x.2.1]
  else []

/-- The result list of srt, topk and kmerge on its way to the pair D. -/
def sortBody (f : Go → List KeyId) : Body := fun g s =>
  let out := f g
  let keys : List (BitVec 64) := perLane fun l => (out.getD l (0, 0)).1.setWidth 64
  let ids : List (BitVec 64) := perLane fun l => (out.getD l (0, 0)).2.setWidth 64
  let ws (th : Thr) : List RegW := manyWrites g th g.act .G [(keys, 0), (ids, 0)]
  .ok { s := s.mapThr s.cur fun th => th.sendVar g.n false 8 false (.result (ws th) 0) }

def srtList (g : Go) : List KeyId := if g.n.pay.getLsbD 0 then (ranked g).reverse else ranked g
def topkList (g : Go) : List KeyId :=
  let k := (g.n.bits 0 5).toNat + 1
  (ranked g).take k ++ List.replicate (32 - k) (filler g.intKeys)
def kmergeList (g : Go) : List KeyId := mergeLists g.intKeys 32 (g.pairs 0 1) (g.pairs 2 3)

/-! ### The regrouping table (R185 to R187) -/

/-- Entries in all bins of a team. -/
def Team.binned (t : Team) : Nat := t.bins.foldl (fun k b => k + b.2.length) 0

/-- Entries of one bin. -/
def Team.bin (t : Team) (b : Nat) : List RgEntry := Sparse.get [] b t.bins

/-- The team of an agent; a control core has none. -/
def teamOf : Agent → Nat
  | .grp t _ => t
  | .ctl _ => 0

/-- The group number of an agent. -/
def groupIx : Agent → Nat
  | .grp _ g => g
  | .ctl _ => 0

/-- Append entries of one rgput: ahead of those that a higher group's rgput has appended in the same cycle (R186). -/
def binAppend (clk grp : Nat) (old new : List RgEntry) : List RgEntry :=
  let late (e : RgEntry) : Bool := e.clk == clk && decide (grp < e.grp)
  old.filter (fun e => !late e) ++ new ++ old.filter late

/-- rgput (R186): appends one entry for each active lane; without room the group waits. Each entry carries what the group has
released before it, and what its release fences put before it and is still in flight (R190). -/
def rgputBody : Body := fun g s =>
  let th := s.thr s.cur
  let behind (o : VOp) : Bool := th.fences.any fun f => f.2.1 != 1 && decide (o.seq < f.1)
  let k := teamOf s.cur
  let b := (g.n.bits 24 2).toNat
  let n := (g.n.bits 0 2).toNat + 1
  let lanes := lanesOf g.act
  let grp := groupIx s.cur
  let entry (l : Nat) : RgEntry :=
    { clk := s.clk, grp := grp, view := th.fencedOff, ops := (th.ops.filter behind).map fun o => (s.cur, o.seq)
      vals := (List.range n).map fun i => (g.val (i + 1) l).setWidth 32
      tag := (g.val 0 l).setWidth 32
      poison := (List.range n).foldl (fun p i => if (g.op (i + 1)).poison.getLsbD l then p ||| (1#5 <<< i) else p)
        (if (g.op 0).poison.getLsbD l then 16 else 0) }
  if (s.team k).rgq < (s.team k).binned + lanes.length then .ok { s := s, cancel := true }
  else
    let s := s.mapTeam k fun t => { t with bins := Sparse.put b (binAppend s.clk grp (t.bin b) (lanes.map entry)) t.bins }
    .ok { s := s.mapThr s.cur fun th => th.sendFixed s.clk 1 g.n.flag [] }

/-- What the entries of an rgget bring with them, for the group's accesses after its next acquire (R190). -/
def State.takeOrder (s : State) (a : Agent) (es : List RgEntry) : State :=
  let seq := (s.thr a).seq
  let known := (es.flatMap (·.view)).map fun c =>
    ({ c := c, seq := seq, lane := 0, acc := (c.a, c.n), strong := 0, load := true, weak := false, via := true, rel := 0 } : Know)
  let ops := (es.flatMap (·.ops)).map fun x => (false, x)
  (s.note a known).mapThr a fun th => { th with owed := (th.owed.filter fun x => !s.landed [x.2]) ++ ops.filter fun x => !th.owed.contains x }

/-- rgget (R187): takes the oldest entries, one for each lane from lane 0; the other lanes exit. -/
def rggetBody : Body := fun g s =>
  let k := teamOf s.cur
  let b := (g.n.bits 2 2).toNat
  let n := (g.n.bits 0 2).toNat + 1
  let es := ((s.team k).bin b).take 32
  let m : Mask := maskOf fun l => decide (l < es.length)
  let e (l : Nat) : RgEntry := es.getD l { vals := [], tag := 0, poison := 0 }
  let col (f : RgEntry → BitVec 32) : List (BitVec 64) := perLane fun l => (f (e l)).setWidth 64
  let pois (i : Nat) : Mask := maskOf fun l => (e l).poison.getLsbD i
  let vs := (List.range n).map (fun i => (col fun x => x.vals.getD i 0, pois i)) ++ [(col (·.tag), pois 4)]
  let next := g.addr + BitVec.ofNat 48 (8 * g.n.len)
  let s := s.mapTeam k fun t => { t with bins := Sparse.put b ((t.bin b).drop es.length) t.bins }
  .ok { s := (s.takeOrder s.cur es).mapThr s.cur fun th => th.sendVar g.n false 8 false (.result (manyWrites g th m .G vs) 0)
        pcs := some (perLane fun l => if m.getLsbD l then next else exitedPc) }

/-- What rgget asks before it issues (R187), and both of a team with no quota (R185). -/
def rgBad (n : Ins) (s : State) : Bool :=
  let th := s.thr s.cur
  (s.team (teamOf s.cur)).rgq == 0 ||
    (n.row.opc == 0x5B && (n.c.pred != 0 || n.c.pn == 1 || th.present != th.alive))

/-! ### The instructions -/

def execShfl (c : Ctl) (p : PayA) (s : State) : Out := .next (issueFixed (p.ins Rows.rowShfl c) {} resShfl s)

def execVote (c : Ctl) (p : PayA) (s : State) : Out :=
  let n := p.ins Rows.rowVote c
  .next (issueFixed n { bad := decide (5 ≤ (n.bits 1 3).toNat) } resVote s)

def execMatch (c : Ctl) (p : PayA) (s : State) : Out := .next (issueFixed (p.ins Rows.rowMatch c) {} resMatch s)
def execCmpct (c : Ctl) (p : PayA) (s : State) : Out := .next (issueFixed (p.ins Rows.rowCmpct c) {} resCmpct s)

def execScan (c : Ctl) (p : PayA) (s : State) : Out :=
  let n := p.ins Rows.rowScan c
  .next (issueFixed n { bad := decide (6 ≤ (n.bits 1 3).toNat) } resScan s)

def execRed (c : Ctl) (p : PayA) (s : State) : Out :=
  let n := p.ins Rows.rowRed c
  .next (issueFixed n { bad := decide (6 ≤ (n.bits 1 3).toNat) } resRed s)

def execSegred (c : Ctl) (p : PayA) (s : State) : Out :=
  let n := p.ins Rows.rowSegred c
  .next (issueFixed n { bad := decide (6 ≤ (n.bits 1 3).toNat) } resSegred s)

def execSrt (c : Ctl) (p : PayA) (s : State) : Out := .next (issue (p.ins Rows.rowSrt c) {} (sortBody srtList) s)
def execTopk (c : Ctl) (p : PayA) (s : State) : Out := .next (issue (p.ins Rows.rowTopk c) {} (sortBody topkList) s)
def execKmerge (c : Ctl) (p : PayA) (s : State) : Out := .next (issue (p.ins Rows.rowKmerge c) {} (sortBody kmergeList) s)

def execRgput (c : Ctl) (p : PayA) (s : State) : Out :=
  let n := p.ins Rows.rowRgput c
  .next (issue n { bad := rgBad n s } rgputBody s)

def execRgget (c : Ctl) (p : PayA) (s : State) : Out :=
  let n := p.ins Rows.rowRgget c
  .next (issue n { bad := rgBad n s } rggetBody s)

def execLperm (c : Ctl) (p : PayA) (s : State) : Out := .next (issue (p.ins Rows.rowLperm c) {} lpermBody s)
def execBcast (c : Ctl) (p : PayA) (s : State) : Out := .next (issueFixed (p.ins Rows.rowBcast c) {} resBcast s)
def execFfs (c : Ctl) (p : PayA) (s : State) : Out := .next (issueFixed (p.ins Rows.rowFfs c) {} resFfs s)

end Sys2Proof.Machine
end

