-- ==== Sys2Proof/Machine/Aes.lean ====
section
/-! DEFINITION. AES-256 in XTS mode over one 32-byte data unit (R147), from FIPS 197 and IEEE 1619. The S-box
is computed from its definition in GF(2^8). -/

namespace Sys2Proof.Machine.Aes

open Sys2Proof

/-- Multiply by x in GF(2^8) modulo x^8 + x^4 + x^3 + x + 1. -/
def xtime (b : Byte) : Byte := if b.getLsbD 7 then (b <<< 1) ^^^ 0x1B else b <<< 1

/-- The product over the n low bits of the second factor. -/
def gmulN : Nat → Byte → Byte → Byte
  | 0, _, _ => 0
  | n + 1, a, b => (if b.getLsbD 0 then a else 0) ^^^ gmulN n (xtime a) (b >>> 1)

/-- The product in GF(2^8). -/
def gmul (a b : Byte) : Byte := gmulN 8 a b

/-- The inverse, x^254; 0 for 0. -/
def ginv (x : Byte) : Byte :=
  let x2 := gmul x x
  let x4 := gmul x2 x2
  let x8 := gmul x4 x4
  let x16 := gmul x8 x8
  let x32 := gmul x16 x16
  let x64 := gmul x32 x32
  let x128 := gmul x64 x64
  gmul x2 (gmul x4 (gmul x8 (gmul x16 (gmul x32 (gmul x64 x128)))))

/-- The S-box of one byte. -/
def sub (x : Byte) : Byte :=
  let b := ginv x
  b ^^^ b.rotateLeft 1 ^^^ b.rotateLeft 2 ^^^ b.rotateLeft 3 ^^^ b.rotateLeft 4 ^^^ 0x63

/-- The inverse S-box of one byte. -/
def invSub (x : Byte) : Byte := ginv (x.rotateLeft 1 ^^^ x.rotateLeft 3 ^^^ x.rotateLeft 6 ^^^ 0x05)

def xorL (a b : List Byte) : List Byte := List.zipWith (· ^^^ ·) a b

/-- The word before word i of the key schedule, changed as AES-256 changes it. -/
def schedWord (i : Nat) (rcon : Byte) (w : List Byte) : List Byte :=
  if i % 8 = 0 then
    match w with
    | [a, b, c, d] => [sub b ^^^ rcon, sub c, sub d, sub a]
    | _ => w
  else if i % 8 = 4 then w.map sub else w

/-- Extend the key schedule by n words; the words are kept newest first. -/
def schedule : Nat → Nat → Byte → List (List Byte) → List (List Byte)
  | 0, _, _, ws => ws
  | n + 1, i, rcon, ws =>
    let w := xorL (ws.getD 7 []) (schedWord i rcon (ws.headD []))
    schedule n (i + 1) (if i % 8 = 0 then xtime rcon else rcon) (w :: ws)

/-- Cut a list into pieces of 4. -/
def quads : Nat → List Byte → List (List Byte)
  | 0, _ => []
  | n + 1, bs => bs.take 4 :: quads n (bs.drop 4)

/-- The 15 round keys of a 32-byte key, 16 bytes each. -/
def roundKeys (key : List Byte) : List (List Byte) :=
  let ws := (schedule 52 8 1 (quads 8 key).reverse).reverse
  (List.range 15).map fun r => ((List.range 4).map fun i => ws.getD (4 * r + i) []).flatten

/-- Byte r + 4c moves from column c + r (the inverse: c − r). -/
def shiftRows (back : Bool) (s : List Byte) : List Byte :=
  (List.range 16).map fun i =>
    let r := i % 4
    let c := i / 4
    s.getD (r + 4 * ((c + (if back then 4 - r else r)) % 4)) 0

/-- One column times a circulant row of coefficients. -/
def mixColumn (k : List Byte) (col : List Byte) : List Byte :=
  (List.range 4).map fun r =>
    (List.range 4).foldl (fun acc j => acc ^^^ gmul (k.getD ((j + 4 - r) % 4) 0) (col.getD j 0)) 0

def mixColumns (k : List Byte) (s : List Byte) : List Byte :=
  ((quads 4 s).map (mixColumn k)).flatten

/-- Encrypt one 16-byte block. -/
def encryptRounds : List (List Byte) → List Byte → List Byte
  | [], s => s
  | [k], s => xorL k (shiftRows false (s.map sub))
  | k :: ks, s => encryptRounds ks (xorL k (mixColumns [2, 3, 1, 1] (shiftRows false (s.map sub))))

def encrypt (ks : List (List Byte)) (b : List Byte) : List Byte :=
  match ks with
  | [] => b
  | k :: r => encryptRounds r (xorL k b)

/-- Decrypt one block with the round keys newest first. -/
def decryptRounds : List (List Byte) → List Byte → List Byte
  | [], s => s
  | [k], s => xorL k ((shiftRows true s).map invSub)
  | k :: ks, s => decryptRounds ks (mixColumns [14, 11, 13, 9] (xorL k ((shiftRows true s).map invSub)))

def decrypt (ks : List (List Byte)) (b : List Byte) : List Byte :=
  match ks.reverse with
  | [] => b
  | k :: r => decryptRounds r (xorL k b)

/-- Multiply a tweak by α in GF(2^128), least significant byte first. -/
def double (t : List Byte) : List Byte :=
  let go := t.foldl (fun (acc : List Byte × Bool) (b : Byte) =>
    (acc.1 ++ [(b <<< 1) ||| (if acc.2 then 1 else 0)], b.getLsbD 7)) (([] : List Byte), false)
  match go.1, go.2 with
  | b :: r, true => (b ^^^ 0x87) :: r
  | bs, _ => bs

/-- The low n bytes of a number, least significant first. -/
def lowBytes : Nat → Nat → List Byte
  | 0, _ => []
  | n + 1, v => BitVec.ofNat 8 v :: lowBytes n (v / 256)

/-- The two keys of a key pair: the data key in the low half, the tweak key in the high half.
(DEDUCED, log entry 58.) -/
def dataKey (key : BitVec 512) : List Byte := lowBytes 32 key.toNat
@[inherit_doc dataKey]
def tweakKey (key : BitVec 512) : List Byte := lowBytes 32 (key.toNat / 2 ^ 256)

/-- Encrypt (or decrypt) a 32-byte sector with tweak number `sector` (R147). -/
def xts (enc : Bool) (key : BitVec 512) (sector : Nat) (bs : List Byte) : List Byte :=
  let ks := roundKeys (dataKey key)
  let t0 := encrypt (roundKeys (tweakKey key)) (lowBytes 16 sector)
  let t1 := double t0
  let f (t b : List Byte) : List Byte := xorL t (if enc then encrypt ks (xorL t b) else decrypt ks (xorL t b))
  f t0 (bs.take 16) ++ f t1 ((bs.drop 16).take 16)

end Sys2Proof.Machine.Aes
end

