-- ==== Sys2Proof/Machine/Blocks.lean ====
section
/-! DEFINITION. The block formats of formatted pages: the Krevy blocks (R77 to R79), MXFP4 (R80) and where an
element lies (R81, R82). -/

namespace Sys2Proof.Machine.Block

open Sys2Proof

/-- Magnitude bits of a Krevy format code (R77, Table 5.7). -/
def kbBits (fmt : Nat) : Nat := if fmt = 0x0A then 2 else if fmt = 0x0B then 4 else 7

/-- Elements per block (Table 5.7). -/
def elems (fmt : Nat) : Nat := if fmt = 0x0F then 32 else 16

/-- Bytes of a block (Table 5.7). -/
def size (fmt : Nat) : Nat :=
  if fmt = 0x0A then 8 else if fmt = 0x0B then 12 else if fmt = 0x0C then 18 else 17

/-- The combinations of format code and geometry that are not reserved (R81). -/
def legal (fmt geo : Nat) : Bool :=
  (geo == 0 && (fmt == 0 || fmt == 0x0A || fmt == 0x0B || fmt == 0x0C || fmt == 0x0F))
    || (geo == 1 && (fmt == 0x0A || fmt == 0x0B || fmt == 0x0C))

/-- Where element e lies (R82): its block and its position there; `W` is the row width of geometry 1. -/
def place (fmt geo W e : Nat) : Nat × Nat :=
  if geo = 1 then
    (e / W / 4 * (W / 4) + e % W / 4, 4 * (e / W % 4) + e % W % 4)
  else (e / elems fmt, e % elems fmt)

/-- Element j of a Krevy block given as a number (R78). -/
def kbElem (m : Nat) (blk j : Nat) : Fp.Val :=
  let E := bitsOf blk 8 8
  let mag := bitsOf blk (16 + j * (1 + m)) m
  if E = 255 then .nan false
  else if mag = 0 then .num false 0 0
  else .num (bitAt blk (16 + (j + 1) * (1 + m) - 1)) mag ((E : Int) - 127 - bitsOf blk (j / 2) 1 - m)

/-- The value of an E2M1 code (R80) as a multiple of 1/2. -/
def e2m1 (c : Nat) : Nat := [0, 1, 2, 3, 4, 6, 8, 12].getD (c % 8) 0

/-- Element j of an mx4 block given as a number (R80). -/
def mxElem (blk j : Nat) : Fp.Val :=
  let X := bitsOf blk 0 8
  let c := bitsOf blk (8 + 4 * j) 4
  if X = 255 then .nan false else .num (bitAt c 3) (e2m1 c) ((X : Int) - 128)

/-- Element j of a block of any format. -/
def elem (fmt blk j : Nat) : Fp.Val := if fmt = 0x0F then mxElem blk j else kbElem (kbBits fmt) blk j

/-- An element as a register value of a type (R83): RNE, the canonical NaN, ±∞ beyond the range. -/
def load (fmt ty blk j : Nat) : BitVec 64 :=
  match elem fmt blk j with
  | .nan _ => BitVec.ofNat 64 (Fp.ofTy ty).nan
  | .inf s => BitVec.ofNat 64 ((Fp.ofTy ty).inf s)
  | .num s m e =>
    if m = 0 then BitVec.ofNat 64 ((Fp.ofTy ty).zero s) else (Fp.roundNum (Fp.ofTy ty) 0 false s m e false).1

/-- The sign bit, and the magnitude of a finite value. -/
def finite : Fp.Val → Bool × Nat × Int
  | .num s m e => (s, m, e)
  | _ => (false, 0, 0)

/-- ⌊log2 |x|⌋ + 128 for a nonzero value, else 0 (R79). -/
def need (v : Fp.Val) : Int :=
  match finite v with
  | (_, m, e) => if m = 0 then 0 else Fp.expOf m e + 128

/-- Whether |x| < 2^p. -/
def below (p : Int) (v : Fp.Val) : Bool :=
  match finite v with
  | (_, m, e) => m == 0 || decide (Fp.expOf m e < p)

/-- The largest exponent that the nonzero values of a block need; none where all are zero. -/
def maxNeed : List Fp.Val → Option Int
  | [] => none
  | v :: r =>
    let rest := maxNeed r
    if (finite v).2.1 = 0 then rest
    else match rest with
      | none => some (need v)
      | some x => some (if x < need v then need v else x)

/-- The block that a store writes from 16 values (R79), as a number. -/
def encode (m : Nat) (xs : List Fp.Val) : Nat :=
  let bad := xs.any fun v => match v with | .num .. => false | _ => true
  if bad then 255 * 2 ^ 8
  else
    let E0 : Int := (maxNeed xs).getD 0
    let E : Int := clampInt 0 254 E0
    let at_ (j : Nat) : Fp.Val := xs.getD j (.num false 0 0)
    let mu (k : Nat) : Nat := if below (E - 128) (at_ (2 * k)) && below (E - 128) (at_ (2 * k + 1)) then 1 else 0
    let M := ((List.range 8).map fun k => mu k * 2 ^ k).sum
    let field (j : Nat) : Nat :=
      let (s, n, e) := finite (at_ j)
      let (k, _) := Fp.roundAt 0 s n e false (E - 127 - mu (j / 2) - m)
      (if s then 2 ^ m else 0) + (if k < 2 ^ m then k else 2 ^ m - 1)
    M + E.toNat * 2 ^ 8 + ((List.range 16).map fun j => field j * 2 ^ (16 + j * (1 + m))).sum

end Sys2Proof.Machine.Block
end

