-- ==== Sys2Proof/Machine/Mem.lean ====
section
/-! DEFINITION. Memory: bytes of physical memory and of the scratchpads in one canonical form, sector
encryption (R147, R148), poisoned sectors (R156, R371), the page table and its caches (R295 to R304), device
reads and writes at virtual addresses, and the header bitmap (R22). -/

namespace Sys2Proof.Machine

open Sys2Proof

/-! ### Bytes -/

/-- What an unlisted byte of memory reads as. (DESIGN CHOICE, log entry 2.) -/
def memDefault : Byte := 0

/-- The canonical form of a memory: addresses rise strictly and no entry equals what an unlisted byte reads as. -/
abbrev Memory.wf (m : List Host.Cell) : Bool := Sparse.wf memDefault m

/-- Read one byte. -/
def Memory.byte (m : List Host.Cell) (a : Nat) : Byte := Sparse.get memDefault a m

/-- Read consecutive bytes. -/
def Memory.read (m : List Host.Cell) (a n : Nat) : List Byte := (List.range n).map fun i => Memory.byte m (a + i)

/-- Write consecutive bytes. -/
def Memory.write : List Host.Cell → Nat → List Byte → List Host.Cell
  | m, _, [] => m
  | m, a, b :: r => Memory.write (Sparse.write memDefault a b m) (a + 1) r

/-- Little-endian value of bytes (R4). -/
def leNat : List Byte → Nat
  | [] => 0
  | b :: r => b.toNat + 256 * leNat r

/-- The low n bytes of a value, little-endian (R4). -/
def leBytes : Nat → Nat → List Byte
  | 0, _ => []
  | n + 1, x => BitVec.ofNat 8 x :: leBytes n (x / 256)

/-- The bytes of a space. -/
def State.space (s : State) : Sp → List Host.Cell
  | .mem => s.mem
  | .scr => s.scr
  | .dsp => s.dsp

/-- Replace the bytes of a space. -/
def State.setSpace (s : State) (sp : Sp) (m : List Host.Cell) : State :=
  match sp with
  | .mem => { s with mem := m }
  | .scr => { s with scr := m }
  | .dsp => { s with dsp := m }

/-! ### Keys and sectors (R147 to R149, R367) -/

/-- The key pair that an active slot binds to a key ID. -/
def State.keyOf (s : State) (id : Nat) : Option (BitVec 512) :=
  (s.keys.find? fun k => k.2.active && k.2.id == id).map (·.2.key)

/-- Sector n of physical memory in plaintext under a key ID; without an active key the bytes as they stand. -/
def State.sector (s : State) (key n : Nat) : List Byte :=
  let raw := Memory.read s.mem (32 * n) 32
  if key = 0 then raw
  else match s.keyOf key with
    | some k => Aes.xts false k n raw
    | none => raw

/-- Store a plaintext sector under a key ID. -/
def State.putSector (s : State) (key n : Nat) (bs : List Byte) : State :=
  let out := if key = 0 then bs else match s.keyOf key with
    | some k => Aes.xts true k n bs
    | none => bs
  { s with mem := Memory.write s.mem (32 * n) out }

/-- The numbers of the 32-byte sectors that n bytes at `a` touch. -/
def sectorsOf (a n : Nat) : List Nat := if n = 0 then [] else (List.range ((a + n - 1) / 32 - a / 32 + 1)).map (a / 32 + ·)

/-- Read n bytes of a space in plaintext. -/
def State.readAt (s : State) (sp : Sp) (key a n : Nat) : List Byte :=
  if sp = .mem ∧ key ≠ 0 then (((sectorsOf a n).flatMap (s.sector key)).drop (a % 32)).take n
  else Memory.read (s.space sp) a n

/-- Replace bytes of a list from position i. -/
def patch (old : List Byte) (i : Nat) (new : List Byte) : List Byte := old.take i ++ new ++ old.drop (i + new.length)

/-- Whether an access reaches host memory while the host link is down: a load there is poisoned, a store dropped
(R370). -/
def State.hostLost (s : State) (sp : Sp) (a : Nat) : Bool :=
  sp == .mem && decide (2 ^ 46 ≤ a) && decide (a < 2 ^ 47) && !s.linkUp

/-- Write plaintext bytes to a space: read, decrypt, merge, encrypt and write where the page has a key (R148). -/
def State.writeAt (s : State) (sp : Sp) (key a : Nat) (bs : List Byte) : State :=
  if s.hostLost sp a then s
  else if sp = .mem ∧ key ≠ 0 then
    (sectorsOf a bs.length).foldl (fun s n =>
      let lo := max a (32 * n)
      let hi := min (a + bs.length) (32 * n + 32)
      s.putSector key n (patch (s.sector key n) (lo - 32 * n) ((bs.drop (lo - a)).take (hi - lo)))) s
  else s.setSpace sp (Memory.write (s.space sp) a bs)

/-! ### Page tables in memory (R295, R363) -/

/-- The key under which the page tables of a partition lie in memory: its own for a protected one. -/
def State.tableKey (s : State) (part : Nat) : Option (BitVec 512) := if (s.part part).guarded then some (s.part part).key else none

/-- Read n bytes of a page table. The manual names no cipher for tables; they are encrypted as R147 encrypts pages. (DESIGN
CHOICE, log entry 78.) -/
def State.readTable (s : State) (part a n : Nat) : List Byte :=
  match s.tableKey part with
  | none => Memory.read s.mem a n
  | some k => (((sectorsOf a n).flatMap fun i => Aes.xts false k i (Memory.read s.mem (32 * i) 32)).drop (a % 32)).take n

/-- Write bytes of a page table. -/
def State.writeTable (s : State) (part a : Nat) (bs : List Byte) : State :=
  match s.tableKey part with
  | none => s.writeAt .mem 0 a bs
  | some k =>
    if s.hostLost .mem a then s
    else (sectorsOf a bs.length).foldl (fun (s : State) i =>
      let lo := max a (32 * i)
      let hi := min (a + bs.length) (32 * i + 32)
      let new := patch (Aes.xts false k i (Memory.read s.mem (32 * i) 32)) (lo - 32 * i) ((bs.drop (lo - a)).take (hi - lo))
      { s with mem := Memory.write s.mem (32 * i) (Aes.xts true k i new) }) s

/-- An entry of a page table. -/
def State.leafAt (s : State) (part pte : Nat) : BitVec 128 := BitVec.ofNat 128 (leNat (s.readTable part pte 16))

/-! ### Poison (R156, R371) -/

/-- The poisoned sectors of a space. -/
def State.poisonOf (s : State) : Sp → List Nat
  | .mem => s.poisonM
  | .scr => s.poisonS
  | .dsp => s.poisonD

/-- Replace them. -/
def State.setPoison (s : State) (sp : Sp) (p : List Nat) : State :=
  match sp with
  | .mem => { s with poisonM := p }
  | .scr => { s with poisonS := p }
  | .dsp => { s with poisonD := p }

/-- Whether some of n bytes at `a` lies in a poisoned sector, or in host memory while the host link is down. -/
def State.poisoned (s : State) (sp : Sp) (a n : Nat) : Bool := s.hostLost sp a || (sectorsOf a n).any ((s.poisonOf sp).contains ·)

/-- Mark a sector poisoned, once. -/
def State.addPoison (s : State) (sp : Sp) (n : Nat) : State :=
  if (s.poisonOf sp).contains n then s else s.setPoison sp (s.poisonOf sp ++ [n])

/-- Clear the mark of a sector. -/
def State.clearPoison (s : State) (sp : Sp) (n : Nat) : State := s.setPoison sp ((s.poisonOf sp).filter (· != n))

/-! ### Physical regions (R298) -/

/-- Whether n bytes at a physical address lie in one region of Table 20.4. (DEDUCED, log entry 61.) -/
def inRegion (a n : Nat) : Bool := Config.regions.any fun r => decide (r.1 ≤ a) && decide (a + n ≤ r.2)

/-- The package's own window of peer memory is its HBM (R298). -/
def canon (a : Nat) : Nat :=
  if 2 ^ 49 ≤ a ∧ a < 2 ^ 50 then (if bitsOf a 40 9 = Config.pkgid.toNat then a % 2 ^ 40 else a) else a

/-- Whether an address lies in host memory or in the memory of a peer. -/
def remote (a : Nat) : Bool := decide (2 ^ 46 ≤ a)

/-! ### Leaves (Table 20.2) -/

namespace Leaf

def v (l : BitVec 128) : Bool := l.getLsbD 0
def r (l : BitVec 128) : Bool := l.getLsbD 1
def w (l : BitVec 128) : Bool := l.getLsbD 2
def x (l : BitVec 128) : Bool := l.getLsbD 3
def cls (l : BitVec 128) : Nat := bitsOf l.toNat 4 2
def res (l : BitVec 128) : Bool := l.getLsbD 6
def d (l : BitVec 128) : Bool := l.getLsbD 7
def key (l : BitVec 128) : Nat := bitsOf l.toNat 8 12
def fmt (l : BitVec 128) : Nat := bitsOf l.toNat 20 6
def geo (l : BitVec 128) : Nat := bitsOf l.toNat 26 2
def ps (l : BitVec 128) : Nat := bitsOf l.toNat 28 2
def frame (l : BitVec 128) : Nat := bitsOf l.toNat 30 34
def xref (l : BitVec 128) : Nat := bitsOf l.toNat 64 32
def pidx (l : BitVec 128) : Nat := bitsOf l.toNat 96 32

end Leaf

/-- log2 of the size of a page (Table 20.2). -/
def pageBits (ps : Nat) : Nat := if ps = 0 then 16 else if ps = 1 then 21 else 30

/-! ### The walk (R295 to R297) -/

/-- What a walk ends with. -/
inductive Walk where
  | leaf (l : BitVec 128) (pte : Nat)
  | none
  | hole
  deriving DecidableEq, Repr

/-- Levels 0 to 3: the lowest bit and the number of bits of the index, and the page size allowed (Table 20.1). -/
def levels : List (Nat × Nat × Option Nat) := [(39, 13, none), (30, 9, some 2), (21, 9, some 1), (16, 5, some 0)]

/-- Descend from a node of a partition's table. -/
def State.walkFrom (s : State) (part va : Nat) : List (Nat × Nat × Option Nat) → Nat → Walk
  | [], _ => .none
  | (sh, bits, ps) :: rest, node =>
    let pte := node + 16 * bitsOf va sh bits
    if !inRegion pte 16 then .hole
    else
      let e := s.leafAt part pte
      if !Leaf.v e then .none
      else if Leaf.ps e = 3 then s.walkFrom part va rest (bitsOf e.toNat 64 50)
      else if ps = some (Leaf.ps e) then .leaf e pte
      else .none

/-- Whether a partition's tables are lost with its zeroised key (R370, R372). (DESIGN CHOICE, log entry 78.) -/
def State.tablesLost (s : State) (part : Nat) : Bool := s.tableKey part == some 0

/-- Walk the table of an interface; a lost one maps nothing. -/
def State.walk (s : State) (qif va : Nat) : Walk :=
  if s.tablesLost (s.qif qif).part then .none else s.walkFrom (s.qif qif).part va levels (s.qif qif).root

/-! ### Translation -/

/-- What an access needs (R297). -/
inductive Need where
  | read | write | rmw | fetch
  deriving DecidableEq, Repr

/-- Who translates: an interface's table, a partition, the die, and the core whose L1 TLB is used. -/
structure Who where
  qif  : Nat
  part : Nat
  die  : Nat
  core : Option Nat
  deriving DecidableEq, Repr

/-- The translation path of an agent. -/
def State.who (s : State) (a : Agent) : Who :=
  { qif := s.qifOf a, part := s.partOf a, die := s.dieOf a, core := some (s.coreNo a) }

/-- A translation held in a TLB, where there is one (R304). -/
def State.held (s : State) (w : Who) (va : Nat) : Option TlbEnt :=
  let find (l : List TlbEnt) := l.find? fun e => e.qif == w.qif && e.page == va / 2 ^ pageBits e.ps
  match (match w.core with | some c => find (s.coreOf c).tlb | none => none) with
  | some e => some e
  | none => find (s.die w.die).tlb

/-- The leaf of an address, where it lies, and whether a TLB held it. An entry with D = 0 is not used for a
write (R304). -/
def State.leafOf (s : State) (w : Who) (need : Need) (va : Nat) : Walk × Bool :=
  match s.held w va with
  | some e => if (need = .write ∨ need = .rmw) ∧ !Leaf.d e.leaf then (s.walk w.qif va, false) else (.leaf e.leaf e.pa, true)
  | none => (s.walk w.qif va, false)

/-- The frame that an access to a leaf's page reaches: FRAME, or of a shadow page the front copy, or for an
engine write the back copy (R140, R205, R304). -/
def State.frameOf (s : State) (part slot : Nat) (back : Bool) (l : BitVec 128) : Nat :=
  if Leaf.cls l = 3 ∧ ((Sparse.get Shadow.fresh (part * 65536 + slot) s.shadow).swapped != back) then Leaf.xref l else Leaf.frame l

/-- An access as translation sees it: what it needs, the KIND and SLOT of its handle, whether an engine binds
it to the back copy. -/
structure Access where
  need : Need
  kind : Nat
  slot : Nat
  back : Bool := false
  deriving DecidableEq, Repr

/-- What translation gives. -/
inductive Tr where
  | ok (pa : Nat) (leaf : BitVec 128)
  | cause (c : Cause)
  | absent (pte : Nat) (leaf : BitVec 128)
  | hole
  deriving DecidableEq, Repr

/-- Whether a leaf permits what an access needs (R297). -/
def permits (need : Need) (l : BitVec 128) : Bool :=
  match need with
  | .read => Leaf.r l
  | .write => Leaf.w l
  | .rmw => Leaf.r l && Leaf.w l
  | .fetch => Leaf.x l

/-- Whether the class of a page and the KIND of a handle go together (R297, R325). -/
def classOk (kind : Nat) (l : BitVec 128) : Bool :=
  (Leaf.cls l != 1 || kind == 1) && ((Leaf.cls l == 3) == (kind == 2))

/-- Whether the key of a leaf is 0 or active (R149). -/
def State.keyOk (s : State) (l : BitVec 128) : Bool := Leaf.key l == 0 || (s.keyOf (Leaf.key l)).isSome

/-- Whether the ownership record of a frame bears an access out: the partition that reaches it, at every access (R142), and
the key of the leaf where it has been walked (R302). The rules name KEYALIAS for another key and no cause of its own for
another partition; the model gives KEYALIAS for both. (DEDUCED, log entry 68.) -/
def State.recordOk (s : State) (part pa : Nat) (l : BitVec 128) (walked : Bool) : Bool :=
  (s.frame (pa / 65536)).owner == some part && (!walked || (s.frame (pa / 65536)).key == some (Leaf.key l))

/-- Translate an address (R144, R146, R297, R302, R305). -/
def State.translate (s : State) (w : Who) (acc : Access) (va : Nat) : Tr :=
  if 2 ^ 52 ≤ va then .cause .nomap
  else match s.leafOf w acc.need va with
    | (.hole, _) => .hole
    | (.none, _) => .cause .nomap
    | (.leaf l pte, fromTlb) =>
      if !Block.legal (Leaf.fmt l) (Leaf.geo l) then .cause .nomap
      else if !permits acc.need l || !classOk acc.kind l || !s.keyOk l then .cause .perm
      else if Leaf.cls l = 2 ∧ !Leaf.res l then .absent pte l
      else
        let pa := canon (s.frameOf w.part acc.slot acc.back l * 65536 + va % 2 ^ pageBits (Leaf.ps l))
        if acc.need = .rmw ∧ Leaf.key l ≠ 0 ∧ remote pa then .cause .perm
        else if !s.recordOk w.part pa l !fromTlb then .cause .keyalias
        else if !inRegion pa 1 then .hole
        else .ok pa l

/-- Put a translation into a TLB; a full one loses an entry of free choice. -/
def tlbPut (cap free : Nat) (e : TlbEnt) (l : List TlbEnt) : List TlbEnt :=
  let l := l.filter fun x => !(x.qif == e.qif && x.ps == e.ps && x.page == e.page)
  (if l.length < cap then l else dropAt (free % l.length) l) ++ [e]

/-- What a successful translation leaves behind: entries in the TLBs, and D set in the leaf before a write
(R304). -/
def State.noteAccess (s : State) (w : Who) (need : Need) (va : Nat) : State :=
  match s.leafOf w need va with
  | (.leaf l pte, fromTlb) =>
    let wr := need = .write ∨ need = .rmw
    let l' := if wr then l ||| 0x80 else l
    let s := if wr ∧ !fromTlb then s.writeTable (s.qif w.qif).part pte [(l'.setWidth 8 : Byte)] else s
    let e : TlbEnt := ⟨w.qif, va / 2 ^ pageBits (Leaf.ps l), Leaf.ps l, l', pte⟩
    let f := (Config.freeWord s.freeCtr 90000).toNat
    let s := match w.core with
      | some c => if fromTlb ∧ (s.coreOf c).tlb.contains e then s else s.mapCore c fun x => { x with tlb := tlbPut Config.l1Tlb f e x.tlb }
      | none => s
    if fromTlb ∧ (s.die w.die).tlb.contains e then s else s.mapDie w.die fun x => { x with tlb := tlbPut Config.l2Tlb f e x.tlb }
  | _ => s

/-- Drop translations from every TLB of the package (R303, R357). -/
def State.dropTlb (s : State) (p : TlbEnt → Bool) : State :=
  { s with cores := s.cores.map fun c => (c.1, { c.2 with tlb := c.2.tlb.filter fun e => !p e })
           dies := s.dies.map fun d => (d.1, { d.2 with tlb := d.2.tlb.filter fun e => !p e }) }

/-! ### Device reads and writes at virtual addresses -/

/-- What a device read gives. -/
inductive VRead where
  | ok (bs : List Byte) (poison : Bool)
  | cause (c : Cause) (va : Nat)
  | absent (pte va : Nat)
  | hole
  deriving DecidableEq, Repr

/-- Read n bytes, sector by sector; `fuel` bounds the number of sectors. -/
def State.readVirtFrom (s : State) (w : Who) (acc : Access) : Nat → Nat → Nat → VRead
  | 0, _, _ => .ok [] false
  | fuel + 1, va, n =>
    if n = 0 then .ok [] false
    else
      let k := min n (32 - va % 32)
      match s.translate w acc va with
      | .cause c => .cause c va
      | .absent pte _ => .absent pte va
      | .hole => .hole
      | .ok pa l =>
        match s.readVirtFrom w acc fuel (va + k) (n - k) with
        | .ok bs p => .ok (s.readAt .mem (Leaf.key l) pa k ++ bs) (p || s.poisoned .mem pa k)
        | r => r

/-- Read n bytes at a virtual address. -/
def State.readVirt (s : State) (w : Who) (acc : Access) (va n : Nat) : VRead := s.readVirtFrom w acc (n / 32 + 2) va n

/-- Where n consecutive bytes of a device write lie: physical runs, or what stops it. -/
def State.runsFrom (s : State) (w : Who) (acc : Access) : Nat → Nat → Nat → Except (Tr × Nat) (List (Nat × Nat × Nat))
  | 0, _, _ => .ok []
  | fuel + 1, va, n =>
    if n = 0 then .ok []
    else
      let k := min n (32 - va % 32)
      match s.translate w acc va with
      | .ok pa l =>
        match s.runsFrom w acc fuel (va + k) (n - k) with
        | .ok r => .ok ((pa, Leaf.key l, k) :: r)
        | .error e => .error e
      | t => .error (t, va)

@[inherit_doc State.runsFrom]
def State.runs (s : State) (w : Who) (acc : Access) (va n : Nat) : Except (Tr × Nat) (List (Nat × Nat × Nat)) :=
  s.runsFrom w acc (n / 32 + 2) va n

/-- Mark the sectors of a run poisoned, or clear those that it covers whole (R371). -/
def State.poisonRun (s : State) (sp : Sp) (a n : Nat) (poison : Bool) : State :=
  (sectorsOf a n).foldl (fun s k =>
    if poison then s.addPoison sp k
    else if a ≤ 32 * k ∧ 32 * k + 32 ≤ a + n then s.clearPoison sp k else s) s

/-- A device write of bytes at a virtual address: all of it, or nothing and what stops it. -/
def State.writeVirt (s : State) (w : Who) (acc : Access) (va : Nat) (bs : List Byte) (poison : Bool := false) :
    Except (Tr × Nat) State :=
  match s.runs w acc va bs.length with
  | .error e => .error e
  | .ok rs =>
    let s := (List.range (bs.length / 32 + 2)).foldl (fun s i => if 32 * i < bs.length then s.noteAccess w acc.need (va + 32 * i) else s) s
    let s := if bs.length = 0 then s else s.noteAccess w acc.need (va + bs.length - 1)
    .ok (rs.foldl (fun (p : State × List Byte) r =>
      ((p.1.writeAt .mem r.2.1 r.1 (p.2.take r.2.2)).poisonRun .mem r.1 r.2.2 poison, p.2.drop r.2.2)) (s, bs)).1

/-- A device read or write that goes through no handle. -/
def devRead : Access := ⟨.read, 0, 0, false⟩
@[inherit_doc devRead]
def devWrite : Access := ⟨.write, 0, 0, false⟩

/-- What stops a read or write of the device: a cause and the address it arose at, a page that is not resident, or
an address where no memory is. -/
inductive Stop where
  | cause (c : Cause) (va : Nat)
  | absent (pte : Nat)
  | hole
  deriving DecidableEq, Repr

/-- Read n bytes, with poison as a cause. -/
def State.fetchBytes (s : State) (w : Who) (va n : Nat) : Except Stop (List Byte) :=
  match s.readVirt w devRead va n with
  | .ok bs p => if p then .error (.cause .poison 0) else .ok bs
  | .cause c v => .error (.cause c v)
  | .absent pte _ => .error (.absent pte)
  | .hole => .error .hole

/-- Bits of 64-bit word i of a structure in memory, little-endian (R4). -/
def wordBits (bs : List Byte) (i lo n : Nat) : Nat := bitsOf (leNat bs) (64 * i + lo) n

/-! ### Code (R22, R297) -/

/-- Whether a header bitmap marks the word at an address of a code image; a bit that cannot be read counts as
clear. No field gives the length of the image: above its end the bit is what memory holds after the bitmap.
(DESIGN CHOICE, log entry 25.) -/
def State.bitmapBit (s : State) (w : Who) (code hbmap addr : Nat) : Bool :=
  if addr < code ∨ (addr - code) % 8 ≠ 0 ∨ 2 ^ 48 ≤ addr then false
  else
    let j := (addr - code) / 8
    match s.readVirt w devRead (hbmap + j / 8) 1 with
    | .ok bs _ => bitAt (leNat bs) (j % 8)
    | _ => false

/-- The leaf of the page that holds the bit of an address, where that page is not resident (R305). -/
def State.bitmapAbsent (s : State) (w : Who) (code hbmap addr : Nat) : Option Nat :=
  if addr < code ∨ (addr - code) % 8 ≠ 0 ∨ 2 ^ 48 ≤ addr then none
  else match s.translate w devRead (hbmap + (addr - code) / 8 / 8) with
    | .absent pte _ => some pte
    | _ => none

/-- Whether the header bitmap of an agent's launch marks the word at an address. -/
def State.headerBit (s : State) (a : Agent) (addr : Nat) : Bool :=
  let e := (s.launch (s.launchOf a)).e
  s.bitmapBit (s.who a) e.code e.hbmap addr

@[inherit_doc State.bitmapAbsent]
def State.headerAbsent (s : State) (a : Agent) (addr : Nat) : Option Nat :=
  let e := (s.launch (s.launchOf a)).e
  s.bitmapAbsent (s.who a) e.code e.hbmap addr

/-- The word at a fetch address, or the cause of its fetch. -/
def State.fetchWord (s : State) (a : Agent) (pc : Nat) : VRead := s.readVirt (s.who a) ⟨.fetch, 0, 0, false⟩ pc 8

end Sys2Proof.Machine
end

