-- ==== Sys2Proof/Machine/Lsu.lean ====
section
/-! DEFINITION. The load/store unit: handles (R139 to R143), the checks of each lane (R137, R138, R144, R320),
formatted pages (R82 to R84), storage faults (R305, R306, R313), and how loads, stores and atomics are performed
(R153, R154, R193) and ordered (R164, R165). -/

namespace Sys2Proof.Machine

open Sys2Proof

/-! ### Handles (Table 8.2) -/

namespace Hd

def base (h : BitVec 128) : Nat := bitsOf h.toNat 0 52
def kind (h : BitVec 128) : Nat := bitsOf h.toNat 52 4
def swiz (h : BitVec 128) : Nat := bitsOf h.toNat 56 8
def extent (h : BitVec 128) : Nat := bitsOf h.toNat 64 32
def stride (h : BitVec 128) : Nat := bitsOf h.toNat 96 16
def slot (h : BitVec 128) : Nat := bitsOf h.toNat 112 16
/-- SWIZ fields: MODE, B, S (R143). -/
def mode (h : BitVec 128) : Nat := swiz h / 64
def b (h : BitVec 128) : Nat := swiz h / 8 % 8
def s (h : BitVec 128) : Nat := swiz h % 8

/-- Whether SWIZ is legal (R143). -/
def swizOk (h : BitVec 128) : Bool := (mode h == 0 && b h == 0 && s h == 0) || mode h == 1

/-- The byte offset of element e for elements of w bytes (R140, R144), swizzled (R143). -/
def offset (h : BitVec 128) (w e : Nat) : Nat :=
  let o := e * (if stride h = 0 then w else stride h)
  if mode h = 1 then o ^^^ ((o / 2 ^ (4 + b h + s h) % 2 ^ b h) * 16) else o

/-- Build a handle from its fields. -/
def make (base kind swiz extent stride slot : Nat) : BitVec 128 :=
  BitVec.ofNat 128 (base % 2 ^ 52 + kind % 16 * 2 ^ 52 + swiz % 256 * 2 ^ 56 + extent % 2 ^ 32 * 2 ^ 64
    + stride % 2 ^ 16 * 2 ^ 96 + slot % 2 ^ 16 * 2 ^ 112)

end Hd

/-! ### Views (R318, R320) -/

/-- A view slot and a region of a partition. -/
def State.view (s : State) (part slot : Nat) : View := Sparse.get View.free slot (s.part part).views
@[inherit_doc State.view]
def State.region (s : State) (part k : Nat) : Region := Sparse.get Region.absent k (s.part part).regions

/-- Bytes [o, o + n) lie in the range of an open view (R320). -/
def State.inView (s : State) (part slot o n : Nat) : Bool :=
  let v := s.view part slot
  let r := s.region part v.region
  v.isOpen && decide (r.rbase + v.lo * 2 ^ r.esh ≤ o) && decide (o + n ≤ r.rbase + v.hi * 2 ^ r.esh)

/-! ### Lanes (R144) -/

/-- Format and geometry of the page on which a handle's base lies (R82, R152); plain where no leaf is found. -/
def State.baseFormat (s : State) (w : Who) (h : BitVec 128) : Nat × Nat :=
  match s.leafOf w .read (Hd.base h) with
  | (.leaf l _, _) => if Block.legal (Leaf.fmt l) (Leaf.geo l) then (Leaf.fmt l, Leaf.geo l) else (0, 0)
  | _ => (0, 0)

/-- The size of the page on which a handle's base lies. -/
def State.basePage (s : State) (w : Who) (h : BitVec 128) : Nat :=
  match s.leafOf w .read (Hd.base h) with
  | (.leaf l _, _) => 2 ^ pageBits (Leaf.ps l)
  | _ => 65536

/-- The virtual address of block n through a handle on formatted pages of P bytes (R82). -/
def blockVa (P fmt : Nat) (h : BitVec 128) (n : Nat) : Nat :=
  Hd.base h + n / (P / Block.size fmt) * P + n % (P / Block.size fmt) * Block.size fmt

/-- What the checks of one lane give: its element with its virtual address, a cause, a page that is not
resident, or an address where no memory is. -/
inductive LaneR where
  | el (e : Elem) (va : Nat)
  | trap (c : Cause) (tval : Nat)
  | absent (pte va : Nat)
  | hole
  deriving DecidableEq, Repr

/-- Check element `e` of handle `h` for lane `l`, for elements of `w` bytes (R144); a nonzero SWIZ of a view is met at the view
step (R320). The base of a formatted object that is not the first byte of a page takes ALIGN with BASE in tval before any address
is formed. (DEDUCED, log entry 32.) -/
def State.laneCheck (s : State) (wh : Who) (need : Need) (h : BitVec 128) (w l e : Nat) : LaneR :=
  let (fmt, geo) := s.baseFormat wh h
  let pageBad (lf : BitVec 128) : Bool :=
    (Leaf.fmt lf, Leaf.geo lf) != (fmt, geo) || (fmt == 0x0F && need != .read) || (fmt != 0 && need == .rmw)
  if 3 ≤ Hd.kind h ∨ !Hd.swizOk h ∨ (Hd.swiz h ≠ 0 ∧ fmt ≠ 0) then .trap .perm 0
  else if Hd.extent h ≤ e then .trap .bounds e
  else if Hd.kind h = 1 ∧ Hd.swiz h ≠ 0 then .trap .perm 0
  else if Hd.kind h = 1 ∧ !s.inView wh.part (Hd.slot h) (Hd.base h + Hd.offset h w e) w then .trap .viewclosed e
  else if fmt ≠ 0 ∧ (Hd.base h % s.basePage wh h ≠ 0 ∨ (geo = 1 ∧ (Hd.stride h = 0 ∨ Hd.stride h % 4 ≠ 0))) then .trap .align (Hd.base h)
  else
    let np := Block.place fmt geo (Hd.stride h) e
    let va := if fmt = 0 then Hd.base h + Hd.offset h w e else blockVa (s.basePage wh h) fmt h np.1
    match s.translate wh ⟨need, Hd.kind h, Hd.slot h, false⟩ va with
    | .hole => .hole
    | .cause c =>
      let bad : Bool := match s.leafOf wh need va with | (.leaf lf _, _) => pageBad lf | _ => false
      .trap (if c = .keyalias ∧ bad then .perm else c) va
    | .absent pte lf => if pageBad lf then .trap .perm va
                       else if fmt = 0 ∧ va % w ≠ 0 then .trap .align va else .absent pte va
    | .ok pa lf =>
      if pageBad lf then .trap .perm va
      else if fmt = 0 ∧ va % w ≠ 0 then .trap .align va
      else .el { lane := l, sp := .mem, a := pa, w := if fmt = 0 then w else Block.size fmt, key := Leaf.key lf,
                 fmt := fmt, pos := np.2, data := 0, data2 := 0, poison := false,
                 alt := if Leaf.cls lf = 3 then
                     some (wh.part * 65536 + Hd.slot h, canon (s.frameOf wh.part (Hd.slot h) true lf * 65536 + va % 2 ^ pageBits (Leaf.ps lf)))
                   else none } va

/-- Where the byte at a quad offset lies in the core scratchpads (R138). An element whose BASE is not a multiple of its width
and that would cross a stripe lies whole after its first byte. (DESIGN CHOICE, log entry 76.) -/
def State.quadByte (s : State) (quad q : Nat) : Nat :=
  let n := q / 4096
  (4 * quad + n % 4) * Config.scratchBytes + (Config.scratchBytes - (s.quad quad).quadPart) + n / 4 * 4096 + q % 4096

/-- The segment register of a local space, and where byte `b` of it lies for lane `l` (R137, R138). -/
def State.localPlace (s : State) (a : Agent) (sp l b w : Nat) : Option (Sp × Nat) :=
  let th := s.thr a
  let sg := th.seg sp
  let lim := (sg >>> 32).toNat
  let base := sg.toNat % 2 ^ 32
  let core := (s.coreNo a) * Config.scratchBytes
  if lim < b + w then none
  else match sp with
    | 0 => some (.scr, core + base + l * lim + b)
    | 1 => some (.scr, core + base + b)
    | 2 =>
      let q := base + b
      if 4 * (s.quad (s.quadOf a)).quadPart < q + w then none else some (.scr, s.quadByte (s.quadOf a) q)
    | _ => some (.dsp, s.dieOf a * Config.dieScratchBytes + base + b)

/-- Check a local access of lane l at byte `b` (R137). -/
def State.laneLocal (s : State) (a : Agent) (sp w l b : Nat) : LaneR :=
  match s.localPlace a sp l b w with
  | none => .trap .bounds b
  | some (p, x) => .el { lane := l, sp := p, a := x, w := w, key := 0, fmt := 0, pos := 0, data := 0, data2 := 0, poison := false } b

/-- The lanes of an instruction after their checks. -/
structure Plan where
  els    : List (Elem × Nat)
  traps  : List Trap
  absent : List (Nat × Nat × Nat)
  hole   : Bool
  deriving DecidableEq, Repr

/-- Gather the checks of the lanes of a mask, lowest first. -/
def planOf (m : Mask) (f : Nat → LaneR) : Plan :=
  (lanesOf m).foldl (fun p l => match f l with
    | .el e va => { p with els := p.els ++ [(e, va)] }
    | .trap c v => { p with traps := p.traps ++ [{ cause := c, lmask := 1 <<< l, tval := BitVec.ofNat 64 v }] }
    | .absent pte va => { p with absent := p.absent ++ [(pte, va, l)] }
    | .hole => { p with hole := true }) ⟨[], [], [], false⟩

/-! ### Storage faults (R305, R306, R313) -/

/-- Ask for the fill of a leaf, for a team or a control core that waits on it (R305 step 1). -/
def Die.wantFill (d : Die) (pte part : Nat) (team ctl : Option Nat) : Die :=
  let t := match team with | some x => [x] | none => []
  let c := match ctl with | some x => [x] | none => []
  let join (l m : List Nat) := l ++ m.filter fun x => !l.contains x
  if d.fills.any (·.pte == pte) then
    { d with fills := d.fills.map fun f => if f.pte = pte then { f with teams := join f.teams t, ctls := join f.ctls c } else f }
  else { d with fills := d.fills ++ [⟨pte, part, t, c, false⟩] }

/-- A request that nobody waits for is made only while the pool is above its watermark (R306, R307). -/
def State.softFill (s : State) (die pte part : Nat) : State :=
  if (s.part part).mark.toNat < (s.part part).pool.length then s.mapDie die fun d => d.wantFill pte part none none else s

/-- Whether a team belongs to a quad set (R312). -/
def State.inQuadSet (s : State) (t : Nat) : Bool :=
  match (s.team t).groups with
  | [] => false
  | (_, th) :: _ => (th.seg 2 >>> 32) != 0

/-- Every group of a team leaves runahead at once (R222). -/
def State.thawTeam (s : State) (t : Nat) : State :=
  ((s.team t).groups.filter fun g => g.2.ra.isSome).foldl (fun s g => s.thaw (.grp t g.1)) s

/-- Begin the swap-out of a team for a reason (R312, R316), in the order of swap-outs. -/
def State.beginSwap (s : State) (t reason : Nat) : State :=
  match (s.team t).stage with
  | .resident => { ((s.thawTeam t).mapTeam t fun x => { x with stage := .draining reason, order := s.order }) with order := s.order + 1 }
  | _ => s

/-- The other resident teams of a team's quad set. -/
def State.setMates (s : State) (t : Nat) : List Nat :=
  if s.inQuadSet t then
    (s.teams.filter fun x => x.1 != t && x.2.launch == (s.team t).launch && x.2.core / 4 == (s.team t).core / 4
      && x.2.stage == .resident && x.2.preempt.isNone).map (·.1)
  else []

/-- Begin the swap-out of a team, with its quad set (R312). -/
def State.beginSwapSet (s : State) (t reason : Nat) : State := (t :: s.setMates t).foldl (fun s k => s.beginSwap k reason) s

/-- A page that is not resident: a team leaves its core and waits on the leaf, a control program waits where it
stands (R305, R306). Under pre-emption the group is held for a KIND 2 save, and the pre-emption goes on (R316). -/
def State.storageFault (s : State) (a : Agent) (ptes : List Nat) : State :=
  let part := s.partOf a
  let die := s.dieOf a
  let ptes := setOf ptes
  match a with
  | .grp t g =>
    let s := ptes.foldl (fun s p => s.mapDie die fun d => d.wantFill p part (some t) none) s
    let s := s.mapTeam t fun x => { x with waits := x.waits ++ ptes.filter fun p => !x.waits.contains p }
    let s := s.mapThr (.grp t g) fun th => { th with awaits := th.awaits ++ ptes.filter fun p => !th.awaits.contains p, faultAt := th.issueAddr }
    if (s.team t).preempt.isSome then
      (s.setMates t).foldl (fun s k => s.beginSwap k 1) (s.mapThr (.grp t g) fun th => { th with saved := 2 })
    else s.beginSwapSet t 1
  | .ctl q =>
    (ptes.foldl (fun s p => s.mapDie die fun d => d.wantFill p part none (some q)) s).mapThr a fun th => { th with faultAt := th.issueAddr }

/-! ### Performing (R153, R154, R193) -/

/-- A loaded value where its register holds it (R68, R91). -/
def placeLoad (scal : Bool) (ty : Nat) (x : BitVec 64) : BitVec 64 :=
  match ty with
  | 2 | 3 | 5 => x
  | 0 | 13 | 14 => placeInt scal ty x
  | 6 | 7 => zext 16 x
  | 8 | 9 => zext 8 x
  | _ => zext 32 x

/-- The value of an element. -/
def State.loadElem (s : State) (scal : Bool) (ty : Nat) (e : Elem) : BitVec 64 :=
  let n := leNat (s.readAt e.sp e.key e.a e.w)
  if e.fmt = 0 then placeLoad scal ty (BitVec.ofNat 64 n) else Block.load e.fmt ty n e.pos

/-- The state as a core sees it through a cached copy of one line (R331). -/
def State.throughCopy (s : State) (c : Copy) : State := { s with mem := Memory.write s.mem (128 * c.line) c.v }

/-- The copy of a line that a core holds and that has not outlived its limit (R331). (DEDUCED, log entry 12.) -/
def State.copyOf (s : State) (core line : Nat) : Option Copy :=
  (s.coreOf core).copies.find? fun c => c.line == line && decide (s.clk < c.fill + Config.copyLife)

/-- The copy of a line in the fibre cache of a quad, in the same sense (R223). -/
def State.fibreCopy (s : State) (q line : Nat) : Option Copy :=
  ((s.quad q).fib.find? fun f => f.line == line && decide (s.clk < f.fill + Config.copyLife)).map fun f => ⟨line, f.v, f.fill, f.at_⟩

/-- A copy of a line as its home holds it now. -/
def State.freshCopy (s : State) (line : Nat) : Copy := ⟨line, Memory.read s.mem (128 * line) 128, s.clk, s.freeCtr⟩

/-- The quad of a core; control cores count after the cores. -/
def coreQuad (core : Nat) : Nat := if core < Config.cores then core / 4 else core - Config.cores

/-- Keep a fresh copy of a line in a core, or drop the copy. A line of the quad's fibre cache is not kept (R223), and an L1
that is full gives up a line of free choice (R1). -/
def State.keepCopy (s : State) (core line : Nat) (keep : Bool) : State :=
  s.mapCore core fun c =>
    let rest := c.copies.filter (·.line != line)
    let room := if rest.length < Config.l1Lines then rest
      else dropAt ((Config.freeWord s.freeCtr (170000 + line)).toNat % Config.l1Lines) (rest.take Config.l1Lines)
    { c with copies := if keep && (s.quad (coreQuad core)).fib.all (·.line != line) then room ++ [s.freshCopy line] else rest }

/-- Put the values of lanes into results that were prepared without them: the low half first. -/
def fillResults (ws : List RegW) (vals : List (BitVec 64)) (poison : Mask) : List RegW :=
  ws.zipIdx.map fun p =>
    { p.1 with v := if p.2 % 2 = 1 then vals.map fun (x : BitVec 64) => x >>> 32 else vals, poison := poison }

/-- The values that a list of lane results gives. -/
def valuesOf (rs : List (Nat × BitVec 64)) : List (BitVec 64) :=
  perLane fun l => ((rs.find? (·.1 = l)).map (·.2)).getD 0

/-- The sectors of a list of elements that hold poison. -/
def State.poisonLanes (s : State) (els : List Elem) : Mask :=
  els.foldl (fun m e => if s.poisoned e.sp e.a e.w then m ||| (1 <<< e.lane) else m) 0

/-- The bytes that elements cover in a sector, as a count of distinct bytes. -/
def covered (els : List Elem) (sp : Sp) (n : Nat) : Bool :=
  (List.range 32).all fun i => els.any fun e => e.sp = sp && decide (e.a ≤ 32 * n + i) && decide (32 * n + i < e.a + e.w)

/-- The sectors that elements touch. -/
def touched (els : List Elem) : List (Sp × Nat) :=
  els.foldl (fun r e => (sectorsOf e.a e.w).foldl (fun r n => if r.contains (e.sp, n) then r else r ++ [(e.sp, n)]) r) []

/-- Poison marks after a store of elements (R156, R371). A poisoned lane marks its sectors, also where a higher lane supplies
the bytes. (DESIGN CHOICE, log entry 75.) -/
def State.storePoison (s : State) (els : List Elem) : State :=
  (touched els).foldl (fun s p =>
    let here := els.filter fun e => e.sp = p.1 && (sectorsOf e.a e.w).contains p.2
    if here.any (·.poison) then s.addPoison p.1 p.2
    else if covered here p.1 p.2 then s.clearPoison p.1 p.2 else s) s

/-- Store plain elements in lane order: the highest lane supplies a shared byte (R154). -/
def State.storePlain (s : State) (els : List Elem) : State :=
  els.foldl (fun s e => s.writeAt e.sp e.key e.a (leBytes e.w e.data.toNat)) s

/-- The distinct blocks of formatted elements. -/
def blocksOf (els : List Elem) : List Nat := els.foldl (fun r e => if r.contains e.a then r else r ++ [e.a]) []

/-- Encode and store the blocks that elements supply (R79, R84); element data are f64 values. -/
def State.storeBlocks (s : State) (fmt : Nat) (els : List Elem) : State :=
  (blocksOf els).foldl (fun s a =>
    let here := els.filter (·.a = a)
    let value (j : Nat) : Fp.Val := match (here.filter (·.pos = j)).getLast? with
      | some e => Fp.decode Fp.f64 e.data
      | none => .num false 0 0
    let n := Block.encode (Block.kbBits fmt) ((List.range 16).map value)
    s.writeAt .mem ((here.headD ⟨0, .mem, 0, 0, 0, 0, 0, 0, 0, false, none⟩).key) a (leBytes (Block.size fmt) n)) s

/-- Perform a store; stores to host memory are dropped while the host link is down (R370). -/
def State.storeElems (s : State) (fmt : Nat) (els : List Elem) : State :=
  let els := els.filter fun e => !s.hostLost e.sp e.a
  (if fmt = 0 then s.storePlain els else s.storeBlocks fmt els).storePoison els

/-- The new value of an atomic and whether the element changes (R192, R193): 0 add, 1 min, 2 max, 3 and, 4 or,
5 xor, 6 exch, 7 cas. -/
def atomicNew (op ty : Nat) (old a b : BitVec 64) : BitVec 64 :=
  let w := if is64 ty then 64 else 32
  let less : Bool := decide (intOf (isSigned ty) w old ≤ intOf (isSigned ty) w a)
  match op with
  | 0 => if ty = 4 then (Fp.add Fp.f32 0 old a).1 else old + a
  | 1 => if ty = 4 then (Fp.minMax Fp.f32 false old a).1 else if less then old else a
  | 2 => if ty = 4 then (Fp.minMax Fp.f32 true old a).1 else if less then a else old
  | 3 => old &&& a
  | 4 => old ||| a
  | 5 => old ^^^ a
  | 6 => a
  | _ => if zext w old = zext w a then b else old

/-- Perform the lanes of an atomic in increasing order; a poisoned element is left unchanged (R193). -/
def State.atomicElems (op ty : Nat) : State → List Elem → State × List (Nat × BitVec 64) × Mask
  | s, [] => (s, [], 0)
  | s, e :: r =>
    let old := BitVec.ofNat 64 (leNat (s.readAt e.sp e.key e.a e.w))
    let bad := s.poisoned e.sp e.a e.w
    let s' := if bad then s else s.writeAt e.sp e.key e.a (leBytes e.w (atomicNew op ty old e.data e.data2).toNat)
    let (s2, vs, p) := State.atomicElems op ty s' r
    (s2, (e.lane, old) :: vs, if bad then p ||| (1 <<< e.lane) else p)

/-! ### Order of the operations of one agent (R164, R165, R166, R195, R196, R392, R393) -/

/-- Whether two elements share a byte. -/
def Elem.meets (x y : Elem) : Bool := x.sp = y.sp && decide (x.a < y.a + y.w) && decide (y.a < x.a + x.w)

/-- Whether an operation is the exchange of a shadow pair, which acts as a store (R336). -/
def VKind.exchanges : VKind → Bool
  | .publish _ => true
  | _ => false

/-- Whether an operation stands in the orders of Table 25.1. -/
def VKind.ordered (k : VKind) : Bool := !k.elems.isEmpty || k.exchanges

/-- Whether operations are both local or both global: no other pair is ordered without a fence (R165). -/
def VKind.sameSpace (k l : VKind) : Bool :=
  (k.exchanges || k.elems.any (·.sp = .mem)) == (l.exchanges || l.elems.any (·.sp = .mem))

/-- Whether an operation reaches a local space. -/
def VKind.local (k : VKind) : Bool := k.elems.any (·.sp != .mem)

/-- For whom operation `o` is performed after an earlier one of the same agent: 0 nobody, n + 1 the observers within
scope n, 10 everybody. A fence of any scope orders local against global accesses, within the scope of the local space (R159,
R196). An exchange is kept in order for everybody. (DEDUCED, log entry 14.) -/
def VOp.follows (fences : List (Nat × Nat × Nat)) (o e : VOp) : Nat :=
  if o.seq ≤ e.seq || !o.kind.ordered || !e.kind.ordered then 0
  else if o.kind.elems.any fun x => e.kind.elems.any x.meets then 10
  else
    let strong := if o.kind.sameSpace e.kind then min o.strongIn e.strongIn else 0
    let own := if o.kind.sameSpace e.kind then 0 else if o.kind.local then o.strongIn else e.strongIn
    let fence := fences.foldl (fun m f =>
      if e.seq < f.1 ∧ f.1 < o.seq ∧ (f.2.1 = 0 ∨ (if f.2.1 = 1 then e.kind.reads else o.kind.writes)) then max m (max f.2.2 own) else m) 0
    let n := max strong fence
    if n ≤ 1 then 0 else if o.kind.exchanges || e.kind.exchanges then 10 else n + 1

/-- Whether an observer may perform nothing now: some agent has performed an operation before an earlier one that it
follows for this observer. -/
def State.shutOut (s : State) (o : Observer) : Bool :=
  s.agents.any fun b => o != .agent b && (s.thr b).ops.any fun e => decide (0 < e.passed) && s.contains (e.passed - 1) b o

/-- Whether operation `o` of an agent may be performed now. It may be performed before an earlier one that it follows for
some observers only, while those observers perform nothing until the earlier one has been performed as well. After an rgget and
an acquire it follows what the rgput's group had put before its entry (R190). -/
def State.mayPerform (s : State) (a : Agent) (o : VOp) : Bool :=
  let th := s.thr a
  let ns := th.ops.map (o.follows th.fences)
  !o.kind.ordered ||
    (!s.shutOut (.agent a) && s.landed ((th.owed.filter (·.1)).map (·.2)) && !ns.contains 10
      && (ns.all (· == 0) || !th.ops.any fun e => decide (e.seq < o.seq) && e.kind.exchanges))

/-- Note on the operations that `o` overtakes for whom it has done so. -/
def Thr.overtaken (o : VOp) (th : Thr) : Thr :=
  { th with ops := th.ops.map fun (e : VOp) => { e with passed := max e.passed (o.follows th.fences e) } }

/-- The place in an agent's issue order before which its accesses are ordered before a command that it gives now to an
engine, whose narrowest scope instance is `k` (R196, R204). -/
def Thr.releasedBefore (k : Nat) (th : Thr) : Nat :=
  th.fences.foldl (fun m f => if f.2.1 = 2 ∧ k ≤ f.2.2 then max m f.1 else m) 0

/-- Whether accesses of a thread from before a place in its issue order are still in flight. -/
def Thr.reading (th : Thr) (place : Nat) : Bool := th.ops.any fun e => decide (e.seq < place) && e.kind.reads

/-- Whether accesses of a thread that fences of the scopes from `k` on order before a command with a place in its issue order
are still in flight (R196, R332). -/
def Thr.owes (k place : Nat) (th : Thr) : Bool :=
  th.fences.any fun f => f.2.1 != 1 && decide (k ≤ f.2.2) && decide (f.1 < place)
    && th.ops.any fun e => decide (e.seq < f.1) && (e.kind.reads || e.kind.writes)

/-! ### The fibre cache (R223 to R225) -/

/-- The virtual address of element c of the scanned vector: swizzled (R143), or of its block on formatted pages (R82). -/
def State.scanVa (s : State) (sc : Scan) (c : Nat) : Nat :=
  let wh : Who := ⟨sc.qif, (s.qif sc.qif).part, 0, none⟩
  let (fmt, geo) := s.baseFormat wh sc.hx
  if fmt = 0 then Hd.base sc.hx + Hd.offset sc.hx sc.w c
  else blockVa (s.basePage wh sc.hx) fmt sc.hx (Block.place fmt geo (Hd.stride sc.hx) c).1

/-- Where element c of the scanned vector lies, where it translates. -/
def State.scanPlace (s : State) (sc : Scan) (c : Nat) : Option Nat :=
  match s.translate ⟨sc.qif, (s.qif sc.qif).part, 0, none⟩ ⟨.read, Hd.kind sc.hx, Hd.slot sc.hx, false⟩ (s.scanVa sc c) with
  | .ok pa _ => some pa
  | _ => none

/-- The line of element c. -/
def State.scanLine (s : State) (sc : Scan) (c : Nat) : Option Nat := (s.scanPlace sc c).map (· / 128)

/-- How soon a line is used again: none where it is not covered, or `some none` for a covered line without a
further use (R224). -/
def State.nextUse (s : State) (q line : Nat) : Option (Option Nat) :=
  match (s.quad q).scan with
  | none => none
  | some sc =>
    let inRange := (List.range (Hd.extent sc.hx)).any fun c => s.scanLine sc c == some line
    if !inRange then none
    else some ((findIdx (fun c => s.scanLine sc c == some line) (sc.cols.drop sc.pos)))

/-- Whether `a` is evicted before `b` (R225). -/
def evictsBefore (use : FibLine → Option (Option Nat)) (a b : FibLine) : Bool :=
  let rank (x : FibLine) : Nat := match use x with | some none => 0 | none => 1 | some (some _) => 2
  if rank a ≠ rank b then decide (rank a < rank b)
  else if rank a < 2 then decide (a.used < b.used)
  else match use a, use b with
    | some (some i), some (some j) => if i = j then decide (a.way < b.way) else decide (j < i)
    | _, _ => false

/-- Put a line into a way of the fibre cache of a quad; the L1s of its cores no longer keep it (R223). -/
def State.fibrePut (s : State) (q way line : Nat) : State :=
  let set := line % Config.fibreSets
  let s := ((List.range 4).map (4 * q + ·) ++ [Config.cores + q]).foldl (fun s k => s.keepCopy k line false) s
  let c := s.freshCopy line
  s.mapQuad q fun x => { x with fib := x.fib.filter (fun f => !(f.set == set && f.way == way)) ++ [⟨set, way, line, s.clk, s.clk, c.at_, c.v⟩] }

/-- A CH = 2 access to a line: used again, or filled into a free way, or in the place of the line that R225
gives up. A line that is there is by free choice filled anew. (DEDUCED, log entry 28.) -/
def State.fibreTouch (s : State) (q line : Nat) : State :=
  let x := s.quad q
  let here := x.fib.filter (·.set == line % Config.fibreSets)
  match x.fib.find? (·.line == line) with
  | some f =>
    if Config.freeBit s.freeCtr 130000 line then s.fibrePut q f.way line
    else s.mapQuad q fun x => { x with fib := x.fib.map fun f => if f.line = line then { f with used := s.clk } else f }
  | none =>
    match (List.range Config.fibreWays).find? fun k => !here.any (·.way == k) with
    | some k => s.fibrePut q k line
    | none =>
      match pickBy (evictsBefore fun f => s.nextUse q f.line) here with
      | none => s
      | some v => s.fibrePut q v.way line

/-- Whether an element lies in the range of the scanned vector (R224). -/
def State.scanned (s : State) (sc : Scan) (e : Elem) : Bool :=
  (List.range (Hd.extent sc.hx)).any fun c => match s.scanPlace sc c with
    | some pa => decide (pa < e.a + e.w) && decide (e.a < pa + (if e.fmt = 0 then sc.w else e.w))
    | none => false

/-- Move the scanner's position by the accesses, one for each active lane, that lie in hX's range (R224). -/
def State.scanAdvance (s : State) (q : Nat) (els : List Elem) : State :=
  match (s.quad q).scan with
  | none => s
  | some sc =>
    let k := els.countP fun e => s.scanned sc e
    s.mapQuad q fun x => { x with scan := x.scan.map fun sc => { sc with pos := sc.pos + k } }

/-! ### What performing an operation does -/

/-- Whether an access with a CH goes through the fibre cache: with CH 2 from one of the quad's four cores (R223). -/
def viaFibre (a : Agent) (ch : Nat) : Bool := ch == 2 && (match a with | .grp .. => true | .ctl _ => false)

/-- Caches after lanes have read or prefetched elements from home (R150, R223, R331): CH 2 goes through the fibre cache,
CH 3 leaves the L1 as it is, and otherwise the L1 keeps a fresh copy, or by free choice what it has. -/
def State.cacheLoad (s : State) (a : Agent) (ch : Nat) (els : List Elem) : State :=
  let els := els.filter (·.sp = .mem)
  let lines := els.map fun e => e.a / 128
  if viaFibre a ch then (lines.foldl (fun s l => s.fibreTouch (s.quadOf a) l) s).scanAdvance (s.quadOf a) els
  else if ch = 3 then s
  else lines.foldl (fun s l => if Config.freeBit s.freeCtr 120000 l then s else s.keepCopy (s.coreNo a) l true) s

/-- After a store: the copies of its lines in the core and in the quad's fibre cache go; by free choice a store with
CH 0 keeps a fresh copy in the L1 (R150, R223). -/
def State.dropCopies (s : State) (a : Agent) (els : List Elem) (ch : Nat := 3) : State :=
  (els.filter (·.sp = .mem)).foldl (fun s e =>
    let s := s.mapQuad (s.quadOf a) fun x => { x with fib := x.fib.filter (·.line != e.a / 128) }
    s.keepCopy (s.coreNo a) (e.a / 128) (ch == 0 && Config.freeBit s.freeCtr 121000 (e.a / 128))) s

/-- Land results of a variable-latency operation of an agent. -/
def State.landOp (s : State) (a : Agent) (seq : Nat) (ws : List RegW) : State :=
  s.mapThr a fun th => ws.foldl (fun t w => t.landVar seq w) th

/-- An operation of an agent leaves flight and its flag clears (R43); fences that order nothing in flight are forgotten. -/
def Thr.retire (o : VOp) (th : Thr) : Thr :=
  let ops := th.ops.filter (·.seq != o.seq)
  { th with ops := ops, fences := th.fences.filter fun f => ops.any fun e => decide (e.seq < f.1) }.clearFlag o.flag

/-- The copy of an element's line that a load with a CH may find. -/
def State.copyFor (s : State) (a : Agent) (ch : Nat) (e : Elem) : Option Copy :=
  if e.sp ≠ .mem ∨ ch = 3 then none
  else if viaFibre a ch then s.fibreCopy (s.quadOf a) (e.a / 128) else s.copyOf (s.coreNo a) (e.a / 128)

/-- The copy through which a load may return an older value (R331): it is no older than any store to those bytes that comes
before the load (R392), but for what earlier weak loads have read while the lease clock network is not synchronised and the load
is weak (R334), nor for a strong load than a store that it must return (R328). (DEDUCED, log entry 13.) -/
def State.oldCopy (s : State) (a : Agent) (o : VOp) (ch : Nat) (e : Elem) : Option Copy :=
  match s.copyFor a ch e with
  | some c =>
    if (s.thr a).floor o e.lane (!o.strong && !s.lsync) e.a e.w ≤ c.at_ ∧ !s.strongNewer a o e c.at_ then some c else none
  | none => none

/-- Which copy an element of a load is read through, by free choice where one may serve. -/
def State.served (s : State) (a : Agent) (o : VOp) (ch : Nat) (e : Elem) : Option Copy :=
  if Config.freeBit s.freeCtr (100000 + e.lane) o.seq then s.oldCopy a o ch e else none

/-- What the agent has met, and the caches, after elements have been read, each through a copy or from home. -/
def State.afterReads (s : State) (a : Agent) (o : VOp) (ch : Nat) (rs : List (Elem × Option Copy)) : State :=
  let s := rs.foldl (fun s r => s.meetRead a o r.1 ((r.2.map (·.at_)).getD s.freeCtr)) s
  s.cacheLoad a ch ((rs.filter fun r => r.2.isNone || viaFibre a ch).map (·.1))

/-- A result whose operation has been performed lands, or by free choice is on its way for a while longer: a load without
elements. Its value can be read already, while its flag is still busy (R43, R60). -/
def State.finishLoad (s : State) (a : Agent) (o : VOp) (ws : List RegW) : State :=
  if Config.freeBit s.freeCtr 140000 o.seq then
    s.mapThr a fun th => { th with ops := th.ops.map fun (e : VOp) => if e.seq = o.seq then { e with kind := .load [] 0 0 ws 3 } else e }
  else (s.landOp a o.seq ws).mapThr a (Thr.retire o)

/-- Perform a load: from home, or where it may, from a cached copy (R153, R331). A copy holds no poison marks: the mark is that
of the home, as it is now. (DESIGN CHOICE, log entry 75.) -/
def State.performLoad (s : State) (a : Agent) (o : VOp) (els : List Elem) (ty : Nat) (ws : List RegW) (ch : Nat) : State :=
  let scal := (s.thr a).scalar
  let rs := els.map fun e => (e, s.served a o ch e)
  let value (r : Elem × Option Copy) : BitVec 64 := match r.2 with
    | some c => (s.throughCopy c).loadElem scal ty r.1
    | none => s.loadElem scal ty r.1
  let p := s.poisonLanes els
  (s.afterReads a o ch rs).finishLoad a o (fillResults ws (valuesOf (rs.map fun r => (r.1.lane, value r))) p)

/-- Perform an atomic and land the old values (R193). -/
def State.performAtomic (s : State) (a : Agent) (o : VOp) (els : List Elem) (op ty : Nat) (ws : List RegW) : State :=
  let scal := (s.thr a).scalar
  let s := els.foldl (fun s e => s.meetRead a o e s.freeCtr) s
  let (s, vs, p) := State.atomicElems op ty s els
  let s := els.foldl (fun s e => s.meetStore a o e) (s.dropCopies a els)
  s.finishLoad a o (fillResults ws (valuesOf (vs.map fun v => (v.1, placeLoad scal ty v.2))) p)

/-- Perform a handle load: a poisoned source leaves the handle and marks it (R160). The Frost mark of a handle that runahead
waits for stays (R217). -/
def State.performHld (s : State) (a : Agent) (o : VOp) (e : Elem) (n ch lanes : Nat) : State :=
  let c := s.served a o ch e
  let bad := s.poisoned e.sp e.a 16
  let bytes := match c with
    | some c => (s.throughCopy c).readAt e.sp e.key e.a 16
    | none => s.readAt e.sp e.key e.a 16
  let s := s.afterReads a o ch (List.replicate lanes (e, c))
  s.mapThr a fun th =>
    { th with hs := if th.alive = 0 then th.hs else
                Sparse.put n (if bad then { (th.hreg n) with poison := true } else { (th.hreg n) with v := BitVec.ofNat 128 (leNat bytes), poison := false }) th.hs }

end Sys2Proof.Machine
end

