-- ==== Sys2Proof/Machine/Control.lean ====
section
/-! DEFINITION. Branches, calls, exits and software traps (R105 to R116). -/

namespace Sys2Proof.Machine

open Sys2Proof

/-- TGT as a signed word count (R7). -/
def Ins.tgt (n : Ins) : Int := (n.bits 0 24 : BitVec 24).toInt

/-- Whether a branch target is legal (R105). -/
def State.targetOk (s : State) (a : Agent) (t : Int) : Bool :=
  decide (0 ≤ t) && decide (t < 2 ^ 48) && s.headerBit a t.toNat

/-- The unsigned minimum of a list of 64-bit values. -/
def minWord : List (BitVec 64) → BitVec 64
  | [] => 0
  | x :: r => r.foldl (fun m y => if y.toNat < m.toNat then y else m) x

/-- New PCs: each lane of `m` to its target, every other present lane past the instruction (R18). -/
def branchPcs (g : Go) (th : Thr) (m : Mask) (t : Nat → BitVec 48) : List (BitVec 48) :=
  ((th.setPc m t).advance (g.pres &&& ~~~m) g.n.len).pcv

/-- Finish a blocking instruction that completes at once: results land, its flag clears in the next cycle
(R59, R114). -/
def finishNow (g : Go) (ws : List RegW) (s : State) : State :=
  s.mapThr s.cur fun th =>
    ((ws.foldl (fun t w => t.land th.seq w) th).noteWrites (positions ws)).sendFixed s.clk 1 g.n.flag []

/-- The pages of the header bitmap that targets need and that are not resident, with the lanes that need them (R305). -/
def State.targetsAbsent (s : State) (a : Agent) (m : Mask) (target : Nat → Int) : List (Nat × Nat) :=
  (lanesOf m).filterMap fun l =>
    if 0 ≤ target l ∧ target l < 2 ^ 48 then (s.headerAbsent a (target l).toNat).map fun p => (l, p) else none

/-- Take the lanes of `m` to their targets, unless one of them is illegal (R105), or lies where the header bitmap's page is
not resident (R305, R310). A target below 0 or from 2^64 on is reported
modulo 2^64, and the lowest is the unsigned minimum of the reported words. (DEDUCED, log entry 66.) -/
def branchTo (g : Go) (m : Mask) (target : Nat → Int) (ws : List RegW) (s : State) : Except (List Trap) Fin :=
  let a := s.cur
  let miss := s.targetsAbsent a m target
  let lost := miss.filter fun x => (s.thr a).stErr.contains x.2
  let bad := (lanesOf m).filter fun l => !s.targetOk a (target l) && !miss.any (·.1 == l)
  if bad.isEmpty then
    if !lost.isEmpty then
      .error [{ cause := .storageErr, lmask := maskOf fun l => lost.any (·.1 == l)
                tval := minWord (lost.map fun x => BitVec.ofInt 64 (target x.1)) }]
    else if !miss.isEmpty then .ok { s := s.storageFault a (miss.map (·.2)), cancel := true }
    else .ok { s := finishNow g ws s, pcs := some (branchPcs g (s.thr a) m fun l => BitVec.ofInt 48 (target l)) }
  else .error [{ cause := .illegal, lmask := maskOf fun l => bad.contains l
                 tval := minWord (bad.map fun l => BitVec.ofInt 64 (target l)) }]

/-- The target of a format J instruction. -/
def Go.target (g : Go) : Int := (g.addr.toNat : Int) + 8 * Ins.tgt g.n

/-- br (R106): every present lane. -/
def brBody : Body := fun g s => branchTo g g.pres (fun _ => g.target) [] s

/-- brc (R106): every present lane where the uniform condition is nonzero. -/
def brcBody : Body := fun g s => branchTo g (if g.uni 0 = 0 then 0 else g.pres) (fun _ => g.target) [] s

/-- brl (R106): each active lane whose condition is nonzero. -/
def brlBody : Body := fun g s =>
  branchTo g (maskOf fun l => g.act.getLsbD l && g.val 0 l != 0) (fun _ => g.target) [] s

/-- call (R107): the link is the address of the next word. -/
def callBody : Body := fun g s =>
  let link : BitVec 64 := (g.addr + 8).setWidth 64
  let r : Res := { vals := g.lanes fun _ => link, tag := .U }
  branchTo g g.act (fun _ => g.target) (regWrites g.n (s.thr s.cur) g.act g.alive r 0) s

/-- brx (R108). -/
def brxBody : Body := fun g s =>
  branchTo g g.act (fun l => (g.addr.toNat : Int) + 8 * intOf true 32 (g.val 0 l)) [] s

/-- ret (R108). -/
def retBody : Body := fun g s => branchTo g g.act (fun l => ((g.val 0 l).toNat : Int)) [] s

/-- End what a control-core program feeds, where the agent is one (R110, R231). -/
def State.leaveProgram (s : State) (a : Agent) : State :=
  match a with
  | .grp .. => s
  | .ctl q => s.closeProgram q

/-- exit (R109): in handler mode it must reach every lane that has not exited. -/
def exitBody : Body := fun g s =>
  let th := s.thr s.cur
  if th.handler && (g.alive &&& ~~~g.act) != 0 then .error [g.illegal]
  else
    let s' := (finishNow g [] s).leaveProgram s.cur
    .ok { s := s', pcs := some (branchPcs g th g.act fun _ => exitedPc) }

/-- halt (R110): the program ends and the control core stays halted. -/
def haltBody : Body := fun g s =>
  let s' := (finishNow g [] s).leaveProgram s.cur
  let s' := match s.cur with
    | .ctl q => s'.mapQuad q fun x => { x with halted := true }
    | .grp .. => s'
  .ok { s := s', pcs := some (branchPcs g (s.thr s.cur) g.act fun _ => exitedPc) }

/-- yield (R111). -/
def yieldBody : Body := fun g s =>
  .ok { s := (finishNow g [] s).mapThr s.cur fun th => { th with yielded := some s.clk } }

/-- trap (R112). -/
def trapBody : Body := fun g _ => .error [g.all .swtrap (g.uni 0)]
/-- brk (R112). -/
def brkBody : Body := fun g _ => .error [g.all .brk ((g.n.bits 0 16).setWidth 64)]

/-- tret (R113, R273, R274). -/
def tretBody : Body := fun g s =>
  let a := s.cur
  let th := (s.thr a).returnTrap (BitVec.ofNat 48 (s.trapEntry a))
  let s' := finishNow g [] (s.setThr a th)
  .ok { s := s', pcs := some th.pcv }

/-! ### The instructions -/

def execBr (c : Ctl) (p : PayJ) (s : State) : Out := .next (issue (p.ins Rows.rowBr c) {} brBody s)
def execBrc (c : Ctl) (p : PayJ) (s : State) : Out := .next (issue (p.ins Rows.rowBrc c) {} brcBody s)
def execBrl (c : Ctl) (p : PayJ) (s : State) : Out := .next (issue (p.ins Rows.rowBrl c) {} brlBody s)
def execCall (c : Ctl) (p : PayJ) (s : State) : Out := .next (issue (p.ins Rows.rowCall c) {} callBody s)
def execBrx (c : Ctl) (p : PayA) (s : State) : Out := .next (issue (p.ins Rows.rowBrx c) {} brxBody s)
def execRet (c : Ctl) (p : PayA) (s : State) : Out := .next (issue (p.ins Rows.rowRet c) {} retBody s)
def execExit (c : Ctl) (p : PayA) (s : State) : Out := .next (issue (p.ins Rows.rowExit c) {} exitBody s)
def execYield (c : Ctl) (p : PayA) (s : State) : Out := .next (issue (p.ins Rows.rowYield c) {} yieldBody s)
def execHalt (c : Ctl) (p : PayA) (s : State) : Out := .next (issue (p.ins Rows.rowHalt c) {} haltBody s)
def execTrap (c : Ctl) (p : PayA) (s : State) : Out := .next (issue (p.ins Rows.rowTrap c) {} trapBody s)

def execTret (c : Ctl) (p : PayA) (s : State) : Out :=
  let n := p.ins Rows.rowTret c
  .next (issue n { bad := !(s.thr s.cur).handler || n.c.pred != 0 || n.c.pn == 1 } tretBody s)

def execBrk (c : Ctl) (p : PayA) (s : State) : Out := .next (issue (p.ins Rows.rowBrk c) {} brkBody s)

end Sys2Proof.Machine
end

