-- ==== Sys2Proof/Machine/Sync.lean ====
section
/-! DEFINITION. Blocking waits (R59): fences (R196), barriers (R197 to R199), tags (R200) and the register pools
(R338 to R344). -/

namespace Sys2Proof.Machine

open Sys2Proof

/-! ### Blocking waits -/

/-- What trying a blocking instruction gives: it still waits, it has come further and still waits, it completes
with a state and results, or it takes a cause. -/
inductive Try where
  | wait
  | further (s : State)
  | done (s : State) (ws : List RegW)
  | trap (t : Trap)

/-- Set a wait: the flag of the instruction is busy until it completes (R43, R59). -/
def startWait (g : Go) (h : Hold) (s : State) : State :=
  s.mapThr s.cur fun th => { (th.setFlag g.n.flag) with wait := some ⟨h, g.n.len, g.n.flag⟩ }

/-- Complete at once where that is possible, else wait. -/
def tryOrWait (h : Hold) (f : State → Agent → Try) : Body := fun g s =>
  match f s s.cur with
  | .wait => .ok { s := startWait g h s, hold := true }
  | .further s' => .ok { s := startWait g h s', hold := true }
  | .done s' ws => .ok { s := finishNow g ws s' }
  | .trap t => .error [t]

/-! ### Fences (R196) -/

/-- Whether a fence of a kind (0 full, 1 acq, 2 rel) is satisfied. Within a scope that holds nobody else (`alone`) every
store is visible at once. -/
def Thr.fenced (th : Thr) (kind : Nat) (alone : Bool := false) : Bool :=
  th.ops.all fun o => match kind with
    | 0 => !o.kind.reads && (alone || !o.kind.writes)
    | 1 => !o.kind.reads
    | _ => alone || !o.kind.writes

/-- Whether the instance of a scope holds no observer but an agent (R326). -/
def aloneIn : Agent → Nat → Bool
  | .grp .., k => decide (k < 2)
  | .ctl _, k => decide (k < 4)

/-- fence (R196). A fence that is passed while earlier accesses are in flight goes on to order them before later ones: loads
before later stores, and in a scope that holds nobody else local against global accesses. -/
def State.tryFence (kind scope : Nat) (s : State) (a : Agent) : Try :=
  if (s.thr a).fenced kind (aloneIn a scope) then
    .done (s.mapThr a fun th => (if kind = 1 then th else th.noteFence kind scope).passFence kind scope) []
  else .wait

def fenceBody (kind : Nat) : Body := fun g s => tryOrWait (.fence kind (Ins.scope g.n)) (State.tryFence kind (Ins.scope g.n)) g s

/-! ### Barriers (R197, R198) -/

/-- The ids that exist at a scope (Table 12.3): 8 at .team, those the launch entry grants at the others. -/
def State.barIds (s : State) (a : Agent) (scope : Nat) : Nat :=
  let e := (s.launch (s.launchOf a)).e
  match scope with
  | 2 => 8 | 4 => e.bq | 5 => e.bd | 6 => e.bp | 7 => e.bo | _ => 0

/-- The instance of a wide barrier that an agent takes part in (Table 12.3). (DEDUCED, log entry 64.) -/
def State.barInst (s : State) (a : Agent) (scope : Nat) : Nat :=
  match scope with
  | 4 => s.quadOf a | 5 => s.dieOf a | _ => 0

/-- A .team barrier: its phase counter and the groups that have arrived. -/
def Team.bar (t : Team) (id : Nat) : BitVec 32 × List Nat := Sparse.get (0, []) id t.bars

/-- The barrier of a scope wider than .team, by its instance. -/
def State.wideBar (s : State) (a : Agent) (scope id k : Nat) : WideBar :=
  ((s.launch (s.launchOf a)).bars.find? fun b => b.scope == scope && b.id == id && b.inst == k).getD { scope := scope, id := id, inst := k, phase := 0, want := 0, arrived := [] }

/-- The group number of an agent. -/
def groupNo : Agent → Nat
  | .grp _ g => g
  | .ctl _ => 0

/-- Complete a .team barrier whose every group that has not ended has arrived (R197). -/
def Team.settle (t : Team) (id : Nat) : Team :=
  let b := t.bar id
  if !b.2.isEmpty && (t.groups.all fun g => g.2.alive == 0 || b.2.contains g.1) then { t with bars := Sparse.put id (b.1 + 1, []) t.bars } else t

/-- Settle every .team barrier of a team: a group that ends counts as arrived. -/
def Team.settleAll (t : Team) : Team := (List.range 8).foldl Team.settle t

/-- The phase counter of a barrier. -/
def State.phase (s : State) (a : Agent) (scope id inst : Nat) : BitVec 32 :=
  if scope = 2 then ((s.team (teamNo a)).bar id).1 else (s.wideBar a scope id inst).phase
where
  /-- The team of an agent. -/
  teamNo : Agent → Nat
    | .grp t _ => t
    | .ctl _ => 0

/-- Whether an agent has arrived in the current phase. -/
def State.hasArrived (s : State) (a : Agent) (scope id : Nat) : Bool :=
  match a with
  | .ctl _ => false
  | .grp t g => if scope = 2 then ((s.team t).bar id).2.contains g else (s.wideBar a scope id (s.barInst a scope)).arrived.contains a

/-- An arrival (R197, R198): the first of a phase sets the count of a wide barrier. It acts as a release (R199): what the agent
has met is noted with the phase. -/
def State.arrive (s : State) (a : Agent) (scope id count : Nat) : State :=
  let view := (s.thr a).released scope
  match a with
  | .ctl _ => s
  | .grp t g =>
    if scope = 2 then
      s.mapTeam t fun x => ({ x with
        bars := Sparse.put id ((x.bar id).1, (x.bar id).2 ++ [g]) x.bars
        barView := (x.barView.filter fun (v : Nat × BitVec 32 × Carry) => decide (s.clk < v.2.2.clk + Config.copyLife)) ++ view.map fun c => (id, (x.bar id).1, c) }).settle id
    else
      let b := s.wideBar a scope id (s.barInst a scope)
      let b := { b with
        want := if b.arrived.isEmpty then count else b.want
        arrived := b.arrived ++ [a]
        view := (b.view.filter fun (v : BitVec 32 × Carry) => decide (s.clk < v.2.clk + Config.copyLife)) ++ view.map fun c => (b.phase, c) }
      let b := if b.want ≤ b.arrived.length then { b with phase := b.phase + 1, want := 0, arrived := [] } else b
      s.mapLaunch (s.launchOf a) fun l =>
        { l with bars := (l.bars.filter fun x => !(x.scope == scope && x.id == b.id && x.inst == b.inst)) ++ [b] }

/-- Whether a phase has completed since a token (R198). -/
def phasePast (counter token : BitVec 32) : Bool := decide (0 < (counter - token).toInt)

/-- What the arrivals at a barrier have released in the phases of some tokens. -/
def State.barReleased (s : State) (a : Agent) (scope id inst : Nat) (tokens : List (BitVec 32)) : List Carry :=
  match a with
  | .ctl _ => []
  | .grp t _ =>
    if scope = 2 then ((s.team t).barView.filter fun v => v.1 == id && tokens.contains v.2.1).map (·.2.2)
    else ((s.wideBar a scope id inst).view.filter fun v => tokens.contains v.1).map (·.2)

/-- The end of a wait acts as an acquire (R199). The instance is that of the wait's beginning: a group that is swapped out
keeps its arrival there (R198). Each active lane's token must be past. -/
def State.tryBarrier (scope id inst : Nat) (tokens : List (BitVec 32)) (s : State) (a : Agent) : Try :=
  if tokens.all (phasePast (s.phase a scope id inst)) && (s.thr a).fenced 1 then
    .done ((s.acquire a scope).join a scope (s.barReleased a scope id inst tokens)) []
  else .wait

/-- Put the token into the results that barv prepared. -/
def withToken (ws : List RegW) (t : BitVec 32) : List RegW :=
  ws.map fun w => { w with v := List.replicate 32 (t.setWidth 64) }

/-- An arrival, once every earlier access has been performed (R199); bar then waits for its phase. -/
def State.tryArrive (scope id count : Nat) (bar : Bool) (ws : List RegW) (s : State) (a : Agent) : Try :=
  if !(s.thr a).fenced 0 then .wait
  else
    let inst := s.barInst a scope
    let token := s.phase a scope id inst
    let s := (s.mapThr a (Thr.passFence 2 scope)).arrive a scope id count
    if !bar then .done s (withToken ws token)
    else match s.tryBarrier scope id inst [token] a with
      | .done s' ws => .done s' ws
      | _ => .further (s.mapThr a fun th => { th with wait := th.wait.map fun w => { w with hold := .barrier scope id inst [token] } })

/-- The scopes at which barriers stand (R197). -/
def barScope (scope : Nat) : Bool := scope == 2 || scope == 4 || scope == 5 || scope == 6 || scope == 7

/-- bar and barv (R197, R198). -/
def barBody (bar : Bool) : Body := fun g s =>
  let a := s.cur
  let scope := Ins.scope g.n
  let id := (zext 32 (g.uni 0)).toNat
  let count := if scope = 2 then 1 else (zext 32 (g.uni 1)).toNat
  if s.barIds a scope ≤ id || count == 0 || decide (65535 < count) || s.hasArrived a scope id then .error [g.illegal]
  else
    let ws := if bar then [] else regWrites g.n (s.thr a) g.act g.alive { vals := [], tag := .U } 0
    match s.tryArrive scope id count bar ws a with
    | .wait => .ok { s := startWait g (.arrive scope id count bar ws) s, hold := true }
    | .further s' =>
      let inst := s.barInst a scope
      .ok { s := startWait g (.barrier scope id inst [s.phase a scope id inst]) s', hold := true }
    | .done s' ws' => .ok { s := finishNow g ws' s' }
    | .trap t => .error [t]

/-- barw (R198): S2 gives each active lane its token. -/
def barwBody : Body := fun g s =>
  let scope := Ins.scope g.n
  let id := (zext 32 (g.uni 0)).toNat
  let tokens : List (BitVec 32) := (lanesOf g.act).map fun l => (g.val 1 l).setWidth 32
  let inst := s.barInst s.cur scope
  if s.barIds s.cur scope ≤ id then .error [g.illegal]
  else tryOrWait (.barrier scope id inst tokens) (State.tryBarrier scope id inst tokens) g s

/-! ### Tags (R200, Table 12.4) -/

/-- READY and ERR of an agent's tags, how many it has, and the recorded causes. -/
def State.tagBits (s : State) : Agent → BitVec 64 × BitVec 64 × Nat × List (Nat × BitVec 8)
  | .grp t _ => let x := s.team t; (x.ready, x.err, x.ntags, x.errCause)
  | .ctl q => let x := s.quad q; (x.ready, x.err, 64, x.errCause)

/-- Change an agent's tag bits. -/
def State.setTags (s : State) (a : Agent) (ready err : BitVec 64) (cs : List (Nat × BitVec 8)) : State :=
  match a with
  | .grp t _ => s.mapTeam t fun x => { x with ready := ready, err := err, errCause := cs }
  | .ctl q => s.mapQuad q fun x => { x with ready := ready, err := err, errCause := cs }

/-- Whether two agents share one block of tags: groups of one team do. -/
def sameTags : Agent → Agent → Bool
  | .grp t _, .grp u _ => t == u
  | .ctl p, .ctl q => p == q
  | _, _ => false

/-- Whether a command that names a tag is pending. -/
def State.tagPending (s : State) (a : Agent) (t : Nat) : Bool := s.cmds.any fun c => sameTags c.a a && c.tag == t

/-- The lowest tag of a mask whose ERR is set. -/
def State.failedTag (s : State) (a : Agent) (mask : BitVec 64) : Option Nat :=
  let (_, err, n, _) := s.tagBits a
  (List.range n).find? fun t => mask.getLsbD t && err.getLsbD t

/-- The trap of a failed tag: the command's cause with the tag in tval. -/
def State.tagTrap (s : State) (a : Agent) (m : Mask) (t : Nat) : Trap :=
  let (_, _, _, cs) := s.tagBits a
  { cause := Cause.ofCode (Sparse.get 0x18 t cs), lmask := m, tval := BitVec.ofNat 64 t }

/-- The tags below a count. -/
def lowTags (n : Nat) : BitVec 64 := BitVec.ofNat 64 (2 ^ n - 1)

/-- What the commands of an agent's tags of a mask have written (R204). -/
def State.tagWrites (s : State) (a : Agent) (m : BitVec 64) : List Carry :=
  s.log.filterMap fun r => match r.cmd with
    | some (b, t) => if sameTags b a && m.getLsbD t then some ⟨r.sp, r.a, r.n, r.at_, r.clk, 10⟩ else none
    | none => none

/-- twany and twall: the end of the wait acquires what the commands wrote (R204). -/
def State.tryTags (all : Bool) (mask : BitVec 64) (s : State) (a : Agent) : Try :=
  let (ready, _, n, _) := s.tagBits a
  let m := mask &&& lowTags n
  let met : Bool := if all then ready &&& m == m else ready &&& m != 0
  if !met then .wait
  else match s.failedTag a m with
    | some t => .trap (s.tagTrap a (s.thr a).present t)
    | none => .done ((s.acquire a 8).join a 8 (s.tagWrites a m)) []

def twBody (all : Bool) : Body := fun g s => tryOrWait (.tags all (g.uni 0)) (State.tryTags all (g.uni 0)) g s

/-- tffs. -/
def tffsBody : Body := fun g s =>
  let a := s.cur
  let (ready, _, n, _) := s.tagBits a
  let m := g.uni 0 &&& lowTags n
  match s.failedTag a m with
  | some t => .error [{ (s.tagTrap a g.act t) with lmask := g.act }]
  | none =>
    let x := ((List.range n).find? fun t => m.getLsbD t && ready.getLsbD t).getD 64
    commitFixed g { vals := g.lanes fun _ => BitVec.ofNat 64 x, tag := .U } s

/-- tclr. -/
def tclrBody : Body := fun g s =>
  let a := s.cur
  let (ready, err, n, cs) := s.tagBits a
  let m : BitVec 64 := BitVec.ofFnLE (n := 64) fun t => decide (t.val < n) && (g.uni 0).getLsbD t && !s.tagPending a t
  .ok { s := finishNow g [] (s.setTags a (ready &&& ~~~m) (err &&& ~~~m) (cs.filter fun c => !m.getLsbD c.1)) }

/-! ### Register pools (R339 to R342) -/

/-- Registers that chunks `from` to `from + c - 1` count (R35). -/
def chunkCost (from_ c : Nat) : Nat := ((List.range c).map fun i => if from_ + i = 15 then 8 else 16).sum

/-- Registers of a team's pool that no group holds. -/
def Team.unheld (t : Team) : Nat :=
  t.pool - (t.groups.map fun g => chunkCost g.2.baseChunks (g.2.chunks - g.2.baseChunks)).sum

/-- Registers that a team has on its core: base sets, handler banks, pool (R26, R340). -/
def Team.registers (t : Team) : Nat := (t.groups.map fun g => 16 * g.2.baseChunks + 8).sum + t.pool

/-- Whether the quarters before an agent's have had their issue slots of this cycle: no request of the cycle comes before
one of this agent any more (R341). -/
def State.settledBefore (s : State) (a : Agent) : Bool :=
  let core := s.coreOf (s.coreNo a)
  (List.range ((s.thr a).slot / 4)).all fun q => core.issued.any fun x => x.1 == q && x.2 == s.clk + 1

/-- Whether a request of an agent is the next to be served by its queue: the oldest, and among those of one cycle that of
the lowest quarter, then slot (R341). -/
def State.first (s : State) (a : Agent) (l : List PoolReq) : Bool :=
  match l with
  | [] => s.settledBefore a
  | r :: _ => r.a == a && decide (r.clk < s.clk)

/-- Put a request in its place. -/
def PoolReq.insert (r : PoolReq) (l : List PoolReq) : List PoolReq :=
  let before (x : PoolReq) : Bool := decide (x.clk < r.clk) || (x.clk == r.clk && decide (x.slot < r.slot))
  l.filter before ++ r :: l.filter fun x => !before x

/-- Remove an agent's request. -/
def dropReq (a : Agent) (l : List PoolReq) : List PoolReq := l.filter (·.a != a)

/-- Grant chunks: each new register holds zero with tag U (R32, R339). -/
def Thr.grant (th : Thr) (c : Nat) : Thr :=
  { th with chunks := th.chunks + c
            regs := th.regs.filter fun r => !(decide (16 * th.chunks ≤ r.1) && decide (r.1 < min 248 (16 * (th.chunks + c)))) }

/-- racq (R339): served in arrival order (R341). -/
def State.tryRacq (c : Nat) (s : State) (a : Agent) : Try :=
  match a with
  | .ctl _ => .wait
  | .grp t _ =>
    let x := s.team t
    if s.first a x.poolReqs && decide (chunkCost (s.thr a).chunks c ≤ x.unheld) then
      .done ((s.mapTeam t fun x => { x with poolReqs := dropReq a x.poolReqs }).mapThr a fun th => th.grant c) []
    else .wait

/-- tshrink (R340). -/
def State.tryTshrink (c : Nat) (s : State) (a : Agent) : Try :=
  match a with
  | .ctl _ => .wait
  | .grp t _ =>
    let x := s.team t
    if s.first a x.poolReqs && decide (16 * c ≤ x.unheld) then
      .done ((s.mapTeam t fun x => { x with poolReqs := dropReq a x.poolReqs, pool := x.pool - 16 * c }).mapCore x.core
        fun k => { k with free := k.free + 16 * c }) []
    else .wait

/-- tgrow (R340). -/
def State.tryTgrow (c : Nat) (s : State) (a : Agent) : Try :=
  match a with
  | .ctl _ => .wait
  | .grp t _ =>
    let k := (s.team t).core
    if s.first a (s.coreOf k).reqs && decide (16 * c ≤ (s.coreOf k).free) then
      .done ((s.mapTeam t fun x => { x with pool := x.pool + 16 * c }).mapCore k
        fun k => { k with free := k.free - 16 * c, reqs := dropReq a k.reqs }) []
    else .wait

/-- Queue a request that is not granted at once. -/
def State.enqueue (s : State) (a : Agent) (core : Bool) (n : Nat) : State :=
  match a with
  | .ctl _ => s
  | .grp t _ =>
    let r : PoolReq := ⟨a, n, s.clk, (s.thr a).slot⟩
    if core then s.mapCore (s.team t).core fun k => { k with reqs := r.insert k.reqs }
    else s.mapTeam t fun x => { x with poolReqs := r.insert x.poolReqs }

/-- A request of a pool: granted at once where nobody comes before it, else queued. -/
def poolBody (h : Hold) (core : Bool) (n : Nat) (f : State → Agent → Try) : Body := fun g s =>
  match f s s.cur with
  | .done s' ws => .ok { s := finishNow g ws s' }
  | .trap t => .error [t]
  | _ => .ok { s := (startWait g h s).enqueue s.cur core n, hold := true }

/-- The count operand of the register instructions. -/
def Go.count (g : Go) : Nat := (zext 32 (g.uni 0)).toNat

def racqBody : Body := fun g s =>
  let th := s.thr s.cur
  if g.count = 0 then .ok { s := finishNow g [] s }
  else if 16 < th.chunks + g.count then .error [g.illegal]
  else poolBody (.racq g.count) false (chunkCost th.chunks g.count) (State.tryRacq g.count) g s

/-- rrel (R339). -/
def rrelBody : Body := fun g s =>
  let th := s.thr s.cur
  if th.chunks - th.baseChunks < g.count then .error [g.illegal]
  else
    let keep := th.chunks - g.count
    .ok { s := finishNow g [] (s.mapThr s.cur fun th =>
      { th with chunks := keep, regs := th.regs.filter fun r => !(decide (16 * keep ≤ r.1) && decide (r.1 < 248)) }) }

/-- The team of an agent. -/
def State.teamOf (s : State) : Agent → Team
  | .grp t _ => s.team t
  | .ctl _ => Team.absent

def tgrowBody : Body := fun g s =>
  if g.count = 0 then .ok { s := finishNow g [] s }
  else if Config.corePool < (s.teamOf s.cur).registers + 16 * g.count then .error [g.illegal]
  else poolBody (.tgrow g.count) true (16 * g.count) (State.tryTgrow g.count) g s

def tshrinkBody : Body := fun g s =>
  if g.count = 0 then .ok { s := finishNow g [] s }
  else if (s.teamOf s.cur).pool < 16 * g.count then .error [g.illegal]
  else poolBody (.tshrink g.count) false (16 * g.count) (State.tryTshrink g.count) g s

/-! ### Shape tags (R343, R344) -/

/-- The code of a register's tag (Table 18.5). -/
def tagCode (r : VReg) : Nat :=
  if r.poison ≠ 0 then 4 else match r.tag with | .U => 1 | .A .. => 2 | .G => 3

/-- tag (R343): R is a register number. -/
def resTag (th : Thr) (ctr : Nat) (g : Go) : Res :=
  { vals := g.lanes fun _ => BitVec.ofNat 64 (tagCode (th.readV ctr (th.pos (g.n.fld .s1).toNat))), tag := .U }

/-- Whether the lanes of a mask hold base + l × stride, and with which base and stride (R344). -/
def affineFit (m : Mask) (v : List (BitVec 64)) : Option (BitVec 32 × BitVec 32) :=
  let x (l : Nat) : BitVec 32 := (lane64 v l).setWidth 32
  match lanesOf m with
  | [] => some (0, 0)
  | [l] => some (x l, 0)
  | l :: rest =>
    let fits (st : BitVec 32) : Bool := rest.all fun j => x j == x l + BitVec.ofNat 32 (j - l) * st
    let d := rest.headD 0 - l
    let diff := x (rest.headD 0) - x l
    let odd := d / 2 ^ twos 6 d
    let base := (diff * inverse (BitVec.ofNat 32 odd))
    let cands := (List.range (2 ^ twos 6 d)).map fun k =>
      BitVec.ofNat 32 (base.toNat / 2 ^ twos 6 d) + BitVec.ofNat 32 (k * 2 ^ (32 - twos 6 d))
    if base.toNat % 2 ^ twos 6 d ≠ 0 then none
    else (cands.find? fits).map fun st => (x l - BitVec.ofNat 32 l * st, st)
where
  /-- How often 2 divides a number. -/
  twos : Nat → Nat → Nat
    | 0, _ => 0
    | n + 1, d => if d % 2 = 0 ∧ d ≠ 0 then twos n (d / 2) + 1 else 0
  /-- The inverse of an odd number modulo 2^32, by Newton's steps. -/
  inverse (a : BitVec 32) : BitVec 32 :=
    let st (y : BitVec 32) := y * (2 - a * y)
    st (st (st (st (st a))))

/-- tagset (R344): the wider of k and the narrowest tag that fits; the values of exited lanes become those that
the tag states. It has no register result, so it acts when it issues; of a result on its way it reads, lane by lane, the old or
the new value (R60). (DEDUCED, log entry 22.) -/
def tagsetBody : Body := fun g s =>
  let a := s.cur
  let th := s.thr a
  let k := (zext 32 (g.uni 0)).toNat
  if k = 0 ∨ 3 < k then .error [g.illegal]
  else
    let p := th.pos (g.n.fld .d).toNat
    let r0 := th.vreg p
    let r := th.readV s.freeCtr p
    let vals : List (BitVec 64) := r.v.map (·.setWidth 64)
    let fit := affineFit g.alive vals
    let line : Tag := match fit with | some (b, st) => .A b st | none => .G
    let t : Tag := if k = 3 ∨ r.poison ≠ 0 then .G else if isU g.alive vals ∧ k = 1 then .U else line
    let v : List (BitVec 32) := match t with
      | .U => perLane fun l => if g.alive.getLsbD l then lane32 r0.v l else lane32 r.v (lowestLane g.alive)
      | .A b st => perLane fun l => if g.alive.getLsbD l then lane32 r0.v l else b + BitVec.ofNat 32 l * st
      | .G => r0.v
    let th := { th with regs := Sparse.put p { r0 with v := v, tag := t } th.regs }
    .ok { s := s.setThr a (th.sendFixed s.clk (latency g.n.row.cls g.scal) g.n.flag []) }

/-! ### The instructions -/

/-- What a barrier instruction adds to the shared checks: its scope. -/
def barExtra (n : Ins) : Extra := { bad := !barScope (Ins.scope n) }

def execBar (c : Ctl) (p : PayA) (s : State) : Out := .next (issue (p.ins Rows.rowBar c) (barExtra (p.ins Rows.rowBar c)) (barBody true) s)
def execBarv (c : Ctl) (p : PayA) (s : State) : Out := .next (issue (p.ins Rows.rowBarv c) (barExtra (p.ins Rows.rowBarv c)) (barBody false) s)
def execBarw (c : Ctl) (p : PayA) (s : State) : Out := .next (issue (p.ins Rows.rowBarw c) (barExtra (p.ins Rows.rowBarw c)) barwBody s)
def execFenceFull (c : Ctl) (p : PayA) (s : State) : Out := .next (issue (p.ins Rows.rowFence c) {} (fenceBody 0) s)
def execFenceAcq (c : Ctl) (p : PayA) (s : State) : Out := .next (issue (p.ins Rows.rowFence c) {} (fenceBody 1) s)
def execFenceRel (c : Ctl) (p : PayA) (s : State) : Out := .next (issue (p.ins Rows.rowFence c) {} (fenceBody 2) s)
def execTwany (c : Ctl) (p : PayA) (s : State) : Out := .next (issue (p.ins Rows.rowTwany c) {} (twBody false) s)
def execTwall (c : Ctl) (p : PayA) (s : State) : Out := .next (issue (p.ins Rows.rowTwall c) {} (twBody true) s)
def execTffs (c : Ctl) (p : PayA) (s : State) : Out := .next (issue (p.ins Rows.rowTffs c) {} tffsBody s)
def execTclr (c : Ctl) (p : PayA) (s : State) : Out := .next (issue (p.ins Rows.rowTclr c) {} tclrBody s)
def execRacq (c : Ctl) (p : PayA) (s : State) : Out := .next (issue (p.ins Rows.rowRacq c) {} racqBody s)
def execRrel (c : Ctl) (p : PayA) (s : State) : Out := .next (issue (p.ins Rows.rowRrel c) {} rrelBody s)
def execTgrow (c : Ctl) (p : PayA) (s : State) : Out := .next (issue (p.ins Rows.rowTgrow c) {} tgrowBody s)
def execTshrink (c : Ctl) (p : PayA) (s : State) : Out := .next (issue (p.ins Rows.rowTshrink c) {} tshrinkBody s)

def execTag (c : Ctl) (p : PayA) (s : State) : Out :=
  let n := p.ins Rows.rowTag c
  .next (issue n { bad := decide (0xF8 ≤ p.s1.toNat) } (fun g s => commitFixed g (resTag (s.thr s.cur) s.freeCtr g) s) s)

def execTagset (c : Ctl) (p : PayA) (s : State) : Out :=
  let n := p.ins Rows.rowTagset c
  .next (issue n { bad := decide (0xF8 ≤ p.d.toNat) } tagsetBody s)

end Sys2Proof.Machine
end

