-- ==== Sys2Proof/Machine/LoadStore.lean ====
section
/-! DEFINITION. Loads, stores, prefetches, atomics and the handle instructions (R151 to R163, R191 to R195). -/

namespace Sys2Proof.Machine

open Sys2Proof

/-! ### The shared path of an access -/

/-- The handle that a four-bit field of the word names. -/
def Go.handle (g : Go) (s : State) (lo : Nat) : BitVec 128 := ((s.thr s.cur).hreg (g.n.bits lo 4).toNat).v

/-- The element index of a lane, read as n32 (R144). -/
def Go.index (g : Go) (l : Nat) : Nat := (zext 32 (g.val 0 l)).toNat

/-- The checks of the lanes of a mask for an access through the handle in bits [15:12]. -/
def planM (need : Need) (w : Go → Nat) (m : Mask) (g : Go) (s : State) : Plan :=
  planOf m fun l => s.laneCheck (s.who s.cur) need (g.handle s 12) (w g) l (g.index l)

/-- SP of format ML (R46). -/
def Ins.sp (n : Ins) : Nat := (n.bits 14 2).toNat

/-- The checks of the lanes of a mask for a local access (R137). -/
def planL (m : Mask) (g : Go) (s : State) : Plan :=
  let w := tyBytes g.ty
  planOf m fun l => s.laneLocal s.cur (Ins.sp g.n) w l ((g.index l + (g.n.bits 0 10).toNat) * w)

/-- The checks of hld and hst: one address, and a cause in every active lane (R160). (DEDUCED, log entry 30.) -/
def planH (need : Need) (m : Mask) (g : Go) (s : State) : Plan :=
  if m = 0 then ⟨[], [], [], false⟩
  else
    let h := g.handle s 28
    let wh := s.who s.cur
    let l := lowestLane m
    match (if (s.baseFormat wh h).1 ≠ 0 then LaneR.trap .perm 0 else s.laneCheck wh need h 16 l (g.index l)) with
    | .el e va => ⟨[(e, va)], [], [], false⟩
    | .trap c v => ⟨[], [{ cause := c, lmask := m, tval := BitVec.ofNat 64 v }], [], false⟩
    | .absent pte va => ⟨[], [], [(pte, va, l)], false⟩
    | .hole => ⟨[], [], [], true⟩

/-- The STORAGE_ERR traps of lanes on a page whose fill has failed for this thread (R310). -/
def failedLanes (g : Go) (th : Thr) (p : Plan) (whole : Bool) : List Trap :=
  (p.absent.filter fun x => th.stErr.contains x.1).map fun x =>
    { cause := .storageErr, lmask := if whole then g.act else 1 <<< x.2.2, tval := BitVec.ofNat 64 x.2.1 }

/-- Serve a checked access: causes first; a page that is not resident cancels the instruction (R146, R305, R313). -/
def served (g : Go) (s : State) (p : Plan) (whole : Bool) (k : List (Elem × Nat) → Fin) : Except (List Trap) Fin :=
  let failed := failedLanes g (s.thr s.cur) p whole
  if !p.traps.isEmpty then .error p.traps
  else if !failed.isEmpty then .error failed
  else if !p.absent.isEmpty then .ok { s := s.storageFault s.cur (p.absent.map (·.1)), cancel := true }
  else .ok (k p.els)

/-- The translations of an access leave their marks (R304). -/
def State.noteAll (s : State) (need : Need) (els : List (Elem × Nat)) : State :=
  els.foldl (fun s e => if e.1.sp = .mem then s.noteAccess (s.who s.cur) need e.2 else s) s

/-- Whether the LSU marks the flag of a load long (R214): a walk, or by free choice a miss in the L2. -/
def State.isLong (s : State) (need : Need) (els : List (Elem × Nat)) : Bool :=
  els.any fun e => e.1.sp = .mem && (!(s.leafOf (s.who s.cur) need e.2).2 || Config.freeBit s.freeCtr 200000 e.1.lane)

/-- The partition and region whose view an access through a handle has been checked against (R320). -/
def State.viewed (s : State) (h : BitVec 128) : Option (Nat × Nat) :=
  let part := s.partOf s.cur
  if Hd.kind h = 1 then some (part, (s.view part (Hd.slot h)).region) else none

/-- What the address of an access depends on, and of a store or atomic its data and the branches before it too (R331). -/
def Go.memDeps (g : Go) (th : Thr) (k : VKind) : List Dep :=
  let srcs := g.n.sources g.scal
  if k.writes then g.dependsBy th srcs g.n.handleUses ++ th.ctlDeps.map fun q => ⟨q, BitVec.allOnes 32, true⟩
  else g.dependsBy th (srcs.take 1) g.n.handleUses

/-- Put an access in flight. (DEDUCED, log entry 15.) -/
def sendMem (g : Go) (need : Need) (els : List (Elem × Nat)) (strong : Bool) (scope : Nat) (k : VKind) (s : State)
    (view : Option (Nat × Nat) := none) : Fin :=
  let long := (k.reads && s.isLong need els)
  { s := (s.noteAll need els).mapThr s.cur fun th => th.sendVar g.n strong scope long k view (g.memDeps th k) }

/-- Issue an instruction whose lanes reach memory. An address that translates to no memory at all stops the machine
(R298, R301). -/
def issueM (n : Ins) (x : Extra) (plan : Mask → Go → State → Plan) (body : Plan → Body) (s : State) : Out :=
  let a := s.cur
  let s0 := s.mapThr a (Thr.landDue s.clk)
  let th := s0.thr a
  let g := readOperands n a s0
  let runs := th.ra.isNone && (earlyTrap n x th).isNone && (lateTrap n x th).isNone && g.full != 0 && g.faults.isEmpty
  if runs && (plan g.act g s0).hole && (plan g.act g s0).traps.isEmpty then .fault .noSuchMemory
  else .next (issue n x (fun g s => body (plan g.act g s) g s) s)

/-! ### Runahead (Table 14.4) -/

/-- The active lanes whose index is Frost. -/
def Go.frostLanes (g : Go) : Mask := (g.op 0).frost &&& g.full

/-- ld, hld and pf in runahead: prefetch what the other active lanes reach, into the L1 whatever CH is, with CH 2 into the fibre
cache, and mark the destination Frost. Each active lane of hld counts as an access of its element (R224). -/
def raPrefetch (ch : Nat) (whole : Bool) (plan : Mask → Go → State → Plan) (g : Go) (s : State) : Fin :=
  let a := s.cur
  let p := plan (if whole ∧ g.frostLanes ≠ 0 then 0 else g.full &&& ~~~g.frostLanes) g s
  let els := p.els.flatMap fun e => List.replicate (if whole then (lanesOf g.full).length else 1) e.1
  let s := (s.noteAll .read p.els).cacheLoad a (if ch = 2 then 2 else 0) els
  let s := p.absent.foldl (fun s x => s.softFill (s.dieOf a) x.1 (s.partOf a)) s
  { s := s.mapThr a fun th => th.frostDst g.n g.full }

/-- lds in runahead: it reads its space; lanes whose index or predicate bit is Frost, and lanes out of bounds, give Frost. -/
def raLds (g : Go) (s : State) : Fin :=
  let a := s.cur
  let fr := (g.frostLanes ||| (if g.n.row.noPred then 0 else ((s.thr a).readP s.freeCtr g.n.c.pred.toNat).frost)) &&& g.full
  let p := planL (g.full &&& ~~~fr) g s
  let th := s.thr a
  let vals := valuesOf (p.els.map fun e => (e.1.lane, s.loadElem g.scal g.ty e.1))
  let bad := p.traps.foldl (fun m t => m ||| t.lmask) fr
  let ws := regWrites g.n th g.full g.alive { vals := vals, tag := .G, poison := s.poisonLanes (p.els.map (·.1)) } bad
  { s := s.mapThr a fun th => th.sendFixed s.clk 1 none ws }

/-! ### ld, st, pf, lds, sts -/

/-- The row of ld or st for the page on which the handle's base lies (Table 9.2). -/
def pageRow (r : Row) (fmt : Nat) : Row := if fmt = 0 then r else { r with types := [4, 6, 7], stypes := [5], dflt := 4 }

/-- The format of the page of the handle in bits [15:12]. -/
def State.pageFmt (s : State) (h : BitVec 4) : Nat := (s.baseFormat (s.who s.cur) ((s.thr s.cur).hreg h.toNat).v).1

/-- Whether the scope and strength bits of format M or of hld and hst name a strong access (R155). -/
def Ins.strong (n : Ins) : Bool := !n.pay.getLsbD 3

/-- Prepared results of a load or atomic: tag G (R153). -/
def Go.loadResults (g : Go) (s : State) : List RegW := regWrites g.n (s.thr s.cur) g.act g.alive { vals := [], tag := .G } 0

/-- ld (R153). -/
def ldBody (p : Plan) : Body := fun g s => served g s p false fun els =>
  sendMem g .read els (Ins.strong g.n) (Ins.scope g.n) (.load (els.map (·.1)) g.ty 0 (g.loadResults s) (Ins.ch g.n)) s (s.viewed (g.handle s 12))

/-- The data of a store in an element: plain bytes, or the value as f64 on a formatted page (R84, R154). -/
def Go.storeData (g : Go) (e : Elem) : Elem :=
  let x := g.val 1 e.lane
  { e with data := (if e.fmt = 0 then x else (Fp.convert (Fp.ofTy g.ty) Fp.f64 0 false x).1)
           poison := (g.op 1).poison.getLsbD e.lane }

/-- FMTPART (R84): the lanes whose block the active lanes do not supply whole. (DEDUCED, log entry 29.) -/
def fmtPart (g : Go) (s : State) : List Trap :=
  let wh := s.who s.cur
  let h := g.handle s 12
  let (fmt, geo) := s.baseFormat wh h
  if fmt = 0 then []
  else
    let at_ (l : Nat) := Block.place fmt geo (Hd.stride h) (g.index l)
    let lanes := lanesOf g.act
    let whole (b : Nat) : Bool := (List.range (Block.elems fmt)).all fun j => lanes.any fun l => at_ l == (b, j)
    let bad := lanes.filter fun l => !whole (at_ l).1
    match bad.map fun l => (at_ l).1 with
    | [] => []
    | b :: r => [{ cause := .fmtpart, lmask := maskOf fun l => bad.contains l
                   tval := BitVec.ofNat 64 (blockVa (s.basePage wh h) fmt h (r.foldl min b)) }]

/-- st (R154). -/
def stBody (p : Plan) : Body := fun g s =>
  let part := if p.traps.isEmpty && g.faults.isEmpty then fmtPart g s else []
  if !part.isEmpty then .error part
  else served g s p false fun els =>
    sendMem g .write els (Ins.strong g.n) (Ins.scope g.n) (.store (els.map fun e => g.storeData e.1) ((els.map (·.1.fmt)).headD 0) (Ins.ch g.n)) s
      (s.viewed (g.handle s 12))

/-- pf (R158): a lane that would raise a cause, or whose page is not resident, is dropped; for such a page it only asks for
a fill (R306). Table 8.4 has a prefetch with CH 1 fill the L1, and R158 the L2 alone: which it does is a free bit.
(DEDUCED, log entry 31.) -/
def pfBody : Body := fun g s =>
  let p := planM .read (fun g => tyBytes (g.n.bits 8 4).toNat) g.act g s
  let s := p.absent.foldl (fun s x => s.softFill (s.dieOf s.cur) x.1 (s.partOf s.cur)) s
  .ok (sendMem g .read p.els false 8 (.prefetch (p.els.map (·.1)) (if Ins.ch g.n = 1 ∧ Config.freeBit s.freeCtr 122000 0 then 3 else Ins.ch g.n)) s)

/-- The scope of a local space (R136). -/
def spaceScope (sp : Nat) : Nat := [0, 3, 4, 5].getD sp 5

/-- lds (R159). -/
def ldsBody (p : Plan) : Body := fun g s => served g s p false fun els =>
  sendMem g .read els true (spaceScope (Ins.sp g.n)) (.load (els.map (·.1)) g.ty 0 (g.loadResults s) 0) s

/-- sts (R159). -/
def stsBody (p : Plan) : Body := fun g s => served g s p false fun els =>
  sendMem g .write els true (spaceScope (Ins.sp g.n)) (.store (els.map fun e => g.storeData e.1) 0 0) s

/-! ### Atomics (R191 to R195) -/

/-- OP of word 1 (Table 12.1). -/
def Ins.atomOp (n : Ins) : Nat := ((n.w1.getD 0).extractLsb' 12 4).toNat

/-- An atomic: operation and scope; always strong. A global one has its handle in bits [15:12]. -/
def atomicBody (op scope : Nat) (global : Bool) (p : Plan) : Body := fun g s => served g s p false fun els =>
  let el (e : Elem) : Elem := { e with data := g.val 1 e.lane, data2 := g.val 2 e.lane }
  sendMem g .rmw els true scope (.atomic (els.map fun e => el e.1) op g.ty (g.loadResults s)) s (if global then s.viewed (g.handle s 12) else none)

/-! ### Handle instructions (R160 to R162) -/

/-- hld: the handle register is written when the flag clears. -/
def hldBody (p : Plan) : Body := fun g s => served g s p true fun els =>
  match els with
  | (e, va) :: _ =>
    sendMem g .read [(e, va)] (Ins.strong g.n) (Ins.scope g.n) (.hld e (g.n.bits 24 4).toNat (Ins.ch g.n) (lanesOf g.act).length) s
      (s.viewed (g.handle s 28))
  | [] => commitPlain g s

/-- hst. The line that it writes is not kept in the L1, whatever CH is. (DESIGN CHOICE, log entry 76.) -/
def hstBody (p : Plan) : Body := fun g s => served g s p true fun els =>
  match els with
  | (e, va) :: _ => sendMem g .write [(e, va)] (Ins.strong g.n) (Ins.scope g.n) (.hst e (g.handle s 24)) s (s.viewed (g.handle s 28))
  | [] => commitPlain g s

/-- A result that lands in a handle register. -/
def handleW (n : Nat) (h : BitVec 128) : RegW :=
  { tgt := .h n, mask := 1, v := [h.setWidth 64, (h >>> 64).setWidth 64], tag := .U, poison := 0, frost := 0, dead := 0 }

/-- The handle that hmk derives, or its cause (R161). The sum of BASE and the offset is taken modulo 2^52; no rule gives a cause
or a value where it does not fit. (DESIGN CHOICE, log entry 76.) -/
def deriveHandle (h : BitVec 128) (o n : Nat) : Except Cause (BitVec 128) :=
  let d := o * Hd.stride h
  if 3 ≤ Hd.kind h then .error .perm
  else if Hd.extent h < o + n then .error .bounds
  else if Hd.stride h = 0 ∧ o ≠ 0 then .error .align
  else if Hd.mode h = 1 ∧ d % 2 ^ (4 + 2 * Hd.b h + Hd.s h) ≠ 0 then .error .align
  else .ok (Hd.make (Hd.base h + d) (Hd.kind h) (Hd.swiz h) n (Hd.stride h) (Hd.slot h))

/-- hmk. -/
def hmkBody : Body := fun g s =>
  match deriveHandle (g.handle s 28) (zext 32 (g.uni 0)).toNat (zext 32 (g.uni 1)).toNat with
  | .error c => .error [g.all c]
  | .ok h =>
    let ws := [handleW (g.n.bits 24 4).toNat h]
    .ok { s := s.mapThr s.cur fun th => th.sendFixed s.clk (latency g.n.row.cls g.scal) g.n.flag ws }

/-- The field of a handle that a code of Table 9.4 names, as the register holds it: SLOT of a KIND 0 or 3 too, where Table 8.2
calls it reserved and R5 might have it read as zero. (DESIGN CHOICE, log entry 76.) -/
def handleField (h : BitVec 128) (code : Nat) : Nat :=
  match code with
  | 0 => Hd.base h | 1 => Hd.kind h | 2 => Hd.swiz h | 3 => Hd.extent h | 4 => Hd.stride h | 5 => Hd.slot h
  | 6 => bitsOf h.toNat 0 64 | _ => bitsOf h.toNat 64 64

/-- hget. -/
def hgetBody : Body := fun g s =>
  let x := handleField (g.handle s 16) (g.n.bits 0 4).toNat
  commitFixed g { vals := g.lanes fun _ => BitVec.ofNat 64 x, tag := .U } s

/-! ### The instructions -/

/-- The width of an element of the effective type. -/
def Go.bytes (g : Go) : Nat := tyBytes g.ty

def execLd (c : Ctl) (p : PayM) (s : State) : Out :=
  let n := p.ins (pageRow Rows.rowLd (s.pageFmt p.h)) c
  issueM n { ra := some (raPrefetch (Ins.ch n) false (planM .read Go.bytes)) } (planM .read Go.bytes) ldBody s

def execSt (c : Ctl) (p : PayM) (s : State) : Out :=
  issueM (p.ins (pageRow Rows.rowSt (s.pageFmt p.h)) c) {} (planM .write Go.bytes) stBody s

def execLds (c : Ctl) (p : PayML) (s : State) : Out :=
  issueM (p.ins Rows.rowLds c) { mode := (s.thr s.cur).scalar && decide (p.sp.toNat < 2), ra := some raLds } planL ldsBody s

def execSts (c : Ctl) (p : PayML) (s : State) : Out :=
  issueM (p.ins Rows.rowSts c) { mode := (s.thr s.cur).scalar && decide (p.sp.toNat < 2) } planL stsBody s

def execPf (c : Ctl) (p : PayM) (s : State) : Out :=
  let n := p.ins Rows.rowPf c
  let w (g : Go) : Nat := tyBytes (g.n.bits 8 4).toNat
  .next (issue n { ra := some (raPrefetch (Ins.ch n) false (planM .read w)) } pfBody s)

def execAtom (c : Ctl) (p : PayEM) (s : State) : Out :=
  let n := p.ins Rows.rowAtom c
  issueM n { bad := decide (6 < Ins.atomOp n) } (planM .rmw Go.bytes) (atomicBody (Ins.atomOp n) (Ins.scope n) true) s

def execCas (c : Ctl) (p : PayEM) (s : State) : Out :=
  let n := p.ins Rows.rowCas c
  issueM n {} (planM .rmw Go.bytes) (atomicBody 7 (Ins.scope n) true) s

def execAtoms (c : Ctl) (p : PayEML) (s : State) : Out :=
  let n := p.ins Rows.rowAtoms c
  issueM n { bad := decide (7 < Ins.atomOp n), mode := (s.thr s.cur).scalar && decide (p.sp.toNat < 2) } planL
    (atomicBody (Ins.atomOp n) (spaceScope p.sp.toNat) false) s

def execHld (c : Ctl) (p : PayA) (s : State) : Out :=
  let n := p.ins Rows.rowHld c
  issueM n { ra := some (raPrefetch (Ins.ch n) true (planH .read)) } (planH .read) hldBody s

def execHst (c : Ctl) (p : PayA) (s : State) : Out :=
  issueM (p.ins Rows.rowHst c) {} (planH .write) hstBody s

def execHmk (c : Ctl) (p : PayA) (s : State) : Out := .next (issue (p.ins Rows.rowHmk c) {} hmkBody s)

def execHget (c : Ctl) (p : PayA) (s : State) : Out :=
  let n := p.ins Rows.rowHget c
  .next (issue n { bad := n.pay.getLsbD 3 } hgetBody s)

end Sys2Proof.Machine
end

