-- ==== Sys2Proof/Machine/Views.lean ====
section
/-! DEFINITION. Covered storage: regions and views (R317 to R323), the view instructions (R345 to R349) and shadow
publishing (R205). A view change commits when its instruction issues: its causes are met there, its flag is clear again, and the
handle that it gives is written. (DEDUCED, log entry 31.) -/

namespace Sys2Proof.Machine

open Sys2Proof

/-! ### Regions (R317, R319) -/

/-- Elements of a region. -/
def Region.elems (r : Region) : Nat := r.pages * 65536 / 2 ^ r.esh

/-- The pages of a region that the range [lo, hi) meets: the first, and the one after the last. -/
def Region.span (r : Region) (lo hi : Nat) : Nat × Nat :=
  if hi ≤ lo then (0, 0) else (lo * 2 ^ r.esh / 65536, ceilDiv (hi * 2 ^ r.esh) 65536)

/-- COV(j): the open views of region k that cover page j (R319). -/
def State.cov (s : State) (part k j : Nat) : Nat :=
  (s.part part).views.countP fun v =>
    v.2.isOpen && v.2.region == k && (let p := (s.region part k).span v.2.lo v.2.hi; decide (p.1 ≤ j) && decide (j < p.2))

/-- Change a region of a partition. -/
def State.mapRegion (s : State) (part k : Nat) (f : Region → Region) : State :=
  s.mapPart part fun p => { p with regions := Sparse.put k (f (Sparse.get Region.absent k p.regions)) p.regions }

/-- Set a view slot. -/
def State.setView (s : State) (part slot : Nat) (v : View) : State :=
  s.mapPart part fun p => { p with views := Sparse.put slot v p.views }

/-- Commit a change to views of a region: pages whose COV falls to 0 become draining (R324). -/
def State.commitView (s : State) (part k : Nat) (f : State → State) : State :=
  let s' := f s
  let r := s.region part k
  let js := (List.range r.pages).filter fun j =>
    decide (0 < s.cov part k j) && s'.cov part k j == 0 && !r.harvested.contains j && !r.draining.contains j
  let s' := s'.mapRegion part k fun r => { r with draining := r.draining ++ js }
  let ops := s.inFlight fun _ o => o.view == some (part, k)
  js.foldl (fun s j => s.mapDie r.hdie fun d => { d with drains := d.drains ++ [⟨part, k, j, ops, s.freeCtr, none⟩] }) s'

/-! ### Slots (R323) -/

/-- The lowest number from n on that a rising list does not have. -/
def lowestMissing : Nat → List (Nat × View) → Nat
  | n, [] => n
  | n, (i, _) :: r => if i = n then lowestMissing (n + 1) r else n

/-- The slot that vopen and vsplit take: never used slots first, then the least recently freed. -/
def State.freeSlot (s : State) (part : Nat) : Option Nat :=
  let vs := (s.part part).views
  let n := lowestMissing 0 vs
  if n < Config.viewSlots then some n
  else (pickBy (fun a b => decide (a.2.freed < b.2.freed)) (vs.filter fun v => !v.2.isOpen)).map (·.1)

/-- Whether a view of a region can be opened, and in which slot (R346). -/
def State.slotFor (s : State) (part k : Nat) : Option Nat :=
  if 65535 ≤ (s.region part k).views then none else s.freeSlot part

/-- Open a view. -/
def State.openView (s : State) (part slot k lo hi : Nat) : State :=
  (s.setView part slot ⟨true, lo, hi, k, 0⟩).mapRegion part k fun r => { r with views := r.views + 1 }

/-- Whether [lo, hi) lies within [LO, HI): an empty range lies everywhere (R321). -/
def within (lo hi LO HI : Nat) : Bool := lo == hi || (decide (LO ≤ lo) && decide (hi ≤ HI))

/-! ### The changes (R346, R347) -/

/-- The tval of WIDEN. -/
def widen (lo hi : Nat) : Trap := { cause := .widen, lmask := 0, tval := BitVec.ofNat 64 (hi * 2 ^ 32 + lo) }

/-- A cause with its tval, for every active lane. -/
abbrev ViewRes := Except Trap (State × Option (Nat × BitVec 128))

/-- The live region of a partition whose RBASE a root handle names. -/
def State.rootRegion (s : State) (part : Nat) (h : BitVec 128) : Option Nat :=
  ((s.part part).regions.find? fun r => r.2.live && r.2.rbase == Hd.base h).map (·.1)

/-- Whether a page of the range has COV 0, or the range leaves the region (R321). -/
def State.rootWidens (s : State) (part k lo hi : Nat) : Bool :=
  let r := s.region part k
  let p := r.span lo hi
  lo != hi && (decide (r.elems < hi) || (List.range (p.2 - p.1)).any fun i => s.cov part k (p.1 + i) == 0)

/-- PERM with a tval. -/
def permTrap (v : Nat) : Trap := { cause := .perm, lmask := 0, tval := BitVec.ofNat 64 v }
/-- VIEWCLOSED of a slot. -/
def closedTrap (slot : Nat) : Trap := { cause := .viewclosed, lmask := 0, tval := BitVec.ofNat 64 slot }

/-- vopen (R346). -/
def State.vopen (s : State) (part : Nat) (hp : BitVec 128) (lo hi dst : Nat) : ViewRes :=
  let go (k : Nat) (wide : Bool) (h : Nat → BitVec 128) : ViewRes :=
    if hi < lo || wide then .error (widen lo hi)
    else match s.slotFor part k with
      | none => .error (permTrap 0x10000)
      | some n => .ok (s.commitView part k fun s => s.openView part n k lo hi, some (dst, h n))
  if Hd.kind hp = 3 then
    match s.rootRegion part hp with
    | none => .error (permTrap 0)
    | some k =>
      let r := s.region part k
      go k (s.rootWidens part k lo hi) fun n => Hd.make r.rbase 1 0 r.elems (2 ^ r.esh) n
  else if Hd.kind hp = 1 then
    let v := s.view part (Hd.slot hp)
    if !v.isOpen then .error (closedTrap (Hd.slot hp))
    else go v.region (!within lo hi v.lo v.hi) fun n => Hd.make (Hd.base hp) 1 0 (Hd.extent hp) (Hd.stride hp) n
  else .error (permTrap 0)

/-- The open view that a handle names, or the cause. -/
def State.viewOf (s : State) (part : Nat) (h : BitVec 128) : Except Trap View :=
  if Hd.kind h ≠ 1 then .error (permTrap 0)
  else if !(s.view part (Hd.slot h)).isOpen then .error (closedTrap (Hd.slot h))
  else .ok (s.view part (Hd.slot h))

/-- vnar (R347). -/
def State.vnar (s : State) (part : Nat) (h : BitVec 128) (lo hi : Nat) : ViewRes :=
  match s.viewOf part h with
  | .error t => .error t
  | .ok v =>
    if hi < lo || !within lo hi v.lo v.hi then .error (widen lo hi)
    else .ok (s.commitView part v.region fun s => s.setView part (Hd.slot h) { v with lo := lo, hi := hi }, none)

/-- vsplit (R347). -/
def State.vsplit (s : State) (part : Nat) (h : BitVec 128) (m dst : Nat) : ViewRes :=
  match s.viewOf part h with
  | .error t => .error t
  | .ok v =>
    if m < v.lo ∨ v.hi < m then .error { cause := .widen, lmask := 0, tval := BitVec.ofNat 64 m }
    else match s.slotFor part v.region with
      | none => .error (permTrap 0x10000)
      | some n =>
        let s' := s.commitView part v.region fun s =>
          (s.setView part (Hd.slot h) { v with hi := m }).openView part n v.region m v.hi
        .ok (s', some (dst, Hd.make (Hd.base h) 1 (Hd.swiz h) (Hd.extent h) (Hd.stride h) n))

/-- A region whose pages are all harvested and that has no view ceases to exist (R324). -/
def State.endRegion (s : State) (part k : Nat) : State :=
  let r := s.region part k
  if r.live && r.views == 0 && (List.range r.pages).all (r.harvested.contains ·) then s.mapRegion part k fun r => { r with live := false }
  else s

/-- vclose (R347). -/
def State.vclose (s : State) (part : Nat) (h : BitVec 128) : ViewRes :=
  match s.viewOf part h with
  | .error t => .error t
  | .ok v =>
    let s' := s.commitView part v.region fun s =>
      let k := (s.part part).freeCount + 1
      ((s.setView part (Hd.slot h) { v with isOpen := false, freed := k }).mapRegion part v.region fun r => { r with views := r.views - 1 }).mapPart
        part fun p => { p with freeCount := k }
    .ok (s'.endRegion part v.region, none)

/-! ### The instructions -/

/-- A view change: causes reach every active lane. At its commit its flag clears and hN is written (R346, R349). -/
def viewBody (f : Go → State → ViewRes) : Body := fun g s =>
  match f g s with
  | .error t => .error [{ t with lmask := g.act }]
  | .ok (s', some (n, h)) => .ok { s := s'.mapThr s.cur fun th => th.land th.seq (handleW n h) }
  | .ok (s', none) => .ok { s := s' }

/-- Uniform operand i as n32. -/
def Go.n32 (g : Go) (i : Nat) : Nat := (zext 32 (g.uni i)).toNat

/-- vinfo (R348): the range that the slot has when the instruction issues. -/
def vinfoBody : Body := fun g s =>
  let v := s.view (s.partOf s.cur) (Hd.slot (g.handle s 16))
  let isOpen := v.isOpen
  let col (x : Nat) : List (BitVec 64) := g.lanes fun _ => BitVec.ofNat 64 (if isOpen then x else 0xFFFFFFFF)
  .ok { s := s.mapThr s.cur fun th =>
          th.sendVar g.n true 6 false (.result (manyWrites g th g.act .U [(col v.lo, 0), (col v.hi, 0)]) 0) }

/-- hpub (R205). -/
def hpubBody : Body := fun g s =>
  let h := g.handle s 24
  if Hd.kind h ≠ 2 then .error [g.all .perm]
  else
    let pair := s.partOf s.cur * 65536 + Hd.slot h
    .ok { s := s.mapThr s.cur fun th => th.sendVar g.n true 8 false (.publish pair) }

def execVopen (c : Ctl) (p : PayA) (s : State) : Out :=
  .next (issue (p.ins Rows.rowVopen c) {} (viewBody fun g s =>
    s.vopen (s.partOf s.cur) (g.handle s 28) (g.n32 0) (g.n32 1) (g.n.bits 24 4).toNat) s)

def execVnar (c : Ctl) (p : PayA) (s : State) : Out :=
  .next (issue (p.ins Rows.rowVnar c) {} (viewBody fun g s =>
    s.vnar (s.partOf s.cur) (g.handle s 24) (g.n32 0) (g.n32 1)) s)

def execVsplit (c : Ctl) (p : PayA) (s : State) : Out :=
  .next (issue (p.ins Rows.rowVsplit c) {} (viewBody fun g s =>
    s.vsplit (s.partOf s.cur) (g.handle s 28) (g.n32 0) (g.n.bits 24 4).toNat) s)

def execVclose (c : Ctl) (p : PayA) (s : State) : Out :=
  .next (issue (p.ins Rows.rowVclose c) {} (viewBody fun g s => s.vclose (s.partOf s.cur) (g.handle s 24)) s)

def execVinfo (c : Ctl) (p : PayA) (s : State) : Out := .next (issue (p.ins Rows.rowVinfo c) {} vinfoBody s)
def execHpub (c : Ctl) (p : PayA) (s : State) : Out := .next (issue (p.ins Rows.rowHpub c) {} hpubBody s)

end Sys2Proof.Machine
end

