-- ==== Sys2Proof/Machine/Engines.lean ====
section
/-! DEFINITION. Engine commands (R200 to R204) and the fibre scanner's program (R224): the checks at issue, and the
run of an accepted command. -/

namespace Sys2Proof.Machine

open Sys2Proof

/-! ### One side of a command -/

/-- A side of a command: a handle, the format and geometry of the page on which its base lies, the bytes of an element
(of a block on a formatted page, R201), and the size of that page. -/
structure Side where
  h    : BitVec 128
  fmt  : Nat
  geo  : Nat
  size : Nat
  page : Nat
  deriving DecidableEq, Repr

/-- The side that a handle gives for elements of w bytes. -/
def State.side (s : State) (wh : Who) (h : BitVec 128) (w : Nat) : Side :=
  let (f, geo) := s.baseFormat wh h
  { h := h, fmt := f, geo := geo, size := if f = 0 then w else Block.size f, page := s.basePage wh h }

/-- Whether KIND and SWIZ of the handle are usable (R140, R143, R203). -/
def Side.ok (d : Side) : Bool :=
  decide (Hd.kind d.h < 3) && Hd.swizOk d.h && (Hd.swiz d.h == 0 || (d.fmt == 0 && Hd.kind d.h != 1))

/-- The virtual address of element (or block) e. -/
def Side.va (d : Side) (e : Nat) : Nat :=
  if d.fmt = 0 then Hd.base d.h + Hd.offset d.h d.size e else blockVa d.page d.fmt d.h e

/-- The access that a side makes: an engine writes the back copy of a shadow pair (R205). -/
def Side.access (d : Side) (need : Need) : Access := ⟨need, Hd.kind d.h, Hd.slot d.h, need == .write⟩

/-- The check of elements lo to lo + n − 1 (R203). (DEDUCED, log entry 32.) -/
def State.rangeTrap (s : State) (part : Nat) (d : Side) (lo n : Nat) : Option Trap :=
  if n = 0 then none
  else if Hd.extent d.h < lo + n then some { cause := .bounds, lmask := 0, tval := BitVec.ofNat 64 (max lo (Hd.extent d.h)) }
  else if Hd.kind d.h = 1 ∧ !s.inView part (Hd.slot d.h) (d.va lo) (d.va (lo + n - 1) + d.size - d.va lo) then
    some { cause := .viewclosed, lmask := 0, tval := BitVec.ofNat 64 lo }
  else none

/-- ALIGN where the base of a side lies on a formatted page but not at its first byte (R82). -/
def Side.alignTrap (d : Side) : Option Trap :=
  if d.fmt ≠ 0 ∧ Hd.base d.h % d.page ≠ 0 then some { cause := .align, lmask := 0, tval := BitVec.ofNat 64 (Hd.base d.h) } else none

/-- The region that a view side pins (R320). -/
def State.pin (s : State) (part : Nat) (d : Side) : List Nat :=
  if Hd.kind d.h = 1 then [(s.view part (Hd.slot d.h)).region] else []

/-! ### Issue -/

/-- How many tags an agent has (R200). -/
def State.tagCount (s : State) (a : Agent) : Nat := (s.tagBits a).2.2.1

/-- The checks of a command that names a tag, and its acceptance: READY and ERR of the tag clear. -/
def accept (f : Go → State → Except Trap EngCmd) : Body := fun g s =>
  match f g s with
  | .error t => .error [{ t with lmask := g.act }]
  | .ok c =>
    if s.tagPending s.cur c.tag then .ok { s := s, cancel := true }
    else
      let (ready, err, _, cs) := s.tagBits s.cur
      let bit : BitVec 64 := 1 <<< c.tag
      let s := s.setTags s.cur (ready &&& ~~~bit) (err &&& ~~~bit) (cs.filter (·.1 != c.tag))
      let old (x : Agent × Nat) : Bool := sameTags x.1 s.cur && x.2 == c.tag
      let s := { s with cmds := s.cmds ++ [c], log := s.log.map fun (r : StoreRec) => if r.cmd.any old then { r with cmd := none } else r }
      .ok { s := s.mapThr s.cur fun th => th.sendVar g.n false 8 false .accept }

/-- TAG and W of a command (Table 12.5). -/
def Ins.cmdTag (n : Ins) : Nat := (n.bits 2 6).toNat
@[inherit_doc Ins.cmdTag]
def Ins.cmdW (n : Ins) : Nat := 2 ^ (n.bits 0 2).toNat

/-- A command of the issuing agent; the narrowest scope instance that holds its engine is that of scope `k` (R204). -/
def Go.cmd (g : Go) (s : State) (op : EngOp) (hd hs : BitVec 128) (w : Nat) (pins : List Nat) (k : Nat := 5) : EngCmd :=
  { a := s.cur, die := s.dieOf s.cur, tag := Ins.cmdTag g.n, op := op, hd := hd, hs := hs, w := w,
    sg1 := (s.thr s.cur).seg 1, qif := s.qifOf s.cur, part := s.partOf s.cur, after := (s.thr s.cur).releasedBefore k,
    at_ := s.freeCtr, pins := pins, stall := none }

/-- PERM without an address. -/
def noPerm : Trap := permTrap 0

/-- The first trap of a list of checks. -/
def firstTrap (l : List (Option Trap)) : Option Trap := l.findSome? id

/-- A copy: both sides checked, one format, the whole ranges (R201, R203). -/
def copyChecks (g : Go) (s : State) (w : Nat) (op : EngOp) (di dn si sn : Nat) : Except Trap EngCmd :=
  let wh := s.who s.cur
  let d := s.side wh (g.handle s 28) w
  let r := s.side wh (g.handle s 24) w
  if !d.ok || !r.ok || d.fmt != r.fmt then .error noPerm
  else match firstTrap [s.rangeTrap wh.part d di dn, s.rangeTrap wh.part r si sn, d.alignTrap, r.alignTrap] with
    | some t => .error t
    | none => .ok (g.cmd s op d.h r.h w (s.pin wh.part d ++ s.pin wh.part r))

/-- cpy: operands n, i, j in the order of the sources. -/
def cpyCmd (g : Go) (s : State) : Except Trap EngCmd :=
  let n := g.n32 0; let i := g.n32 1; let j := g.n32 2
  copyChecks g s (Ins.cmdW g.n) (.cpy i j n) i n j n

/-- The length of the range that R rows of L elements with a pitch span. -/
def spanOf (rows l pitch : Nat) : Nat := if rows = 0 ∨ l = 0 then 0 else (rows - 1) * pitch + l

/-- cpy2. -/
def cpy2Cmd (g : Go) (s : State) : Except Trap EngCmd :=
  let i := g.n32 0; let j := g.n32 1; let pd := g.n32 2; let ps := g.n32 3; let l := g.n32 4; let r := g.n32 5
  copyChecks g s (Ins.cmdW g.n) (.cpy2 i j pd ps l r) i (spanOf r l pd) j (spanOf r l ps)

/-- The check of a core-space range of n elements of w bytes at byte o (R137). -/
def coreTrap (sg1 : BitVec 64) (o n w : Nat) : Option Trap :=
  let lim := (sg1 >>> 32).toNat
  if n = 0 ∨ o + n * w ≤ lim then none
  else some { cause := .bounds, lmask := 0, tval := BitVec.ofNat 64 (o + (if o < lim then (lim - o) / w else 0) * w) }

/-- gth and sct: the index list hI in [31:28], the data handle in [27:24]. On pages of one format, indices and counts are
blocks (R201). (DEDUCED, log entry 33.) -/
def indexedCmd (gather : Bool) (g : Go) (s : State) : Except Trap EngCmd :=
  let o := g.n32 0; let j := g.n32 1; let m := g.n32 2; let l := g.n32 3
  let w := Ins.cmdW g.n
  let wh := s.who s.cur
  let x := s.side wh (g.handle s 28) 4
  let d := s.side wh (g.handle s 24) w
  if !x.ok || !d.ok || x.fmt != d.fmt then .error noPerm
  else match firstTrap [s.rangeTrap wh.part x j m, coreTrap ((s.thr s.cur).seg 1) o (m * l) d.size, x.alignTrap, d.alignTrap] with
    | some t => .error t
    | none => .ok (g.cmd s (if gather then .gth o j m l else .sct o j m l) x.h d.h w (s.pin wh.part x ++ s.pin wh.part d))

/-- fill. -/
def fillCmd (g : Go) (s : State) : Except Trap EngCmd :=
  let n := g.n32 0; let i := g.n32 1
  let w := Ins.cmdW g.n
  let wh := s.who s.cur
  let d := s.side wh (g.handle s 28) w
  if !d.ok then .error noPerm
  else match firstTrap [s.rangeTrap wh.part d i n, d.alignTrap] with
    | some t => .error t
    | none => .ok (g.cmd s (.fill i ((g.uni 2).setWidth 32) n) d.h d.h w (s.pin wh.part d))

/-- The members of a list of the partition (R202). -/
def State.members (s : State) (part id : Nat) : List Agent := Sparse.get [] id (s.part part).members

/-- The element width of coll's types: i32, f32, bf16. -/
def collWidth (op : Nat) : Nat := if op % 16 = 7 then 2 else 4

/-- coll. (DEDUCED, log entry 33.) -/
def collCmd (g : Go) (s : State) : Except Trap EngCmd :=
  let n := g.n32 0; let i := g.n32 1; let j := g.n32 2; let id := g.n32 3; let op := g.n32 4
  let ty := op % 16
  let k := op / 16 % 8
  let wh := s.who s.cur
  let ms := s.members wh.part id
  let w := collWidth op
  let d := s.side wh (g.handle s 28) w
  let r := s.side wh (g.handle s 24) w
  if 3 < k ∨ ¬(ty = 0 ∨ ty = 4 ∨ ty = 7) then .error g.illegal
  else if !ms.contains s.cur || !d.ok || !r.ok || d.fmt != r.fmt then .error noPerm
  else match firstTrap [s.rangeTrap wh.part d i (if k = 3 then ms.length * n else n), s.rangeTrap wh.part r j n, d.alignTrap, r.alignTrap] with
    | some t => .error t
    | none => .ok (g.cmd s (.coll i j id op n) d.h r.h w (s.pin wh.part d ++ s.pin wh.part r) 7)

/-! ### The run of a command (R202, R203) -/

/-- What stops a command: a cause, a page to be filled, or an address without memory. -/
inductive EngStop where
  | cause (c : Cause)
  | absent (pte : Nat)
  | hole
  deriving DecidableEq, Repr

/-- Where data comes from or goes to. -/
inductive Place where
  | virt (d : Side) (va : Nat)
  | core (a : Nat)
  | bytes (bs : List Byte) (poison : Bool)
  deriving DecidableEq, Repr

/-- The translation path of a command: that of its launch at its acceptance. -/
def EngCmd.who (c : EngCmd) : Who := ⟨c.qif, c.part, c.die, none⟩

/-- Whether a page has the format and geometry that a side was accepted with (R82). -/
def State.sameFmt (s : State) (wh : Who) (d : Side) (va : Nat) : Bool :=
  match s.leafOf wh .read va with
  | (.leaf l _, _) => (Leaf.fmt l, Leaf.geo l) == (d.fmt, d.geo)
  | _ => true

/-- Whether every page that n bytes touch has that format and geometry: an element is shorter than a page. -/
def State.runFmt (s : State) (wh : Who) (d : Side) (va n : Nat) : Bool := s.sameFmt wh d va && s.sameFmt wh d (va + n - 1)

/-- The cause of an access of an engine: PERM for a page of another format, unless NOMAP comes before it (R82, R144). -/
def State.engCause (s : State) (wh : Who) (d : Side) (va : Nat) (c : Cause) : Cause :=
  if c = .nomap ∨ s.sameFmt wh d va then c else .perm

/-- Read n bytes of a place. -/
def State.readPlace (s : State) (wh : Who) (p : Place) (n : Nat) : Except EngStop (List Byte × Bool) :=
  match p with
  | .bytes bs p => .ok (bs, p)
  | .core a => .ok (s.readAt .scr 0 a n, s.poisoned .scr a n)
  | .virt d va =>
    match s.readVirt wh (d.access .read) va n with
    | .cause c v => .error (.cause (s.engCause wh d v c))
    | .hole => .error .hole
    | .ok bs p => if s.runFmt wh d va n then .ok (bs, p) else .error (.cause .perm)
    | .absent pte _ => .error (if s.runFmt wh d va n then .absent pte else .cause .perm)

/-- Write bytes to a place. -/
def State.writePlace (s : State) (wh : Who) (p : Place) (bs : List Byte) (poison : Bool) : Except EngStop State :=
  match p with
  | .bytes _ _ => .ok s
  | .core a => .ok ((s.writeAt .scr 0 a bs).poisonRun .scr a bs.length poison)
  | .virt d va =>
    match s.writeVirt wh (d.access .write) va bs poison with
    | .error (.cause c, v) => .error (.cause (s.engCause wh d v c))
    | .error (.absent pte _, _) => .error (if s.runFmt wh d va bs.length then .absent pte else .cause .perm)
    | .error (_, _) => .error .hole
    | .ok s' => if s.runFmt wh d va bs.length then .ok s' else .error (.cause .perm)

/-- The bytes that a command has written are noted with its tag, while a cached copy may be older: a wait for the tag makes
them known (R200, R204). -/
def State.noteWrite (s : State) (c : EngCmd) (p : Place) (n : Nat) : State :=
  match p with
  | .virt d va => match s.runs c.who (d.access .write) va n with
    | .ok rs =>
      let new : List StoreRec := rs.map fun r => ⟨.mem, r.1, r.2.2, s.freeCtr, s.clk, none, 0, [], some (c.a, c.tag)⟩
      { s with log := s.log ++ new.filter fun r => s.hasOlder ⟨.mem, r.a, r.n, r.at_, r.clk, 10⟩ }
    | .error _ => s
  | _ => s

/-- One move: from, to, bytes. -/
structure Move where
  src : Place
  dst : Place
  n   : Nat
  deriving DecidableEq, Repr

/-- The core-space byte address of a command's offset. -/
def State.coreByte (s : State) (c : EngCmd) (o : Nat) : Nat := s.coreNo c.a * Config.scratchBytes + c.sg1.toNat % 2 ^ 32 + o

/-- Gather the results over a list, and what stops the first of its members that is stopped. A command that fails may
have made any of its other writes (R200), so the results of the members after it are kept. -/
def gather {α β : Type} (f : α → List β × Option EngStop) (l : List α) : List β × Option EngStop :=
  l.foldl (fun r x => let y := f x; (r.1 ++ y.1, match r.2 with | some e => some e | none => y.2)) ([], none)

/-- The moves of an indexed command, and what an index stops it with (R203): an index beyond EXTENT, outside the view,
or poisoned fails the command. A block of an index list gives a free index. -/
def State.indexMoves (s : State) (c : EngCmd) (gather_ : Bool) (o j m l : Nat) : List Move × Option EngStop :=
  let wh := c.who
  let x := s.side wh c.hd 4
  let d := s.side wh c.hs c.w
  gather (fun k =>
    match s.readPlace wh (.virt x (x.va (j + k))) x.size with
    | .error e => ([], some e)
    | .ok (_, true) => ([], some (.cause .poison))
    | .ok (bs, false) =>
      let e0 := (if x.fmt = 0 then leNat bs else (Config.freeWord s.freeCtr (310000 + k)).toNat % 2 ^ 32) * l
      (((List.range l).filter fun i => (s.rangeTrap wh.part d (e0 + i) 1).isNone).map fun i =>
          let core := Place.core (s.coreByte c (o + (k * l + i) * d.size))
          let mem := Place.virt d (d.va (e0 + i))
          if gather_ then ⟨mem, core, d.size⟩ else ⟨core, mem, d.size⟩,
        (s.rangeTrap wh.part d e0 l).map fun t => .cause t.cause)) (List.range m)

/-- The reduction of coll over the members' values (R202). -/
def collReduce (op : Nat) (vs : List (BitVec 64)) : BitVec 64 :=
  let ty := op % 16
  match op / 16 % 8, vs with
  | _, [] => 0
  | 0, v :: r =>
    if ty = 0 then r.foldl (fun (a x : BitVec 64) => zext 32 (a + x)) v
    else if ty = 4 then r.foldl (fun (a x : BitVec 64) => (Fp.add Fp.f32 0 a x).1) v
    else
      let up (x : BitVec 64) : BitVec 64 := (Fp.convert Fp.bf16 Fp.f32 0 false x).1
      (Fp.convert Fp.f32 Fp.bf16 0 false (r.foldl (fun (a x : BitVec 64) => (Fp.add Fp.f32 0 a (up x)).1) (up v))).1
  | k, v :: r =>
    r.foldl (fun (a x : BitVec 64) =>
      if ty = 0 then (if (decide (intOf true 32 x < intOf true 32 a)) == (k == 1) then x else a)
      else (Fp.minMax (Fp.ofTy ty) (k == 2) a x).1) v

/-- The pending coll commands of a round, in the order of the member list: each member's oldest with the id; none
where some member has not issued one. -/
def State.round (s : State) (c : EngCmd) : Option (List EngCmd) :=
  match c.op with
  | .coll _ _ id _ _ =>
    let part := c.part
    let find (a : Agent) : Option EngCmd := s.cmds.find? fun x => x.a == a && (match x.op with | .coll _ _ i _ _ => i == id | _ => false)
    let cs := (s.members part id).filterMap find
    if cs.length = (s.members part id).length then some cs else none
  | _ => none

/-- An element of a member's source, or a block of a formatted page: its bytes and its poison mark. -/
def State.collSource (s : State) (m : EngCmd) (k : Nat) : List (List Byte × Bool) × Option EngStop :=
  match m.op with
  | .coll _ j _ _ _ =>
    let r := s.side m.who m.hs m.w
    match s.readPlace m.who (.virt r (r.va (j + k))) r.size with
    | .ok (bs, p) => ([(bs, p)], none)
    | .error e => ([], some e)
  | _ => ([], none)

/-- A block of free bytes. -/
def State.freeBlock (s : State) (n k : Nat) : List Byte :=
  (List.range n).map fun b => (Config.freeWord s.freeCtr (300000 + 32 * k + b)).setWidth 8

/-- The moves of one member of a round, with poison where a source element holds it. A reduction of blocks gives free
bytes. -/
def State.collMoves (s : State) (cs : List EngCmd) (c : EngCmd) : List Move × Option EngStop :=
  match c.op with
  | .coll i _ _ op n =>
    let d := s.side (c.who) c.hd c.w
    let put (e : Nat) (bs : List Byte) (p : Bool) : Move := ⟨.bytes bs p, .virt d (d.va e), d.size⟩
    let value (b : List Byte) : BitVec 64 := BitVec.ofNat 64 (leNat b)
    if cs.any fun m => (s.side m.who m.hs m.w).fmt != d.fmt then ([], some (.cause .perm))
    else if op / 16 % 8 = 3 then
      gather (fun x : EngCmd × Nat =>
        gather (fun k =>
          let v := s.collSource x.1 k
          (v.1.map fun y => put (i + x.2 * n + k) y.1 y.2, v.2)) (List.range n)) cs.zipIdx
    else
      gather (fun k =>
        let v := gather (fun m => s.collSource m k) cs
        (if v.2.isSome then [] else [put (i + k) (if d.fmt = 0 then leBytes c.w (collReduce op (v.1.map fun y => value y.1)).toNat
          else s.freeBlock d.size k) (v.1.any (·.2))], v.2)) (List.range n)
  | _ => ([], none)

/-- The moves of a command. A block that fill writes holds free bytes: the manual gives x no block form. -/
def State.moves (s : State) (c : EngCmd) : List Move × Option EngStop :=
  let wh := c.who
  let d := s.side wh c.hd c.w
  let r := s.side wh c.hs c.w
  match c.op with
  | .cpy i j n => ((List.range n).map fun k => ⟨.virt r (r.va (j + k)), .virt d (d.va (i + k)), d.size⟩, none)
  | .cpy2 i j pd ps l rows => ((List.range rows).flatMap fun a => (List.range l).map fun b =>
      ⟨.virt r (r.va (j + a * ps + b)), .virt d (d.va (i + a * pd + b)), d.size⟩, none)
  | .gth o j m l => s.indexMoves c true o j m l
  | .sct o j m l => s.indexMoves c false o j m l
  | .fill i x n => ((List.range n).map fun k =>
      ⟨.bytes (if d.fmt = 0 then leBytes c.w x.toNat
        else s.freeBlock d.size k) false,
       .virt d (d.va (i + k)), d.size⟩, none)
  | .coll .. => match s.round c with
    | some cs => s.collMoves cs c
    | none => ([], none)

/-- What stops one move, where anything does. -/
def State.moveStop (s : State) (wh : Who) (m : Move) : Option EngStop :=
  match s.readPlace wh m.src m.n with
  | .error e => some e
  | .ok (bs, _) => match s.writePlace wh m.dst bs false with
    | .error e => some e
    | .ok _ => none

/-- Make the moves of a list. A byte that two moves write, or that one move writes and another reads, ends with one
of the values the command could have written there, by free choice (R202). `keep` is asked of each move.
(DESIGN CHOICE, log entry 34.) -/
def State.runMoves (s0 : State) (c : EngCmd) (keep : Nat → Bool) : Nat → List Move → List Place → State → State
  | _, [], _, s => s
  | k, m :: rest, done, s =>
    let from_ := if Config.freeBit s0.freeCtr 400000 k then s0 else s
    let again := done.contains m.dst && Config.freeBit s0.freeCtr 400001 k
    let s' := if !keep k || again then s
      else match from_.readPlace c.who m.src m.n with
        | .ok (bs, p) => match s.writePlace c.who m.dst bs p with
          | .ok s2 => s2.noteWrite c m.dst bs.length
          | .error _ => s
        | .error _ => s
    State.runMoves s0 c keep (k + 1) rest (m.dst :: done) s'

/-- End a command: READY of its tag is set, and for a failure ERR with the cause (R200). -/
def State.endCmd (s : State) (c : EngCmd) (failed : Option Cause) : State :=
  let (ready, err, _, cs) := s.tagBits c.a
  let bit : BitVec 64 := 1 <<< c.tag
  let s := { s with cmds := s.cmds.filter fun x => !(x.a == c.a && x.tag == c.tag) }
  match failed with
  | none => s.setTags c.a (ready ||| bit) err cs
  | some k => s.setTags c.a (ready ||| bit) (err ||| bit) (Sparse.put c.tag k.code cs)

/-- What running a command gives: it waits (for a round, or for a fill), meets no memory, or ends. -/
inductive EngRun where
  | wait (s : State)
  | hole
  | done (s : State)

/-- Stall a command on the fill of a leaf (R203, R306). -/
def State.stallOn (s : State) (c : EngCmd) (pte : Nat) : State :=
  if (c.stall.map (·.1)) = some pte then s
  else { s with cmds := s.cmds.map fun x => if x = c then { c with stall := some (pte, false) } else x }.mapDie c.die
    fun d => d.wantFill pte c.part none none

/-- Run one command (R202, R203): a cause anywhere fails it, with an unpredictable part of its other writes made; a
page that is not resident stalls it. -/
def State.runCmd (s : State) (c : EngCmd) : EngRun :=
  let wh := c.who
  let failWith (k : Cause) (ms : List Move) : EngRun :=
    .done ((s.runMoves c (fun i => Config.freeBit s.freeCtr 400002 i) 0 ms [] s).endCmd c (some k))
  let stall (pte : Nat) (ms : List Move) : EngRun :=
    if c.stall = some (pte, true) then failWith .storageErr ms else .wait (s.stallOn c pte)
  match s.moves c with
  | (ms, some (.cause k)) => failWith k ms
  | (ms, some (.absent pte)) => stall pte ms
  | (_, some .hole) => .hole
  | (ms, none) =>
    let stops := ms.filterMap (s.moveStop wh)
    match stops.findSome? fun e => match e with | .cause k => some k | _ => none with
    | some k => failWith k ms
    | none => match stops.findSome? fun e => match e with | .absent p => some p | _ => none with
      | some p => stall p ms
      | none => if stops.isEmpty then .done ((s.runMoves c (fun _ => true) 0 ms [] s).endCmd c none) else .hole

/-- What stops a member of a round, and its moves. -/
def State.memberPlan (s : State) (cs : List EngCmd) (c : EngCmd) : List Move × Option EngStop :=
  match s.collMoves cs c with
  | (ms, some e) => (ms, some e)
  | (ms, none) =>
    let stops := ms.filterMap (s.moveStop (c.who))
    (ms, match stops.find? fun e => (match e with | .cause _ => true | _ => false) with
      | some e => some e
      | none => stops.head?)

/-- Run a round of coll: it waits for every member's pages; then every member's command ends. -/
def State.runRound (s : State) (cs : List EngCmd) : EngRun :=
  let plans := cs.map fun c => (c, s.memberPlan cs c)
  if plans.any fun p => p.2.2 == some .hole then .hole
  else match plans.findSome? fun p => match p.2.2 with
      | some (.absent pte) => if p.1.stall = some (pte, true) then none else some (p.1, pte)
      | _ => none with
    | some (c, pte) => .wait (s.stallOn c pte)
    | none => .done (plans.foldl (fun s p =>
        let failed (k : Cause) : State := (s.runMoves p.1 (fun i => Config.freeBit s.freeCtr 400002 i) 0 p.2.1 [] s).endCmd p.1 (some k)
        match p.2.2 with
        | none => (s.runMoves p.1 (fun _ => true) 0 p.2.1 [] s).endCmd p.1 none
        | some (.cause k) => failed k
        | some _ => failed .storageErr) s)

/-- Copy engines of a die (Table 23.1). -/
def copyPerDie : Nat := 32

/-- Whether a command waits for accesses of its issuer that a release has ordered before it, for an order that its engine
would see broken (R204, R330), or for a copy engine of its die that its partition owns (R362). (DESIGN CHOICE, log entry 36.) -/
def State.heldBack (s : State) (c : EngCmd) : Bool :=
  (s.thr c.a).reading c.after || s.shutOut (.die c.die) || !(s.part c.part).maps.copy.any (· / copyPerDie == c.die)

/-- ENGINE_COMMAND_COMPLETE: the command at place k of those in flight runs to its end. The commands of a round of
coll end together, each with the data that every member's source holds then. -/
def execEngineCommandComplete (k : Nat) (s : State) : Out :=
  match s.cmds[k]? with
  | none => .next s
  | some c =>
    let run : EngRun := match c.op with
      | .coll .. => match s.round c with
        | none => .wait s
        | some cs => if cs.any s.heldBack then .wait s else s.runRound cs
      | _ => if s.heldBack c then .wait s else s.runCmd c
    match run with
    | .wait s' => .next s'
    | .hole => .fault .noSuchMemory
    | .done s' => .next s'

/-! ### fbset, fbclr, sfpre (R202, R224) -/

/-- fbset: programs the scanner of the agent's quad. -/
def fbsetBody : Body := fun g s =>
  let r := g.n32 0; let q := g.n32 1
  let w := 2 ^ (g.n.bits 2 2).toNat
  let wh := s.who s.cur
  let hx := s.side wh (g.handle s 28) w
  let hr := s.side wh (g.handle s 24) 4
  let hc := s.side wh (g.handle s 4) 4
  if !hx.ok || !hr.ok || !hc.ok then .error [g.all .perm]
  else match s.rangeTrap wh.part hr r (q + 1) with
    | some t => .error [{ t with lmask := g.act }]
    | none =>
      let sc : Scan := { hx := hx.h, hr := hr.h, hc := hc.h, r := r, q := q, w := w, pos := 0, cols := [], done := false, qif := wh.qif }
      let s := s.mapQuad (s.quadOf s.cur) fun x => { x with scan := some sc }
      .ok { s := s.mapThr s.cur fun th => th.sendVar g.n false 8 false .accept }

/-- fbclr. -/
def fbclrBody : Body := fun g s =>
  let s := s.mapQuad (s.quadOf s.cur) fun x => { x with scan := none }
  .ok { s := s.mapThr s.cur fun th => th.sendVar g.n false 8 false .accept }

/-- sfpre: ask for the fills of the pages of src[j] to src[j + n − 1]; whatever cannot be asked for is dropped. The
word names no element width: one byte where STRIDE is 0. (DEDUCED, log entry 35.) -/
def sfpreBody : Body := fun g s =>
  let a := s.cur
  let j := g.n32 0; let n := g.n32 1
  let wh := s.who a
  let d := s.side wh (g.handle s 24) 1
  let n := min n (Hd.extent d.h - j)
  let s := if !d.ok || n = 0 then s
    else
      let x := d.va j; let y := d.va (j + n - 1)
      let lo := min x y / 65536
      (List.range (max x y / 65536 - lo + 1)).foldl (fun s i =>
        match s.translate wh (d.access .read) (max (min x y) (65536 * (lo + i))) with
        | .absent pte _ => s.softFill wh.die pte wh.part
        | _ => s) s
  .ok { s := s.mapThr a fun th => th.sendVar g.n false 8 false .accept }

/-- FIBRE_SCANNER: the scanner of a quad reads its window (R224); a fault of its own reads stops it, a page of another
format among them (R82). Row pointers and columns in the blocks of a formatted page are free values. -/
def execFibreScanner (q : Nat) (s : State) : Out :=
  match (s.quad q).scan with
  | none => .next s
  | some sc =>
    if sc.done then .next s
    else
      let wh : Who := ⟨sc.qif, (s.qif sc.qif).part, q / Config.quadsPerDie, none⟩
      let hr := s.side wh sc.hr 4
      let hc := s.side wh sc.hc 4
      let rd (d : Side) (e : Nat) : Option Nat :=
        if Hd.extent d.h ≤ e then none
        else match s.readPlace wh (.virt d (d.va e)) d.size with
          | .ok (bs, false) => some (if d.fmt = 0 then leNat bs else (Config.freeWord s.freeCtr (320000 + e)).toNat % 2 ^ 32)
          | _ => none
      let stop := s.mapQuad q fun x => { x with scan := none }
      match rd hr sc.r, rd hr (sc.r + sc.q) with
      | some lo, some hi =>
        let cols := (List.range (min (hi - lo) Config.scanWindow)).map fun i => rd hc (lo + i)
        if cols.all (·.isSome) then .next (s.mapQuad q fun x => { x with scan := some { sc with cols := cols.filterMap id, done := true } })
        else .next stop
      | _, _ => .next stop

/-! ### The instructions -/

/-- A command that names a tag at or above the count takes ILLEGAL (R200). -/
def tagBad (n : Ins) (s : State) : Bool := decide (s.tagCount s.cur ≤ Ins.cmdTag n)

/-- Issue a command that names a tag. -/
def issueCmd (n : Ins) (s : State) (f : Go → State → Except Trap EngCmd) (mode : Bool := false) : Out :=
  .next (issue n { bad := tagBad n s, mode := mode } (accept f) s)

def execCpy (c : Ctl) (p : PayA) (s : State) : Out := issueCmd (p.ins Rows.rowCpy c) s cpyCmd
def execCpy2 (c : Ctl) (p : PayA) (s : State) : Out := issueCmd (p.ins Rows.rowCpy2 c) s cpy2Cmd
def execGth (c : Ctl) (p : PayA) (s : State) : Out := issueCmd (p.ins Rows.rowGth c) s (indexedCmd true)
def execSct (c : Ctl) (p : PayA) (s : State) : Out := issueCmd (p.ins Rows.rowSct c) s (indexedCmd false)
def execColl (c : Ctl) (p : PayA) (s : State) : Out := issueCmd (p.ins Rows.rowColl c) s collCmd
def execFill (c : Ctl) (p : PayA) (s : State) : Out := issueCmd (p.ins Rows.rowFill c) s fillCmd
def execFbset (c : Ctl) (p : PayA) (s : State) : Out := .next (issue (p.ins Rows.rowFbset c) {} fbsetBody s)
def execFbclr (c : Ctl) (p : PayA) (s : State) : Out := .next (issue (p.ins Rows.rowFbclr c) {} fbclrBody s)
def execSfpre (c : Ctl) (p : PayA) (s : State) : Out := .next (issue (p.ins Rows.rowSfpre c) {} sfpreBody s)

end Sys2Proof.Machine
end

