-- ==== Sys2Proof/Machine/Seeds.lean ====
section
/-! DEFINITION. The seed functions (R128, R129): special values exactly as Table 7.6 gives, and otherwise the
free function `Config.seedRaw` of the operand where it lies in the bound of the table; where it does not, the
value computed here, which does. Real functions are computed in fixed point with 128 fraction bits. -/

namespace Sys2Proof.Machine.Seed

open Sys2Proof

/-- Fraction bits of the fixed-point numbers. -/
def prec : Nat := 128

/-- 2^(2^-k) for k = 1, 2, …: square roots of square roots of 2, multiplied in where the k-th fraction bit of
`f` is set. -/
def exp2Loop : Nat → Nat → Nat → Nat → Nat → Nat
  | 0, _, _, _, acc => acc
  | n + 1, f, k, c, acc =>
    let c' := Fp.isqrt (c * 2 ^ prec)
    exp2Loop n f (k + 1) c' (if bitAt f (prec - k) then acc * c' / 2 ^ prec else acc)

/-- 2^f for a fraction f, both with 128 fraction bits. -/
def exp2Frac (f : Nat) : Nat := exp2Loop 64 f 1 (2 ^ (prec + 1)) (2 ^ prec)

/-- Fraction bits of log2 of a number in [1, 2), by repeated squaring. -/
def log2Loop : Nat → Nat → Nat → Nat
  | 0, _, acc => acc
  | n + 1, y, acc =>
    let y2 := y * y / 2 ^ prec
    if 2 ^ (prec + 1) ≤ y2 then log2Loop n (y2 / 2) (2 * acc + 1) else log2Loop n y2 (2 * acc)

/-- π with 128 fraction bits. -/
def piFix : Nat := 1069028584064966747859680373161870783300

/-- Terms of the series of sine (k odd) or cosine (k even): term × t² / ((k+1)(k+2)), alternating. -/
def series : Nat → Int → Int → Nat → Int → Int
  | 0, _, _, _, acc => acc
  | n + 1, t2, term, k, acc =>
    let term' := -(term * t2 / (2 ^ prec : Nat)) / (((k + 1) * (k + 2) : Nat) : Int)
    series n t2 term' (k + 2) (acc + term')

/-- sin(πr) for 0 ≤ r ≤ ½, with 128 fraction bits. -/
def sinPi (r : Nat) : Int :=
  let t : Int := (piFix * r / 2 ^ prec : Nat)
  series 24 (t * t / (2 ^ prec : Nat)) t 1 t

/-- A finite f32 as an integer multiple of 2^-200. -/
def fix200 (v : Fp.Val) : Int :=
  match v with
  | .num s m e => Fp.scaled s m e (-200)
  | _ => 0

/-- Whether y (in units of 2^-200) is within `bound` of a value with 128 fraction bits times 2^e. -/
def near (y : Int) (a : Int) (bound : Int) : Bool := decide ((y - a).natAbs ≤ bound.natAbs)

/-- Take the free value where it is finite and `ok`, else the computed one. (DEDUCED, log entry 59.) -/
def choose (op : Nat) (x : BitVec 64) (ok : Int → Bool) (alt : BitVec 64) : BitVec 64 :=
  let y := (Config.seedRaw op (x.setWidth 32)).setWidth 64
  match Fp.decode Fp.f32 y with
  | .num s m e => if ok (fix200 (.num s m e)) then y else alt
  | _ => alt

/-- Round an integer multiple of 2^e to f32. -/
def roundF (x : Int) (e : Int) : BitVec 64 := (Fp.pack Fp.f32 0 (Fp.ofInt x e false)).1

def nan32 : BitVec 64 := BitVec.ofNat 64 Fp.f32.nan
def inf32 (s : Bool) : BitVec 64 := BitVec.ofNat 64 (Fp.f32.inf s)

/-- rcps. -/
def rcps (x : BitVec 64) : BitVec 64 × BitVec 5 :=
  match Fp.decode Fp.f32 x with
  | .nan q => (nan32, if q then Fp.NV else 0)
  | .inf s => (BitVec.ofNat 64 (Fp.f32.zero s), 0)
  | .num s m e =>
    if m = 0 then (inf32 s, Fp.DZ)
    else
      let xi := fix200 (.num s m e)
      let ok (y : Int) : Bool := near (y * xi) ((2 ^ 400 : Nat) : Int) ((2 ^ 386 + 2 ^ 51 * xi.natAbs : Nat) : Int)
      (choose 0 x ok (Fp.div Fp.f32 0 0x3F800000 x).1, 0)

/-- rsqs. -/
def rsqs (x : BitVec 64) : BitVec 64 × BitVec 5 :=
  match Fp.decode Fp.f32 x with
  | .nan q => (nan32, if q then Fp.NV else 0)
  | .inf s => if s then (nan32, Fp.NV) else (0, 0)
  | .num s m e =>
    if m = 0 then (inf32 s, Fp.DZ)
    else if s then (nan32, Fp.NV)
    else
      let xi := fix200 (.num s m e)
      let ok (y : Int) : Bool :=
        decide (0 < y) && decide (((2 ^ 13 - 1) ^ 2 * 2 ^ 574 : Nat) ≤ y * y * xi) && decide (y * y * xi ≤ ((2 ^ 13 + 1) ^ 2 * 2 ^ 574 : Nat))
      (choose 1 x ok (Fp.div Fp.f32 0 0x3F800000 (Fp.sqrt Fp.f32 0 x).1).1, 0)

/-- exs. -/
def exs (x : BitVec 64) : BitVec 64 × BitVec 5 :=
  match Fp.decode Fp.f32 x with
  | .nan q => (nan32, if q then Fp.NV else 0)
  | .inf s => (if s then 0 else inf32 false, 0)
  | .num s m e =>
    let xf : Int := Fp.scaled s m e (-200) / (2 ^ 72 : Nat)         -- ⌊x × 2^128⌋
    let n : Int := xf / (2 ^ prec : Nat)
    let f : Nat := (xf % (2 ^ prec : Nat)).toNat
    let exactInt := Fp.scaled s m e (-200) % (2 ^ 200 : Nat) == 0
    if 128 ≤ n then (inf32 false, 0)
    else if n < -160 then
      -- 0 < 2^x < 2^-159: the bound leaves +0, −0 and 2^-149
      (choose 2 x (fun y => decide (0 ≤ y) && decide (y ≤ ((2 ^ 51 : Nat) : Int))) 0, 0)
    else if exactInt && decide (-149 ≤ n) then (roundF 1 n, 0)
    else
      let a := exp2Frac f                                            -- 2^f × 2^128
      let v : Int := if 0 ≤ n + 72 then (a * 2 ^ (n + 72).toNat : Nat) else (a / 2 ^ (-(n + 72)).toNat : Nat)
      let slack : Nat := v.natAbs / 2 ^ 40 + 2 ^ 20
      let ok (y : Int) : Bool := near y v (((v.natAbs / 2 ^ 21 + 2 ^ 51) - slack : Nat) : Int)
      (choose 2 x ok (roundF v (-200)), 0)

/-- lgs. -/
def lgs (x : BitVec 64) : BitVec 64 × BitVec 5 :=
  match Fp.decode Fp.f32 x with
  | .nan q => (nan32, if q then Fp.NV else 0)
  | .inf s => if s then (nan32, Fp.NV) else (inf32 false, 0)
  | .num s m e =>
    if m = 0 then (inf32 true, Fp.DZ)
    else if s then (nan32, Fp.NV)
    else
      let E := Fp.expOf m e
      let k := Nat.log2 m
      if m = 2 ^ k then (roundF E 0, 0)
      else
        let frac := log2Loop 100 (m * 2 ^ (prec - k)) 0            -- 100 fraction bits
        let v : Int := (E * (2 ^ 100 : Nat) + frac) * (2 ^ 100 : Nat)
        let ok (y : Int) : Bool := near y v (((2 ^ 200 + v.natAbs) / 2 ^ 22 - 2 ^ 120 : Nat) : Int)
        (choose 3 x ok (roundF v (-200)), 0)

/-- sin(πx) of a finite x in units of 2^-128, with the half-turn reduced modulo 2; `q` quarter turns are
added for the cosine. Exact at multiples of ½. -/
def sinTurn (xf : Int) (q : Nat) : Int :=
  let u : Nat := ((xf + (q * 2 ^ (prec - 1) : Nat)) % (2 ^ (prec + 1) : Nat)).toNat     -- x + q/2 modulo 2
  let half := u / 2 ^ prec                                                               -- 1: negative
  let r := u % 2 ^ prec
  let r' := if 2 ^ (prec - 1) < r then 2 ^ prec - r else r
  let v := sinPi r'
  if half = 1 then -v else v

/-- sns and css. -/
def sincos (op q : Nat) (x : BitVec 64) : BitVec 64 × BitVec 5 :=
  match Fp.decode Fp.f32 x with
  | .nan s => (nan32, if s then Fp.NV else 0)
  | .inf _ => (nan32, Fp.NV)
  | .num s m e =>
    let xi := Fp.scaled s m e (-200)
    let halves := xi % (2 ^ 199 : Nat) == 0
    let k := (xi / (2 ^ 199 : Nat) + q) % 4                        -- x in units of ½, plus q
    if halves then
      if k = 1 then (0x3F800000, 0)
      else if k = 3 then (0xBF800000, 0)
      else if q = 0 ∧ m = 0 ∧ s = true then (0x80000000, 0)
      else (0, 0)
    else
      let v := sinTurn (xi / (2 ^ 72 : Nat)) q
      let v200 : Int := v * (2 ^ 72 : Nat)
      let ok (y : Int) : Bool := near y v200 ((2 ^ 179 - 2 ^ 120 : Nat) : Int)
      (choose op x ok (roundF v200 (-200)), 0)

def sns : BitVec 64 → BitVec 64 × BitVec 5 := sincos 4 0
def css : BitVec 64 → BitVec 64 × BitVec 5 := sincos 5 1

end Sys2Proof.Machine.Seed
end

