-- ==== Sys2Proof/Machine/FloatOps.lean ====
section
/-! DEFINITION. Floating-point and packed instructions (R117 to R135). -/

namespace Sys2Proof.Machine

open Sys2Proof

/-- A lane-wise float result with its flags (R73). -/
def floatRes (f : Go → Nat → BitVec 64 × BitVec 5) (g : Go) : Res :=
  let rs := perLane fun l => if g.act.getLsbD l then f g l else (0, 0)
  { vals := rs.map (·.1), tag := laneTag g.ops, flags := rs.map (·.2) }

/-- The float format of the type. -/
def Go.fmt (g : Go) : Fp.Fmt := Fp.ofTy g.ty

def resFadd : Go → Res := floatRes fun g l => Fp.add g.fmt g.rm (g.val 0 l) (g.val 1 l)
def resFsub : Go → Res := floatRes fun g l => Fp.sub g.fmt g.rm (g.val 0 l) (g.val 1 l)
def resFmul : Go → Res := floatRes fun g l => Fp.mul g.fmt g.rm (g.val 0 l) (g.val 1 l)
def resFma : Go → Res := floatRes fun g l => Fp.fma g.fmt g.rm (g.val 0 l) (g.val 1 l) (g.val 2 l)
def resFmin : Go → Res := floatRes fun g l => Fp.minMax g.fmt false (g.val 0 l) (g.val 1 l)
def resFmax : Go → Res := floatRes fun g l => Fp.minMax g.fmt true (g.val 0 l) (g.val 1 l)
def resFabs : Go → Res := floatRes fun g l => (Fp.abs g.fmt (g.val 0 l), 0)
def resFneg : Go → Res := floatRes fun g l => (Fp.neg g.fmt (g.val 0 l), 0)
/-- fcmp (R122). -/
def resFcmp (c : Nat) : Go → Res := floatRes fun g l =>
  let r := Fp.compare g.fmt c (g.val 0 l) (g.val 1 l)
  (bit64 r.1, r.2)
/-- fround (R123): X = 1 is the exact form. -/
def resFround : Go → Res := floatRes fun g l => Fp.roundInt g.fmt g.rm (g.n.pay.getLsbD 0) (g.val 0 l)
def resFclass : Go → Res := floatRes fun g l => (Fp.classify g.fmt (g.val 0 l), 0)
/-- fscl (R125). -/
def resFscl : Go → Res := floatRes fun g l => Fp.scale g.fmt g.rm (g.val 0 l) (intOf true 32 (g.val 1 l))
/-- fgetx (R126): sign-extended in scalar mode. -/
def resFgetx : Go → Res := floatRes fun g l =>
  let r := Fp.getExp g.fmt (g.val 0 l)
  (if g.scal then sext 32 r.1 else r.1, r.2)

/-- A seed (R128, R129). -/
def seedRes (f : BitVec 64 → BitVec 64 × BitVec 5) : Go → Res := floatRes fun g l => f (zext 32 (g.val 0 l))

/-! ### Conversion (R127) -/

/-- Whether an fcvt pair is exact for every source value (Table 7.4). -/
def exactPair (src dst : Nat) : Bool :=
  if isInt src then dst == 5 || ((src == 13 || src == 14) && (dst == 4 || dst == 6 || dst == 7))
  else if isInt dst then false
  else Fp.holds src dst

/-- Whether SAT has a meaning for an fcvt pair (Table 7.4). -/
def satPair (src dst : Nat) : Bool := (dst == 8 || dst == 9) && !exactPair src dst

/-- An integer result where it is placed (R68, R117): zeros above the result, an 8-bit one extended to 32 bits.
(DEDUCED, log entry 18.) -/
def placeFcvt (t : Nat) (x : BitVec 64) : BitVec 64 :=
  if t = 2 ∨ t = 3 then x else if t = 13 then zext 32 (sext 8 x) else if t = 14 then zext 8 x else zext 32 x

/-- One conversion (Table 7.4). An exact pair ignores RND (W5): an integer that f64 does not hold is rounded RNE and
raises NX, as a result that is not exact does. (DEDUCED, log entry 18.) -/
def convertOne (src dst rm : Nat) (sat : Bool) (x : BitVec 64) : BitVec 64 × BitVec 5 :=
  if isInt src then Fp.fromInt (Fp.ofTy dst) (if exactPair src dst then 0 else rm) sat (intOf (isSigned src) (intWidth src) x)
  else if isInt dst then
    let r := Fp.toInt (Fp.ofTy src) rm (isSigned dst) (intWidth dst) x
    (placeFcvt dst (BitVec.ofInt 64 r.1), r.2)
  else Fp.convert (Fp.ofTy src) (Fp.ofTy dst) rm sat x

def resFcvt : Go → Res := floatRes fun g l =>
  convertOne g.st g.ty g.rm (g.sat && satPair g.st g.ty) (g.val 0 l)

/-- W4 and W5 of an fcvt pair (Table 7.4). -/
def fcvtWarn (n : Ins) (scal : Bool) : BitVec 32 :=
  warnBit 5 (exactPair (n.st scal) (n.ty scal) && n.rnd != 0)
  ||| warnBit 4 (!satPair (n.st scal) (n.ty scal) && n.satBit)

/-! ### Division and square root (R121) -/

/-- fdiv and fsqrt: in flight while no trap is enabled; otherwise the group waits until they complete.
They push an invalid latch entry either way (R53). (DEDUCED, log entry 27.) -/
def slowFloat (f : Go → Res) : Body := fun g s =>
  let th := s.thr s.cur
  let r := f g
  if enables th.fsr = 0 then
    .ok { s := s.mapThr s.cur fun th =>
      th.sendVar g.n false 8 false (.result (regWrites g.n th g.act g.alive r 0) (unionFlags g.act r.flags)) }
  else (commitFixed g r s).map fun f => { f with latch := Latch.invalid }

def resFdiv : Go → Res := floatRes fun g l => Fp.div g.fmt g.rm (g.val 0 l) (g.val 1 l)
def resFsqrt : Go → Res := floatRes fun g l => Fp.sqrt g.fmt g.rm (g.val 0 l)

/-! ### Packed values (R130 to R134) -/

/-- Half i of a 32-bit value, and byte i. -/
def half (x : BitVec 64) (i : Nat) : BitVec 64 := (x >>> (16 * i)) &&& 0xFFFF
def byteAt (x : BitVec 64) (i : Nat) : BitVec 64 := (x >>> (8 * i)) &&& 0xFF
/-- Two halves as one value. -/
def halves (lo hi : BitVec 64) : BitVec 64 := (lo &&& 0xFFFF) ||| ((hi &&& 0xFFFF) <<< 16)

/-- dot2 (R130): the exact sum of two products and an f32 addend, rounded once. (DEDUCED, log entry 17.) -/
def dot2 (t rm : Nat) (a b c : BitVec 64) : BitVec 64 × BitVec 5 :=
  let f := Fp.ofTy t
  let va i := Fp.decode f (half a i)
  let vb i := Fp.decode f (half b i)
  let vc := Fp.decode Fp.f32 c
  let addend (v : Fp.Val) : Fp.Exact := match v with
    | .nan _ => .nan
    | .inf s => .inf s
    | .num s m e => if m = 0 then .zero s else .num s m e false
  let (p0, f0) := Fp.mulX (va 0) (vb 0)
  let (p1, f1) := Fp.mulX (va 1) (vb 1)
  let (x, fs) := (((Fp.Sum.empty.add p0 false).add p1 false).add (addend vc) false).exact rm true
  let (r, fl) := Fp.pack Fp.f32 rm x
  (r, fl ||| fs ||| f0 ||| f1 ||| Fp.sigNV [va 0, va 1, vb 0, vb 1, vc])

def resDot2 : Go → Res := floatRes fun g l => dot2 g.ty g.rm (g.val 0 l) (g.val 1 l) (g.val 2 l)

/-- Whether dot4 reads a source as signed bytes: bit k of the extension word, or without one (Table 4.5). -/
def Ins.dotSigned (n : Ins) (k : Nat) : Bool := match n.ext with | some w => w.getLsbD k | none => true

/-- dot4 (R131). -/
def resDot4 (g : Go) : Res :=
  let sa := Ins.dotSigned g.n 16
  let sb := Ins.dotSigned g.n 17
  { vals := g.lanes fun l =>
      let p (i : Nat) : Int := intOf sa 8 (byteAt (g.val 0 l) i) * intOf sb 8 (byteAt (g.val 1 l) i)
      narrow g.sat true 32 (p 0 + p 1 + p 2 + p 3 + intOf true 32 (g.val 2 l))
    tag := laneTag g.ops }

/-- pk2 (Table 7.7). -/
def resPk2 : Go → Res := floatRes fun g l =>
  let a := Fp.convert Fp.f32 g.fmt g.rm false (g.val 0 l)
  let b := Fp.convert Fp.f32 g.fmt g.rm false (g.val 1 l)
  (halves a.1 b.1, a.2 ||| b.2)

/-- upk2 (Table 7.7): X chooses the half. -/
def resUpk2 : Go → Res := floatRes fun g l =>
  Fp.convert g.fmt Fp.f32 0 false (half (g.val 0 l) (if g.n.pay.getLsbD 0 then 1 else 0))

/-- A source of pk4 converted to a byte (R132). -/
def pk4One (t rm : Nat) (sat : Bool) (x : BitVec 64) : BitVec 64 × BitVec 5 :=
  if isInt t then (narrow sat (isSigned t) 8 (intOf true 32 x), 0)
  else Fp.convert Fp.f32 (Fp.ofTy t) rm sat x

/-- pk4 (Table 7.7): the third operand is D. -/
def resPk4 : Go → Res := floatRes fun g l =>
  let a := pk4One g.ty g.rm g.sat (g.val 0 l)
  let b := pk4One g.ty g.rm g.sat (g.val 1 l)
  let k := if g.n.pay.getLsbD 0 then 16 else 0
  let new := ((a.1 &&& 0xFF) ||| ((b.1 &&& 0xFF) <<< 8)) <<< k
  ((zext 32 (g.val 2 l) &&& ~~~(0xFFFF#64 <<< k)) ||| new, a.2 ||| b.2)

/-- upk4 (Table 7.7): a NaN gives the canonical NaN without a flag. -/
def resUpk4 (g : Go) : Res :=
  { vals := g.lanes fun l =>
      let x := byteAt (g.val 0 l) ((g.val 1 l).toNat % 4)
      match g.ty with
      | 13 => zext 32 (sext 8 x)
      | 14 => x
      | _ => (Fp.convert g.fmt Fp.f32 0 false x).1
    tag := laneTag g.ops }

/-- An operation on each half (R133). -/
def halvesRes (f : Go → Nat → Nat → BitVec 64 × BitVec 5) : Go → Res := floatRes fun g l =>
  let a := f g l 0
  let b := f g l 1
  (halves a.1 b.1, a.2 ||| b.2)

def resHadd2 : Go → Res := halvesRes fun g l i => Fp.add g.fmt g.rm (half (g.val 0 l) i) (half (g.val 1 l) i)
def resHmul2 : Go → Res := halvesRes fun g l i => Fp.mul g.fmt g.rm (half (g.val 0 l) i) (half (g.val 1 l) i)
def resHfma2 : Go → Res := halvesRes fun g l i =>
  Fp.fma g.fmt g.rm (half (g.val 0 l) i) (half (g.val 1 l) i) (half (g.val 2 l) i)

/-! ### The instructions -/

def execFadd (c : Ctl) (p : PayA) (s : State) : Out := .next (issueFixed (p.ins Rows.rowFadd c) {} resFadd s)
def execFsub (c : Ctl) (p : PayA) (s : State) : Out := .next (issueFixed (p.ins Rows.rowFsub c) {} resFsub s)
def execFmul (c : Ctl) (p : PayA) (s : State) : Out := .next (issueFixed (p.ins Rows.rowFmul c) {} resFmul s)
def execFma (c : Ctl) (p : PayB) (s : State) : Out := .next (issueFixed (p.ins Rows.rowFma c) {} resFma s)
def execFmin (c : Ctl) (p : PayA) (s : State) : Out := .next (issueFixed (p.ins Rows.rowFmin c) {} resFmin s)
def execFmax (c : Ctl) (p : PayA) (s : State) : Out := .next (issueFixed (p.ins Rows.rowFmax c) {} resFmax s)
def execFabs (c : Ctl) (p : PayA) (s : State) : Out := .next (issueFixed (p.ins Rows.rowFabs c) {} resFabs s)
def execFneg (c : Ctl) (p : PayA) (s : State) : Out := .next (issueFixed (p.ins Rows.rowFneg c) {} resFneg s)

def execFcmp (c : Ctl) (p : PayA) (s : State) : Out :=
  let n := p.ins Rows.rowFcmp c
  .next (issueFixed n {} (resFcmp (n.bits 1 3).toNat) s)

def execFcvt (c : Ctl) (p : PayC) (s : State) : Out :=
  let n := p.ins Rows.rowFcvt c
  .next (issueFixed n { warn := fcvtWarn n (s.thr s.cur).scalar } resFcvt s)

def execFround (c : Ctl) (p : PayA) (s : State) : Out := .next (issueFixed (p.ins Rows.rowFround c) {} resFround s)
def execFclass (c : Ctl) (p : PayA) (s : State) : Out := .next (issueFixed (p.ins Rows.rowFclass c) {} resFclass s)
def execFscl (c : Ctl) (p : PayA) (s : State) : Out := .next (issueFixed (p.ins Rows.rowFscl c) {} resFscl s)
def execFgetx (c : Ctl) (p : PayA) (s : State) : Out := .next (issueFixed (p.ins Rows.rowFgetx c) {} resFgetx s)
def execRcps (c : Ctl) (p : PayA) (s : State) : Out := .next (issueFixed (p.ins Rows.rowRcps c) {} (seedRes Seed.rcps) s)
def execRsqs (c : Ctl) (p : PayA) (s : State) : Out := .next (issueFixed (p.ins Rows.rowRsqs c) {} (seedRes Seed.rsqs) s)
def execExs (c : Ctl) (p : PayA) (s : State) : Out := .next (issueFixed (p.ins Rows.rowExs c) {} (seedRes Seed.exs) s)
def execLgs (c : Ctl) (p : PayA) (s : State) : Out := .next (issueFixed (p.ins Rows.rowLgs c) {} (seedRes Seed.lgs) s)
def execSns (c : Ctl) (p : PayA) (s : State) : Out := .next (issueFixed (p.ins Rows.rowSns c) {} (seedRes Seed.sns) s)
def execCss (c : Ctl) (p : PayA) (s : State) : Out := .next (issueFixed (p.ins Rows.rowCss c) {} (seedRes Seed.css) s)

def execFdiv (c : Ctl) (p : PayA) (s : State) : Out :=
  .next (issue (p.ins Rows.rowFdiv c) {} (slowFloat resFdiv) s fun g => unionFlags g.act (resFdiv g).flags)
def execFsqrt (c : Ctl) (p : PayA) (s : State) : Out :=
  .next (issue (p.ins Rows.rowFsqrt c) {} (slowFloat resFsqrt) s fun g => unionFlags g.act (resFsqrt g).flags)

def execDot2 (c : Ctl) (p : PayB) (s : State) : Out := .next (issueFixed (p.ins Rows.rowDot2 c) {} resDot2 s)
def execDot4 (c : Ctl) (p : PayB) (s : State) : Out := .next (issueFixed (p.ins Rows.rowDot4 c) {} resDot4 s)
def execPk2 (c : Ctl) (p : PayA) (s : State) : Out := .next (issueFixed (p.ins Rows.rowPk2 c) {} resPk2 s)
def execUpk2 (c : Ctl) (p : PayA) (s : State) : Out := .next (issueFixed (p.ins Rows.rowUpk2 c) {} resUpk2 s)

def execPk4 (c : Ctl) (p : PayA) (s : State) : Out :=
  let n := p.ins Rows.rowPk4 c
  .next (issueFixed n { warn := warnBit 5 (isInt (n.ty (s.thr s.cur).scalar) && n.rnd != 0) } resPk4 s)

def execUpk4 (c : Ctl) (p : PayA) (s : State) : Out := .next (issueFixed (p.ins Rows.rowUpk4 c) {} resUpk4 s)
def execHadd2 (c : Ctl) (p : PayA) (s : State) : Out := .next (issueFixed (p.ins Rows.rowHadd2 c) {} resHadd2 s)
def execHmul2 (c : Ctl) (p : PayA) (s : State) : Out := .next (issueFixed (p.ins Rows.rowHmul2 c) {} resHmul2 s)
def execHfma2 (c : Ctl) (p : PayB) (s : State) : Out := .next (issueFixed (p.ins Rows.rowHfma2 c) {} resHfma2 s)

end Sys2Proof.Machine
end

