-- ==== Sys2Proof/Machine/Matrix.lean ====
section
/-! DEFINITION. The matrix engine (R232 to R242) and its instructions (R255 to R261). -/

namespace Sys2Proof.Machine

open Sys2Proof

/-! ### Types and rows (Tables 16.2, 16.4) -/

/-- G and whether the accumulator is in mode I, for an operand type; none for any other type code. -/
def matrixType (t : Nat) : Option (Nat × Bool) :=
  match t with
  | 7 | 0x0C => some (4, false)
  | 8 | 9 | 0x0B => some (8, false)
  | 0x0A | 0x0F => some (32, false)
  | 13 | 14 => some (8, true)
  | _ => none

/-- Whether a type code is a block type. -/
def isBlock (t : Nat) : Bool := t == 0x0A || t == 0x0B || t == 0x0C || t == 0x0F

/-- Bytes of the unit that holds element j of a stored row, the first byte of the unit, and j's place in it (R235). -/
def unitOf (t j : Nat) : Nat × Nat × Nat :=
  if isBlock t then (Block.size t, j / Block.elems t * Block.size t, j % Block.elems t)
  else (tyBytes t, j * tyBytes t, 0)

/-- The length in bytes of a stored row of 128 elements. -/
def rowLen (t : Nat) : Nat := if isBlock t then 128 / Block.elems t * Block.size t else 128 * tyBytes t

/-! ### Descriptors (Table 16.3) -/

namespace Desc

def base (d : BitVec 128) : Nat := bitsOf d.toNat 0 32
def pitch (d : BitVec 128) : Nat := bitsOf d.toNat 32 16
def rot (d : BitVec 128) : Nat := bitsOf d.toNat 48 4
def tpitch (d : BitVec 128) : Nat := bitsOf d.toNat 64 32
def rows (d : BitVec 128) : Nat := bitsOf d.toNat 96 16
/-- Whether a reserved field is nonzero. -/
def reserved (d : BitVec 128) : Bool := bitsOf d.toNat 52 12 != 0 || bitsOf d.toNat 112 16 != 0

/-- ROWS and, for rows of L bytes, ROT are legal (R234, R236). -/
def ok (d : BitVec 128) (L : Nat) : Bool :=
  decide (1 ≤ rows d) && decide (rows d ≤ 128) && (rot d == 0 || L % 256 == 0)

/-- The quad offset of the byte at logical offset p of stored row i of k-tile t (R235, R236). -/
def byte (d : BitVec 128) (L t i p : Nat) : Nat :=
  base d + t * tpitch d + i * pitch d + (if rot d = 0 then p else (p + 32 * (i * rot d % 8)) % L)

/-- The offset of the same byte before rotation, which changes no value. -/
def logical (d : BitVec 128) (t i p : Nat) : Nat := base d + t * tpitch d + i * pitch d + p

/-- The highest offset among the first n bytes of a stored row. -/
def rowTop (d : BitVec 128) (L t i n : Nat) : Nat :=
  let sh := if rot d = 0 then 0 else 32 * (i * rot d % 8)
  base d + t * tpitch d + i * pitch d + (if L ≤ sh + n - 1 then L - 1 else sh + n - 1)

/-- The highest offset that an operand of K k-steps reads (R235); `byRow` says that k runs along the stored row. -/
def top (d : BitVec 128) (ty K : Nat) (byRow : Bool) : Nat :=
  let L := rowLen ty
  (List.range (ceilDiv K 128)).foldl (fun m t =>
    let left := min 128 (K - 128 * t)
    let rows := if byRow then Desc.rows d else min (Desc.rows d) left
    let u := unitOf ty (left - 1)
    let n := if byRow then u.2.1 + u.1 else L
    (List.range rows).foldl (fun m i => max m (rowTop d L t i n)) m) 0

end Desc

/-- The size of a quad's space (R138). -/
def State.quadSize (s : State) (q : Nat) : Nat := 4 * (s.quad q).quadPart

/-! ### Reading operands -/

/-- Where an operand of mma comes from. -/
inductive OpFrom where
  | quad (d : BitVec 128)
  | feed (f : Feed)
  deriving DecidableEq, Repr

/-- An operand of mma: its source, type, signedness, whether k runs along the stored row, and its scale table. -/
structure Operand where
  src    : OpFrom
  ty     : Nat
  signed : Bool
  byRow  : Bool
  scale  : Option Scale
  deriving DecidableEq, Repr

/-- One byte of a quad's space, and whether its sector is poisoned. -/
def State.quadRead (s : State) (q o : Nat) : Byte × Bool :=
  let a := s.quadByte q o
  (Memory.byte s.scr a, s.poisoned .scr a 1)

/-- The bytes of one unit of a stored row. -/
def State.unitBytes (s : State) (q : Nat) (x : Operand) (t i p n : Nat) : List (Byte × Bool) :=
  (List.range n).map fun b => match x.src with
    | .quad d => s.quadRead q (Desc.byte d (rowLen x.ty) t i (p + b))
    | .feed f => (Sparse.get 0 (i * rowLen x.ty + p + b) f.bytes, false)

/-- The entry of a scale table for an element at byte offset a (R239). -/
def Scale.entry (sc : Scale) (a : Nat) : Byte :=
  Sparse.get 0x7F ((((a : Int) - sc.base.toNat) / (2 ^ sc.shift : Nat)) % 1024).toNat sc.tab

/-- Multiply by 2^(S − 127); the entry 0xFF gives NaN (R239). -/
def scaleBy (e : Byte) (v : Fp.Val) : Fp.Val :=
  if e = 0xFF then .nan false
  else match v with
    | .num s m x => .num s m (x + e.toNat - 127)
    | v => v

/-- The element that an operand holds for row or column r and k-step k, and whether it is poisoned (R235). -/
def State.operandElem (s : State) (q : Nat) (x : Operand) (r k : Nat) : Fp.Val × Bool :=
  let t := k / 128
  let (i, j) := if x.byRow then (r, k % 128) else (k % 128, r)
  let rows := match x.src with | .quad d => Desc.rows d | .feed _ => 128
  if rows ≤ i then (.num false 0 0, false)
  else
    let (n, p, u) := unitOf x.ty j
    let bs := s.unitBytes q x t i p n
    let raw := leNat (bs.map (·.1))
    let v : Fp.Val :=
      if isBlock x.ty then Block.elem x.ty raw u
      else if isInt x.ty then
        let y := intOf x.signed 8 (BitVec.ofNat 64 raw)
        .num (decide (y < 0)) y.natAbs 0
      else Fp.decode (Fp.ofTy x.ty) (BitVec.ofNat 64 raw)
    let a := match x.src with | .quad d => Desc.logical d t i p | .feed _ => i * rowLen x.ty + p
    (match x.scale with | some sc => scaleBy (sc.entry a) v | none => v, bs.any (·.2))

/-! ### Accumulators (R87, R232, R233) -/

/-- An accumulator of a quad. -/
def Quad.accum (x : Quad) (n : Nat) : Acc := Sparse.get Acc.zero n x.acc

/-- Replace it. -/
def Quad.setAccum (x : Quad) (n : Nat) (a : Acc) : Quad := { x with acc := Sparse.put n a x.acc }

/-- An element of an accumulator: its 64 bits and whether it is poisoned. -/
def Acc.at (a : Acc) (i : Nat) : BitVec 64 × Bool := (Sparse.get 0 i a.el, a.poison.contains i)

/-- The exact sum of a group's products. -/
def groupSum (ps : List (Fp.Val × Fp.Val)) : Fp.Exact :=
  ((ps.foldl (fun (t : Fp.Sum) p => t.add (Fp.mulX p.1 p.2).1 false) Fp.Sum.empty).exact 0 true).1

/-- Add a group's sum to an element (R87): a sum that is NaN leaves the canonical f64 NaN. In mode I a finite sum that
scales make no integer leaves a free value. (DESIGN CHOICE, log entry 38.) -/
def accumulate (int : Bool) (free : BitVec 64) (acc : BitVec 64) (p : Fp.Exact) : BitVec 64 :=
  if int then
    match p with
    | .zero _ => acc
    | .num s m e _ =>
      if e < 0 ∧ m % 2 ^ (-e).toNat ≠ 0 then free
      else
        let k := if e < 0 then m / 2 ^ (-e).toNat else m * 2 ^ e.toNat
        acc + BitVec.ofInt 64 (if s then -(k : Int) else k)
    | .inf _ => free
    | .nan => 0x7FF8000000000000
  else (Fp.pack Fp.f64 0 (Fp.addX 0 (Fp.decode Fp.f64 acc) p.val).1).1

/-- One element after the groups of k-steps from g0 to g1 - 1 of an mma (R232, R87). -/
def State.mmaElem (s : State) (q : Nat) (a b : Operand) (int : Bool) (G g0 g1 m n : Nat) (old : BitVec 64 × Bool) : BitVec 64 × Bool :=
  ((List.range (g1 - g0)).map (g0 + ·)).foldl (fun acc g =>
    let ps := (List.range G).map fun k => (s.operandElem q a m (g * G + k), s.operandElem q b n (g * G + k))
    (accumulate int (Config.freeWord s.freeCtr (500000 + 128 * m + n)) acc.1 (groupSum (ps.map fun p => (p.1.1, p.2.1))),
     acc.2 || ps.any fun p => p.1.2 || p.2.2)) old

/-- Element (m, n) of a table of changes over rows `rows`. -/
def accFrom (a : Acc) (rows : List Nat) (f : Nat → Nat → BitVec 64 × Bool) : Acc :=
  rows.foldl (fun a m => (List.range 128).foldl (fun a n =>
    let x := f m n
    let i := 128 * m + n
    { a with el := Sparse.write 0 i x.1 a.el
             poison := if x.2 then (if a.poison.contains i then a.poison else a.poison ++ [i]) else a.poison.filter (· != i) }) a) a

/-! ### The control word (Table 16.5) -/

namespace Cw

def at_ (w : BitVec 64) : Nat := bitsOf w.toNat 0 4
def bt (w : BitVec 64) : Nat := bitsOf w.toNat 4 4
def k (w : BitVec 64) : Nat := (bitsOf w.toNat 16 8 + 1) * 32
def fa (w : BitVec 64) : Bool := w.getLsbD 12
def fb (w : BitVec 64) : Bool := w.getLsbD 13
def mask (w : BitVec 64) : Bool := w.getLsbD 26
def reserved (w : BitVec 64) : Bool := (w &&& 0xFFFFFFFFFB000000) != 0

end Cw

/-- Whether k runs along the stored rows of A and of B (Table 16.4). -/
def aByRow (w : BitVec 64) : Bool := !w.getLsbD 10
@[inherit_doc aByRow]
def bByRow (w : BitVec 64) : Bool := w.getLsbD 11

/-- The operands of an mma as its turn finds them. -/
def Quad.operands (x : Quad) (da db : BitVec 128) (w : BitVec 64) : Operand × Operand :=
  ({ src := if Cw.fa w then .feed x.feedA else .quad da, ty := Cw.at_ w, signed := w.getLsbD 8, byRow := aByRow w
     scale := if w.getLsbD 14 then some x.scaleA else none },
   { src := if Cw.fb w then .feed x.feedB else .quad db, ty := Cw.bt w, signed := w.getLsbD 9, byRow := bByRow w
     scale := if w.getLsbD 15 then some x.scaleB else none })

/-! ### Conversions from an accumulator (Table 17.2, R260) -/

/-- An element in a type: 0 i32, 2 i64, 4 f32, 5 f64, 7 bf16. -/
def fromAcc (int : Bool) (ty : Nat) (sat : Bool) (x : BitVec 64) : BitVec 64 :=
  if int then
    match ty with
    | 0 => zext 32 (narrow sat true 32 x.toInt)
    | 2 => x
    | _ => (Fp.fromInt (Fp.ofTy ty) 0 false x.toInt).1
  else
    match ty with
    | 0 => zext 32 (BitVec.ofInt 64 (Fp.toInt Fp.f64 0 true 32 x).1)
    | 2 => BitVec.ofInt 64 (Fp.toInt Fp.f64 0 true 64 x).1
    | _ => (Fp.convert Fp.f64 (Fp.ofTy ty) 0 false x).1

/-- An element that mld reads, widened exactly. -/
def toAcc (ty : Nat) (x : BitVec 64) : BitVec 64 :=
  match ty with
  | 0 => sext 32 x
  | 4 => (Fp.convert Fp.f32 Fp.f64 0 false x).1
  | _ => x

/-! ### The engine's turn (R240, R268) -/

/-- Whether a command's feed buffers allow its turn (R238). -/
def Quad.mayTurn (x : Quad) : MOp → Bool
  | .mma _ _ _ w _ _ => (!Cw.fa w || x.feedA.full) && (!Cw.fb w || x.feedB.full)
  | .mfeed b .. => !(if b then x.feedB.full else x.feedA.full)
  | _ => true

/-- The command whose turn comes: the oldest that is no mfeed, where its buffers allow it; else the oldest mfeed of
a buffer that is not full, once the cycle of its acceptance is over (R259). The engine stands still while an interrupted program is saved (R241).
(DEDUCED, log entry 37.) -/
def Quad.turn (x : Quad) (clk : Nat) : Option MCmd :=
  if x.spare.isSome then none else
  let go (p : MCmd → Bool) : Option MCmd := match x.mq.find? p with
    | some c => if x.mayTurn c.op && (c.op.feeds.isNone || decide (c.clk < clk)) then some c else none
    | none => none
  (go fun c => c.op.feeds.isNone) <|> (go fun c => c.op.feeds == some false) <|> (go fun c => c.op.feeds == some true)

/-- The command has been performed: it leaves the queue, its results land and its flag clears. -/
def State.endMatrix (s : State) (q : Nat) (c : MCmd) (vals : List (BitVec 64)) (poison : Mask) : State :=
  let s := s.mapQuad q fun x => { x with mq := x.mq.filter (·.id != c.id) }
  match (s.thr c.a).ops.find? fun o => (match o.kind with | .engine id _ => id == c.id | _ => false) with
  | none => s
  | some o => (s.landOp c.a o.seq (fillResults o.kind.results vals poison)).mapThr c.a (Thr.retire o)

/-- The bytes that mst writes: one element of one byte each, in row order. -/
def mstBytes (s : State) (q : Nat) (a : Acc) (d : BitVec 128) (ty : Nat) (sat : Bool) : List Elem :=
  let w := tyBytes ty
  (List.range (Desc.rows d)).flatMap fun i => (List.range 128).flatMap fun j =>
    let x := a.at (128 * i + j)
    (leBytes w (fromAcc a.int ty sat x.1).toNat).zipIdx.map fun b =>
      { lane := 0, sp := .scr, a := s.quadByte q (Desc.byte d (128 * w) 0 i (j * w + b.2)), w := 1, key := 0, fmt := 0,
        pos := 0, data := b.1.setWidth 64, data2 := 0, poison := x.2 }

/-- The size of a group of k-steps of an mma, and the groups it has. -/
def Quad.mmaGroup (w : BitVec 64) : Nat := min ((matrixType (Cw.at_ w)).getD (4, false)).1 ((matrixType (Cw.bt w)).getD (4, false)).1
@[inherit_doc Quad.mmaGroup]
def Quad.mmaGroups (w : BitVec 64) : Nat := Cw.k w / Quad.mmaGroup w

/-- Perform the groups of k-steps from g0 to g1 - 1 of an mma. -/
def State.mmaPart (s : State) (q n : Nat) (da db : BitVec 128) (w : BitVec 64) (mask : BitVec 128) (g0 g1 : Nat) : State :=
  let x := s.quad q
  let (a, b) := x.operands da db w
  let int := ((matrixType (Cw.at_ w)).getD (4, false)).2
  let old := x.accum n
  let rows := (List.range 128).filter fun m => !Cw.mask w || mask.getLsbD m
  let new := accFrom old rows fun m j => s.mmaElem q a b int (Quad.mmaGroup w) g0 g1 m j (old.at (128 * m + j))
  s.mapQuad q fun x => x.setAccum n new

/-! ### Spilling (R241) -/

/-- The value that an element has after a spill and a reload: an F-mode element of the range of f32 goes through the
nearest finite f32. -/
def spillElem (x : BitVec 64) : BitVec 64 :=
  let e := bitsOf x.toNat 52 11
  let y := (Fp.convert Fp.f64 Fp.f32 0 false x).1
  let y := if e ≠ 2047 ∧ bitsOf y.toNat 23 8 = 255 then BitVec.ofNat 64 (Fp.f32.maxFin (x.getLsbD 63)) else y
  if e = 2047 ∨ (897 ≤ e ∧ e < 1151) then (Fp.convert Fp.f32 Fp.f64 0 false y).1 else x

/-- Spill the four accumulators of a quad with their modes into the program's save area. -/
def State.spillAll (s : State) (q : Nat) : State :=
  s.mapQuad q fun x => { x with spill := x.acc.map fun a =>
    (a.1, if a.2.int then a.2 else { a.2 with el := (a.2.el.map fun e => (e.1, spillElem e.2)).filter fun e => e.2 != 0 }) }

/-- Reload them. -/
def State.reloadAll (s : State) (q : Nat) : State := s.mapQuad q fun x => { x with acc := x.spill, spill := [] }

/-- Perform the groups of k-steps of an mma from g0 to g1, as `met` faults of its program have met it in flight: each
has by free choice reached it, after a free number of groups, and then the engine spills and reloads (R241).
(DESIGN CHOICE, log entry 39.) -/
def State.mmaSplit (q n : Nat) (da db : BitVec 128) (w : BitVec 64) (mask : BitVec 128) (g1 : Nat) : Nat → Nat → State → State
  | 0, g0, s => s.mmaPart q n da db w mask g0 g1
  | met + 1, g0, s =>
    if Config.freeBit s.freeCtr 700000 met then
      let j := g0 + (Config.freeWord s.freeCtr (700000 + met)).toNat % (g1 - g0 + 1)
      State.mmaSplit q n da db w mask g1 met j (((s.mmaPart q n da db w mask g0 j).spillAll q).reloadAll q)
    else State.mmaSplit q n da db w mask g1 met g0 s

/-- Perform one command (R256 to R260). -/
def State.performMatrix (s : State) (q : Nat) (c : MCmd) : State :=
  let x := s.quad q
  match c.op with
  | .mma n da db w mask g0 =>
    let s := State.mmaSplit q n da db w mask (Quad.mmaGroups w) c.met g0 s
    let s := s.mapQuad q fun x => { x with feedA := if Cw.fa w then ⟨[], false⟩ else x.feedA, feedB := if Cw.fb w then ⟨[], false⟩ else x.feedB }
    s.endMatrix q c [] 0
  | .mmz n i => (s.mapQuad q fun x => x.setAccum n ⟨i, [], []⟩).endMatrix q c [] 0
  | .mld n d ty =>
    let w := tyBytes ty
    let rd (i j : Nat) : BitVec 64 × Bool :=
      let bs := (List.range w).map fun b => s.quadRead q (Desc.byte d (128 * w) 0 i (j * w + b))
      (toAcc ty (BitVec.ofNat 64 (leNat (bs.map (·.1)))), bs.any (·.2))
    let new := accFrom ⟨ty == 0 || ty == 2, [], []⟩ (List.range (Desc.rows d)) rd
    (s.mapQuad q fun x => x.setAccum n new).endMatrix q c [] 0
  | .mst n d ty sat => (s.storeElems 0 (mstBytes s q (x.accum n) d ty sat)).endMatrix q c [] 0
  | .mscl b src base shift =>
    let tab := (List.range 1024).foldl (fun t i => Sparse.write 0x7F i (s.quadRead q (src + i)).1 t) []
    let sc : Scale := ⟨tab, BitVec.ofNat 32 base, shift⟩
    (s.mapQuad q fun x => if b then { x with scaleB := sc } else { x with scaleA := sc }).endMatrix q c [] 0
  | .mfeed b chunk last mask v =>
    let f := if b then x.feedB else x.feedA
    let bytes := (lanesOf mask).foldl (fun m l => (leBytes 4 (lane32 v l).toNat).zipIdx.foldl (fun m y =>
      Sparse.write 0 (128 * chunk + 4 * l + y.2) y.1 m) m) f.bytes
    let f' : Feed := ⟨bytes, f.full || last⟩
    (s.mapQuad q fun x => if b then { x with feedB := f' } else { x with feedA := f' }).endMatrix q c [] 0
  | .mdrain n sel ty sat =>
    let a := x.accum n
    let el (l : Nat) := a.at (128 * (sel % 128) + 32 * (sel / 128 % 4) + l)
    s.endMatrix q c (perLane fun l => fromAcc a.int ty sat (el l).1) (maskOf fun l => (el l).2)

/-- Whether a command waits for accesses of its issuer that a release has ordered before it (R196, R255), or for an order
that the engine would see broken (R330). -/
def State.matrixHeld (s : State) (q : Nat) (c : MCmd) : Bool :=
  let th := s.thr c.a
  let place := ((th.ops.find? fun o => (match o.kind with | .engine id _ => id == c.id | _ => false)).map (·.seq)).getD 0
  s.shutOut (.matrix q) || th.owes 4 place

/-- MATRIX_ENGINE_TURN: the engine of a quad performs the command whose turn it is. -/
def execMatrixEngineTurn (q : Nat) (s : State) : Out :=
  match (s.quad q).turn s.clk with
  | none => .next s
  | some c => if s.matrixHeld q c then .next s else .next (s.performMatrix q c)

/-! ### Reset (R242) -/

/-- Note an abandoned command in the thread of its issuer: its flag clears without a result, and the thread owes a
MATRIX_RESET. -/
def Thr.abandon (id : Nat) (th : Thr) : Thr :=
  match th.ops.find? fun o => (match o.kind with | .engine i _ => i == id | _ => false) with
  | none => th
  | some o =>
    let bit : BitVec 12 := match o.flag with | some f => 1 <<< f | none => 0
    { (th.retire o) with lost := some (th.lost.getD 0 ||| bit) }

/-- Note an abandoned command; its program may run, or be saved whole by a pre-emption (R281). -/
def State.abandon (s : State) (c : MCmd) : State :=
  let s := s.mapThr c.a (Thr.abandon c.id)
  match c.a with
  | .grp .. => s
  | .ctl q => s.mapQuad q fun x => { x with spare := x.spare.map fun p => (p.1, p.2.abandon c.id) }

/-- Reset the matrix engine of a quad. (DEDUCED, log entry 40.) -/
def State.resetMatrix (s : State) (q : Nat) : State :=
  let s := (s.quad q).mq.foldl State.abandon s
  s.mapQuad q fun x =>
    { x with mq := [], acc := [], modes := [], spill := [], feedA := ⟨[], false⟩, feedB := ⟨[], false⟩,
             scaleA := { x.scaleA with tab := [] }, scaleB := { x.scaleB with tab := [] } }

/-! ### Issue -/

/-- Room in the engine's queue of 16 (R255). -/
def Quad.room (x : Quad) : Bool := decide ((x.mq.countP fun c => c.op.feeds.isNone) < Config.matrixQueue)

/-- The place of an mfeed among those of its cycle: by core, then by group (R259). -/
def State.feedRank (s : State) (c : MCmd) : Nat := s.coreNo c.a * 65536 + groupNo c.a

/-- Put a command at the end of a queue, an mfeed before those of its cycle that come after it. -/
def State.joinQueue (s : State) (c : MCmd) (l : List MCmd) : List MCmd :=
  let after (x : MCmd) : Bool := c.op.feeds.isSome && x.op.feeds.isSome && x.clk == c.clk && decide (s.feedRank c < s.feedRank x)
  l.filter (fun x => !after x) ++ c :: l.filter after

/-- Accept a command: it joins the queue, and its operation holds the flag. Without room the instruction issues again
later. -/
def acceptMatrix (g : Go) (s : State) (op : MOp) (ws : List RegW) : Fin :=
  let q := s.quadOf s.cur
  if op.feeds.isNone && !(s.quad q).room then { s := s, cancel := true }
  else
    let id := s.cmdIds
    let s := ({ s with cmdIds := id + 1 } : State).mapQuad q fun x => { x with mq := s.joinQueue ⟨id, s.cur, op, s.clk, 0⟩ x.mq }
    { s := s.mapThr s.cur fun th => th.sendVar g.n false 8 false (.engine id ws) }

/-- A pair of 64-bit operands as one descriptor. -/
def Go.pair (g : Go) (i : Nat) : BitVec 128 := g.uni (i + 1) ++ g.uni i

/-- BOUNDS where the highest offset that is read or written lies outside quad space (R235, R255). -/
def quadBounds (g : Go) (s : State) (tops : List Nat) : Option Trap :=
  let m := tops.foldl max 0
  if tops.isEmpty || decide (m < s.quadSize (s.quadOf s.cur)) then none else some (g.all .bounds (BitVec.ofNat 64 m))

/-- N of the word. -/
def Ins.accNo (n : Ins) : Nat := (n.bits 24 2).toNat

/-- The mode that the control core tracks for an accumulator (R255). -/
def State.trackedMode (s : State) (n : Nat) : Bool := Sparse.get false n (s.quad (s.quadOf s.cur)).modes

/-- Track the mode that an accepted mmz or mld sets. -/
def Fin.track (f : Fin) (n : Nat) (int : Bool) : Fin :=
  if f.cancel then f
  else { f with s := f.s.mapQuad (f.s.quadOf f.s.cur) fun x => { x with modes := Sparse.put n int x.modes } }

/-- The operands of mma: the pair of A, the pair of B, the control word; a pair that a feed buffer stands for is not read. -/
def Go.mmaOps (g : Go) : BitVec 128 × BitVec 128 × BitVec 64 :=
  let a := if g.n.row.fed.contains .s1 then 0 else 2
  let b := if g.n.row.fed.contains .s2 then 0 else 2
  (if a = 0 then 0 else g.pair 0, if b = 0 then 0 else g.pair a, g.uni (a + b))

/-- mma (R256). -/
def mmaBody : Body := fun g s =>
  let (da, db, w) := g.mmaOps
  let C := (g.n.fld .s3).toNat
  let th := s.thr s.cur
  let m0 := th.readS s.freeCtr (C + 1); let m1 := th.readS s.freeCtr (C + 2)
  let dead : Bool := (List.range (g.ops.length - 1)).any fun i => (g.op i).poison.getLsbD 0
  let poison := dead || (Cw.mask w && (m0.poison || m1.poison))
  match matrixType (Cw.at_ w), matrixType (Cw.bt w) with
  | some (_, ia), some (_, ib) =>
    if ia != ib || ia != s.trackedMode (Ins.accNo g.n) || ((Cw.fa w || Cw.fb w) && Cw.k w != 128) || (Cw.mask w && decide (61 < C))
        || (!Cw.fa w && !Desc.ok da (rowLen (Cw.at_ w))) || (!Cw.fb w && !Desc.ok db (rowLen (Cw.bt w))) then .error [g.illegal]
    else
      let tops := (if Cw.fa w then [] else [Desc.top da (Cw.at_ w) (Cw.k w) (aByRow w)])
        ++ (if Cw.fb w then [] else [Desc.top db (Cw.bt w) (Cw.k w) (bByRow w)])
      match quadBounds g s tops with
      | some t => .error [t]
      | none =>
        if poison then .error [g.all .poison]
        else .ok (acceptMatrix g s (.mma (Ins.accNo g.n) da db w (m1.v ++ m0.v) 0) [])
  | _, _ => .error [g.illegal]

/-- mmz (R257). -/
def mmzBody : Body := fun g s =>
  let i := g.n.pay.getLsbD 0
  .ok ((acceptMatrix g s (.mmz (Ins.accNo g.n) i) []).track (Ins.accNo g.n) i)

/-- The checks of mst and mld: the descriptor, and the highest byte of rows of 128 elements of w bytes. -/
def moveChecks (g : Go) (s : State) (d : BitVec 128) (w : Nat) : Option Trap :=
  if !Desc.ok d (128 * w) then some g.illegal
  else quadBounds g s ((List.range (Desc.rows d)).map fun i => Desc.rowTop d (128 * w) 0 i (128 * w))

/-- mst (R257). -/
def mstBody : Body := fun g s =>
  let d := g.pair 0
  match moveChecks g s d (tyBytes g.ty) with
  | some t => .error [t]
  | none => .ok (acceptMatrix g s (.mst (Ins.accNo g.n) d g.ty g.sat) [])

/-- mld (R257). -/
def mldBody : Body := fun g s =>
  let d := g.pair 0
  match moveChecks g s d (tyBytes g.ty) with
  | some t => .error [t]
  | none => .ok ((acceptMatrix g s (.mld (Ins.accNo g.n) d g.ty) []).track (Ins.accNo g.n) (g.ty == 0 || g.ty == 2))

/-- mscl (R258). -/
def msclBody : Body := fun g s =>
  let src := (zext 32 (g.uni 0)).toNat
  let b := g.uni 1
  match quadBounds g s [src + 1023] with
  | some t => .error [t]
  | none => .ok (acceptMatrix g s (.mscl (g.n.pay.getLsbD 24) src (zext 32 b).toNat (bitsOf b.toNat 32 5)) [])

/-- mfeed (R259). -/
def mfeedBody : Body := fun g s =>
  let c := (zext 32 (g.uni 1)).toNat
  if 256 ≤ c then .error [g.all .bounds (BitVec.ofNat 64 c)]
  else .ok (acceptMatrix g s (.mfeed (g.n.pay.getLsbD 1) c (g.n.pay.getLsbD 0) g.act (perLane fun l => (g.val 0 l).setWidth 32)) [])

/-- mdrain (R260). -/
def mdrainBody : Body := fun g s =>
  .ok (acceptMatrix g s (.mdrain (g.n.bits 8 2).toNat (zext 32 (g.uni 0)).toNat g.ty g.sat) (g.loadResults s))

/-- What a matrix instruction reads, where its codes name registers that can be read, whether or not it then traps (R65). -/
def matrixGo (n : Ins) (s : State) : Option Go :=
  let s := s.mapThr s.cur (Thr.landDue s.clk)
  let th := s.thr s.cur
  if codesBad n th.scalar || (notHeld n th).isSome then none else some (readOperands n s.cur s)

/-- W8 where a descriptor or control word that is read has reserved bits (R234, R237), whether or not the command is
accepted. -/
def matrixWarn (n : Ins) (s : State) (bad : Go → Bool) : Extra :=
  { warn := match matrixGo n s with | some g => warnBit 8 (bad g) | none => 0 }

/-- The control word of an mma. -/
def mmaCw (n : Ins) (s : State) : BitVec 64 := lane64 (((s.thr s.cur).landDue s.clk).readSrc s.freeCtr n 0 ⟨n.fld .s3, true, true, false⟩).v 0

/-- The word of mma with the operands that feed buffers stand for: FA and FB of the control word (R256). -/
def mmaIns (n : Ins) (s : State) : Ins :=
  let w := mmaCw n s
  { n with row := { n.row with fed := (if Cw.fa w then [.s1] else []) ++ (if Cw.fb w then [.s2] else []) } }

def execMma (c : Ctl) (p : PayA) (s : State) : Out :=
  let n := mmaIns (p.ins Rows.rowMma c) s
  let x := matrixWarn n s fun g => Desc.reserved g.mmaOps.1 || Desc.reserved g.mmaOps.2.1
  .next (issue n { x with warn := x.warn ||| warnBit 8 (Cw.reserved (mmaCw n s)) } mmaBody s)
/-- W8 for the descriptor of mst and mld. -/
def descWarn (n : Ins) (s : State) : Extra := matrixWarn n s fun g => Desc.reserved (g.pair 0)

def execMmz (c : Ctl) (p : PayA) (s : State) : Out := .next (issue (p.ins Rows.rowMmz c) {} mmzBody s)
def execMst (c : Ctl) (p : PayA) (s : State) : Out := .next (issue (p.ins Rows.rowMst c) (descWarn (p.ins Rows.rowMst c) s) mstBody s)
def execMld (c : Ctl) (p : PayA) (s : State) : Out := .next (issue (p.ins Rows.rowMld c) (descWarn (p.ins Rows.rowMld c) s) mldBody s)
def execMscl (c : Ctl) (p : PayA) (s : State) : Out := .next (issue (p.ins Rows.rowMscl c) {} msclBody s)
def execMfeed (c : Ctl) (p : PayA) (s : State) : Out := .next (issue (p.ins Rows.rowMfeed c) {} mfeedBody s)
def execMdrain (c : Ctl) (p : PayA) (s : State) : Out := .next (issue (p.ins Rows.rowMdrain c) {} mdrainBody s)

end Sys2Proof.Machine
end

