-- ==== Sys2Proof/Machine/Launch.lean ====
section
/-! DEFINITION. Launches (R25 to R28): launch entries (R283), the start of a grid or a control-core program (R229,
R286), the distributor (R26, R185, R287, R290), stealing (R288, R289), the chain walker (R282) and the end of teams
and launches (R27, R284, R285). -/

namespace Sys2Proof.Machine

open Sys2Proof

/-! ### Launch entries (Table 18.7) -/

/-- The fields of the 64 bytes of a launch entry. -/
def Entry.ofBytes (bs : List Byte) : Entry :=
  let f := wordBits bs
  { groups := f 0 58 4, cls := f 0 56 2, kind := f 0 52 4, code := f 0 0 52, ext := f 1 55 4, base := f 1 52 3,
    hbmap := f 1 0 52, fen := BitVec.ofNat 5 (f 2 52 5), args := f 2 0 52, bq := f 3 48 4, bd := f 3 52 4,
    bp := f 3 56 4, bo := f 3 60 4, trap := f 3 24 24, entry := f 3 0 24, quad := f 4 48 8, gdx := f 4 0 16,
    gdy := f 4 16 16, gdz := f 4 32 16, tags := f 5 36 4, rgq := f 5 32 4, lanesl := f 5 20 12, coresp := f 5 0 20,
    sg2 := BitVec.ofNat 64 (f 6 0 64), sg3 := BitVec.ofNat 64 (f 7 0 64) }

/-- Bytes of a team's scratchpad allotment (R283). -/
def Entry.allot (e : Entry) : Nat := e.coresp + 32 * e.lanesl * (e.groups + 1)
/-- Teams of the grid (R25). -/
def Entry.size (e : Entry) : Nat := e.gdx * e.gdy * e.gdz
/-- LIMIT and BASE of a segment register (Table 3.6). -/
def segEnd (sg : BitVec 64) : Nat := sg.toNat % 2 ^ 32 + (sg >>> 32).toNat
@[inherit_doc segEnd]
def segLimit (sg : BitVec 64) : Nat := (sg >>> 32).toNat

/-- The quads that a partition owns, and the dies on which it owns one (R286, R362). -/
def State.quadsOf (s : State) (part : Nat) : List Nat :=
  (List.range Config.quads).filter ((s.part part).maps.quads.contains ·)
@[inherit_doc State.quadsOf]
def State.diesOf (s : State) (part : Nat) : List Nat :=
  (List.range Config.dies).filter fun d => (s.quadsOf part).any (· / Config.quadsPerDie == d)

/-- Whether the range of a die-scratchpad segment lies in units of 1 MiB that the partition owns on a die
(Table 23.1). A segment of no bytes lies at place 0, or in or at the end of a unit. -/
def State.dieSpaceOk (s : State) (part die : Nat) (sg : BitVec 64) : Bool :=
  let base := sg.toNat % 2 ^ 32
  let owned (u : Nat) : Bool := (s.part part).maps.dieUnits.contains (64 * die + u)
  decide (segEnd sg ≤ Config.dieScratchBytes) &&
    if segLimit sg = 0 then base == 0 || owned (base / 2 ^ 20) || owned ((base - 1) / 2 ^ 20)
    else (List.range ((segEnd sg - 1) / 2 ^ 20 - base / 2 ^ 20 + 1)).all fun i => owned (base / 2 ^ 20 + i)

/-- The leaf of a page of an entry's header bitmap that validity needs and that is not resident (R305). -/
def State.entryAbsent (s : State) (w : Who) (e : Entry) : Option Nat :=
  match s.bitmapAbsent w e.code e.hbmap (e.code + 8 * e.entry) with
  | some p => some p
  | none => if e.trap = 0 then none else s.bitmapAbsent w e.code e.hbmap (e.code + 8 * e.trap)

/-- Whether an entry is valid for a launch whose teams or program may stand on the quads `qs` (R283). -/
def State.entryOk (s : State) (w : Who) (e : Entry) (qs : List Nat) : Bool :=
  let quadOk (q : Nat) : Bool :=
    let p := (s.quad q).quadPart
    decide (e.allot ≤ Config.scratchBytes - p) && decide (segEnd e.sg2 ≤ 4 * p)
      && s.dieSpaceOk w.part (q / Config.quadsPerDie) e.sg3
  decide (e.kind < 2) && e.code % 8 == 0 && decide (1 ≤ e.gdx) && decide (1 ≤ e.gdy) && decide (1 ≤ e.gdz)
    && decide (e.tags ≤ 8) && decide (e.rgq ≤ 8) && e.lanesl % 16 == 0 && e.coresp % 16 == 0
    && (e.kind == 0 || decide (e.quad < Config.quads))
    && s.bitmapBit w e.code e.hbmap (e.code + 8 * e.entry)
    && (e.trap == 0 || s.bitmapBit w e.code e.hbmap (e.code + 8 * e.trap))
    && qs.all quadOk

/-- Read a launch entry with its argument block: the entry's 64 bytes, its layout, then the block (R283). `quads`
gives the quads on which the launch may stand, `extra` the tval of a further ILLEGAL. -/
def State.readEntry (s : State) (w : Who) (va : Nat) (quads : Entry → List Nat) (extra : Entry → Option Nat) :
    Except Stop (Entry × List (BitVec 128)) :=
  if va % 64 ≠ 0 then .error (.cause .illegal va)
  else match s.fetchBytes w va 64 with
    | .error e => .error e
    | .ok bs =>
      let e := Entry.ofBytes bs
      match s.entryAbsent w e with
      | some pte => .error (.absent pte)
      | none =>
        if !s.entryOk w e (quads e) then .error (.cause .illegal va)
        else if (extra e).isSome then .error (.cause .illegal ((extra e).getD 0))
        else match s.fetchBytes w e.args 256 with
          | .error x => .error x
          | .ok ab => .ok (e, (List.range 16).map fun i => BitVec.ofNat 128 (bitsOf (leNat ab) (128 * i) 128))

/-! ### Starting (R25, R32, R229, R286) -/

/-- A thread at its launch: registers zero with tag U, fsr enables FEN, handles and segments of the entry. -/
def Thr.start (scalar : Bool) (e : Entry) (hargs : List (BitVec 128)) (level : Nat) : Thr :=
  let pc := BitVec.ofNat 48 (e.code + 8 * e.entry)
  { Thr.idle scalar with
    pcv := List.replicate (if scalar then 1 else 32) pc
    hs := (List.range 16).map fun i => (i, ⟨hargs.getD i 0, false, false⟩)
    segs := [(0, BitVec.ofNat 64 (e.lanesl * 2 ^ 32)), (1, BitVec.ofNat 64 (e.coresp * 2 ^ 32)), (2, e.sg2), (3, e.sg3)]
    fsr := (e.fen.setWidth 32) <<< 8, level := level, chunks := e.base + 1, baseChunks := e.base + 1, ended := false }

/-- Create a team of a launch, waiting for placement. -/
def State.newTeam (s : State) (k teamid die : Nat) (quad : Option Nat) (producer : Option Nat) : State :=
  let l := s.launch k
  let t : Team :=
    { Team.absent with
      stage := .waiting, launch := k, teamid := teamid, die := die, quad := quad, cls := l.e.cls
      groups := (List.range (l.e.groups + 1)).map fun g => (g, Thr.start false l.e l.hargs l.level)
      n := l.e.groups + 1, pool := 16 * l.e.ext, ntags := 8 * l.e.tags, rgq := 32 * l.e.rgq, scrLen := l.e.allot
      producer := producer, uqOpen := producer.isSome }
  ({ (s.setTeam s.nTeams t) with nTeams := s.nTeams + 1 }).mapLaunch k fun l => { l with teams := l.teams ++ [s.nTeams] }

/-- The numbers below n that leave remainder i by d. -/
def everyNth (n d i : Nat) : List Nat := (List.range n).filter fun c => c % d == i

/-- Enter a launch in the launch table. -/
def State.addLaunch (s : State) (l : Launch) : State :=
  { s with launches := Sparse.put s.nLaunch l s.launches, nLaunch := s.nLaunch + 1 }

/-- A launch from an entry. -/
def State.launchFrom (s : State) (src : Source) (qif part level : Nat) (e : Entry) (hargs : List (BitVec 128)) : Launch :=
  { Launch.absent with live := true, src := src, qif := qif, part := part, level := level, clk := s.clk, e := e, hargs := hargs }

/-- Start a grid: chunk c of 16 teams goes to die D(c mod n) (R286). -/
def State.startGrid (s : State) (l : Launch) : State :=
  let ds := s.diesOf l.part
  let ds := if ds.isEmpty then [0] else ds
  let n := ceilDiv l.e.size 16
  s.addLaunch { l with chunks := ds.zipIdx.map fun p => (p.1, everyNth n ds.length p.2) }

/-- Whether launch a of the program queue starts before launch b (R229). -/
def Launch.startsFirst (a b : Launch) : Bool := decide (a.clk < b.clk) || (a.clk == b.clk && decide (a.qif ≤ b.qif))

/-- Put a launch into a control core's queue: by acceptance, launches of one cycle by interface. -/
def State.queueProgram (s : State) (q k : Nat) : State :=
  let before := (s.quad q).queued.takeWhile fun j => (s.launch j).startsFirst (s.launch k)
  s.mapQuad q fun x => { x with queued := before ++ [k] ++ x.queued.drop before.length }

/-- Start the teams of a launch that is confined to one quad (R265, R286). -/
def State.startSingle (s : State) (l : Launch) (q n : Nat) (producer : Option Nat) : State :=
  let k := s.nLaunch
  (List.range n).foldl (fun s i => s.newTeam k i (q / Config.quadsPerDie) (some q) producer) (s.addLaunch l)

/-- A program starts where the control core is free, not halted, and no saved program waits (R229, R110), once every launch of
the cycle of its acceptance has been queued. -/
def execControlProgramStart (q : Nat) (s : State) : Out :=
  let x := s.quad q
  match x.queued with
  | k :: rest =>
    if x.prog.isSome ∨ x.halted ∨ x.spare.isSome ∨ s.clk ≤ (s.launch k).clk then .next s
    else
      let l := s.launch k
      .next (s.mapQuad q fun x => { x with prog := some k, queued := rest, ctl := Thr.start true l.e l.hargs l.level })
  | [] => .next s

/-! ### Cores (R26, R185, R200, R211) -/

/-- The teams that occupy a core. -/
def State.residents (s : State) (c : Nat) : List (Nat × Team) :=
  s.teams.filter fun t => t.2.core == c && (match t.2.stage with | .resident => true | .draining _ => true | _ => false)

/-- The slots of a core that groups occupy: quarter and slot as 4 × quarter + slot (R211). -/
def State.slotsUsed (s : State) (c : Nat) : List Nat :=
  (s.residents c).flatMap fun t => (t.2.groups.filter fun g => !g.2.ended).map fun g => g.2.slot

/-- The lowest place of a scratchpad's core part where n bytes are free. (DESIGN CHOICE, log entry 45.) -/
def State.hole (s : State) (c n : Nat) : Option Nat :=
  let used := ((s.residents c).filter fun t => t.2.scrLen != 0).map fun t => (t.2.scrBase, t.2.scrLen)
  let limit := Config.scratchBytes - (s.quad (c / 4)).quadPart
  let free (o : Nat) : Bool := decide (o + n ≤ limit) && used.all fun u => decide (o + n ≤ u.1) || decide (u.1 + u.2 ≤ o)
  if n = 0 then some 0
  else pickBy (fun a b => decide (a < b)) ((0 :: used.map fun u => u.1 + u.2).filter free)

/-- Groups of a team that have not ended. -/
def Team.live (t : Team) : List (Nat × Thr) := t.groups.filter fun g => !g.2.ended

/-- The quad to which a team's placement is confined: that of its program or tap command, or the quad of its quad
set (R265, R251, R312). -/
def Team.home (t : Team) : Option Nat :=
  match t.quad, t.stage with
  | some q, _ => some q
  | none, .saved _ => if (t.groups.headD (0, Thr.idle false)).2.seg 2 >>> 32 = 0 then none else some (t.core / 4)
  | none, _ => none

/-- Whether a core belongs to a team's placement set (R290): its partition's, not taken away by a pre-emption, on the
team's die and in the quad to which it is confined. -/
def State.placeable (s : State) (t : Team) (c : Nat) : Bool :=
  let part := (s.launch t.launch).part
  (s.part part).maps.quads.contains (c / 4) && !(s.part part).vacated.contains c
    && c / 4 / Config.quadsPerDie == t.die
    && (match t.home with | some q => c / 4 == q | none => true)

/-- Bytes of a team's largest save (Tables 18.4, 18.5, 20.7): every group with all its 256 registers poisoned. (DEDUCED, log
entry 45.) -/
def Team.largestSave (t : Team) : Nat := 0x180 + t.n * (128 * ceilDiv (0x4C0 + 132 * 256) 128) + t.scrLen + 24 * t.rgq

/-- Whether the save pool of a team's die has room for it: an area is reserved from the first placement to retirement
(R314). -/
def State.saveRoom (s : State) (t : Team) : Bool :=
  let part := (s.launch t.launch).part
  let holds (x : Team) : Bool := match x.stage with | .resident => true | .draining _ => true | .saved _ => true | _ => false
  holds t ||
    decide (t.largestSave + ((s.teams.filter fun x => holds x.2 && x.2.die == t.die && (s.launch x.2.launch).part == part).map
      fun x => x.2.largestSave).sum ≤ Sparse.get 0 t.die (s.part part).savePools)

/-- Whether a team fits a core now; none is placed on a core where a tgrow waits (R341). -/
def State.fits (s : State) (t : Team) (c : Nat) : Bool :=
  let rs := s.residents c
  s.placeable t c && s.saveRoom t
    && decide (t.live.length + (s.slotsUsed c).length ≤ 16)
    && decide (t.registers ≤ (s.coreOf c).free) && (s.coreOf c).reqs.isEmpty
    && (s.hole c t.scrLen).isSome
    && decide (t.ntags + (rs.map fun r => r.2.ntags).sum ≤ Config.tags)
    && decide (t.rgq + (rs.map fun r => r.2.rgq).sum ≤ Config.regroupSlots)

/-- The fitting core with the most free registers, ties to the lower number (R287). -/
def State.bestCore (s : State) (t : Team) : Option Nat :=
  pickBy (fun a b => decide ((s.coreOf b).free < (s.coreOf a).free))
    ((List.range Config.cores).filter (s.fits t))

/-- The slot of a new group: the quarter with the fewest groups, ties to the lower; its lowest free slot (R26,
R211). -/
def pickSlot (used : List Nat) : Nat :=
  let load (q : Nat) : Nat := used.countP fun x => x / 4 == q
  let q := (pickBy (fun a b => decide (load a < load b)) [0, 1, 2, 3]).getD 0
  (((List.range 4).map fun i => 4 * q + i).find? fun x => !used.contains x).getD (4 * q)

/-- Give every live group of a team its slot, in grpid order. -/
def assignSlots : List Nat → List (Nat × Thr) → List (Nat × Thr)
  | _, [] => []
  | used, (g, th) :: r =>
    if th.ended then (g, th) :: assignSlots used r
    else
      let x := pickSlot used
      (g, { th with slot := x, lastIssue := none, starve := 0, yielded := none, pinned := 0, pinFree := false }) :: assignSlots (x :: used) r

/-- Replace BASE of a segment register. -/
def segBase (sg : BitVec 64) (b : Nat) : BitVec 64 := (sg >>> 32 <<< 32) ||| BitVec.ofNat 64 (b % 2 ^ 32)

/-- Place a team on a core (R26, R28, R287): slots, registers, the allotment with its bytes, sg0 and sg1. A team
that is placed back keeps where its segments lie within the allotment. -/
def State.placeTeam (s : State) (k c : Nat) : State :=
  let t := s.team k
  let first := t.stage = .waiting
  let base := (s.hole c t.scrLen).getD 0
  let e := (s.launch t.launch).e
  let groups := (assignSlots (s.slotsUsed c) t.groups).map fun g =>
    let sg0 := if first then base + e.coresp + 32 * e.lanesl * g.1 else (g.2.seg 0).toNat % 2 ^ 32 + base - t.scrBase
    let sg1 := if first then base else (g.2.seg 1).toNat % 2 ^ 32 + base - t.scrBase
    (g.1, { g.2 with segs := Sparse.put 1 (segBase (g.2.seg 1) sg1) (Sparse.put 0 (segBase (g.2.seg 0) sg0) g.2.segs), saved := 0, equinox := false })
  let at_ := c * Config.scratchBytes + base
  let s := if first then s else t.scratch.foldl (fun s b => if b.1 % 2 = 1 then s.addPoison .scr ((at_ + b.1 / 2) / 32) else s)
    ((s.poisonRun .scr at_ t.scrLen false).writeAt .scr 0 at_ (t.scratch.map (·.2)))
  let grows := groups.filterMap fun g => match g.2.wait with
    | some ⟨.tgrow n, _, _⟩ => some (⟨.grp k g.1, 16 * n, s.clk, g.2.slot⟩ : PoolReq)
    | _ => none
  let s := s.mapCore c fun x => { x with free := x.free - t.registers, reqs := grows.foldl (fun l r => r.insert l) x.reqs }
  { (s.setTeam k { t with stage := .resident, core := c, order := s.order, groups := groups, scrBase := base
                          scratch := [], preempt := none, area := [] }) with order := s.order + 1 }

/-! ### The distributor (R286 to R290) -/

/-- Whether the launch of a team has failed or the team has stopped (R284, R285). -/
def State.teamDead (s : State) (t : Team) : Bool := t.stopped || (s.launch t.launch).failed

/-- A saved team is ready when it awaits no page and its partition has a core for it (R315). -/
def State.readyTeam (s : State) (t : Team) : Bool :=
  match t.stage with
  | .saved _ => t.waits.isEmpty && (List.range Config.cores).any (s.placeable t)
  | _ => false

/-- The teams that must be placed back together with a saved team: its quad set (R312). -/
def State.quadSet (s : State) (k : Nat) : List Nat :=
  let t := s.team k
  match t.stage with
  | .saved _ =>
    if s.inQuadSet k then
      (s.teams.filter fun x => x.2.launch == t.launch && x.2.core / 4 == t.core / 4
        && (match x.2.stage with | .saved _ => true | .draining _ => true | _ => false)).map (·.1)
    else [k]
  | _ => [k]

/-- Place teams one after another, each on its best core; none where one of them fits no core. -/
def State.placeAll : List Nat → State → Option State
  | [], s => some s
  | k :: r, s => match s.bestCore (s.team k) with
    | some c => State.placeAll r (s.placeTeam k c)
    | none => none

/-- Whether a waiting team is considered before another (R287): class, saved teams in the order of their
swap-out, new teams in order of launch acceptance and teamid. -/
def Team.placedFirst (a b : Team) : Bool :=
  let rank (t : Team) : Nat := match t.stage with | .saved _ => 0 | _ => 1
  if a.cls ≠ b.cls then decide (a.cls < b.cls)
  else if rank a ≠ rank b then decide (rank a < rank b)
  else if rank a = 0 then decide (a.order < b.order)
  else if a.launch ≠ b.launch then decide (a.launch < b.launch)
  else decide (a.teamid < b.teamid)

/-- The teams that a die's distributor considers, in order: at most 8. -/
def State.candidates (s : State) (d : Nat) : List Nat :=
  let ws := s.teams.filter fun t => t.2.die == d && !s.teamDead t.2 && (t.2.stage == .waiting || s.readyTeam t.2)
  ((sortBy (fun a b => Team.placedFirst a.2 b.2) ws).take 8).map (·.1)

/-- Place the first candidate that fits. -/
def State.placeFirst (s : State) : List Nat → Option State
  | [] => none
  | k :: r =>
    let set := s.quadSet k
    match (if set.all fun j => s.readyTeam (s.team j) || (s.team j).stage == .waiting then State.placeAll set s else none) with
    | some s' => some s'
    | none => s.placeFirst r

/-- The owner takes a chunk from the tail of its queue for a launch of which it holds no team (R286). -/
def State.takeChunk (s : State) (d k : Nat) : State :=
  let l := s.launch k
  let mine := Sparse.get [] d l.chunks
  let holds := s.teams.any fun t => t.2.launch == k && t.2.die == d && t.2.stage == .waiting
  match mine.getLast? with
  | none => s
  | some c =>
    if holds || l.failed || !l.live then s
    else
      let s := s.mapLaunch k fun l => { l with chunks := Sparse.put d mine.dropLast l.chunks }
      (List.range (min 16 (l.e.size - 16 * c))).foldl (fun s i => s.newTeam k (16 * c + i) d none none) s

/-- Every launch's owner on a die takes its next chunk where it holds none. -/
def State.takeChunks (s : State) (d : Nat) : State := (s.launches.map (·.1)).foldl (fun s k => s.takeChunk d k) s

/-- Bytes that vacating a core saves: registers at 128 bytes and allotments (R290, R291). -/
def State.vacateBytes (s : State) (c : Nat) : Nat :=
  ((s.residents c).map fun t => 128 * t.2.registers + t.2.scrLen).sum

/-- Whether an agent is a group of a team. -/
def inTeam (k : Nat) : Agent → Bool
  | .grp j _ => j == k
  | .ctl _ => false

/-- Whether a team would fit a core once the teams `gone` have left it. -/
def State.fitsWithout (s : State) (t : Team) (c : Nat) (gone : List Nat) : Bool :=
  let s' := gone.foldl (fun (s : State) k =>
    (s.mapCore c fun x => { x with free := x.free + (s.team k).registers, reqs := x.reqs.filter fun r => !inTeam k r.a }).mapTeam k
      fun x => { x with stage := .absent }) s
  s'.fits t c

/-- The teams that must leave a core, taken from an ordered list, until a team fits. -/
def State.victims (s : State) (t : Team) (c : Nat) : List Nat → List Nat → List Nat
  | gone, [] => gone
  | gone, k :: r => if s.fitsWithout t c gone then gone else s.victims t c (gone ++ [k]) r

/-- Ask for the pre-emption of a resident team: Tq runs from now, counted in cycles of the present clock (R275); a
request under way stands. Groups in runahead thaw at once (R222). -/
def State.askPreempt (s : State) (k : Nat) : State :=
  let tq := (s.part (s.launch (s.team k).launch).part).tq.toNat
  (s.thawTeam k).mapTeam k fun t => { t with preempt := some (t.preempt.getD (s.clk + tq * s.power.clock)) }

/-- Pre-empt for a class 0 team that fits no core (R290): the core of its placement set that holds no class 0 team
and whose vacating saves the fewest bytes, its teams by class from 3 to 1 and the youngest first. -/
def State.preemptFor (s : State) (k : Nat) : State :=
  let t := s.team k
  let cores := (List.range Config.cores).filter fun c => s.placeable t c && (s.residents c).all (fun r => r.2.cls != 0)
  match pickBy (fun a b => decide (s.vacateBytes a < s.vacateBytes b)) cores with
  | none => s
  | some c =>
    let order := (sortBy (fun (a b : Nat × Team) =>
      if a.2.cls ≠ b.2.cls then decide (b.2.cls < a.2.cls) else decide (b.2.order < a.2.order)) (s.residents c)).map (·.1)
    (s.victims t c [] order).foldl State.askPreempt s

/-- DISTRIBUTOR_PLACE: at most one team, or quad set, is placed in a cycle (R287); every class 0 team that fits nowhere
causes a pre-emption (R290); owners take their next chunks. -/
def execDistributorPlace (d : Nat) (s : State) : Out :=
  let cs := s.candidates d
  let s' := match (if (s.die d).placed = s.clk + 1 then none else s.placeFirst cs) with
    | some s' => s'.mapDie d fun x => { x with placed := s.clk + 1 }
    | none => s
  let starved := cs.filter fun k =>
    (s'.team k).cls == 0 && (s'.team k).stage != .resident && (s'.bestCore (s'.team k)).isNone
  .next ((starved.foldl State.preemptFor s').takeChunks d)

/-- STEAL_REQUEST (R288, R289): a die with no unstarted chunk of a launch asks the die of the launch that has most; it
gets half of them, rounded up, from the head of the queue. The last chunk goes to an owner that reaches for it. -/
def execStealRequest (d k : Nat) (s : State) : Out :=
  let l := s.launch k
  let have_ (x : Nat) : List Nat := Sparse.get [] x l.chunks
  let others := (s.diesOf l.part).filter fun x => x != d
  if !l.live || l.failed || !(s.diesOf l.part).contains d || !(have_ d).isEmpty then .next s
  else match pickBy (fun a b => decide ((have_ b).length < (have_ a).length)) others with
    | none => .next s
    | some v =>
      let u := (have_ v).length
      let owner := !(s.teams.any fun t => t.2.launch == k && t.2.die == v && t.2.stage == .waiting)
      if u = 0 then .next s
      else if u = 1 ∧ owner then .next (s.takeChunk v k)
      else
        let n := ceilDiv u 2
        .next (s.mapLaunch k fun l =>
          { l with chunks := Sparse.put d ((have_ v).take n) (Sparse.put v ((have_ v).drop n) l.chunks) })

/-! ### The chain walker (R282) -/

/-- The walker's translation path: the table of its interface. -/
def State.walkerWho (s : State) (q : Nat) : Who := ⟨q, (s.qif q).part, 0, none⟩

/-- Whether the interface's walker may go on: a protected partition's only in RUN; none in ERROR or after a stop
(R364, R366, R372). -/
def State.walkOk (s : State) (q : Nat) : Bool :=
  let x := s.qif q
  let p := s.part x.part
  x.tdi != .error && !p.stopped && (!p.guarded || x.tdi == .run)

/-- Finished entries move DONE. -/
def advanceDone : Nat → Nat → List Nat → Nat × List Nat
  | 0, done, fin => (done, fin)
  | fuel + 1, done, fin =>
    if fin.contains (done + 1) then advanceDone fuel (done + 1) (fin.filter (· != done + 1)) else (done, fin)

/-- Entry n of an interface's chain has finished: DONE moves. -/
def State.countEntry (s : State) (q n : Nat) : State :=
  s.mapQif q fun x =>
    let r := advanceDone (x.fin.length + 1) x.done (x.fin ++ [n])
    { x with done := r.1, fin := r.2 }

/-- An entry finishes: its completion word is written and DONE moves. A word that cannot be written is lost.
(DEDUCED, log entry 47.) -/
def State.finishEntry (s : State) (q n addr status : Nat) : State :=
  let word := leBytes 8 (n % 2 ^ 48 + status % 256 * 2 ^ 48)
  (match s.writeVirt (s.walkerWho q) devWrite addr word with | .ok s' => s' | .error _ => s).countEntry q n

/-- What the walker finds at its head. -/
inductive Head where
  | idle
  | stop (s : State)
  | hole
  | entry (bs : List Byte)

/-- The entry at the head (Table 18.6): the walker stops at one it cannot read, and asks for a page that is not
resident. It reads nothing while it would see an order of an agent broken (R328, R393). -/
def State.headEntry (s : State) (q : Nat) : Head :=
  let x := s.qif q
  if !x.walking || x.head == x.tail || x.waitAt.isSome || !s.walkOk q || s.shutOut .package then .idle
  else match s.fetchBytes (s.walkerWho q) x.head 64 with
    | .ok bs => .entry bs
    | .error (.absent pte) => .stop (s.mapDie 0 fun d => d.wantFill pte x.part none none)
    | .error (.cause _ _) => .stop (s.mapQif q fun x => { x with walking := false })
    | .error .hole => .hole

/-- Process the entry at the head where its OP is one of the given ones. -/
def chainStep (q : Nat) (op : Nat → Bool) (f : List Byte → State → Out) (s : State) : Out :=
  match s.headEntry q with
  | .idle => .next s
  | .stop s' => .next s'
  | .hole => .fault .noSuchMemory
  | .entry bs => if op (wordBits bs 1 52 4) then f bs s else .next s

/-- The walker numbers the entry at its head and moves to NEXT. -/
def State.pastHead (s : State) (q : Nat) (bs : List Byte) : State :=
  s.mapQif q fun x => { x with num := x.num + 1, head := wordBits bs 1 0 52 }

/-- Queue interfaces of the device (R364). -/
def interfaceCount : Nat := 4096

/-- A transaction of the host has arrived after bring-up: the host link is up (R370, R378). -/
def State.hostUp (s : State) : State := if s.booted then { s with linkUp := true } else s

/-- Whether an interface takes a write of TAIL: a protected partition's in RUN only; in ERROR it is dropped (R364, R366). -/
def State.tailOk (s : State) (q : Nat) : Bool :=
  let x := s.qif q
  s.booted && decide (q < interfaceCount) && x.tdi != .error && (!(s.part x.part).guarded || x.tdi == .run)

/-- TAIL (R364). A walker that a kill has stopped walks on after the next PART_CONFIG (R372). -/
def execTail (q : Nat) (v : BitVec 64) (s : State) : Out :=
  let s := s.hostUp
  if s.tailOk q then .next (s.mapQif q fun x => { x with tail := v.toNat % 2 ^ 52, walking := true }) else .next s

/-- The level of a launch of the host: lane teams run at most at guest kernel level, a program at the level of its
interface (R337). -/
def launchLevel (e : Entry) (level : Nat) : Nat := if e.kind = 0 then min 1 level else level

/-- CHAIN_LAUNCH: an entry that cannot be read, breaks its layout or names a quad of another partition finishes with
the cause as its STATUS, and no team starts (R229, R282, R283). -/
def execChainLaunch (q : Nat) (s : State) : Out :=
  chainStep q (· == 0) (fun bs s =>
    let x := s.qif q
    let addr := x.head
    let n := x.num + 1
    let quads (e : Entry) : List Nat := if e.kind = 1 then [e.quad] else s.quadsOf x.part
    match s.readEntry (s.walkerWho q) (wordBits bs 2 0 52) quads (fun _ => none) with
    | .error (.absent pte) => .next (s.mapDie 0 fun d => d.wantFill pte x.part none none)
    | .error .hole => .fault .noSuchMemory
    | .error (.cause c _) => .next ((s.pastHead q bs).finishEntry q n addr c.code.toNat)
    | .ok (e, hargs) =>
      let s := s.pastHead q bs
      let l := s.launchFrom (.chain q n addr) q x.part (launchLevel e x.level) e hargs
      if e.kind = 0 then .next (s.startGrid l)
      else if !(s.part x.part).maps.quads.contains e.quad then .next (s.finishEntry q n addr Cause.perm.code.toNat)
      else .next ((s.addLaunch l).queueProgram e.quad s.nLaunch)) s

/-- CHAIN_WAIT: the walker stands at a wait entry until its condition holds. -/
def execChainWait (q : Nat) (s : State) : Out :=
  chainStep q (· == 1) (fun bs s =>
    let x := s.qif q
    .next ((s.pastHead q bs).mapQif q fun y => { y with waitAt := some (x.num + 1, x.head, wordBits bs 3 0 64) })) s

/-- WAIT_ENTRY_FINISH: every entry numbered up to ARG has finished. -/
def execWaitEntryFinish (q : Nat) (s : State) : Out :=
  match (s.qif q).waitAt with
  | some (n, addr, arg) =>
    if arg ≤ (s.qif q).done ∧ s.walkOk q then .next ((s.mapQif q fun x => { x with waitAt := none }).finishEntry q n addr 0)
    else .next s
  | none => .next s

/-- CHAIN_SIGNAL: a signal entry whose every earlier entry has finished stores its value, or finishes with the cause
of its translation; else the walker takes a signal entry from its head and goes on. -/
def execChainSignal (q : Nat) (s : State) : Out :=
  let x := s.qif q
  match (if s.walkOk q then x.signals.find? fun e => decide (e.1 ≤ x.done + 1) else none) with
  | some (n, addr, va, v) =>
    let done (s : State) (status : Nat) : State :=
      (s.mapQif q fun x => { x with signals := x.signals.filter (·.1 != n) }).finishEntry q n addr status
    match s.writeVirt (s.walkerWho q) devWrite va (leBytes 8 v.toNat) with
    | .ok s' => .next (done s' 0)
    | .error (.cause c, _) => .next (done s c.code.toNat)
    | .error (.absent pte _, _) => .next (s.mapDie 0 fun d => d.wantFill pte x.part none none)
    | .error (_, _) => .fault .noSuchMemory
  | none =>
    chainStep q (· == 2) (fun bs s =>
      let x := s.qif q
      let e := (x.num + 1, x.head, wordBits bs 2 0 52, BitVec.ofNat 64 (wordBits bs 3 0 64))
      .next ((s.pastHead q bs).mapQif q fun y => { y with signals := y.signals ++ [e] })) s

/-- CHAIN_INVALID_OP: an entry with OP 3 to 15 finishes with ILLEGAL and has no effect. -/
def execChainInvalidOp (q : Nat) (s : State) : Out :=
  chainStep q (fun o => decide (3 ≤ o)) (fun bs s =>
    let x := s.qif q
    .next ((s.pastHead q bs).finishEntry q (x.num + 1) x.head Cause.illegal.code.toNat)) s

/-! ### The end of groups, teams and launches (R19, R27, R282, R284) -/

/-- The registers that are still an agent's to write have left flight. -/
def Thr.quiet (th : Thr) : Bool := th.ops.isEmpty && th.pend.isEmpty && th.wait.isNone

/-- GROUP_END: a group whose lanes have all exited, and whose operations have completed, gives up its slot and returns
its extended chunks to the team's pool; barriers count it as arrived (R19, R197). A control-core program that has
ended leaves its core. -/
def execGroupEnd (a : Agent) (s : State) : Out :=
  let th := s.thr a
  if th.ended || th.alive != 0 || !th.ops.isEmpty then .next s
  else match a with
    | .grp t g =>
      if (match (s.team t).groups.find? (·.1 == g) with | some _ => false | none => true) then .next s
      else
        let s := s.mapThr a fun th => { th with ended := true, pend := [], ra := none, chunks := th.baseChunks }
        .next (s.mapTeam t fun x => x.settleAll.freeQueue)
    | .ctl q =>
      if (s.quad q).prog.isNone then .next s
      else .next ((s.closeProgram q).mapQuad q fun x =>
        { x with prog := none, preempt := false, ctl := { x.ctl with ended := true, pend := [] } })

/-- Whether a team may retire (R27): all its groups have ended, or it has been stopped and nothing of it is in
flight; and no engine command of it is pending. While a page of its partition drains it waits for the Harvest engine, which has
returned every page once the teams have retired (R293, R294). (DEDUCED, log entry 77.) -/
def State.mayRetire (s : State) (k : Nat) : Bool :=
  let t := s.team k
  let quietAll := t.groups.all fun g => g.2.ended || (s.teamDead t && g.2.ops.isEmpty)
  let cmds := s.cmds.any fun c => match c.a with | .grp j _ => j == k | .ctl _ => false
  let drains := s.dies.any fun d => d.2.drains.any (·.part == (s.launch t.launch).part)
  match t.stage with
  | .resident => quietAll && !cmds && (s.teamDead t || !drains)
  | .draining _ => quietAll && !cmds && (s.teamDead t || !drains)
  | .waiting => s.teamDead t
  | .saved _ => s.teamDead t
  | _ => false

/-- The bytes of a team's allotment are not kept: they become free values (R27). -/
def State.scrub (s : State) (t : Team) : State :=
  let a := t.core * Config.scratchBytes + t.scrBase
  (s.writeAt .scr 0 a ((List.range t.scrLen).map fun i => (Config.freeWord s.freeCtr (730000 + i)).setWidth 8)).poisonRun .scr a t.scrLen false

/-- A team retires: its registers return to the core, its allotment is not kept, its queue entry becomes free. -/
def State.retireTeam (s : State) (k : Nat) : State :=
  let t := s.team k
  let onCore := match t.stage with | .resident => true | .draining _ => true | _ => false
  let s := if onCore then
      (s.scrub t).mapCore t.core fun c =>
        { c with free := c.free + t.registers, reqs := c.reqs.filter (fun r => !inTeam k r.a)
                 busyWith := if c.busyWith = some k then none else c.busyWith }
    else s
  let s := match t.producer with
    | some q => s.mapQuad q fun x =>
        { x with queues := x.queues.filter (·.2 != k)
                 closed := x.closed.filter fun n => x.queues.any fun p => p.1 == n && p.2 != k }
    | none => s
  s.setTeam k { Team.absent with stage := .retired, launch := t.launch, teamid := t.teamid, die := t.die, cls := t.cls, n := t.n }

/-- Whether a launch has finished (R282). -/
def State.launchDone (s : State) (k : Nat) : Bool :=
  let l := s.launch k
  let teamsDone := l.teams.all fun t => (s.team t).stage == .retired
  l.live && (if l.e.kind = 1 then
      let x := s.quad l.e.quad
      x.prog != some k && !x.queued.contains k && (match x.spare with | some (j, _) => j != k | none => true)
    else teamsDone && (l.failed || l.chunks.all (·.2.isEmpty)))

/-- LAUNCH_FINISH: the completion word of a host launch is written, with the cause that failed it. -/
def execLaunchFinish (k : Nat) (s : State) : Out :=
  if !s.launchDone k then .next s
  else
    let l := s.launch k
    let s := s.mapLaunch k fun l => { l with live := false }
    match l.src with
    | .chain q n addr => .next (if l.mute then s.countEntry q n else s.finishEntry q n addr ((l.cause.getD 0).toNat))
    | _ => .next s

end Sys2Proof.Machine
end

