-- ==== Sys2Proof/Machine/Queue.lean ====
section
/-! DEFINITION. tlaunch, qpush and qclose (R230, R231, R265, R266). -/

namespace Sys2Proof.Machine

open Sys2Proof

/-! ### tlaunch (R265) -/

/-- Read and check the entry that a tlaunch names: a KIND 1 entry and a grid of more than 16 teams take ILLEGAL with
the first instruction word. (DEDUCED, log entry 46.) -/
def Go.launchEntry (g : Go) (s : State) : Except Stop (Entry × List (BitVec 128)) :=
  let a := s.cur
  s.readEntry { (s.who a) with core := none } ((g.uni 0).toNat % 2 ^ 52) (fun _ => [s.quadOf a])
    fun e => if e.kind ≠ 0 ∨ 16 < e.size then some g.n.word0.toNat else none

/-- tlaunch: its causes are decided at issue; the teams start, and D lands, once enough queue entries are free. A page
that is not resident stalls the program; one whose fill has failed gives STORAGE_ERR (R306, R310). -/
def tlaunchBody : Body := fun g s =>
  let th := s.thr s.cur
  match g.launchEntry s with
  | .ok (e, hargs) =>
    let ws := regWrites g.n th g.act g.alive { vals := [], tag := .G } 0
    .ok { s := s.mapThr s.cur fun th => th.sendVar g.n false 8 false (.launch e hargs ws) }
  | .error (.cause c v) => .error [g.all c (BitVec.ofNat 64 v)]
  | .error (.absent pte) =>
    if th.stErr.contains pte then .error [g.all .storageErr (g.uni 0)]
    else .ok { s := s.storageFault s.cur [pte], cancel := true }
  | .error .hole => .ok { s := s, cancel := true }

/-- The numbers of a control core's free queue entries. -/
def Quad.freeQueues (x : Quad) : List Nat :=
  (List.range Config.queueTable).filter fun n => !x.queues.any (·.1 == n)

/-- Start the teams of a tlaunch: the lowest free entries are taken, in increasing teamid; the mask of the numbers
taken. -/
def State.startTeams (s : State) (q : Nat) (e : Entry) (hargs : List (BitVec 128)) : Option (State × BitVec 64) :=
  let n := e.size
  let x := s.quad q
  let nums := x.freeQueues.take n
  if nums.length < n then none
  else
    let by_ := x.prog.getD 0
    let p := s.launch by_
    let l := s.launchFrom (.program q by_) p.qif p.part x.ctl.level e hargs
    let k := s.nTeams
    let s := (s.startSingle l q n (some q)).mapQuad q fun x =>
      { x with queues := x.queues ++ nums.zipIdx.map fun y => (y.1, k + y.2), closed := x.closed.filter fun c => !nums.contains c }
    some (s, BitVec.ofNat 64 ((nums.map fun i => 2 ^ i).sum))

/-! ### qpush and qclose (R266) -/

/-- The teams of the named queues that still stand in the queue table. -/
def Quad.named (x : Quad) (mask : BitVec 16) : List (Nat × Nat) := x.queues.filter fun p => mask.getLsbD p.1

/-- Whether a mask names a queue that this program has closed. -/
def Quad.namesClosed (x : Quad) (mask : BitVec 16) : Bool := (x.named mask).any fun p => x.closed.contains p.1

/-- qpush: a release, then a wait until every named live queue has a free entry, then one push into all of them. What the
program has met goes with the entry (R230, R332). -/
def State.tryQpush (mask : BitVec 16) (v : BitVec 32) (s : State) (a : Agent) : Try :=
  let ts := ((s.quad (s.quadOf a)).named mask).map (·.2)
  if !(s.thr a).fenced 0 then .wait
  else if ts.any fun t => (s.team t).uqOpen && decide (Config.uqEntries ≤ (s.team t).uq.length) then .wait
  else
    let view := (s.thr a).released 5
    let push (x : Team) : Team :=
      if x.uqOpen then
        { x with uq := x.uq ++ [v], uqView := x.uqView ++ [view] }
      else x
    .done (ts.foldl (fun s t => s.mapTeam t push) (s.mapThr a (Thr.passFence 2 5))) []

/-- The mask operand of qpush and qclose. -/
def Go.qmask (g : Go) : BitVec 16 := (g.uni 0).setWidth 16

/-- ILLEGAL for a closed queue, with the mask in tval. -/
def Go.closedTrap (g : Go) : Trap := g.all .illegal (g.qmask.setWidth 64)

def qpushBody : Body := fun g s =>
  let v : BitVec 32 := (g.uni 1).setWidth 32
  if (s.quad (s.quadOf s.cur)).namesClosed g.qmask then .error [g.closedTrap]
  else tryOrWait (.qpush g.qmask v) (State.tryQpush g.qmask v) g s

/-- qclose: entries already pushed stay readable. -/
def qcloseBody : Body := fun g s =>
  let q := s.quadOf s.cur
  let x := s.quad q
  if x.namesClosed g.qmask then .error [g.closedTrap]
  else
    let s' := (x.named g.qmask).foldl (fun s p => s.mapTeam p.2 fun t => { t with uqOpen := false }) s
    .ok { s := finishNow g [] (s'.mapQuad q fun x => { x with closed := x.closed ++ (x.named g.qmask).map (·.1) }) }

/-! ### The instructions -/

/-- An instruction whose own reads of memory may meet an address without memory: the machine stops there (R298,
R301). -/
def issueRead (n : Ins) (x : Extra) (hole : Go → State → Bool) (body : Body) (s : State) : Out :=
  let a := s.cur
  let s0 := s.mapThr a (Thr.landDue s.clk)
  let th := s0.thr a
  let g := readOperands n a s0
  let runs := th.ra.isNone && (earlyTrap n x th).isNone && (lateTrap n x th).isNone && g.full != 0 && g.faults.isEmpty
  if runs && hole g s0 then .fault .noSuchMemory
  else .next ((issue n x body s).mapThr a fun th => { th with stErr := [] })

def execTlaunch (c : Ctl) (p : PayA) (s : State) : Out :=
  issueRead (p.ins Rows.rowTlaunch c) {} (fun g s => match g.launchEntry s with | .error .hole => true | _ => false) tlaunchBody s
def execQpush (c : Ctl) (p : PayA) (s : State) : Out := .next (issue (p.ins Rows.rowQpush c) {} qpushBody s)
def execQclose (c : Ctl) (p : PayA) (s : State) : Out := .next (issue (p.ins Rows.rowQclose c) {} qcloseBody s)

end Sys2Proof.Machine
end

