-- ==== Sys2Proof/Machine/System.lean ====
section
/-! DEFINITION. Special registers (R350 to R352) and the privileged system instructions (R353 to R359), with the
eviction and the write-back of storage-backed pages (R308, R309, R311). -/

namespace Sys2Proof.Machine

open Sys2Proof

/-! ### Special registers (Table 22.4) -/

/-- The least level that reads a special register; none for a number that the table does not list. -/
def srdLevel (n : Nat) : Option Nat :=
  if (1 ≤ n ∧ n ≤ 0x18) then some 0
  else match n with
    | 0x40 | 0x41 | 0x45 | 0x46 => some 1
    | 0x42 | 0x43 | 0x44 => some 2
    | _ => if 0x48 ≤ n ∧ n ≤ 0x4F then some 1 else none

/-- The least level that writes a special register; none where swr may not write it. -/
def swrLevel (n : Nat) : Option Nat :=
  match n with
  | 0x0B | 0x0C | 0x0F => some 0
  | 0x43 | 0x44 => some 2
  | _ => none

/-- The level checked, and whether the number is ILLEGAL at that level and above (R350, R352). -/
def srdCheck (n : Nat) : Nat × Bool :=
  match srdLevel n with
  | some l => (l, false)
  | none => if n < 0x40 then (0, true) else (1, true)

@[inherit_doc srdCheck]
def swrCheck (n : Nat) : Nat × Bool :=
  match swrLevel n, srdLevel n with
  | some l, _ => (l, false)
  | none, some l => (l, true)
  | none, none => srdCheck n

/-- The flags of float operations in flight that have already been raised, by free choice (R73). -/
def Thr.raised (th : Thr) (ctr : Nat) : BitVec 5 :=
  th.ops.foldl (fun b o => match o.kind with
    | .result _ fl => if Config.freeBit ctr 600000 o.seq then b ||| fl else b
    | _ => b) 0

/-- The position of a team in its grid: tix, tiy, tiz (R25). -/
def gridPos (e : Entry) (id : Nat) : Nat × Nat × Nat :=
  (id % e.gdx, id / e.gdx % e.gdy, id / e.gdx / e.gdy)

/-- The value of a special register in lane l. -/
def State.special (s : State) (a : Agent) (n l : Nat) : BitVec 64 :=
  let th := s.thr a
  let e := (s.launch (s.launchOf a)).e
  let p := s.part (s.partOf a)
  let nat (x : Nat) : BitVec 64 := BitVec.ofNat 64 x
  let team (x y : Nat) : BitVec 64 := nat (if th.scalar then y else x)
  let id := (s.teamOf a).teamid
  match n with
  | 0x01 => team (groupNo a) 0
  | 0x02 => zext 32 (team id 0)
  | 0x03 => team (s.coreNo a % (4 * Config.quadsPerDie)) 0xFFFFFFFF
  | 0x04 => nat (s.quadOf a % Config.quadsPerDie)
  | 0x05 => nat (s.dieOf a)
  | 0x06 => Config.pkgid.setWidth 64
  | 0x07 => nat s.clk
  | 0x08 => (th.pcv.getD l exitedPc).setWidth 64
  | 0x09 => if th.scalar then 1 else th.present.setWidth 64
  | 0x0A => let (r, _, c, _) := s.tagBits a; r &&& lowTags c
  | 0x0B => (th.fsr ||| (th.raised s.freeCtr).setWidth 32).setWidth 64
  | 0x0C => th.wsr.setWidth 64
  | 0x0D => th.cause.setWidth 64
  | 0x0E => (th.pendBits.setWidth 64 <<< 32) ||| th.also.setWidth 64
  | 0x0F => th.epc.setWidth 64
  | 0x10 => th.tval
  | 0x11 => th.lmask.setWidth 64
  | 0x12 => team (gridPos e id).1 0
  | 0x13 => team (gridPos e id).2.1 0
  | 0x14 => team (gridPos e id).2.2 0
  | 0x15 => team e.gdx 1
  | 0x16 => team e.gdy 1
  | 0x17 => team e.gdz 1
  | 0x18 => nat e.args
  | 0x40 => nat (s.qifOf a)
  | 0x41 => nat (s.partOf a)
  | 0x42 => nat p.pool.length
  | 0x43 => p.mark.setWidth 64
  | 0x44 => p.tq.setWidth 64
  | 0x45 => bit64 s.lsync
  | 0x46 => nat th.level
  | _ => (Sparse.get (0 : BitVec 128) (n - 0x48) (s.coreOf (s.coreNo a)).cmps).setWidth 64

/-- srd (R351): tagged U, but pcv, which is G. -/
def srdBody (n : Nat) : Body := fun g s =>
  commitFixed g { vals := g.lanes fun l => s.special s.cur n l, tag := if n = 0x08 then .G else .U } s

/-- swr (R352). -/
def swrBody (n : Nat) : Body := fun g s =>
  let a := s.cur
  let v := g.uni 0
  let w : BitVec 32 := v.setWidth 32
  match n with
  | 0x0B => .ok { s := finishNow g [] (s.mapThr a fun th => { th with fsr := w &&& 0x1F1F }) }
  | 0x0C => .ok { s := finishNow g [] (s.mapThr a fun th => { th with wsr := w &&& 0x3FFE }) }
  | 0x0F =>
    if (s.thr a).handler then .ok { s := finishNow g [] (s.mapThr a fun th => { th with epc := v.setWidth 48 }) }
    else .error [g.illegal]
  | 0x43 => .ok { s := finishNow g [] (s.mapPart (s.partOf a) fun p => { p with mark := w }) }
  | _ =>
    if w.toNat = 0 ∨ 1000 < w.toNat then .error [g.illegal]
    else .ok { s := finishNow g [] (s.mapPart (s.partOf a) fun p => { p with tq := w }) }

/-! ### segset (R354) -/

/-- Whether a new segment lies in storage that the team owns. -/
def State.segOk (s : State) (a : Agent) (n : Nat) (sg : BitVec 64) : Bool :=
  let t := s.teamOf a
  let base := sg.toNat % 2 ^ 32
  match n with
  | 0 => decide (t.scrBase ≤ base) && decide (base + 32 * segLimit sg ≤ t.scrBase + t.scrLen)
  | 1 => decide (t.scrBase ≤ base) && decide (segEnd sg ≤ t.scrBase + t.scrLen)
  | 2 => decide (segEnd sg ≤ 4 * (s.quad (s.quadOf a)).quadPart)
  | _ => s.dieSpaceOk (s.partOf a) (s.dieOf a) sg

def segsetBody : Body := fun g s =>
  let n := (g.n.bits 24 2).toNat
  let sg := g.uni 0
  if !s.segOk s.cur n sg then .error [g.all .perm]
  else .ok { s := finishNow g [] (s.mapThr s.cur fun th => { th with segs := Sparse.put n sg th.segs }) }

/-! ### fpadd (R355) -/

/-- The first of a list of frames that may not join a pool of partition p. -/
def State.badFrame (s : State) (p : Option Nat) (fs : List Nat) : Option Nat :=
  fs.find? fun f => (s.frame f).owner != p || (s.frame f).maps != 0 || (s.frame f).pooled

/-- fpadd. An address that is no multiple of 64 KiB names no frame. -/
def fpaddBody : Body := fun g s =>
  let addr := (g.uni 0).toNat
  let n := (zext 32 (g.uni 1)).toNat
  if n = 0 ∨ 65536 < n then .error [g.illegal]
  else
    let fs := (List.range n).map fun i => addr / 65536 + i
    let owner := (s.frame (addr / 65536)).owner
    if addr % 65536 ≠ 0 ∨ owner.isNone then .error [g.all .perm (BitVec.ofNat 64 addr)]
    else match s.badFrame owner fs with
      | some f => .error [g.all .perm (BitVec.ofNat 64 (65536 * f))]
      | none =>
        let s := fs.foldl (fun s f => s.mapFrame f fun r => { r with pooled := true }) s
        .ok { s := finishNow g [] (s.mapPart (owner.getD 0) fun p => { p with pool := p.pool ++ fs }) }

/-! ### Storage (R308, R309, R311) -/

/-- Where page p of an extent lies on its drive. -/
def driveByte (x : ExtentArgs) (p : Nat) : Nat :=
  (x.port.toNat * 2 ^ 32 + x.nsid.toNat) * 2 ^ 80 + x.lba0.toNat * (if x.lb4k then 4096 else 512) + 65536 * p

/-- An extent of a partition. -/
def State.extentOf (s : State) (part x : Nat) : ExtentArgs := Sparse.get ExtentArgs.unused x (s.part part).extents

/-- A 32-byte sector under a storage key: number `n` counts the sectors of the extent. -/
def State.storageXts (s : State) (enc : Bool) (key n : Nat) (bs : List Byte) : List Byte :=
  if key = 0 then bs else match s.keyOf key with
    | some k => Aes.xts enc k n bs
    | none => bs

/-- Write a page of a frame back to its extent: plaintext under the page's key, encrypted under SKEY. -/
def State.writeBack (s : State) (part : Nat) (l : BitVec 128) (frame : Nat) : State :=
  let x := s.extentOf part (Leaf.xref l)
  let p := Leaf.pidx l
  let bytes := (List.range 2048).flatMap fun i =>
    s.storageXts true x.skey.toNat (p * 2048 + i) (s.sector (Leaf.key l) (frame * 2048 + i))
  { s with drive := Memory.write s.drive (driveByte x p) bytes }

/-- Read a page of an extent into a frame: decrypted under SKEY, encrypted under the page's key (R309). -/
def State.readIn (s : State) (part : Nat) (l : BitVec 128) (frame : Nat) : State :=
  let x := s.extentOf part (Leaf.xref l)
  let p := Leaf.pidx l
  (List.range 2048).foldl (fun (s : State) i =>
    (s.putSector (Leaf.key l) (frame * 2048 + i)
      (s.storageXts false x.skey.toNat (p * 2048 + i) (Memory.read s.drive (driveByte x p + 32 * i) 32))).clearPoison .mem (frame * 2048 + i)) s

/-- Return a frame to a partition's pool. -/
def State.freeFrame (s : State) (part f : Nat) : State :=
  (s.mapFrame f fun r => { r with pooled := true, maps := 0, key := none }).mapPart part fun p => { p with pool := p.pool ++ [f] }

/-! ### Operations in flight -/

/-- Whether an operation reaches a frame. -/
def VOp.reaches (o : VOp) (frame : Nat) : Bool := o.kind.elems.any fun e => e.sp = .mem && e.a / 65536 == frame

/-! ### pgev (R311, R356) -/

/-- Put a status into prepared results. -/
def withStatus (ws : List RegW) (x : Nat) : List RegW := withToken ws (BitVec.ofNat 32 x)

/-- The lowest byte of a leaf with RES set or clear. -/
def resByte (l : BitVec 128) (res : Bool) : Byte := if res then l.setWidth 8 ||| 0x40 else l.setWidth 8 &&& 0xBF

/-- One step of an eviction: it waits for a fill in flight; it clears RES and drops the page's translations; it waits
for the accesses already translated; it writes the page back, which may fail and does where its controller has not been
brought up, and frees the frame: page and frame of the leaf that it found, whatever firmware puts there meanwhile (R311). (DEDUCED, log entry 49.) -/
def State.tryEvict (va pte : Nat) (begun : Option (BitVec 128)) (ops : List (Agent × Nat)) (ws : List RegW) (s : State) (a : Agent) : Try :=
  let hold (b : Option (BitVec 128)) (os : List (Agent × Nat)) (s : State) : State :=
    s.mapThr a fun th => { th with wait := th.wait.map fun w => { w with hold := .evict va pte b os ws } }
  let part := s.partOf a
  match begun with
  | none =>
    let l := s.leafAt part pte
    if s.dies.any fun d => d.2.fills.any (·.pte == pte) then .wait
    else if !Leaf.v l || Leaf.cls l != 2 || !Leaf.res l then .done s (withStatus ws 1)
    else
      let s := s.writeTable part pte [resByte l false]
      let s := s.dropTlb fun e => e.pa == pte
      .further (hold (some l) (s.inFlight fun _ o => o.reaches (Leaf.frame l)) s)
  | some l =>
    let frame := Leaf.frame l
    if !s.landed ops then .wait
    else if Leaf.d l && !(s.extentOf part (Leaf.xref l)).ro then
      if Config.freeBit s.freeCtr 600001 pte || !s.nvme.contains (s.extentOf part (Leaf.xref l)).port.toNat then
        .done (if s.leafAt part pte = l &&& ~~~(0x40 : BitVec 128) then s.writeTable part pte [resByte l true] else s.freeFrame part frame) (withStatus ws 2)
      else .done ((s.writeBack part l frame).freeFrame part frame) (withStatus ws 0)
    else .done (s.freeFrame part frame) (withStatus ws 0)

/-- pgev: status 1 at once where the address has no class 2 leaf. -/
def pgevBody : Body := fun g s =>
  let a := s.cur
  let va := (g.uni 0).toNat
  let ws := regWrites g.n (s.thr a) g.act g.alive { vals := [], tag := .U } 0
  let none_ : Fin := { s := finishNow g (withStatus ws 1) s }
  if 2 ^ 52 ≤ va then .ok none_
  else match s.walk (s.qifOf a) va with
    | .leaf l pte =>
      if Leaf.cls l ≠ 2 then .ok none_
      else match State.tryEvict va pte none [] ws (startWait g (.evict va pte none [] ws) s) a with
        | .done _ ws' => .ok { s := finishNow g ws' s }
        | .further s' => .ok { s := s', hold := true }
        | _ => .ok { s := startWait g (.evict va pte none [] ws) s, hold := true }
    | _ => .ok none_

/-! ### tlbi (R357) -/

/-- Complete once every listed operation has been performed. -/
def State.tryDrain (ops : List (Agent × Nat)) (s : State) (_ : Agent) : Try := if s.landed ops then .done s [] else .wait

/-- tlbi of the entries that meet a condition; the accesses of the interfaces concerned must be performed. -/
def tlbiBody (drop : Go → TlbEnt → Bool) (mine : Go → Nat → Bool) : Body := fun g s =>
  let s := s.dropTlb (drop g)
  let ops := s.inFlight fun b o => mine g (s.qifOf b) && o.kind.elems.any fun e => e.sp = .mem
  tryOrWait (.drain ops) (State.tryDrain ops) g s

/-- The interface operand of tlbi. -/
def Go.qif (g : Go) : Nat := (zext 32 (g.uni 1)).toNat

/-! ### dbgset and mrst (R358, R359) -/

/-- A comparator's value without the reserved fields of Table 22.6, which read as zero (R5). -/
def comparatorValue (cw pc : BitVec 64) : BitVec 128 := (cw &&& 0xFFFF3FFF) ++ (pc &&& 0xFFFFFFFFFFFF)

def dbgsetBody : Body := fun g s =>
  let a := s.cur
  let n := (zext 32 (g.uni 0)).toNat
  let pc := g.uni 1
  let cw := g.uni 2
  if (s.thr a).level < 2 && (cw.getLsbD 12 || (cw.toNat % 4096 != s.qifOf a)) then .error [g.all .priv g.n.word0]
  else if 7 < n then .error [g.illegal]
  else .ok { s := finishNow g [] (s.mapCore (s.coreNo a) fun c => { c with cmps := Sparse.put n (comparatorValue cw pc) c.cmps }) }

def mrstBody : Body := fun g s =>
  let q := (zext 32 (g.uni 0)).toNat
  if Config.quadsPerDie ≤ q then .error [g.illegal]
  else .ok { s := finishNow g [] (s.resetMatrix (s.dieOf s.cur * Config.quadsPerDie + q)) }

/-! ### The instructions -/

def execSrd (c : Ctl) (p : PayA) (s : State) : Out :=
  let k := srdCheck p.s1.toNat
  .next (issue (p.ins Rows.rowSrd c) { lvl := some k.1, bad := k.2 } (srdBody p.s1.toNat) s)

def execSwr (c : Ctl) (p : PayA) (s : State) : Out :=
  let k := swrCheck p.s1.toNat
  .next (issue (p.ins Rows.rowSwr c) { lvl := some k.1, bad := k.2 } (swrBody p.s1.toNat) s)

def execSegset (c : Ctl) (p : PayA) (s : State) : Out := .next (issue (p.ins Rows.rowSegset c) {} segsetBody s)
def execFpadd (c : Ctl) (p : PayA) (s : State) : Out := .next (issue (p.ins Rows.rowFpadd c) {} fpaddBody s)

def execPgev (c : Ctl) (p : PayA) (s : State) : Out :=
  issueRead (p.ins Rows.rowPgev c) {}
    (fun g s => decide ((g.uni 0).toNat < 2 ^ 52) && s.walk (s.qifOf s.cur) (g.uni 0).toNat == .hole) pgevBody s

def execTlbiPage (c : Ctl) (p : PayA) (s : State) : Out :=
  .next (issue (p.ins Rows.rowTlbi c) {}
    (tlbiBody (fun g e => e.qif == g.qif && e.page == (g.uni 0).toNat / 2 ^ pageBits e.ps) (fun g q => q == g.qif)) s)
def execTlbiInterface (c : Ctl) (p : PayA) (s : State) : Out :=
  .next (issue (p.ins Rows.rowTlbi c) {} (tlbiBody (fun g e => e.qif == g.qif) (fun g q => q == g.qif)) s)
def execTlbiAll (c : Ctl) (p : PayA) (s : State) : Out :=
  .next (issue (p.ins Rows.rowTlbi c) {} (tlbiBody (fun _ _ => true) (fun _ _ => true)) s)

def execDbgset (c : Ctl) (p : PayA) (s : State) : Out := .next (issue (p.ins Rows.rowDbgset c) {} dbgsetBody s)
def execMrst (c : Ctl) (p : PayA) (s : State) : Out := .next (issue (p.ins Rows.rowMrst c) {} mrstBody s)

end Sys2Proof.Machine
end

