-- ==== Sys2Proof/Machine/Tap.lean ====
section
/-! DEFINITION. The tap engine (R243 to R253): descriptors, encodes (R88, R89, R245 to R247), row states (R248 to
R250), handler teams and their records (R251, R252), the log (R253), and the instructions tap, rowsel, rset, tapget,
wrd and wret (R262 to R264). -/

namespace Sys2Proof.Machine

open Sys2Proof

/-! ### The descriptor (Table 16.6) -/

namespace Td

def wenc (b : List Byte) : Nat := wordBits b 0 0 52
def benc (b : List Byte) : Nat := wordBits b 1 0 52
def dec (b : List Byte) : Nat := wordBits b 2 0 52
def bdec (b : List Byte) : Nat := wordBits b 3 0 52
def rtab (b : List Byte) : Nat := wordBits b 4 0 52
def rset (b : List Byte) : Nat := wordBits b 5 0 52
def state (b : List Byte) : Nat := wordBits b 6 0 52
def act (b : List Byte) : Nat := wordBits b 7 0 52
def log (b : List Byte) : Nat := wordBits b 8 0 52
def hcode (b : List Byte) : Nat := wordBits b 9 0 52
def hoff (b : List Byte) : Nat := wordBits b 10 0 32
def hgrp (b : List Byte) : Nat := wordBits b 10 32 4
def hbase (b : List Byte) : Nat := wordBits b 10 36 3
def d (b : List Byte) : Nat := wordBits b 11 0 16
def f (b : List Byte) : Nat := wordBits b 11 16 21
def k (b : List Byte) : Nat := wordBits b 11 37 7
def tapid (b : List Byte) : Nat := wordBits b 11 48 16
def nrows (b : List Byte) : Nat := wordBits b 12 0 8
def rpitch (b : List Byte) : Nat := wordBits b 12 16 32
def rtlog (b : List Byte) : Nat := wordBits b 12 48 6
def rtnew (b : List Byte) : Bool := wordBits b 12 63 1 == 1
def logcap (b : List Byte) : Nat := wordBits b 13 0 32
def htrap (b : List Byte) : Nat := wordBits b 14 0 24
def hfen (b : List Byte) : Nat := wordBits b 14 24 5
def hbmap (b : List Byte) : Nat := wordBits b 15 0 52

/-- The address of a row's state word and of its activations. -/
def stateVa (b : List Byte) (r : Nat) : Nat := state b + 4 * r
@[inherit_doc stateVa]
def rowVa (b : List Byte) (r : Nat) : Nat := act b + 2 * r * rpitch b

/-- Whether NROWS, or RPITCH, lies outside Table 16.6. -/
def rowsBad (b : List Byte) : Bool := nrows b == 0 || decide (128 < nrows b) || decide (rpitch b < d b)

end Td

/-- ST and LAYER of a state word (Table 16.8). -/
def rowSt (w : Nat) : Nat := bitsOf w 16 4
/-- Replace ST. -/
def withSt (w st : Nat) : Nat := w - 65536 * rowSt w + 65536 * st
/-- Replace LAYER. -/
def withLayer (w l : Nat) : Nat := w - w % 65536 + l

/-- The first failure of a list, or every result. -/
def mapE {α β ε : Type} (f : α → Except ε β) : List α → Except ε (List β)
  | [] => .ok []
  | a :: r => match f a with
    | .error e => .error e
    | .ok b => match mapE f r with
      | .error e => .error e
      | .ok bs => .ok (b :: bs)

/-! ### Reads and writes of the engine (R244) -/

/-- The translation path of a command of a launch on a die. -/
def State.tapWho (s : State) (die launch : Nat) : Who := ⟨(s.launch launch).qif, (s.launch launch).part, die, none⟩

/-- A read of the engine. A page whose fill has failed gives STORAGE_ERR (R310). -/
def State.tapRead (s : State) (w : Who) (va n : Nat) : Except Stop (List Byte) :=
  match s.fetchBytes w va n with
  | .error (.absent pte) => if (s.die w.die).tapStall = some (pte, true) then .error (.cause .storageErr va) else .error (.absent pte)
  | r => r

/-- A little-endian value of the engine. -/
def State.tapNat (s : State) (w : Who) (va n : Nat) : Except Stop Nat := (s.tapRead w va n).map leNat

/-- What the engine writes is noted for the control cores that see a later row state (R269). -/
def State.tapNote (s : State) (w : Who) (va n : Nat) : State :=
  match s.runs w devWrite va n with
  | .ok rs =>
    let cs := (rs.map fun r => (⟨.mem, r.1, r.2.2, s.freeCtr, s.clk, 5⟩ : Carry)).filter s.hasOlder
    if cs.isEmpty then s
    else s.mapDie w.die fun d => { d with tapView := (d.tapView.filter fun c => decide (s.clk < c.clk + Config.copyLife)) ++ cs }
  | .error _ => s

/-- A write of the engine. -/
def State.tapWrite (s : State) (w : Who) (va : Nat) (bs : List Byte) : Except Stop State :=
  match s.writeVirt w devWrite va bs with
  | .ok s' => .ok (s'.tapNote w va bs.length)
  | .error (.cause c, v) => .error (.cause c v)
  | .error (.absent pte _, v) =>
    if (s.die w.die).tapStall = some (pte, true) then .error (.cause .storageErr v) else .error (.absent pte)
  | .error _ => .error .hole

/-- Values of 16 bits. -/
def bf16s : List Byte → List (BitVec 16)
  | a :: b :: r => (b ++ a) :: bf16s r
  | _ => []

/-- Read n bf16 elements. -/
def State.tapHalves (s : State) (w : Who) (va n : Nat) : Except Stop (List (BitVec 16)) := (s.tapRead w va (2 * n)).map bf16s

/-! ### The checks of R244 -/

/-- Read one bit of the handler's header bitmap: a fault is TAPFAULT with 0x78. -/
def State.tapBit (s : State) (w : Who) (b : List Byte) (j off : Nat) : Except Stop (Option Nat) :=
  match s.tapRead w (Td.hbmap b + j / 8) 1 with
  | .ok bs => .ok (if bitAt (leNat bs) (j % 8) then none else some off)
  | .error (.cause _ _) => .ok (some 0x78)
  | .error e => .error e

/-- The size of the page at WENC. -/
def State.wencPage (s : State) (w : Who) (b : List Byte) : Nat :=
  match s.leafOf w .read (Td.wenc b) with
  | (.leaf l _, _) => 2 ^ pageBits (Leaf.ps l)
  | _ => 65536

/-- Whether a leaf maps an address as kb5 G0. -/
def State.isKb5 (s : State) (w : Who) (va : Nat) : Bool :=
  match s.leafOf w .read va with
  | (.leaf l _, _) => Leaf.fmt l == 0x0B && Leaf.geo l == 0
  | _ => false

/-- Whether every page that W_enc reaches is kb5 G0: F × d / 16 blocks of 12 bytes, as many to a page as fit. -/
def State.wencOk (s : State) (w : Who) (b : List Byte) : Bool :=
  let p := s.wencPage w b
  (List.range (max 1 (ceilDiv (Td.f b * Td.d b / 16) (p / 12)))).all fun i => s.isKb5 w (Td.wenc b + i * p)

/-- The descriptor offset of the failing field, the lowest where several fail. Where the activation range leaves the
address space the manual names no single field: a free choice of ACT and RPITCH. (DEDUCED, log entry 41.) -/
def State.tapCheck (s : State) (w : Who) (b : List Byte) : Except Stop (Option Nat) :=
  if !s.wencOk w b then .ok (some 0)
  else
    let range : Bool := decide (2 ^ 52 < Td.act b + 2 * Td.nrows b * Td.rpitch b)
    if range && Config.freeBit s.freeCtr 500000 0 then .ok (some 0x38)
    else if Td.hoff b % 8 ≠ 0 then .ok (some 0x50)
    else match s.tapBit w b (Td.hoff b / 8) 0x50, (if Td.htrap b = 0 then .ok none else s.tapBit w b (Td.htrap b) 0x70) with
      | .error e, _ => .error e
      | _, .error e => .error e
      | .ok h, .ok t =>
        if h = some 0x50 then .ok h
        else if Td.d b % 16 ≠ 0 ∨ Td.d b < 16 ∨ 16384 < Td.d b ∨ Td.f b = 0 ∨ 2 ^ 20 < Td.f b ∨ Td.k b = 0 ∨ 64 < Td.k b then .ok (some 0x58)
        else if Td.rowsBad b ∨ Td.rtlog b < 4 ∨ 20 < Td.rtlog b ∨ range then .ok (some 0x60)
        else if t = some 0x70 then .ok t
        else .ok (h.orElse fun _ => t)

/-! ### Rules (R246) -/

namespace Rt

def id (e : BitVec 128) : Nat := bitsOf e.toNat 48 16
def alw (e : BitVec 128) : Bool := e.getLsbD 43
/-- The class of a watch's handler team; bit 42 is reserved. -/
def cls (e : BitVec 128) : Nat := bitsOf e.toNat 40 2
def kind (e : BitVec 128) : Nat := bitsOf e.toNat 36 4
def feat (e : BitVec 128) : Nat := bitsOf e.toNat 16 20
def rs (e : BitVec 128) : Nat := bitsOf e.toNat 0 16
def next (e : BitVec 128) : Nat := bitsOf e.toNat 96 32
def val (e : BitVec 128) : BitVec 64 := BitVec.ofNat 64 (bitsOf e.toNat 64 32)

/-- Where the lookup of a key starts. -/
def hash (s f log : Nat) : Nat := (f * 0x9E3779B1 + s * 0x85EBCA77) % 2 ^ 32 / 2 ^ (32 - log)

end Rt

/-- A rule-table entry: the cached one, else that in memory. -/
def State.ruleAt (s : State) (w : Who) (b : List Byte) (i : Nat) : Except Stop (BitVec 128) :=
  let va := Td.rtab b + 16 * i
  match (s.die w.die).cache.find? fun e => e.1 == w.qif && e.2.1 == va with
  | some e => .ok e.2.2
  | none => (s.tapNat w va 16).map (BitVec.ofNat 128)

/-- The entries that a lookup sees, with their indices: up to one with KIND 0, or all of them. -/
def probeFrom (rd : Nat → Except Stop (BitVec 128)) (n : Nat) : Nat → Nat → Except Stop (List (Nat × BitVec 128))
  | 0, _ => .ok []
  | fuel + 1, i => match rd (i % n) with
    | .error e => .error e
    | .ok e =>
      if Rt.kind e = 0 then .ok [(i % n, e)]
      else match probeFrom rd n fuel (i + 1) with
        | .error x => .error x
        | .ok r => .ok ((i % n, e) :: r)

/-- The lookup of a key. -/
def probe (rd : Nat → Except Stop (BitVec 128)) (log s f : Nat) : Except Stop (List (Nat × BitVec 128)) :=
  probeFrom rd (2 ^ log) (2 ^ log) (Rt.hash s f log)

/-- The rules of an ALWAYS list from index + 1 `i`. -/
def alwaysFrom (rd : Nat → Except Stop (BitVec 128)) (n : Nat) : Nat → Nat → Except Stop (List (Nat × BitVec 128))
  | 0, _ => .ok []
  | fuel + 1, i =>
    if i = 0 ∨ n < i then .ok []
    else match rd (i - 1) with
      | .error e => .error e
      | .ok e => match alwaysFrom rd n fuel (Rt.next e) with
        | .error x => .error x
        | .ok r => .ok ((i - 1, e) :: r)

/-! ### Encodes (R88, R245, R247, R253) -/

/-- A finite value or infinity as an exact addend. -/
def exactOf : Fp.Val → Fp.Exact
  | .nan _ => .nan
  | .inf s => .inf s
  | .num s m e => if m = 0 then .zero s else .num s m e false

/-- One group of 16 products added to s and rounded once (R88). -/
def groupStep (s : BitVec 64) (ws ys : List Fp.Val) : BitVec 64 :=
  let t0 := Fp.Sum.empty.add (exactOf (Fp.decode Fp.f32 s)) false
  let t := (ws.zip ys).foldl (fun (t : Fp.Sum) p => let m := Fp.mulX p.1 p.2; t.add m.1 (m.2 != 0)) t0
  (Fp.pack Fp.f32 0 (t.exact 0 true).1).1

/-- pre(f) from the row's y and the 16-element blocks of row f of W_enc. -/
def preOf (blocks : List Nat) (ys : List Fp.Val) (benc : BitVec 64) : BitVec 64 :=
  let s := (blocks.zipIdx).foldl (fun s p =>
    groupStep s ((List.range 16).map fun j => Block.elem 0x0B p.1 j) ((ys.drop (16 * p.2)).take 16)) (0 : BitVec 64)
  (Fp.add Fp.f32 0 s benc).1

/-- A bf16 element as f32 bits. -/
def widen16 (x : BitVec 16) : BitVec 64 := x.setWidth 64 <<< 16

/-- What an encode of a row gives: the new row where a value has changed, the log entries, the records with the
classes of their teams, and the rule-table entries it has read. -/
structure Encoded where
  row  : Option (List Byte)
  logs : List (List Byte)
  recs : List (Nat × Rec)
  seen : List (Nat × BitVec 128)

/-- A feature's value after its rules (R247): the value, and the id of the last rule that changed it, where one did. -/
def applyRules (v : BitVec 64) (rules : List (BitVec 128)) : BitVec 64 × Option Nat :=
  let pass (k : Nat) (op : BitVec 64 → BitVec 64 → BitVec 64) (x : BitVec 64 × Option Nat) : BitVec 64 × Option Nat :=
    (rules.filter fun e => Rt.kind e = k).foldl (fun x e =>
      let v' := op x.1 (Rt.val e)
      (v', if (Fp.compare Fp.f32 1 v' x.1).1 then some (Rt.id e) else x.2)) x
  pass 3 (fun a b => (Fp.minMax Fp.f32 true a b).1)
    (pass 2 (fun a b => (Fp.minMax Fp.f32 false a b).1) (pass 1 (fun a b => (Fp.add Fp.f32 0 a b).1) (v, none)))

/-- One feature of an encode: its number, f and f′, whether it is kept, the id of the last rule that changed it, and
the watches that fire in order of RULEID. -/
structure Feat where
  i     : Nat
  f     : BitVec 64
  f'    : BitVec 64
  kept  : Bool
  last  : Option Nat
  fired : List (BitVec 128)

/-- Whether an f32 value is a NaN. -/
def nan32 (x : BitVec 64) : Bool := (Fp.decode Fp.f32 x).isNan

/-- Judge a feature by its rules; none where a VALUE or the result is a NaN (R247, R252). -/
def judge (i : Nat) (f : BitVec 64) (kept : Bool) (rules : List (BitVec 128)) : Option Feat :=
  let rs := sortBy (fun (a b : BitVec 128) => decide (Rt.id a < Rt.id b)) (rules.filter fun e => Rt.alw e || kept)
  let r := applyRules f rs
  if rs.any (fun e => nan32 (Rt.val e)) || nan32 r.1 then none
  else some { i := i, f := f, f' := r.1, kept := kept, last := r.2,
              fired := rs.filter fun e => (Rt.kind e == 4 && (Fp.compare Fp.f32 4 r.1 (Rt.val e)).1)
                || (Rt.kind e == 5 && (Fp.compare Fp.f32 2 r.1 (Rt.val e)).1) }

/-- Whether a rule has changed the feature's value. -/
def Feat.changed (x : Feat) : Bool := (Fp.compare Fp.f32 1 x.f' x.f).1

/-- Whether the feature is logged (R253). -/
def Feat.logged (x : Feat) : Bool := x.kept || (Fp.compare Fp.f32 1 x.f' 0).1

/-- The log entry of a feature. -/
def Feat.entry (x : Feat) (row tap : Nat) : List Byte :=
  let w3 := match x.fired with
    | e :: _ => 2 * 65536 + Rt.id e
    | [] => match x.last with | some i => 65536 + i | none => 0
  leBytes 4 (row + 65536 * tap) ++ leBytes 4 x.i ++ leBytes 4 x.f'.toNat ++ leBytes 4 w3

/-- The records of a feature (Table 15.8). -/
def Feat.records (x : Feat) (cmd row rs tap : Nat) : List (Nat × Rec) :=
  x.fired.map fun e =>
    (Rt.cls e, { cmd := cmd, row := row, rs := BitVec.ofNat 16 rs, tap := BitVec.ofNat 16 tap, feat := BitVec.ofNat 32 x.i,
                 val := x.f'.setWidth 32, thr := (Rt.val e).setWidth 32, rule := BitVec.ofNat 16 (Rt.id e), cause := 0x30 })

/-- The new row x′ (R89) over the changed features, each with its row of D. -/
def rebuild (x : List (BitVec 16)) (ch : List (Feat × List (BitVec 16))) : List Byte :=
  x.zipIdx.flatMap fun p =>
    let s := ch.foldl (fun s c =>
      (Fp.fma Fp.f32 0 (Fp.sub Fp.f32 0 c.1.f' c.1.f).1 (widen16 (c.2.getD p.2 0)) s).1) (widen16 p.1)
    leBytes 2 (Fp.convert Fp.f32 Fp.bf16 0 false s).1.toNat

/-- The features that the row keeps: act(f) > 0, the K largest, equal values to the lower f (R245). -/
def topK (k : Nat) (pres : List (BitVec 64)) : List (Nat × BitVec 64) :=
  let pos := (pres.zipIdx.map fun p => (p.2, p.1)).filter fun p => (Fp.compare Fp.f32 4 p.2 0).1
  (sortBy (fun (a b : Nat × BitVec 64) =>
    if a.2 = b.2 then decide (a.1 < b.1) else (Fp.compare Fp.f32 4 a.2 b.2).1) pos).take k

/-- Encode a row (R88, R245 to R247, R253). A NaN fails the row as a translation fault does (R252). -/
def State.encodeRow (s : State) (w : Who) (cmd : Nat) (b : List Byte) (row rs : Nat) (x : List (BitVec 16)) :
    Except Stop Encoded := do
  let d := Td.d b
  let bd ← s.tapHalves w (Td.bdec b) d
  let be ← s.tapRead w (Td.benc b) (4 * Td.f b)
  let P := s.wencPage w b
  let ys := (x.zip bd).map fun p => Fp.decode Fp.f32 (Fp.sub Fp.f32 0 (widen16 p.1) (widen16 p.2)).1
  let pres ← mapE (fun f => do
    let blocks ← mapE (fun g =>
      let n := f * d / 16 + g
      let va := Td.wenc b + n / (P / 12) * P + n % (P / 12) * 12
      if s.isKb5 w va then s.tapNat w va 12 else .error (.cause .perm va)) (List.range (d / 16))
    pure (preOf blocks ys (BitVec.ofNat 64 (leNat ((be.drop (4 * f)).take 4))))) (List.range (Td.f b))
  if pres.any nan32 then .error (.cause .tapfault 0)
  else
    let kept := topK (Td.k b) pres
    let rd := s.ruleAt w b
    let head ← if rs = 0 then pure [] else probe rd (Td.rtlog b) rs 0
    let first := (head.find? fun e => Rt.kind e.2 == 7 && Rt.rs e.2 == rs && Rt.feat e.2 == 0).map fun e => Rt.next e.2
    let alw ← alwaysFrom rd (2 ^ Td.rtlog b) (2 ^ Td.rtlog b) (first.getD 0)
    let feats := sortBy (fun (a c : Nat) => decide (a < c)) (setOf (kept.map (·.1) ++ alw.map fun e => Rt.feat e.2))
    let found ← mapE (fun i => do
      let seen ← if rs = 0 then pure [] else probe rd (Td.rtlog b) rs i
      pure (i, seen)) feats
    let judged := found.map fun p =>
      let act := kept.find? (·.1 == p.1)
      judge p.1 ((act.map (·.2)).getD 0) act.isSome
        ((p.2.map (·.2)).filter fun e => decide (1 ≤ Rt.kind e) && decide (Rt.kind e ≤ 5) && Rt.rs e == rs && Rt.feat e == p.1)
    if judged.any (·.isNone) then .error (.cause .tapfault 0)
    else
      let fs := judged.filterMap id
      let ch := fs.filter Feat.changed
      let rows ← mapE (fun (c : Feat) => s.tapHalves w (Td.dec b + 2 * c.i * d) d) ch
      pure { row := if ch.isEmpty then none else some (rebuild x (ch.zip rows))
             logs := (fs.filter Feat.logged).map fun c => c.entry row (Td.tapid b)
             recs := fs.flatMap fun c => c.records cmd row rs (Td.tapid b)
             seen := head ++ alw ++ found.flatMap (·.2) }

/-- Append entries to the log (R253). -/
def State.appendLog (s : State) (w : Who) (b : List Byte) (es : List (List Byte)) : Except Stop State :=
  if Td.logcap b = 0 ∨ es.isEmpty then .ok s
  else do
    let pos ← s.tapNat w (Td.log b) 8
    let s ← es.zipIdx.foldl (fun (r : Except Stop State) e => do
      let s ← r
      s.tapWrite w (Td.log b + 16 + 16 * ((pos + e.2) % Td.logcap b)) e.1) (.ok s)
    s.tapWrite w (Td.log b) (leBytes 8 (pos + es.length))

/-- Set ST of a row. -/
def State.setRow (s : State) (w : Who) (b : List Byte) (r st : Nat) : Except Stop State := do
  let x ← s.tapNat w (Td.stateVa b r) 4
  s.tapWrite w (Td.stateVa b r) (leBytes 4 (withSt x st))

/-! ### Commands and their rows -/

/-- Change a die's tap command. -/
def State.mapCmd (s : State) (die id : Nat) (f : TapCmd → TapCmd) : State :=
  s.mapDie die fun d => { d with cmds := d.cmds.map fun c => if c.id = id then f c else c }

/-- A die's tap command. -/
def State.tapCmd (s : State) (die id : Nat) : Option TapCmd := (s.die die).cmds.find? (·.id == id)

/-- The rows of a command that it no longer holds. -/
def TapCmd.release (c : TapCmd) (r : Nat) : TapCmd := { c with held := c.held.filter (·.row != r) }

/-- The record of a failed row (R252). -/
def failRec (c : TapCmd) (r rs : Nat) : Rec :=
  { cmd := c.id, row := r, rs := BitVec.ofNat 16 rs, tap := BitVec.ofNat 16 (Td.tapid c.desc), feat := 0, val := 0, thr := 0, rule := 0, cause := 0x31 }

/-- Fail a row (R252): it becomes DROPPED, once the page of its state word is resident. A state word that cannot be written
at all stays as it is. (DEDUCED, log entry 42.) -/
def State.failRow (s : State) (w : Who) (c : TapCmd) (r : Nat) : Except Stop State :=
  match s.setRow w c.desc r 3 with
  | .ok s' => .ok (s'.mapCmd w.die c.id (·.release r))
  | .error (.cause _ _) => .ok (s.mapCmd w.die c.id (·.release r))
  | .error e => .error e

/-- The row of a command. -/
def TapCmd.rowOf (c : TapCmd) (r : Nat) : TapRow := (c.rows.find? (·.row == r)).getD ⟨r, 0, none⟩

/-- What an item's service gives: its effect with the items that stand in its place, a page to be filled, or no
memory. -/
inductive Serve where
  | done (s : State) (front back : List TapItem)
  | wait (pte : Nat)
  | hole

/-- Records to be queued before the rest of a command. Where no watched row is left after them, the last of them completes
the command in the same turn, so that no answer comes before step 4 of R249. -/
def pushThen (id : Nat) (recs : List (Nat × Rec)) (rest : List TapItem) : List TapItem :=
  if rest = [.watched id []] then [.push id recs true] else .push id recs false :: rest

/-- Encode a row and make its effects, in the order of R247, R253, R249. `watched` rows are judged; a row in which
a watch fires stays HELD and its records are queued. (DEDUCED, log entry 42.) -/
def State.serveRow (s : State) (w : Who) (c : TapCmd) (r : Nat) (x : Except Stop (List (BitVec 16))) (watched : Bool)
    (rest : List TapItem) : Serve :=
  let rs := if watched then (c.rowOf r).rs else 0
  let res : Except Stop (State × List (Nat × Rec)) := do
    let xs ← x
    let e ← s.encodeRow w c.id c.desc r rs xs
    let s ← match e.row with | some bs => s.tapWrite w (Td.rowVa c.desc r) bs | none => pure s
    let s ← s.appendLog w c.desc e.logs
    let s ← if watched && e.recs.isEmpty then s.setRow w c.desc r 2 else pure s
    let s := s.mapDie w.die fun d =>
      { d with cache := d.cache ++ (e.seen.map fun q => (w.qif, Td.rtab c.desc + 16 * q.1, q.2)).filter fun q => !d.cache.contains q }
    pure (s, e.recs)
  match res with
  | .error (.absent pte) => .wait pte
  | .error .hole => .hole
  | .error (.cause _ _) => match s.failRow w c r with
    | .ok s' => .done s' (pushThen c.id [(0, failRec c r (c.rowOf r).rs)] rest) []
    | .error (.absent pte) => .wait pte
    | .error _ => .hole
  | .ok (s, recs) =>
    if !watched then .done s rest []
    else if recs.isEmpty then .done (s.mapCmd w.die c.id (·.release r)) rest []
    else
      let en : Encode := ⟨r, recs.length, 0, setOf (recs.map (·.1))⟩
      .done (s.mapCmd w.die c.id fun c => { (c.release r) with held := (c.release r).held ++ [en] }) (pushThen c.id recs rest) []

/-- The issuer's operation of a tap command completes and its flag clears (R249 step 3). -/
def State.endTap (s : State) (a : Agent) (id : Nat) : State :=
  s.mapThr a fun th => match th.ops.find? fun o => (match o.kind with | .engine j _ => j == id | _ => false) with
    | some o => th.retire o
    | none => th

/-- The issuer's operation fails: TAPFAULT is taken when its flag clears (R262). -/
def State.failTap (s : State) (a : Agent) (id tval : Nat) : State :=
  s.mapThr a fun th => { th with ops := th.ops.map fun o => match o.kind with
    | .engine j _ => if j = id then { o with kind := .fail Cause.tapfault.rank (BitVec.ofNat 64 tval) } else o
    | _ => o }

/-- Step 3 and 4 of R249: the command completes, and the rows of rule set 0 are queued. -/
def State.finishTap (s : State) (c : TapCmd) : State × List TapItem :=
  (s.endTap c.a c.id, ((c.rows.filter fun r => r.rs = 0 ∧ r.copy.isSome).map fun r => .encode c.id r.row))

/-- What acceptance reads of a selected row: its state word, rule set and elements. -/
structure RowRead where
  row : Nat
  st  : Except Stop Nat
  rs  : Except Stop Nat
  xs  : Except Stop (List (BitVec 16))

/-- Read a selected row. -/
def State.readRow (s : State) (w : Who) (b : List Byte) (r : Nat) : RowRead :=
  { row := r, st := s.tapNat w (Td.stateVa b r) 4, rs := s.tapNat w (Td.rset b + 2 * r) 2, xs := s.tapHalves w (Td.rowVa b r) (Td.d b) }

/-- What of a read of the row makes the engine wait or stop. -/
def RowRead.stops (r : RowRead) : List Stop :=
  let e {α : Type} (x : Except Stop α) : List Stop := match x with | .error e => [e] | .ok _ => []
  e r.st ++ e r.rs ++ e r.xs

/-- Whether a row is skipped: HELD, DROPPED, or a reserved state (R248). -/
def RowRead.skipped (r : RowRead) : Bool := match r.st with | .ok x => !(rowSt x == 0 || rowSt x == 2) | .error _ => false

/-- The acceptance of a command (R249 step 1). -/
def State.acceptTap (s : State) (w : Who) (c : TapCmd) (desc : Nat) (mask : BitVec 128) : Serve :=
  let fail (v : Nat) : Serve := .done (s.failTap c.a c.id v) [] []
  match s.tapRead w desc 128 with
  | .error (.absent pte) => .wait pte
  | .error .hole => .hole
  | .error (.cause _ _) => fail 0x80
  | .ok b => match s.tapCheck w b with
    | .error (.absent pte) => .wait pte
    | .error .hole => .hole
    | .error (.cause _ _) => fail 0x80
    | .ok (some v) => fail v
    | .ok none =>
      let reads := (((List.range (Td.nrows b)).filter (mask.getLsbD ·)).map (s.readRow w b)).filter fun r => !r.skipped
      let stops := reads.flatMap RowRead.stops
      match stops.findSome? (fun e => match e with | .absent p => some p | _ => none) with
      | some p => .wait p
      | none =>
        if stops.any (· == .hole) then .hole
        else
          let row (r : RowRead) : TapRow := match r.rs, r.xs with
            | .ok v, .ok xs => ⟨r.row, v, some xs⟩
            | .ok v, .error _ => ⟨r.row, v, none⟩
            | .error _, _ => ⟨r.row, 0, none⟩
          let mark (p : State × List TapRow) (r : RowRead) : State × List TapRow :=
            match r.st with
            | .ok x =>
              let v := match r.rs with | .ok v => v | .error _ => 0
              let y := withLayer (if v ≠ 0 then withSt x 1 else x) (Td.tapid b)
              (match p.1.tapWrite w (Td.stateVa b r.row) (leBytes 4 y) with
              | .ok s' => (s', p.2 ++ [row r])
              | .error _ => (p.1, p.2 ++ [⟨r.row, v, none⟩]))
            | .error _ => (p.1, p.2 ++ [⟨r.row, 0, none⟩])
          let (s, rows) := reads.foldl mark (s, [])
          let watched := rows.filter fun r => r.rs ≠ 0 ∨ r.copy.isNone
          let c := { c with desc := b, rows := rows, held := (rows.filter fun r => r.rs ≠ 0).map fun r => ⟨r.row, 0, 0, []⟩ }
          let s := s.mapDie w.die fun d =>
            { d with cmds := d.cmds ++ [c]
                     cache := if Td.rtnew b then d.cache.filter fun e =>
                         !(e.1 == w.qif && decide (Td.rtab b ≤ e.2.1) && decide (e.2.1 < Td.rtab b + 16 * 2 ^ Td.rtlog b)) else d.cache }
          if watched.isEmpty then let r := s.finishTap c; .done r.1 [] r.2
          else .done s [.watched c.id (watched.map (·.row))] []

/-! ### Handler teams (R251, R285) -/

/-- The launch entry that a command's handler teams run from. -/
def TapCmd.entry (c : TapCmd) (cls quad : Nat) : Entry :=
  let b := c.desc
  { groups := Td.hgrp b, cls := cls, kind := 0, code := Td.hcode b, ext := 0, base := Td.hbase b, hbmap := Td.hbmap b,
    fen := BitVec.ofNat 5 (Td.hfen b), args := 0, bq := 0, bd := 0, bp := 0, bo := 0, trap := Td.htrap b,
    entry := Td.hoff b / 8, quad := quad, gdx := 1, gdy := 1, gdz := 1, tags := 1, rgq := 0, lanesl := 0, coresp := 0,
    sg2 := c.sg2, sg3 := c.sg3 }

/-- The handler team of a class, launched by its first firing. (DEDUCED, log entry 43.) -/
def State.handlerTeam (s : State) (die : Nat) (c : TapCmd) (cls : Nat) : State × Nat :=
  match c.teams.find? (fun t => t.1 == cls && (s.team t.2).stage != .retired) with
  | some t => (s, t.2)
  | none =>
    let q := s.quadOf c.a
    let h0 := Hd.make (Td.act c.desc) 0 0 (Td.nrows c.desc * Td.rpitch c.desc) 2 0
    let l := s.launchFrom (.tap die c.id cls) (s.launch c.launch).qif (s.launch c.launch).part c.level (c.entry cls q) [h0]
    let k := s.nTeams
    ((s.startSingle l q 1 none).mapCmd die c.id fun c => { c with teams := c.teams.filter (·.1 != cls) ++ [(cls, k)] }, k)

/-! ### The FIFO -/

/-- Whether a command's acceptance waits: for a request that its issuer has issued before it, or for accesses that a release
has ordered before it (R196, R332). The manual says of requests only what they come after; the results of R228 rest on the other
half of this order. (DEDUCED, log entry 44.) -/
def Thr.tapWaits (place : Nat) (th : Thr) : Bool :=
  th.owes 5 place || th.ops.any fun o => decide (o.seq < place) && (match o.kind with | .tapReq .. => true | _ => false)

/-- Serve the item at the head of a die's FIFO. -/
def State.serveItem (s : State) (die : Nat) : TapItem → Serve
  | .command c desc mask n =>
    if (s.thr c.a).tapWaits n then .done s [.command c desc mask n] [] else s.acceptTap (s.tapWho die c.launch) c desc mask
  | .watched id rows => match s.tapCmd die id with
    | none => .done s [] []
    | some c =>
      let w := s.tapWho die c.launch
      match rows with
      | [] => let r := s.finishTap c; .done r.1 [] r.2
      | r :: rest => s.serveRow w c r (match (c.rowOf r).copy with | some x => .ok x | none => .error (.cause .tapfault 0)) true
          [.watched id rest]
  | .push id recs close => match s.tapCmd die id, recs with
    | some c, (cls, r) :: rest =>
      let (s', k) := s.handlerTeam die c cls
      if Config.recordQueue ≤ (s'.team k).recs.length then .done s [.push id recs close] []
      else
        let s' := s'.mapTeam k fun t => { t with recs := t.recs ++ [r] }
        if !rest.isEmpty then .done s' [.push id rest close] []
        else if close then let r := s'.finishTap c; .done r.1 [] r.2
        else .done s' [] []
    | _, _ => .done s [] []
  | .encode id r => match s.tapCmd die id with
    | none => .done s [] []
    | some c => s.serveRow (s.tapWho die c.launch) c r
        (match (c.rowOf r).copy with | some x => .ok x | none => .error (.cause .tapfault 0)) false []
  | .fate id r mode => match s.tapCmd die id with
    | none => .done s [] []
    | some c =>
      let w := s.tapWho die c.launch
      if !c.held.any (·.row == r) then .done s [] []
      else if mode = 1 then s.serveRow w c r (s.tapHalves w (Td.rowVa c.desc r) (Td.d c.desc)) true []
      else match s.setRow w c.desc r (if mode = 0 then 2 else 3) with
        | .ok s' => .done (s'.mapCmd die id (·.release r)) [] []
        | .error (.absent pte) => .wait pte
        | .error .hole => .hole
        | .error (.cause _ _) => .done (s.mapCmd die id (·.release r)) [] []

/-- Whether the tap engine of a die works for a partition, which owns it (R362). -/
def State.tapOwned (s : State) (die part : Nat) : Bool := (s.part part).maps.taps.contains die

/-- The partition for which an item of a tap FIFO stands there. -/
def State.itemPart (s : State) (die : Nat) : TapItem → Nat
  | .command c _ _ _ => (s.launch c.launch).part
  | .watched id _ | .push id _ _ | .encode id _ | .fate id _ _ => ((s.tapCmd die id).map fun c => (s.launch c.launch).part).getD 0

/-- Serve the head of the FIFO where it is of a kind, while no order of an agent would be seen broken (R328). What a partition
without the engine has queued is passed over. (DESIGN CHOICE, log entry 36.) -/
def serveHead (die : Nat) (p : TapItem → Bool) (s : State) : Out :=
  let mine (it : TapItem) : Bool := s.tapOwned die (s.itemPart die it)
  let others := (s.die die).items.filter (!mine ·)
  match (s.die die).items.filter mine with
  | [] => .next s
  | it :: rest =>
    if !p it || s.shutOut (.die die) then .next s
    else match s.serveItem die it with
      | .done s' front back =>
        .next (s'.mapDie die fun d => { d with items := front ++ rest ++ back ++ others, tapStall := none })
      | .wait pte =>
        .next (s.mapDie die fun d => { (d.wantFill pte (s.itemPart die it) none none) with tapStall := some (pte, false) })
      | .hole => .fault .noSuchMemory

/-- TAP_COMMAND_SERVE: a command is accepted, a watched row of it is encoded, records are queued, or it completes. -/
def execTapCommandServe (die : Nat) (s : State) : Out :=
  serveHead die (fun it => match it with | .command .. => true | .watched .. => true | .push .. => true | _ => false) s

/-- BACKGROUND_ENCODE: the encode of a row of rule set 0 writes the log. -/
def execBackgroundEncode (die : Nat) (s : State) : Out :=
  serveHead die (fun it => match it with | .encode .. => true | _ => false) s

/-- ROW_FATE: a row is resumed, dropped, or encoded again. -/
def execRowFate (die : Nat) (s : State) : Out :=
  serveHead die (fun it => match it with | .fate .. => true | _ => false) s

/-! ### Requests outside the FIFO (R263) -/

/-- What a request's service gives. -/
inductive Asked where
  | done (s : State) (vals : List (BitVec 64))
  | trap (rank : Nat) (tval : Nat)
  | wait (pte : Nat)
  | hole

/-- Read the state words of rows below n. -/
def State.rowWords (s : State) (w : Who) (b : List Byte) (n : Nat) : Except Stop (List Nat) :=
  mapE (fun r => s.tapNat w (Td.stateVa b r) 4) (List.range n)

/-- The mask of the rows whose word meets a condition. -/
def rowMask (p : Nat → Bool) (ws : List Nat) : Nat := (ws.zipIdx.map fun x => if p x.1 then 2 ^ x.2 else 0).sum

/-- Serve rowsel, rset or tapget. (DEDUCED, log entry 44.) -/
def State.serveReq (s : State) (w : Who) (q : TapReq) : Asked :=
  let desc := match q with | .rowsel d _ => d | .rset d _ _ => d | .tapget d _ _ => d
  let tapf (v : Nat) (e : Stop) : Asked := match e with
    | .absent pte => .wait pte
    | .hole => .hole
    | .cause _ _ => .trap Cause.tapfault.rank v
  match s.fetchBytes w desc 128 with
  | .error e => tapf 0x80 e
  | .ok b =>
    if Td.rowsBad b then .trap Cause.tapfault.rank 0x60
    else match q with
      | .rowsel _ layer => match s.rowWords w b (Td.nrows b) with
        | .error e => tapf 0x30 e
        | .ok ws =>
          let m := rowMask (fun x => x % 65536 == layer.toNat && (rowSt x == 0 || rowSt x == 2)) ws
          .done s [BitVec.ofNat 64 m, BitVec.ofNat 64 (m / 2 ^ 64)]
      | .rset _ mask word =>
        let one (r : Except Stop State) (i : Nat) : Except Stop State := do
          let s ← r
          let x ← s.tapNat w (Td.stateVa b i) 4
          if rowSt x = 1 then pure s else s.tapWrite w (Td.stateVa b i) (leBytes 4 word.toNat)
        match ((List.range (Td.nrows b)).filter (mask.getLsbD ·)).foldl one (.ok s) with
        | .ok s' => .done s' []
        | .error e => tapf 0x30 e
      | .tapget _ f row =>
        if Td.nrows b ≤ row then .trap Cause.bounds.rank row
        else match f with
          | 0 => match s.tapNat w (Td.stateVa b row) 4 with
            | .ok x => .done s [BitVec.ofNat 64 x]
            | .error e => tapf 0x30 e
          | 1 => match s.tapNat w (Td.log b) 8 with
            | .ok x => .done s [BitVec.ofNat 64 x]
            | .error (.cause c v) => .trap c.rank v
            | .error (.absent pte) => .wait pte
            | .error .hole => .hole
          | _ => match s.rowWords w b (Td.nrows b) with
            | .ok ws => .done s [BitVec.ofNat 64 (ws.countP fun x => rowSt x == 1)]
            | .error e => tapf 0x30 e

/-- Whether a tap command that the agent issued before `seq` still waits for its acceptance. -/
def Die.unaccepted (d : Die) (a : Agent) (seq : Nat) : Bool :=
  d.items.any fun it => match it with | .command c _ _ n => c.a == a && decide (n < seq) | _ => false

/-! ### tap, rowsel, rset, tapget (R262, R263) -/

/-- The handle checks of R262: the descriptor's address. -/
def Go.tapDesc (g : Go) (s : State) (lo : Nat) : Except Trap Nat :=
  let h := g.handle s lo
  if Hd.kind h ≠ 0 then .error (g.all .perm)
  else if Hd.base h % 128 ≠ 0 then .error (g.all .align (BitVec.ofNat 64 (Hd.base h)))
  else .ok (Hd.base h)

/-- tap. -/
def tapBody : Body := fun g s =>
  match g.tapDesc s 24 with
  | .error t => .error [t]
  | .ok desc =>
    let a := s.cur
    let th := s.thr a
    let id := s.cmdIds
    let c : TapCmd := { id := id, a := a, launch := s.launchOf a, desc := [], sg2 := th.seg 2, sg3 := th.seg 3, level := th.level,
                        rows := [], teams := [], held := [] }
    let s := ({ s with cmdIds := id + 1 } : State).mapDie (s.dieOf a) fun d =>
      { d with items := d.items ++ [.command c desc (g.uni 1 ++ g.uni 0) th.seq] }
    .ok { s := s.mapThr a fun th => th.sendVar g.n false 8 false (.engine id []) }

/-- Send a request of R263. -/
def askBody (lo : Nat) (req : Go → Nat → TapReq) (count : Nat) : Body := fun g s =>
  match g.tapDesc s lo with
  | .error t => .error [t]
  | .ok desc =>
    let ws := manyWrites g (s.thr s.cur) g.act .G (List.replicate count ([], 0))
    .ok { s := s.mapThr s.cur fun th => th.sendVar g.n true 5 false (.tapReq (req g desc) ws) }

def rowselBody : Body := askBody 12 (fun g d => .rowsel d ((g.uni 0).setWidth 16)) 2
def rsetBody : Body := askBody 24 (fun g d => .rset d (g.uni 2 ++ g.uni 1) ((g.uni 0).setWidth 32)) 0
def tapgetBody : Body := askBody 12 (fun g d => .tapget d (g.n.bits 0 2).toNat (g.uni 0).toNat) 1

/-! ### wrd and wret (R251, R264) -/

/-- The handler launch of an agent: die, command and class. -/
def State.handlerOf (s : State) (a : Agent) : Option (Nat × Nat × Nat) :=
  match a, (s.launch (s.launchOf a)).src with
  | .grp _ _, .tap die cmd cls => some (die, cmd, cls)
  | _, _ => none

/-- The 8 words of a record (Table 15.8). -/
def Rec.words (r : Rec) : List (BitVec 32) :=
  [BitVec.ofNat 32 r.row, r.rs.setWidth 32, r.tap.setWidth 32, r.feat, r.val, r.thr, r.rule.setWidth 32, r.cause]

/-- wrd: it joins the team's readers. -/
def wrdBody : Body := fun g s =>
  let a := s.cur
  match a with
  | .ctl _ => .error [g.illegal]
  | .grp t k =>
    let ws := manyWrites g (s.thr a) g.act .U (List.replicate 8 ([], 0))
    let s := s.mapTeam t fun x => { x with readers := x.readers ++ [k] }
    .ok { s := s.mapThr a fun th => th.sendVar g.n false 8 false (.record (g.n.fld .d).toNat ws) }

/-- The record that the first reader of a team gets: none while it waits (R251). -/
def State.nextRec (s : State) (t : Nat) (die cmd : Nat) : Option (Option Rec) :=
  match (s.team t).recs with
  | r :: _ => some (some r)
  | [] =>
    let held := match s.tapCmd die cmd with | some c => !c.held.isEmpty | none => false
    let queued := (s.die die).items.any fun it => match it with
      | .watched id _ | .push id _ _ | .encode id _ | .fate id _ _ => id == cmd
      | .command .. => false
    if held || queued then none else some none

/-- Record an answer; once the last record of a row's encode is answered, its fate is queued (R251). The record of a
failed row decides nothing (R252). -/
def State.answer (s : State) (die : Nat) (r : Rec) (mode : Nat) : State :=
  if r.cause = 0x31 then s
  else match s.tapCmd die r.cmd with
    | none => s
    | some c => match c.held.find? (·.row == r.row) with
      | none => s
      | some e =>
        let e' := { e with left := e.left - 1, best := if mode = 2 ∨ e.best = 2 then 2 else max mode e.best }
        let s := s.mapCmd die r.cmd fun c => { c with held := c.held.map fun x => if x.row = r.row then e' else x }
        if e'.left = 0 then s.mapDie die fun d => { d with items := d.items ++ [.fate r.cmd r.row e'.best] } else s

/-- wret, once every earlier access of the group has been performed: it answers the record that the group has read last
of those that are unanswered. It is a release at .die: what the group has met goes to those who see a later row state (R269,
R332). -/
def State.tryWret (mode : Nat) (s : State) (a : Agent) : Try :=
  if !(s.thr a).fenced 0 then .wait
  else match (s.thr a).recs.getLast?, s.handlerOf a with
    | some r, some (die, _, _) =>
      let s := (s.mapDie die fun d => { d with tapView := d.tapView ++ (s.thr a).released 5 }).mapThr a (Thr.passFence 2 5)
      .done ((s.mapThr a fun th => { th with recs := th.recs.dropLast }).answer die r mode) []
    | _, _ => .done s []

/-- wret. -/
def wretBody : Body := fun g s =>
  let mode := (zext 32 (g.uni 0)).toNat
  if 2 < mode then .error [g.all .illegal (BitVec.ofNat 64 mode)]
  else if (s.thr s.cur).recs.isEmpty then .error [g.illegal]
  else tryOrWait (.wret mode) (State.tryWret mode) g s

/-! ### TEAM_RETIRE (R27, R252) -/

/-- The rows that a retiring handler team serves and that are HELD become DROPPED, each with a log entry of event 3. -/
def State.dropServed (s : State) (die cmd cls : Nat) : Except Stop State :=
  match s.tapCmd die cmd with
  | none => .ok s
  | some c =>
    let w := s.tapWho die c.launch
    let rows := (c.held.filter fun e => e.clss.contains cls).map (·.row)
    rows.foldl (fun (r : Except Stop State) row =>
      match r with
      | .error e => .error e
      | .ok s =>
        let one : Except Stop State := do
          let s ← s.appendLog w c.desc [leBytes 4 (row + 65536 * Td.tapid c.desc) ++ leBytes 4 0xFFFFFFFF ++ leBytes 4 0 ++ leBytes 4 (3 * 65536)]
          s.setRow w c.desc row 3
        match one with
        | .ok s' => .ok (s'.mapCmd die cmd (·.release row))
        | .error (.cause _ _) => s.failRow w c row
        | .error e => .error e) (.ok s)

/-- TEAM_RETIRE. -/
def execTeamRetire (k : Nat) (s : State) : Out :=
  if !s.mayRetire k then .next s
  else match (s.launch (s.team k).launch).src with
    | .tap die cmd cls => match s.dropServed die cmd cls with
      | .ok s' => .next (s'.retireTeam k)
      | .error (.absent pte) => .next (s.mapDie die fun d => d.wantFill pte (s.launch (s.team k).launch).part none none)
      | .error _ => .fault .noSuchMemory
    | _ => .next (s.retireTeam k)

/-! ### The instructions -/

def execTap (c : Ctl) (p : PayA) (s : State) : Out := .next (issue (p.ins Rows.rowTap c) {} tapBody s)
def execRowsel (c : Ctl) (p : PayA) (s : State) : Out := .next (issue (p.ins Rows.rowRowsel c) {} rowselBody s)
def execRset (c : Ctl) (p : PayA) (s : State) : Out := .next (issue (p.ins Rows.rowRset c) {} rsetBody s)

def execTapget (c : Ctl) (p : PayA) (s : State) : Out :=
  let n := p.ins Rows.rowTapget c
  .next (issue n { bad := (n.bits 0 2) == (3 : BitVec 2) } tapgetBody s)

def execWrd (c : Ctl) (p : PayA) (s : State) : Out :=
  .next (issue (p.ins Rows.rowWrd c) { bad := (s.handlerOf s.cur).isNone } wrdBody s)
def execWret (c : Ctl) (p : PayA) (s : State) : Out :=
  .next (issue (p.ins Rows.rowWret c) { bad := (s.handlerOf s.cur).isNone } wretBody s)

end Sys2Proof.Machine
end

