-- ==== Sys2Proof/Machine/Sched.lean ====
section
/-! DEFINITION. What stands at a thread's issue address (R17, R22, R24, R297), when it is eligible (Table 14.1), and
what the issue slot of a quarter or of a control core does (R57, R111, R212, R229, R358, R373). -/

namespace Sys2Proof.Machine

open Sys2Proof

/-! ### Headers and blocks (R22, R23, Table 4.9) -/

namespace Hdr

def len (w : Nat) : Nat := bitsOf w 52 12
def live (w : Nat) : BitVec 16 := BitVec.ofNat 16 (bitsOf w 36 16)
def reconv (w : Nat) : BitVec 20 := BitVec.ofNat 20 (bitsOf w 16 20)
def resv (w : Nat) : Bool := bitsOf w 3 8 != 0
def hdl (w : Nat) : Bool := bitAt w 2
def ra (w : Nat) : Bool := bitAt w 1
def eq (w : Nat) : Bool := bitAt w 0

end Hdr

/-- The nearest header below an address, within `fuel` words. -/
def State.headerBelow (s : State) (a : Agent) : Nat → Nat → Option Nat
  | 0, _ => none
  | fuel + 1, pc => if s.headerBit a (pc - 8) then some (pc - 8) else s.headerBelow a fuel (pc - 8)

/-- How many words below an issue address may hold the header of its block: a block has at most 4,095 words. -/
def State.blockReach (s : State) (a : Agent) (pc : Nat) : Nat := min 4095 ((pc - (s.launch (s.launchOf a)).e.code) / 8)

/-- The nearest header below an issue address of an agent. -/
def State.blockHeader (s : State) (a : Agent) (pc : Nat) : Option Nat := s.headerBelow a (s.blockReach a pc) pc

/-- What a fetch of n bytes gives: a value, a cause with its tval, a page that is not resident, or an address where
no memory is. A page whose fill has failed gives STORAGE_ERR (R310), a poisoned code word POISON with its address (R371). -/
inductive Fetched where
  | ok (x : Nat)
  | trap (c : Cause) (tval : Nat)
  | absent (pte : Nat)
  | hole
  deriving DecidableEq, Repr

def State.fetchNat (s : State) (a : Agent) (pc n : Nat) : Fetched :=
  match s.readVirt (s.who a) ⟨.fetch, 0, 0, false⟩ pc n with
  | .ok bs p => if p then .trap .poison pc else .ok (leNat bs)
  | .cause c v => .trap c v
  | .absent pte _ => if (s.thr a).stErr.contains pte then .trap .storageErr pc else .absent pte
  | .hole => .hole

/-! ### What stands at the issue address -/

/-- An instruction at an issue address: decoded, or what takes ILLEGAL there (R64, R196, R357). -/
inductive Code where
  | instr (i : Instr)
  | undefined
  | badKind
  deriving DecidableEq, Repr

/-- What stands at a thread's issue address. -/
inductive Due where
  | gone
  | header
  | word
  | fault (c : Cause) (tval : Nat)
  | absent (pte : Nat)
  | hole
  | code (n : Ins) (w : Code)
  deriving DecidableEq, Repr

/-- Words that decode to nothing, with a row for what the issue path reads of them. -/
def badWord (w : BitVec 64) : DecErr → Ins × Code
  | .fenceKind c p => (p.ins Rows.rowFence c, .badKind)
  | .tlbiKind c p => (p.ins Rows.rowTlbi c, .badKind)
  | _ => (⟨Decode.ctl w, { Rows.rowNop with opc := Decode.opc w }, Decode.pay w, none⟩, .undefined)

/-- The instruction of a first word and, where one is called for, a second. -/
def wordsAt (w : BitVec 64) (w1 : Option (BitVec 64)) : Due :=
  match Decode.instr w w1 with
  | .ok i => match insOf i with
    | some n => .code n (.instr i)
    | none => .gone
  | .error e => let b := badWord w e; .code b.1 b.2

/-- Fetch and decode at an address inside a block. A fault of the second word is one of the instruction's fetch (R297); a poisoned
second word is reported with its own address (R371). -/
def State.decodeAt (s : State) (a : Agent) (pc : Nat) : Due :=
  match s.fetchNat a pc 8 with
  | .trap c v => .fault c v
  | .absent p => .absent p
  | .hole => .hole
  | .ok x =>
    let w := BitVec.ofNat 64 x
    if Decode.needsSecond w then
      match s.fetchNat a (pc + 8) 8 with
      | .trap c _ => .fault c (if c = .poison then pc + 8 else pc)
      | .absent p => .absent p
      | .hole => .hole
      | .ok y => wordsAt w (some (BitVec.ofNat 64 y))
    else wordsAt w none

/-- A page of the header bitmap that is not resident, or whose fill has failed (R305, R310). -/
def State.bitmapMiss (s : State) (a : Agent) (pc pte : Nat) : Due :=
  if (s.thr a).stErr.contains pte then .fault .storageErr pc else .absent pte

/-- What stands at an agent's issue address (R17, R22). A header of its block that cannot be fetched faults as a fetch of that word
(R297, R310, R371). -/
def State.atIssue (s : State) (a : Agent) : Due :=
  let th := s.thr a
  let pc := th.issueAddr.toNat
  if th.alive = 0 then .gone
  else match s.headerAbsent a pc with
    | some p => s.bitmapMiss a pc p
    | none =>
      if s.headerBit a pc then .header
      else match s.blockHeader a pc with
        | none => match s.headerAbsent a (pc - 8 * s.blockReach a pc) with
          | some p => s.bitmapMiss a pc p
          | none => .word
        | some h => match s.fetchNat a h 8 with
          | .ok x => if pc ≤ h + 8 * Hdr.len x then s.decodeAt a pc else .word
          | .absent p => .absent p
          | .hole => .hole
          | .trap c v => .fault c v

/-! ### Eligibility (Table 14.1) -/

/-- Whether a team's groups may issue: it stands on its core, and neither it nor its launch has stopped. -/
def State.teamRuns (s : State) (t : Nat) : Bool := (s.team t).stage == .resident && !s.teamDead (s.team t)

/-- Whether an agent may issue as far as residency and saves go (R19, R28, R276, R281, R306): under pre-emption not at
an Equinox point, and no longer than Tq; a control-core program not once its pre-emption has been requested. -/
def State.standing (s : State) (a : Agent) : Bool :=
  let th := s.thr a
  !th.ended && th.alive != 0 && th.saved == 0 &&
  match a with
  | .grp t _ => s.teamRuns t && (match (s.team t).preempt with | some d => !th.equinox && decide (s.clk < d) | none => true)
  | .ctl q => (s.quad q).prog.isSome && !(s.quad q).preempt && !(s.die (q / Config.quadsPerDie)).fills.any (·.ctls.contains q)

/-- The flags that an instruction names under WAIT or SETF. -/
def Ins.needs (n : Ins) : BitVec 12 := n.c.wait ||| (match n.flag with | some f => 1#12 <<< f | none => 0)

/-- The conditions of Table 14.1 in its order, a matrix engine's full queue (R255), and strong accesses that a check of a
view must follow (R322). -/
inductive Why where
  | residency | blocking | spacing | flags | queue | handle | tag | regrouping | raEnded | engine | view
  deriving DecidableEq, Repr

/-- Spacing (R42): after an issue DIST cycles and at least one; after launch, trap entry, tret and placement every
fixed-latency write has landed. -/
def Thr.spaced (th : Thr) (clk : Nat) (n : Ins) : Bool :=
  match th.lastIssue with
  | some c => decide (c + max n.c.dist.toNat 1 ≤ clk)
  | none => th.pend.all fun p => decide (p.due ≤ clk)

/-- Queue (R38). -/
def State.queueWaits (s : State) (a : Agent) (n : Ins) : Bool :=
  match a with
  | .ctl _ => false
  | .grp t _ => n.readsUq (s.thr a).scalar && (s.uqNext a).isNone && (s.team t).uqOpen

/-- Whether rgput, or rgget by its own bin, has what it needs (R186, R187). -/
def State.binReady (s : State) (a : Agent) (n : Ins) (others : Bool) : Bool :=
  match a with
  | .ctl _ => true
  | .grp t _ =>
    let x := s.team t
    if x.rgq = 0 then true
    else match n.row.opc.toNat with
      | 0x5A => decide (x.binned + (lanesOf (readOperands n a s).full).length ≤ x.rgq)
      | 0x5B => (n.bits 4 1) == (1 : BitVec 1) || decide (32 ≤ (x.bin (n.bits 2 2).toNat).length) || others
      | _ => true

/-- The conditions of Table 14.1 before the regrouping one, for a group in normal mode. -/
def State.clearApart (s : State) (a : Agent) (n : Ins) : Bool :=
  let th := s.thr a
  s.standing a && th.wait.isNone && th.ra.isNone && th.spaced s.clk n && th.busy &&& Ins.needs n == 0 && !s.queueWaits a n
    && !n.handleNames.any (th.handlesPending.contains ·)

/-- Regrouping (R186, R187). An rgget with DR = 0 on a bin of fewer than 32 entries waits until every other group
has ended or stands at an rgget that is not eligible; of several ready on one bin the lowest issues first. -/
def State.regroupReady (s : State) (a : Agent) (n : Ins) : Bool :=
  match a with
  | .ctl _ => true
  | .grp t g =>
    if n.row.opc ≠ 0x5B then s.binReady a n false
    else
      let bin := n.bits 2 2
      let at_ (k : Nat) : Option Ins := match s.atIssue (.grp t k) with
        | .code m _ => if m.row.opc = 0x5B ∧ (s.thr (.grp t k)).wait.isNone ∧ (s.thr (.grp t k)).ra.isNone then some m else none
        | _ => none
      let ready (k : Nat) (m : Ins) (others : Bool) : Bool := s.clearApart (.grp t k) m && s.binReady (.grp t k) m others
      let alone (k : Nat) : Bool := (s.team t).groups.all fun x =>
        x.1 == k || x.2.ended || (match at_ x.1 with | some m => !ready x.1 m false | none => false)
      let first := (s.team t).groups.all fun x => decide (g ≤ x.1) || (match at_ x.1 with
        | some m => m.bits 2 2 != bin || !ready x.1 m (alone x.1)
        | none => true)
      s.binReady a n (alone g) && first

/-- Whether a matrix command may enter its engine's queue (R255, R256). -/
def State.engineRoom (s : State) (a : Agent) (n : Ins) : Bool :=
  let o := n.row.opc.toNat
  if o < 0xC0 ∨ 0xC6 < o ∨ o = 0xC5 then true
  else decide (((s.quad (s.quadOf a)).mq.countP fun c => match c.op with | .mfeed .. => false | _ => true) < Config.matrixQueue)

/-- Whether an instruction changes, checks or reads a view. -/
def Thr.checksView (th : Thr) (n : Ins) : Bool :=
  let o := n.row.opc.toNat
  (decide (0xA0 ≤ o) && decide (o ≤ 0xA4)) || (o != 0x8A && o != 0x8B && n.handleUses.any fun h => Hd.kind (th.hreg h).v == 1)

/-- Whether accesses are in flight that must be performed before a view is checked, as strong loads at .pkg are, or
changed, as strong stores are (R322, R328, R348). The check is made at issue, so the instruction waits for them. (DEDUCED, log entry
70.) -/
def Thr.viewWaits (th : Thr) (n : Ins) : Bool :=
  let change : Bool := decide (n.row.opc.toNat ≤ 0xA3)
  th.checksView n &&
    ((th.ops.any fun e => decide (2 ≤ e.strongIn) && (e.kind.exchanges || e.kind.elems.any (·.sp = .mem)))
      || th.fences.any fun f => decide (2 ≤ f.2.2) && (f.2.1 != 2 || change)
        && th.ops.any fun e => decide (e.seq < f.1) && (e.kind.reads || (f.2.1 != 1 && e.kind.writes)))

/-- The handle registers that an instruction issued before runahead will write at a fixed latency (R141, R221). -/
def Ckpt.handlesPending (c : Ckpt) : List Nat :=
  c.pend.flatMap fun p => p.ws.filterMap fun w => match w.tgt with | .h n => some n | _ => none

/-- The first condition that keeps an instruction of an agent from issuing. In runahead only spacing and the handle
interlock do (R141, R217, R218). -/
def State.why (s : State) (a : Agent) (n : Ins) : Option Why :=
  let th := s.thr a
  if !s.standing a then some .residency
  else if th.wait.isSome then some .blocking
  else if !th.spaced s.clk n then some .spacing
  else match th.ra with
    | some c =>
      if c.ended then some .raEnded
      else if n.handleNames.any (c.handlesPending.contains ·) then some .handle
      else none
    | none =>
      if th.busy &&& Ins.needs n ≠ 0 then some .flags
      else if s.queueWaits a n then some .queue
      else if n.handleNames.any (th.handlesPending.contains ·) then some .handle
      else if (match Ins.engineTag n with | some t => s.tagPending a t | none => false) then some .tag
      else if !s.regroupReady a n then some .regrouping
      else if !s.engineRoom a n then some .engine
      else if th.viewWaits n then some .view
      else none

/-! ### Runahead entry (R215, R216) -/

/-- The registers of a checkpoint: those that operations in flight will write, and held registers of a chunk that is live or in
which the group has written since the header of the block that holds the instruction (Table 14.3, R207). (DEDUCED, log entry 60.) -/
def Thr.ckptRegs (th : Thr) : List (Nat × Bool) :=
  let coming := th.ops.flatMap fun o => o.kind.results.filterMap fun w => match w.tgt with | .v p => some p | _ => none
  let kept (p : Nat) : Bool := match th.block with | some b => b.live.getLsbD (p / 16) || b.wrote.any (· / 16 = p / 16) | none => true
  (List.range 248).filterMap fun p =>
    if coming.contains p then some (p, true)
    else if decide (p / 16 < th.chunks) && kept p then some (p, false)
    else none

/-- The pages of 1 KiB that a checkpoint takes (Table 14.3). A G register counts 32 words: Table 3.3 gives no scheme of its base and
deltas by which fewer would do. (DESIGN CHOICE, log entry 60.) -/
def Thr.ckptPages (th : Thr) : Nat :=
  ceilDiv (256 + (th.ckptRegs.map fun r =>
    if r.2 then 128 else match (th.vreg r.1).tag with | .U => 4 | .A .. => 8 | .G => 128).sum) 1024

/-- Whether an agent enters runahead at an instruction (R215). -/
def State.entersRunahead (s : State) (a : Agent) (n : Ins) : Bool :=
  let th := s.thr a
  let used := ((s.residents (s.coreNo a)).flatMap fun t => t.2.groups.filterMap fun g => g.2.ra).map (·.pages)
  !th.scalar && th.ra.isNone && !th.handler && (th.block.map (·.ra)).getD false && th.lost.isNone && s.standing a && th.wait.isNone
    && th.busy &&& th.long &&& Ins.needs n != 0 && !n.readsLatch false
    && !s.queueWaits a n && !n.handleNames.any (th.handlesPending.contains ·)
    && !(match Ins.engineTag n with | some t => s.tagPending a t | none => false) && s.regroupReady a n
    && decide (used.length < Config.ckptSlots) && decide (used.sum + th.ckptPages ≤ Config.ckptPages)

/-! ### What happens before a slot is given (R18, R57, R215, R219, R220) -/

/-- Whether the flags that a runahead group's waiting instruction names are all clear (R220). -/
def Thr.thawDue (th : Thr) : Bool := match th.ra with | some c => th.busy &&& c.need == 0 | none => false

/-- What an agent does without using an issue slot: a device step, or a cause taken where it stands. -/
inductive Upkeep where
  | step (i : Instr)
  | state (s : State)
  | hole

/-- Take a cause that has no instruction (R22, R274, R297): at a word ILLEGAL stops a handler's team, a fetch that
faults in a handler is held pending and its lanes step on by a word. The tval of ILLEGAL at a word or header is its address,
also for a header with HDL set in normal mode (R24). (DEDUCED, log entry 24.) -/
def State.fetchTrap (s : State) (a : Agent) (c : Cause) (tval : Nat) : State :=
  let t : Trap := { cause := c, lmask := (s.thr a).present, tval := BitVec.ofNat 64 tval }
  (s.takeTrap a 1 false t).mapThr a fun th => { th with stErr := [] }

@[inherit_doc State.fetchTrap]
def State.wordTrap (s : State) (a : Agent) : State :=
  let th := s.thr a
  s.takeCause a { cause := .illegal, lmask := th.present, tval := th.issueAddr.setWidth 64 }

/-- End runahead early (R219). -/
def State.endRunahead (s : State) (a : Agent) : State :=
  s.mapThr a fun th => { th with ra := th.ra.map fun c => { c with ended := true } }

/-- A word that cannot be fetched may continue the chain in which the group stands: what that needs is kept until the word is there
(R58, R313). -/
def Thr.keepOpen (th : Thr) : Thr := { th with reopen := th.chain.filter fun c => !c.last }

/-- The word that could not be fetched is there: where it reads a latch, the group returns to the head of its chain (R58, R313).
(DEDUCED, log entry 23.) -/
def Thr.closeOpen (reads : Bool) (th : Thr) : Thr :=
  { (if reads then ({ th with chain := th.reopen } : Thr).unwind else th) with reopen := none }

/-- The upkeep that an agent needs before it can be considered. -/
def State.upkeep (s : State) (a : Agent) : Option Upkeep :=
  let th := s.thr a
  if !s.standing a then none
  else if th.thawDue || (th.ra.isSome && th.lost.isSome) then some (.step (.thaw a))
  else if (match th.ra with | some c => !c.ended && decide (Config.runaheadLimit ≤ c.count) | none => false) then some (.step (.runaheadLimit a))
  else if (match th.ra with | some c => c.ended | none => false) || th.wait.isSome then none
  else match s.atIssue a with
    | .gone => none
    | .header => some (.step .headerPass)
    | .hole => some .hole
    | .word => some (.state (if th.ra.isSome then s.endRunahead a else s.wordTrap a))
    | .fault c v => some (.state (if th.ra.isSome then s.endRunahead a else s.fetchTrap a c v))
    | .absent p => some (.state (if th.ra.isSome then s.endRunahead a
        else (match a with | .grp .. => s.mapThr a Thr.keepOpen | .ctl _ => s).storageFault a [p]))
    | .code n _ => if th.ra.isNone && th.reopen.isSome then some (.state (s.mapThr a (Thr.closeOpen (n.readsLatch th.scalar))))
      else if s.entersRunahead a n then some (.step (.runaheadEntry a)) else none

/-! ### The pick (R57, R111, R212) -/

/-- What a turn comes to: a state, an instruction or step to execute in a state, or a place without memory. -/
inductive Given where
  | next (s : State)
  | exec (i : Instr) (s : State)
  | hole

/-- The agents in the slots of a quarter, in slot order. -/
def State.quarterGroups (s : State) (core q : Nat) : List (Nat × Agent) :=
  sortBy (fun a b => decide (a.1 < b.1)) ((s.residents core).flatMap fun t =>
    (t.2.groups.filter fun g => !g.2.ended && g.2.slot / 4 == q).map fun g => (g.2.slot % 4, Agent.grp t.1 g.1))

/-- The class of an agent in the pick: that of its team, 4 in runahead. -/
def State.pickClass (s : State) (a : Agent) : Nat :=
  match a with
  | .grp t _ => if (s.thr a).ra.isSome then 4 else (s.team t).cls
  | .ctl _ => 0

/-- The round robin of a class: the first agent in slot order after the last pick, wrapping. -/
def roundRobin (last : Option Nat) (l : List (Nat × Agent)) : Option (Nat × Agent) :=
  match last with
  | none => l.head?
  | some k => match l.find? fun x => decide (k < x.1) with
    | some x => some x
    | none => l.head?

/-- Steps 3 and 4 of R212 over a list of agents. -/
def State.byClass (s : State) (core q : Nat) (l : List (Nat × Agent)) : Option (Nat × Agent) :=
  let cls := l.foldl (fun m x => min m (s.pickClass x.2)) 4
  let last := ((s.coreOf core).picks.find? (·.1 == 5 * q + cls)).map (·.2)
  roundRobin last (l.filter fun x => s.pickClass x.2 == cls)

/-- The starved agent that step 2 picks. -/
def State.starved (s : State) (l : List (Nat × Agent)) : Option (Nat × Agent) :=
  pickBy (fun a b => decide ((s.thr b.2).starve < (s.thr a.2).starve))
    (l.filter fun x => (s.thr x.2).ra.isNone && decide (Config.starveLimit ≤ (s.thr x.2).starve))

/-- The instruction at an agent's issue address. -/
def State.insAt (s : State) (a : Agent) : Option (Ins × Code) :=
  match s.atIssue a with
  | .code n w => some (n, w)
  | _ => none

/-- Why an agent cannot issue now: none where it is eligible. -/
def State.agentWhy (s : State) (a : Agent) : Option Why :=
  if !s.standing a then some .residency
  else if (s.thr a).wait.isSome then some .blocking
  else match s.insAt a with
    | some (n, _) => s.why a n
    | none => some .residency

/-- Whether an agent pins its quarter (R57): its next instruction reads a latch, and it is not in runahead.
(DEDUCED, log entry 23.) -/
def State.pins (s : State) (a : Agent) : Bool :=
  let th := s.thr a
  th.ra.isNone && !th.pinFree && s.standing a && th.wait.isNone &&
    match s.insAt a with | some (n, _) => n.readsLatch th.scalar | none => false

/-! ### Accounting (R373, Table 23.6) -/

/-- Whether a flag is held by an engine, matrix, tap, division, lane-sort or queue operation. -/
def VKind.engineLeaf : VKind → Bool
  | .result .. | .accept | .engine .. | .tapReq .. | .fail .. | .launch .. | .record .. => true
  | _ => false

/-- The leaf that an empty slot is charged to: 2 memory flag, 3 engine flag, 4 DIST, 6 uq empty, 7 barrier, 8
register grow. A flag of a fixed-latency result counts as DIST, and so does a slot in which a MATRIX_RESET or BRKPT is taken and
nothing issues. (DEDUCED, log entry 26.) -/
def State.leafFor (s : State) (a : Agent) : Nat :=
  let th := s.thr a
  match s.agentWhy a with
  | some .blocking => match th.wait.map Wait.hold with
    | some (.tags ..) => 3
    | some (.arrive ..) | some (.barrier ..) | some (.wret ..) => 7
    | some (.qpush ..) => 3
    | some (.racq _) | some (.tgrow _) | some (.tshrink _) => 8
    | _ => 2
  | some .flags =>
    let need := match s.insAt a with | some (n, _) => Ins.needs n | none => 0
    match th.ops.find? fun o => match o.flag with | some f => need.getLsbD f | none => false with
    | some o => if o.kind.engineLeaf then 3 else 2
    | none => 4
  | some .spacing => 4
  | some .queue => 6
  | some .tag => 3
  | some .engine => 3
  | some .regrouping => 8
  | none => 4
  | _ => 2

/-- The partition that owns a quad (R362). -/
def State.quadOwner (s : State) (q : Nat) : Option Nat := (s.parts.find? fun p => p.2.live && p.2.maps.quads.contains q).map (·.1)

/-- Add one to a count. -/
def bump (k : Nat) (l : List (Nat × Nat)) : List (Nat × Nat) := Sparse.put k (Sparse.get 0 k l + 1) l

/-- Count a slot of a core for its partition, and for an interface (R373). -/
def State.countSlot (s : State) (core leaf : Nat) (a : Option Agent) : State :=
  let k := 16 * (s.quadOwner (core / 4)).getD partitionCount + leaf
  let s := s.mapCore core fun c => { c with leaves := bump k c.leaves }
  match a with
  | some x => s.mapQif (s.qifOf x) fun q => { q with counts := bump leaf q.counts }
  | none => s

/-- The agents that are not in runahead, or all where every one is (R212). -/
def State.awakeOr (s : State) (gs : List (Nat × Agent)) : List (Nat × Agent) :=
  let l := gs.filter fun x => (s.thr x.2).ra.isNone
  if l.isEmpty then gs else l

/-- The leaf of an empty slot of a quarter, and the agent that it is charged to: a pin, the group that step 3 of R212 would choose
if every group were eligible, or nobody (R373). -/
def State.emptySlot (s : State) (core q : Nat) : Nat × Option Agent :=
  let gs := s.quarterGroups core q
  match (gs.find? fun (x : Nat × Agent) => s.pins x.2).map (·.2) with
  | some a => (5, some a)
  | none => match s.byClass core q (s.awakeOr gs) with
    | some x => (s.leafFor x.2, some x.2)
    | none =>
      let away := s.teams.any fun t => t.2.core == core && (match t.2.stage with | .saved _ => true | _ => false)
      (if away then 9 else 10, none)

/-- Charge the quarters that have had no slot in a cycle that ends. -/
def State.chargeIdle (s : State) : State :=
  s.cores.foldl (fun s' c => (List.range 4).foldl (fun s' q =>
    if c.2.issued.any fun x => x.1 == q && x.2 == s.clk + 1 then s'
    else s'.countSlot c.1 (s.emptySlot c.1 q).1 (s.emptySlot c.1 q).2) s') s

/-- Whether a slot that an agent takes is a diverged one: lanes of its block stand elsewhere, and RECONV of the block names
the header where they meet (R23). -/
def State.diverged (s : State) (a : Agent) : Bool :=
  let th := s.thr a
  th.present != th.alive && (match th.block with
    | some b =>
      let t : Int := (b.addr.toNat : Int) + 8 * b.reconv.toInt
      b.reconv != 0 && decide (0 ≤ t) && s.headerBit a t.toNat
    | none => false)

/-- Count a diverged slot. -/
def State.countSplit (s : State) (core : Nat) (a : Agent) : State :=
  if s.diverged a then s.mapCore core fun c => { c with split := bump (s.partOf a) c.split } else s

/-- Update the counts of the agents of a quarter after its slot (R57, R212): `picked` has issued, `elig` could have. A
runahead issue leaves an Equinox point as it is (R221). -/
def State.tally (s : State) (gs elig : List (Nat × Agent)) (picked : Option Agent) (pin : Option Agent) : State :=
  gs.foldl (fun s x =>
    let can := elig.any (·.2 == x.2)
    let others := elig.any (·.2 != x.2)
    s.mapThr x.2 fun th =>
      if picked = some x.2 then { th with starve := 0, pinned := 0, pinOther := false, pinFree := false,
                                             equinox := th.equinox && th.ra.isSome }
      else
        let th := if picked.isSome then th.dropLatches else th
        let th := { th with starve := if can && th.ra.isNone then th.starve + 1 else 0 }
        if pin = some x.2 && !can then { th with pinned := th.pinned + 1, pinOther := th.pinOther || others }
        else { th with pinned := 0, pinOther := false }) s

/-! ### Issue of the picked agent -/

/-- The comparator that an instruction's address meets (R358). -/
def State.comparator (s : State) (a : Agent) : Option Nat :=
  let th := s.thr a
  let pc := th.issueAddr
  if th.handler ∨ th.skipCmp = some pc then none
  else ((s.coreOf (s.coreNo a)).cmps.find? fun c =>
    let x := c.2.toNat
    bitAt x (64 + 13) && (bitAt x (64 + 12) || bitsOf x 64 12 == s.qifOf a) && bitAt x (64 + 16 + groupNo a)
      && bitsOf x 3 45 == pc.toNat / 8).map (·.1)

/-- MATRIX_RESET (R242): the chain that a group stands in is unwound, as R58 does for a trap inside it.
(DEDUCED, log entry 24.) -/
def State.takeReset (s : State) (a : Agent) (n : Ins) (bits : BitVec 12) : State :=
  let s := s.mapThr a fun th => { th with lost := none }
  let th := s.thr a
  let s := if !th.handler && n.readsLatch th.scalar then s.mapThr a Thr.unwind else s
  s.takeCause a { cause := .matrixReset, lmask := (s.thr a).present, tval := if th.scalar then 0 else bits.setWidth 64 }

/-- The code of an undefined opcode (R64, R65), or of a KIND or K that names nothing. -/
def State.issueBad (s : State) (n : Ins) (w : Code) : State :=
  match w with
  | .badKind => issue n { bad := true } (fun g _ => .error [g.illegal]) s
  | _ =>
    let a := s.cur
    let s := s.mapThr a (Thr.landDue s.clk)
    let th := s.thr a
    if th.ra.isSome then s.mapThr a fun t => { (t.countRa true) with lastIssue := some s.clk }
    else deliver n s [{ cause := .illegal, lmask := th.present, tval := n.word0 }]

/-- Give an eligible agent the slot: a MATRIX_RESET, a comparator, or the instruction. -/
def State.give (s : State) (a : Agent) (n : Ins) (w : Code) : Given :=
  let th := s.thr a
  let s := { s with cur := a }
  let s := s.noteAccess (s.who a) .fetch th.issueAddr.toNat
  match th.lost with
  | some bits => .next (s.takeReset a n bits)
  | none => match s.comparator a with
    | some k =>
      if th.ra.isSome then .next (s.mapThr a fun t => { (t.countRa true) with lastIssue := some s.clk })
      else .next (s.takeTrap a n.len (n.readsLatch th.scalar) { cause := .brkpt, lmask := th.present, tval := BitVec.ofNat 64 k })
    | none =>
      let s := if th.skipCmp = some th.issueAddr ∧ th.ra.isNone then s.mapThr a fun t => { t with skipCmp := none } else s
      match w with
      | .instr i => .exec i s
      | _ => .next (s.issueBad n w)

/-! ### Turns -/

/-- The first upkeep among a list of agents. -/
def State.firstUpkeep (s : State) : List Agent → Option (Agent × Upkeep)
  | [] => none
  | a :: r => match s.upkeep a with
    | some u => some (a, u)
    | none => s.firstUpkeep r

/-- Carry out an upkeep, after which the turn goes on. -/
def State.doUpkeep (s : State) (t : Turn) (a : Agent) : Upkeep → Given
  | .step i => .exec i { s with cur := a, agenda := t :: s.agenda }
  | .state s' => .next { s' with agenda := t :: s'.agenda }
  | .hole => .hole

/-- The slot of a quarter in one cycle (R212). A group that has yielded in the cycle before is passed over where any other
group of the quarter is eligible, a runahead group too, and also where its next instruction reads a latch (R111). (DESIGN
CHOICE, log entry 71.) -/
def State.quarterTurn (core q : Nat) (s : State) : Given :=
  let gs := s.quarterGroups core q
  if (s.coreOf core).issued.any fun x => x.1 == q && x.2 == s.clk + 1 then .next s
  else match s.firstUpkeep (gs.map (·.2)) with
    | some (a, u) => s.doUpkeep (.quarter core q) a u
    | none =>
      let elig := gs.filter fun (x : Nat × Agent) => (s.agentWhy x.2).isNone
      let pin := (gs.find? fun (x : Nat × Agent) => s.pins x.2).map (·.2)
      match (match pin with
        | some a => if Config.pinLimit ≤ (s.thr a).pinned ∧ (s.thr a).pinOther then some a else none
        | none => none) with
      | some a => s.doUpkeep (.quarter core q) a (.step (.latchPinRelease a))
      | none =>
        let awake := elig.filter fun x => (s.thr x.2).yielded != some (s.clk - 1)
        let cand := if awake.isEmpty then elig else awake
        let held := match pin with
          | some a => if elig.any (·.2 == a) && !cand.any (·.2 == a) then none else some a
          | none => none
        let pick : Option (Nat × Agent) := match held with
          | some a => cand.find? (·.2 == a)
          | none => match s.starved cand with
            | some x => some x
            | none => s.byClass core q cand
        let s' := (s.mapCore core fun c => { c with issued := Sparse.put q (s.clk + 1) c.issued }).tally gs elig (pick.map Prod.snd) pin
        match pick with
        | some x => match s.insAt x.2 with
          | some (n, w) =>
            let leaf := if (s.thr x.2).ra.isSome then 1 else if (s.thr x.2).lost.isSome || (s.comparator x.2).isSome then 4 else 0
            (((s'.mapCore core fun c => { c with picks := Sparse.put (5 * q + s.pickClass x.2) x.1 c.picks }).countSlot core leaf
              (some x.2)).countSplit core x.2).give x.2 n w
          | none => .next s'
        | none => .next (s'.countSlot core (s.emptySlot core q).1 (s.emptySlot core q).2)

/-- The issue slot of a control core, one in each cycle (R229). -/
def State.controlTurn (q : Nat) (s : State) : Given :=
  let a : Agent := .ctl q
  match s.upkeep a with
  | some u => s.doUpkeep (.control q) a u
  | none => match s.insAt a with
    | some (n, w) =>
      if (s.why a n).isNone && (s.quad q).issued != s.clk + 1 then (s.mapQuad q fun x => { x with issued := s.clk + 1 }).give a n w
      else .next s
    | none => .next s

end Sys2Proof.Machine
end

