-- ==== Sys2Proof/Machine/Group.lean ====
section
/-! DEFINITION. The device's steps within a group or program: header passes (R18, R22 to R24), the landing and
completion of operations (R43, R59, R60), the release of a latch pin (R57), runahead (R215 to R222), and the expiry
of cached copies (R331). -/

namespace Sys2Proof.Machine

open Sys2Proof

/-! ### HEADER_PASS -/

/-- Whether a header takes ILLEGAL: LEN 0, a place inside the block before it (R22), or HDL in normal mode (R24).
(DEDUCED, log entry 25.) -/
def State.headerBad (s : State) (a : Agent) (pc w : Nat) : Bool :=
  Hdr.len w == 0 || (Hdr.hdl w && !(s.thr a).handler) ||
  match s.blockHeader a pc with
  | none => false
  | some h => match s.fetchNat a h 8 with
    | .ok x => decide (pc ≤ h + 8 * Hdr.len x)
    | _ => false

/-- Whether some lane of a thread stands in a block, or will return to it from its handler. -/
def Thr.inBlock (th : Thr) (b : CodeBlock) : Bool :=
  let at_ (p : BitVec 48) : Bool := p != exitedPc && decide (b.addr.toNat < p.toNat) && decide (p.toNat ≤ b.addr.toNat + 8 * b.len)
  th.pcv.any at_ || (th.handler && (th.recPcv.any at_ || at_ th.epc))

/-- Enter the block of a header: it counts its writes from now on (R216); blocks that hold no lane any more are forgotten. -/
def Thr.enterBlock (th : Thr) (pc : BitVec 48) (w : Nat) : Thr :=
  let b : CodeBlock := { addr := pc, len := Hdr.len w, live := Hdr.live w, reconv := Hdr.reconv w, ra := Hdr.ra w, wrote := [] }
  { th with live := Hdr.live w, blocks := (th.blocks.filter fun x => x.addr != pc && th.inBlock x) ++ [b] }

/-- Pass a header: latches become invalid, the Equinox point is judged, the block's fields take effect, and the
present lanes move on. In runahead the block's fields are left for the thaw. -/
def Thr.passHeader (pc : BitVec 48) (w : Nat) (th : Thr) : Thr :=
  let all := th.pcv.all fun p => p == exitedPc || p == pc
  let th := if th.ra.isSome then th else
    { th.enterBlock pc w with
              reopen := none
              equinox := Hdr.eq w && !Hdr.hdl w && !th.handler && all
              wsr := if Hdr.resv w then th.wsr ||| 0x200 else th.wsr }
  th.dropLatches.advance th.present 1

/-- HEADER_PASS for the agent whose turn it is. -/
def execHeaderPass (s : State) : Out :=
  let a := s.cur
  let th := s.thr a
  let pc := th.issueAddr
  if !s.standing a || th.wait.isSome || !s.headerBit a pc.toNat then .next s
  else match s.fetchNat a pc.toNat 8 with
    | .hole => .fault .noSuchMemory
    | .absent p => .next (if th.ra.isSome then s.endRunahead a else s.storageFault a [p])
    | .trap c v => .next (if th.ra.isSome then s.endRunahead a else s.fetchTrap a c v)
    | .ok w =>
      if th.ra.isSome then
        if s.headerBad a pc.toNat w || !Hdr.ra w || Hdr.hdl w then .next (s.endRunahead a) else .next (s.mapThr a (Thr.passHeader pc w))
      else if s.headerBad a pc.toNat w then .next (s.wordTrap a)
      else .next ((s.noteAccess (s.who a) .fetch pc.toNat).mapThr a (Thr.passHeader pc w))

/-! ### Completion -/

/-- FIXED_RESULT_LAND: the results that are due land (R60). -/
def execFixedResultLand (a : Agent) (s : State) : Out := .next (s.mapThr a (Thr.landDue s.clk))

/-- Take a cause of an operation that issued earlier, with the address of its instruction as epc (R222, R262, R274). -/
def State.takeLate (s : State) (a : Agent) (epc : BitVec 48) (t : Trap) : State :=
  let s := if (s.thr a).ra.isSome then s.thaw a else s
  if (s.thr a).handler then s.mapThr a fun th => th.holdCause t else s.enterTrap a epc t

/-- Exchange the two places of the elements that lie on a shadow pair (R205): the first is that in the front copy. -/
def Elem.publish (pair : Nat) (e : Elem) : Elem :=
  match e.alt with
  | some (p, x) => if p = pair then { e with a := x, alt := some (p, e.a) } else e
  | none => e

@[inherit_doc Elem.publish]
def VKind.publishElems (pair : Nat) : VKind → VKind
  | .load els ty fmt ws ch => .load (els.map (Elem.publish pair)) ty fmt ws ch
  | .store els fmt ch => .store (els.map (Elem.publish pair)) fmt ch
  | .atomic els op ty ws => .atomic (els.map (Elem.publish pair)) op ty ws
  | .hld e n ch k => .hld (e.publish pair) n ch k
  | .hst e h => .hst (e.publish pair) h
  | .prefetch els ch => .prefetch (els.map (Elem.publish pair)) ch
  | k => k

/-- Apply a change to every thread of the package. -/
def State.mapAll (s : State) (f : Thr → Thr) : State := s.agents.foldl (fun s a => s.mapThr a f) s

/-- A shadow pair. -/
def State.pairOf (s : State) (pair : Nat) : Shadow := Sparse.get Shadow.fresh pair s.shadow

/-- An agent exchanges front and back of a shadow pair for every observer. -/
def State.publish (s : State) (a : Agent) (pair : Nat) : State :=
  let sh : Shadow := ⟨!(s.pairOf pair).swapped, s.freeCtr, s.clk, some a⟩
  ({ s with shadow := Sparse.put pair sh s.shadow } : State).mapAll fun th =>
    { th with ops := th.ops.map fun o => { o with kind := o.kind.publishElems pair } }

/-- The handle through which an engine command writes global memory, where it does. -/
def EngCmd.target (c : EngCmd) : Option (BitVec 128) :=
  match c.op with
  | .gth .. => none
  | .sct .. => some c.hs
  | _ => some c.hd

/-- Whether an engine command is bound to the back copy of a shadow pair. -/
def State.pairBusy (s : State) (pair : Nat) : Bool :=
  s.cmds.any fun c => match c.target with
    | some h => Hd.kind h == 2 && c.part * 65536 + Hd.slot h == pair
    | none => false

/-- The selector of a pair as an element of lane `l` (R336). -/
def selectorElem (l pair : Nat) : Elem :=
  { lane := l, sp := .mem, a := selectorPlace pair, w := 1, key := 0, fmt := 0, pos := 0, data := 0, data2 := 0, poison := false }

/-- Whether lane `l` of an operation of an agent may still reach the old front of a pair (R336): as a load of the selector that is weak
toward the publisher, whose agent has met the new value in no way, until R331's limit has passed. -/
def State.oldFront (s : State) (a : Agent) (o : VOp) (l pair : Nat) : Bool :=
  let sh := s.pairOf pair
  match sh.by_ with
  | none => false
  | some b => b != a && !(decide (0 < o.strength) && s.contains o.strongIn a (.agent b))
      && decide ((s.thr a).floor o l (!o.strong && !s.lsync) (selectorPlace pair) 1 < sh.at_) && decide (s.clk < sh.clk + Config.copyLife)

/-- The elements of an operation in the copies that it reaches, by free choice where R336 leaves one; the agent has then met
the selectors whose new value it has read. -/
def State.toFront (s : State) (a : Agent) (o : VOp) (els : List Elem) : State × List Elem :=
  let old (e : Elem) : Bool := match e.alt with
    | some (p, _) => s.oldFront a o e.lane p && Config.freeBit s.freeCtr (150000 + e.lane) o.seq
    | none => false
  let met := els.filterMap fun e => if old e then none else e.alt.map fun x => selectorElem e.lane x.1
  (met.foldl (fun s x => s.meetRead a o x s.freeCtr) s,
   els.map fun e => match e.alt with
    | some (p, x) => if old e then { e with a := x, alt := some (p, e.a) } else e
    | none => e)

/-- Prepared results with one value for each register, the same in every lane. -/
def eachValue (ws : List RegW) (vals : List (BitVec 64)) : List RegW :=
  ws.zipIdx.map fun p => { p.1 with v := List.replicate 32 (vals.getD p.2 0) }

/-- An operation that a request of R263 answers, where the partition owns the tap engine (R362). -/
def completeRequest (s : State) (a : Agent) (o : VOp) (q : TapReq) (ws : List RegW) : Out :=
  let die := s.dieOf a
  if (s.die die).unaccepted a o.seq || s.shutOut (.die die) || !s.tapOwned die (s.partOf a) then .next s
  else match s.serveReq { (s.who a) with core := none } q with
    | .done s' vals => .next ((((s'.landOp a o.seq (eachValue ws vals)).mapThr a (Thr.retire o)).acquire a 5).join a 5 (s.die die).tapView)
    | .trap rank v => .next (s.mapThr a fun th =>
        { th with ops := th.ops.map fun x => if x.seq = o.seq then { x with kind := .fail rank (BitVec.ofNat 64 v) } else x })
    | .wait pte => .next (s.mapDie die fun d => d.wantFill pte (s.partOf a) none none)
    | .hole => .fault .noSuchMemory

/-- The record of a wrd, for the first reader of its team (R251, R264). -/
def completeRecord (s : State) (a : Agent) (o : VOp) (ws : List RegW) : State :=
  match a, s.handlerOf a with
  | .grp t g, some (die, cmd, _) =>
    if (s.team t).readers.head? ≠ some g then s
    else match s.nextRec t die cmd with
      | none => s
      | some r =>
        let vals := match r with | some r => r.words.map (·.setWidth 64) | none => List.replicate 8 0
        let s := s.mapTeam t fun x => { x with readers := x.readers.drop 1, recs := x.recs.drop 1 }
        (s.landOp a o.seq (eachValue ws vals)).mapThr a fun th => { (th.retire o) with recs := th.recs ++ r.toList }
  | _, _ => s

/-- Perform an operation in flight, land its results and clear its flag. A load without elements has been performed
already. -/
def State.completeOp (s : State) (a : Agent) (o : VOp) : Out :=
  let done (s : State) : Out := .next (s.mapThr a (Thr.retire o))
  let s := s.mapThr a (Thr.overtaken o)
  match o.kind with
  | .result ws fl => done ((s.landOp a o.seq ws).mapThr a fun th => { th with fsr := th.fsr ||| fl.setWidth 32 })
  | .load [] _ _ ws _ => done (s.landOp a o.seq ws)
  | .load els ty _ ws ch => let f := s.toFront a o els; .next ((f.1.performLoad a o f.2 ty ws ch).passLate a o)
  | .store els fmt ch => let f := s.toFront a o els; done (((f.1.storeElems fmt f.2).dropCopies a f.2 ch).meetStores a o f.2)
  | .atomic els op ty ws => let f := s.toFront a o els; .next ((f.1.performAtomic a o f.2 op ty ws).passLate a o)
  | .hld e n ch k => let f := s.toFront a o [e]; done ((f.1.performHld a o (f.2.headD e) n ch k).passLate a o)
  | .hst e h =>
    let f := s.toFront a o [e]
    let e := f.2.headD e
    done ((((f.1.writeAt e.sp e.key e.a (leBytes 16 h.toNat)).storePoison f.2).dropCopies a f.2).meetStores a o f.2)
  | .prefetch els ch => done (s.cacheLoad a ch els)
  | .accept => done s
  | .publish pair => if s.pairBusy pair then .next s else done ((s.publish a pair).meetStore a { o with strong := true, scope := 8 } (selectorElem 0 pair))
  | .engine _ _ => .next s
  | .tapReq q ws => completeRequest s a o q ws
  | .fail rank v =>
    if (s.thr a).wait.isSome then .next s
    else .next ((s.mapThr a (Thr.retire o)).takeLate a o.addr { cause := Cause.ofRank rank, lmask := 1, tval := v })
  | .launch e hargs ws => match s.startTeams (s.quadOf a) e hargs with
    | some (s', m) => done (s'.landOp a o.seq (eachValue ws [m]))
    | none => .next s
  | .record _ ws => .next (completeRecord s a o ws)

/-- VARIABLE_OP_COMPLETE: operation k of an agent, once the earlier ones that it must follow have been performed
(R43, R164). -/
def execVariableOpComplete (a : Agent) (k : Nat) (s : State) : Out :=
  let s := s.mapThr a (Thr.landDue s.clk)
  match (s.thr a).ops.find? (·.seq == k) with
  | none => .next s
  | some o => if s.mayPerform a o then s.completeOp a o else .next s

/-! ### Blocking instructions -/

/-- Try what a blocking instruction waits for. -/
def State.tryHold (s : State) (a : Agent) : Hold → Try
  | .fence k scope => s.tryFence k scope a
  | .arrive scope id count bar ws => s.tryArrive scope id count bar ws a
  | .barrier scope id inst tokens => s.tryBarrier scope id inst tokens a
  | .tags all mask => s.tryTags all mask a
  | .racq c => s.tryRacq c a
  | .tgrow c => s.tryTgrow c a
  | .tshrink c => s.tryTshrink c a
  | .wret mode => s.tryWret mode a
  | .qpush mask v => s.tryQpush mask v a
  | .drain ops => s.tryDrain ops a
  | .evict va pte begun ops ws => s.tryEvict va pte begun ops ws a

/-- The wait of a thread ends: its flag clears and its results land, as writes of the block (R216). -/
def Thr.endWait (w : Wait) (ws : List RegW) (th : Thr) : Thr :=
  let t : Thr := { (th.clearFlag w.flag) with wait := none }
  (ws.foldl (fun (t : Thr) r => t.land (t.seq - 1) r) t).noteWrites (positions ws)

/-- BLOCKING_OP_COMPLETE (R59): the instruction completes, its result lands and its lanes move on. A cause that is held in
handler mode (R274) ends it too; its latch entry was pushed when it issued. -/
def execBlockingOpComplete (a : Agent) (s : State) : Out :=
  let s := s.mapThr a (Thr.landDue s.clk)
  let th := s.thr a
  match th.wait with
  | none => .next s
  | some w =>
    if !s.standing a then .next s
    else match s.tryHold a w.hold with
      | .wait => .next s
      | .further s' => .next s'
      | .done s' ws => .next (s'.mapThr a fun th => (th.endWait w ws).advance th.present w.len)
      | .trap t =>
        let reads := match th.chain with | some c => decide (0 < c.n) | none => false
        let s := s.mapThr a (Thr.endWait w [])
        .next (if th.handler then s.mapThr a fun th => (th.holdCause t).advance th.present w.len else s.takeTrap a w.len reads t)

/-! ### The latch pin -/

/-- LATCH_PIN_RELEASE (R57): the chain is unwound, without a trap. -/
def execLatchPinRelease (a : Agent) (s : State) : Out :=
  let th := s.thr a
  if Config.pinLimit ≤ th.pinned ∧ th.pinOther then
    .next (s.mapThr a fun th => { th.unwind.dropLatches with pinned := 0, pinOther := false, pinFree := true })
  else .next s

/-! ### Runahead -/

/-- Mark what operations in flight will write as Frost (R217). -/
def Thr.frostPending (th : Thr) : Thr :=
  th.ops.foldl (fun th o =>
    let th := o.kind.results.foldl (fun th w => match w.tgt with
      | .v p => { th with regs := Sparse.put p { (th.vreg p) with frost := BitVec.allOnes 32 } th.regs }
      | .k p => if p = 0 then th else { th with preds := Sparse.put p { (th.pred p) with frost := BitVec.allOnes 32 } th.preds }
      | .h n => { th with hs := Sparse.put n { (th.hreg n) with frost := true } th.hs }
      | .s _ => th) th
    match o.kind with
    | .hld _ n .. => { th with hs := Sparse.put n { (th.hreg n) with frost := true } th.hs }
    | _ => th) th

/-- Write the checkpoint and enter runahead at an instruction that waits for flags `need` (R215 to R217). -/
def Thr.enterRunahead (need : BitVec 12) (th : Thr) : Thr :=
  let c : Ckpt :=
    { pcv := th.pcv, regs := th.ckptRegs.map fun r => (r.1, th.vreg r.1), preds := th.preds, pend := th.pend
      pages := th.ckptPages, need := need, count := 0, ended := false, blocks := th.blocks }
  { th.frostPending.dropLatches with ra := some c, pend := [], chain := none }

/-- RUNAHEAD_ENTRY (R215). -/
def execRunaheadEntry (a : Agent) (s : State) : Out :=
  let s := s.mapThr a (Thr.landDue s.clk)
  match s.insAt a with
  | some (n, _) => if s.entersRunahead a n then .next (s.mapThr a (Thr.enterRunahead (Ins.needs n))) else .next s
  | none => .next s

/-- RUNAHEAD_LIMIT (R219). -/
def execRunaheadLimit (a : Agent) (s : State) : Out :=
  match (s.thr a).ra with
  | some c => if Config.runaheadLimit ≤ c.count then .next (s.endRunahead a) else .next s
  | none => .next s

/-- THAW (R220, R222): the awaited flags are clear, or a MATRIX_RESET is due. -/
def execThaw (a : Agent) (s : State) : Out :=
  let th := s.thr a
  if th.thawDue || (th.ra.isSome && th.lost.isSome) then .next (s.thaw a) else .next s

/-! ### Cached copies -/

/-- CACHE_COPY_EXPIRY (R331): no copy of a core's L1, or of its quad's fibre cache, outlives 2^16 cycles. -/
def execCacheCopyExpiry (core : Nat) (s : State) : Out :=
  let fresh (fill : Nat) : Bool := decide (s.clk < fill + Config.copyLife)
  .next ((s.mapCore core fun c => { c with copies := c.copies.filter fun x => fresh x.fill }).mapQuad (core / 4)
    fun q => { q with fib := q.fib.filter fun x => fresh x.fill })

end Sys2Proof.Machine
end

