-- ==== Sys2Proof/Machine/Preempt.lean ====
section
/-! DEFINITION. Saving and swapping out (R276 to R281, R312 to R316): save records (Table 18.4), the team save area
(Table 20.7), Equinox and Solstice saves, the save of a control-core program, and register deadlocks (R342). -/

namespace Sys2Proof.Machine

open Sys2Proof

/-! ### The group save record (Tables 18.4 and 18.5) -/

/-- Whether position p of a record is saved: a held register, in an Equinox save only of a live chunk, in a Solstice
save also the handler bank. -/
def Thr.saves (th : Thr) (equinox : Bool) (p : Nat) : Bool :=
  if 248 ≤ p then !equinox else decide (p / 16 < th.chunks) && (!equinox || th.live.getLsbD (p / 16))

/-- The code of a register and its words; `alive` are the lanes that have not exited, for which the tag speaks (R31). -/
def VReg.saved (alive : Mask) (r : VReg) : Nat × List (BitVec 32) :=
  if r.poison ≠ 0 then (4, r.v ++ [r.poison])
  else match r.tag with
    | .U => (1, [lane32 r.v (lowestLane alive)])
    | .A b st => (2, [b, st])
    | .G => (3, r.v)

/-- A register as it comes back from its record. -/
def VReg.restored (alive : Mask) (r : VReg) : VReg :=
  if r.poison ≠ 0 then { r with tag := .G, frost := 0 }
  else { r with frost := 0, v := match r.tag with
    | .U => List.replicate 32 (lane32 r.v (lowestLane alive))
    | .A b st => perLane fun l => b + BitVec.ofNat 32 l * st
    | .G => r.v }

/-- The number of set bits of a list of conditions, as a value. -/
def bitsNat (n : Nat) (p : Nat → Bool) : Nat := ((List.range n).map fun i => if p i then 2 ^ i else 0).sum

/-- The save record of a group (Table 18.4). -/
def Thr.record (th : Thr) (equinox : Bool) : List Byte :=
  let codes := (List.range 256).map fun p => if th.saves equinox p then (th.vreg p).saved th.alive else (0, [])
  let words := codes.flatMap (·.2)
  let chunks := bitsNat 16 fun i => decide (i < th.chunks) && (!equinox || th.live.getLsbD i)
  let h := th.handler
  let hb (x : Nat) : Nat := if h then x else 0
  leBytes 8 ((if equinox then 1 else 2) + (if h then 4 else 0) + (if th.wait.isSome then 8 else 0) + chunks * 2 ^ 16 + words.length * 2 ^ 32)
    ++ leBytes 4 (bitsNat 32 fun l => th.pcv.getD l exitedPc == exitedPc)
    ++ leBytes 2 (th.uqPos % 64) ++ leBytes 2 (bitsNat 16 fun n => (th.hreg n).poison)
    ++ leBytes 8 (if equinox then (th.issueAddr - 8).toNat else 0)
    ++ leBytes 4 th.fsr.toNat ++ leBytes 4 th.wsr.toNat
    ++ (List.range 7).flatMap (fun i => leBytes 4 (th.pred (i + 1)).v.toNat) ++ leBytes 4 0
    ++ (List.range 16).flatMap (fun i => leBytes 16 (th.hreg i).v.toNat)
    ++ (List.range 4).flatMap (fun i => leBytes 8 (th.seg i).toNat)
    ++ (List.range 32).flatMap (fun l => leBytes 8 (if equinox then 0 else (th.pcv.getD l exitedPc).toNat))
    ++ leBytes 4 (hb th.cause.toNat) ++ leBytes 4 (hb th.lmask.toNat)
    ++ leBytes 8 (hb th.epc.toNat) ++ leBytes 8 (hb th.tval.toNat) ++ leBytes 8 (hb (th.pendBits.toNat * 2 ^ 32 + th.also.toNat))
    ++ (List.range 32).flatMap (fun l => leBytes 8 (hb (th.recPcv.getD l 0).toNat))
    ++ (List.range 24).flatMap (fun i => leBytes 8 (if i = 23 then 0 else hb (Sparse.get 0 (i + 1) th.pendTval).toNat))
    ++ (List.range 128).map (fun i => BitVec.ofNat 8 ((codes.getD (2 * i) (0, [])).1 + 16 * (codes.getD (2 * i + 1) (0, [])).1))
    ++ words.flatMap (fun w => leBytes 4 w.toNat)

/-- A group as it will be restored from its record (R278, R279): what the record leaves out is zero.
(DEDUCED, log entry 48.) -/
def Thr.afterSave (th : Thr) (equinox : Bool) : Thr :=
  let th := { th with
    regs := (th.regs.filter fun (r : Nat × VReg) => th.saves equinox r.1).map fun (r : Nat × VReg) => (r.1, r.2.restored th.alive)
    chain := none, lastIssue := none, starve := 0, pinned := 0, pinOther := false, pinFree := false }
  let th := th.dropLatches
  if th.handler then th
  else { th with cause := 0, lmask := 0, epc := 0, tval := 0, also := 0, pendBits := 0, recPcv := [], pendTval := [] }

/-! ### The team save area (Table 20.7) -/

/-- Pad a list of bytes to a multiple of 128. -/
def padTo128 (bs : List Byte) : List Byte := bs ++ List.replicate ((128 - bs.length % 128) % 128) 0

/-- A regrouping entry of a bin as the save area holds it. -/
def RgEntry.bytes (bin : Nat) (e : RgEntry) : List Byte :=
  (List.range 4).flatMap (fun i => leBytes 4 (e.vals.getD i 0).toNat) ++ leBytes 4 e.tag.toNat ++ leBytes 4 (bin + 256 * e.poison.toNat)

/-- The entries of a team's bins with their bins, oldest first: by the cycle and group of their rgput. -/
def Team.entries (t : Team) : List (Nat × RgEntry) :=
  sortBy (fun a b => decide (a.2.clk < b.2.clk) || (a.2.clk == b.2.clk && decide (a.2.grp < b.2.grp)))
    (t.bins.flatMap fun b => b.2.map fun e => (b.1, e))

/-- A save area as it lies in memory: of a protected partition encrypted under the partition's key (R314, R363). -/
def State.sealed (s : State) (part k : Nat) (bs : List Byte) : List Byte :=
  if !(s.part part).guarded then bs
  else
    let n := ceilDiv bs.length 32
    let padded := bs ++ List.replicate (32 * n - bs.length) 0
    (List.range n).flatMap fun i => Aes.xts true (s.part part).key (Config.savePlace k + i) ((padded.drop (32 * i)).take 32)

/-- The save area of a team for a reason, with the records of its groups and the bytes of its allotment. -/
def Team.saveArea (t : Team) (reason : Nat) (qset : Bool) (recs : List (List Byte)) (scratch : List Byte) : List Byte :=
  let entry (i : Nat) : BitVec 32 :=
    let first := t.uqBase + (i + 64 - t.uqBase % 64) % 64
    t.uq.getD (first - t.uqBase) 0
  leBytes 8 (reason * 2 ^ 12 + (t.n - 1) * 2 ^ 8 + t.cls * 2 ^ 6 + (if qset then 32 else 0)) ++ leBytes 8 (t.waits.headD 0)
    ++ leBytes 8 t.ready.toNat ++ leBytes 8 t.err.toNat
    ++ (List.range 8).flatMap (fun i => leBytes 4 (t.bar i).1.toNat ++ leBytes 4 (bitsNat 16 fun g => (t.bar i).2.contains g))
    ++ (List.range 64).flatMap (fun i => leBytes 4 (entry i).toNat) ++ leBytes 16 (t.uqBase + t.uq.length)
    ++ leBytes 8 ((t.groups.map fun g => (g.2.chunks - g.2.baseChunks) * 16 ^ g.1).sum) ++ leBytes 8 t.pool
    ++ recs.flatMap padTo128 ++ scratch
    ++ t.entries.flatMap fun e => e.2.bytes e.1

/-! ### Swap-out -/

/-- The bytes of a team's allotment, with the poison of the sector that each lies in. -/
def State.allotment (s : State) (t : Team) : List (Nat × Byte) :=
  let a := t.core * Config.scratchBytes + t.scrBase
  (s.readAt .scr 0 a t.scrLen).zipIdx.map fun b => (2 * b.2 + (if s.poisoned .scr (a + b.2) 1 then 1 else 0), b.1)

/-- Whether every group of a team has ended, or is held or drains for a swap, with its flags clear. -/
def State.drained (s : State) (k : Nat) (all : Bool) : Bool :=
  (s.team k).groups.all (fun g => g.2.ended || ((all || g.2.saved != 0) && g.2.ops.isEmpty))
    && !s.cmds.any fun c => match c.a with | .grp j _ => j == k | .ctl _ => false

/-- Bring a group to the point that its record describes: out of runahead (R222), its fixed-latency results landed,
its chain unwound where its next instruction reads a latch, and kept for later where that cannot be fetched (R58, R276, R312,
R313). -/
def State.settle (s : State) (a : Agent) : State :=
  let s := (if (s.thr a).ra.isSome then s.thaw a else s).mapThr a Thr.landAll
  if (s.thr a).wait.isSome then s
  else match s.atIssue a with
    | .code n _ => if n.readsLatch (s.thr a).scalar then s.mapThr a Thr.unwind else s
    | .absent _ => s.mapThr a Thr.keepOpen
    | _ => s

/-- Save a team for a reason and take it off its core. -/
def State.saveTeam (s : State) (k reason : Nat) : State :=
  let live := (s.team k).groups.filter fun g => !g.2.ended
  let s := live.foldl (fun s g => if g.2.saved = 1 then s else s.settle (.grp k g.1)) s
  let t := s.team k
  let recs := t.groups.map fun g => g.2.record (g.2.saved == 1)
  let bytes := s.allotment t
  let area := s.sealed (s.launch t.launch).part k (t.saveArea reason (s.inQuadSet k) recs (bytes.map (·.2)))
  let groups := t.groups.map fun g =>
    if g.2.ended then g else (g.1, { (g.2.afterSave (g.2.saved == 1)) with saved := if g.2.saved = 1 then 1 else 2 })
  let s := s.mapCore t.core fun c =>
    { c with free := c.free + t.registers, reqs := c.reqs.filter (fun r => !inTeam k r.a)
             busyWith := if c.busyWith = some k then none else c.busyWith }
  { (s.setTeam k { t with stage := .saved reason, groups := groups, scratch := bytes, area := area, order := s.order
                          preempt := none }) with order := s.order + 1 }

/-- SWAP_OUT: a team that drains for a storage fault or as a deadlock victim, or whose every group is held under
pre-emption, is saved and leaves its core (R276, R312, R314). -/
def execSwapOut (k : Nat) (s : State) : Out :=
  if s.teamDead (s.team k) then .next s
  else match (s.team k).stage with
    | .draining r => if s.drained k true then .next (s.saveTeam k r) else .next s
    | .resident => if (s.team k).preempt.isSome && s.drained k false then .next (s.saveTeam k 3) else .next s
    | _ => .next s

/-! ### Pre-emption (R276) -/

/-- EQUINOX_STOP: a group at an Equinox point under pre-emption, its flags clear before Tq, is held. -/
def execEquinoxStop (a : Agent) (s : State) : Out :=
  match a with
  | .ctl _ => .next s
  | .grp t _ =>
    let th := s.thr a
    if s.teamRuns t && ((s.team t).preempt.map fun d => decide (s.clk < d)).getD false && th.ra.isNone && th.equinox && th.busy == 0 && th.ops.isEmpty && !th.ended && th.saved == 0 then
      .next ((s.mapThr a Thr.landAll).mapThr a fun th => { th with saved := 1 })
    else .next s

/-- SOLSTICE_SAVE: from Tq on, every group of the team that is not held is held for a full save once its flags
clear; a group that waits in a blocking instruction is held in its wait. -/
def execSolsticeSave (k : Nat) (s : State) : Out :=
  let t := s.team k
  match t.preempt with
  | some d =>
    if s.teamRuns k && decide (d ≤ s.clk) then
      let ready := t.groups.filter fun g => !g.2.ended && g.2.saved == 0 && g.2.ops.isEmpty
      .next (ready.foldl (fun s g => (s.settle (.grp k g.1)).mapThr (.grp k g.1) fun th => { th with saved := 2 }) s)
    else .next s
  | none => .next s

/-! ### Control-core programs (R241, R281) -/

/-- The mma of a program that its engine is at work on. -/
def Quad.mmaInFlight (x : Quad) (q clk : Nat) : Option MCmd :=
  match x.turn clk with
  | some c => (match c.a, c.op with | .ctl p, .mma .. => if p = q then some c else none | _, _ => none)
  | none => none

/-- CONTROL_CORE_SAVE: between two issues a pre-empted program is saved whole, once its flags are drained; an mma in
flight stops after a free number of its groups of k-steps and the accumulators are spilled. -/
def execControlCoreSave (q : Nat) (s : State) : Out :=
  let x := s.quad q
  match x.prog with
  | none => .next s
  | some k =>
    let m := x.mmaInFlight q s.clk
    let drained := (s.thr (.ctl q)).ops.all fun o => match o.kind, m with
      | .engine id _, some c => id == c.id
      | _, _ => false
    if !x.preempt || !drained || x.ctl.ended then .next s
    else
      let s := match m with
        | some c => match c.op with
          | .mma n da db w mask g0 =>
            let j := g0 + (Config.freeWord s.freeCtr (710000 + c.id)).toNat % (Quad.mmaGroups w - g0 + 1)
            ((State.mmaSplit q n da db w mask j c.met g0 s).mapQuad q fun x =>
              { x with mq := x.mq.map fun (y : MCmd) => if y.id = c.id then { y with op := .mma n da db w mask j, met := 0 } else y }).spillAll q
          | _ => s
        | none => s
      let s := s.settle (.ctl q)
      .next (s.mapQuad q fun x =>
        { x with spare := some (k, x.ctl.afterSave false), prog := none, preempt := false, ctl := Thr.idle true })

/-- A saved program takes its control core again: the engine reloads what it had spilled and goes on (R241). -/
def State.resumeProgram (s : State) (q : Nat) : State :=
  match (s.quad q).spare with
  | some (k, th) =>
    let s := s.mapQuad q fun x => { x with prog := some k, ctl := { th with saved := 0 }, spare := none, preempt := false }
    if (s.quad q).spill.isEmpty then s else s.reloadAll q
  | none => s

/-! ### Register deadlock (R342) -/

/-- Whether a group waits in a way that a deadlock counts, and whether it waits for registers. -/
def Thr.stuck (th : Thr) : Bool × Bool :=
  match th.wait.map Wait.hold with
  | some (.racq _) | some (.tgrow _) | some (.tshrink _) => (true, true)
  | some (.arrive scope _ _ bar _) => (bar && scope == 2, false)
  | some (.barrier scope ..) => (scope == 2, false)
  | _ => (false, false)

/-- Whether a team is blocked, and the oldest request of its pool cannot be granted. -/
def Team.stuck (t : Team) : Bool :=
  t.stage == .resident && t.live.all (fun g => g.2.stuck.1) && t.live.any (fun g => g.2.stuck.2)
    && (match t.poolReqs with | r :: _ => decide (t.unheld < r.n) | [] => true)

/-- Whether a core is in a register deadlock. -/
def State.deadlocked (s : State) (c : Nat) : Bool :=
  let rs := s.residents c
  decide (2 ≤ rs.length) && rs.all (fun t => t.2.stuck)
    && (match (s.coreOf c).reqs with | r :: _ => decide ((s.coreOf c).free < r.n) | [] => true)

/-- Whether a team is chosen as the victim before another. -/
def Team.victimBefore (a b : Team) : Bool :=
  if a.cls ≠ b.cls then decide (b.cls < a.cls)
  else if a.order ≠ b.order then decide (b.order < a.order)
  else decide (a.teamid < b.teamid)

/-- REGISTER_DEADLOCK: after 64 cycles one victim is swapped out, with its quad set. -/
def execRegisterDeadlock (c : Nat) (s : State) : Out :=
  let k := s.coreOf c
  if k.stuck < Config.deadlockCycles || k.busyWith.isSome || !s.deadlocked c then .next s
  else match pickBy (fun a b => Team.victimBefore a.2 b.2) (s.residents c) with
    | none => .next s
    | some v => .next ((s.beginSwapSet v.1 2).mapCore c fun x => { x with busyWith := some v.1, stuck := 0 })

/-! ### Cycles -/

/-- Whether the module is over a limit: power above 5.2 kW or the cap, or a junction above 95 °C (R377). -/
def Power.limited (p : Power) : Bool := decide (min 5200000 p.cap < p.power) || decide (950 < p.junction)

/-- Whether the coolant is as R3 asks: no warmer than 40 °C and at least 6 L a minute. -/
def Power.cooled (p : Power) : Bool := decide (p.inlet ≤ 400) && decide (6000 ≤ p.flow)

/-- What the environment makes of power, temperatures and coolant flow in the next cycle: free values. With the coolant that
R3 asks for, power stays within 5.2 kW and the junctions within their limit, at every clock; without it power stays within 5.2 kW
at the lowest clock, to which the module goes down while it does not (R3, R377). The times since which the conditions of R377 hold
follow. (DESIGN CHOICE, log entry 55.) -/
def Power.sample (free clk : Nat) (p : Power) : Power :=
  let p := { p with inlet := (Config.freeWord free 800002).toNat, flow := (Config.freeWord free 800003).toNat }
  let most (within : Bool) (limit v : Nat) : Nat := if within then min limit v else v
  let p := { p with power := most (p.cooled || decide (p.clock ≤ Config.clockFloor)) 5200000 (Config.freeWord free 800000).toNat
                    junction := most p.cooled 950 (Config.freeWord free 800001).toNat }
  { p with since := if p.limited then clk else p.since
           hot := if 950 < p.junction ∧ p.clock = Config.clockFloor then some (p.hot.getD clk) else none }

/-- Step 1 of R324 ends for a draining page once the operations that were checked before the commit have left flight, and
with them the engine commands that pinned the region before it (R320). -/
def State.drainStep (s : State) (clk : Nat) (d : Drain) : Drain :=
  let held := s.cmds.any fun c => c.pins.contains d.region && c.part == d.part && decide (c.at_ ≤ d.at_)
  if d.done.isNone && s.landed d.ops && !held then { d with done := some clk } else d

/-- A clock cycle passes: a step of bring-up may end (R378), quarters that have had no slot in it are charged one (R373),
cores count how long they have been in a register deadlock, and while a limit condition holds the clock goes down next (R377). (DESIGN CHOICE, log entry 7.) -/
def State.tick (s : State) : State :=
  let s := if !s.booted && Config.freeBit s.freeCtr 840000 0 then s.bootStep else s
  let power := s.power.sample s.freeCtr (s.clk + 1)
  let s' := s.chargeIdle
  { s' with
           clk := s.clk + 1, power := power
           agenda := if power.limited && decide (Config.clockFloor < power.clock) then .event .clockStepDown :: s.agenda else s.agenda
           cores := s'.cores.map fun c => (c.1, { c.2 with stuck := if s.deadlocked c.1 then c.2.stuck + 1 else 0 })
           dies := s.dies.map fun d => (d.1, { d.2 with drains := d.2.drains.map (s.drainStep (s.clk + 1)) }) }

end Sys2Proof.Machine
end

