-- ==== Sys2Proof/Machine/Storage.lean ====
section
/-! DEFINITION. Storage-backed pages: SQEs and fills (R305, R307, R309, R310), and the Harvest engine (R324). -/

namespace Sys2Proof.Machine

open Sys2Proof

/-! ### SQE_FILL_READ -/

/-- Whether an eviction of a leaf's page is under way (R311). -/
def State.evicting (s : State) (pte : Nat) : Bool :=
  s.agents.any fun a => match (s.thr a).wait.map Wait.hold with
    | some (.evict _ p begun _ _) => p == pte && begun.isSome
    | _ => false

/-- The SQE of a partition to which the next fill is dealt (R305). -/
def Part.sqe (p : Part) : Option Nat := p.maps.sqes[p.nextSqe % p.maps.sqes.length]?

/-- The fill that an SQE takes next: the first of the die's table that no SQE has, of a partition whose turn falls to
this SQE. A fill that is held back by an eviction, or by an empty pool, keeps its place. (DEDUCED, log entry 62.) -/
def State.nextFill (s : State) (die sqe : Nat) : Option Fill :=
  ((s.die die).fills.take Config.fillTable).find? fun f => !f.taken && (s.part f.part).sqe == some sqe

/-- SQE_FILL_READ: the SQE takes a frame from the partition's pool and reads the page; an empty pool raises FRAMEPOOL
(R307, R309). -/
def execSqeFillRead (die sqe : Nat) (s : State) : Out :=
  if s.sqes.any (·.1 == sqe) then .next s
  else match s.nextFill die sqe with
    | none => .next s
    | some f =>
      if s.evicting f.pte then .next s
      else match (s.part f.part).pool with
        | [] => .next { s with poolLog := if s.poolLog.contains f.pte then s.poolLog else s.poolLog ++ [f.pte] }
        | frame :: rest =>
          let s := s.mapPart f.part fun p => { p with pool := rest, nextSqe := p.nextSqe + 1 }
          let s := s.mapFrame frame fun r => { r with pooled := false }
          let s := s.mapDie die fun d => { d with fills := d.fills.map fun x => if x.pte = f.pte then { x with taken := true } else x }
          .next { s with sqes := Sparse.put sqe ⟨die, f.pte, f.part, frame, s.clk⟩ s.sqes, poolLog := s.poolLog.filter (· != f.pte) }

/-! ### The end of a fill -/

/-- The waiters of a die on a leaf become ready (R305, R310): teams, control cores, engine commands and tap items. Where the
fill has failed, those that waited for it meet STORAGE_ERR when they try again. -/
def State.wake (s : State) (die pte : Nat) (failed : Bool) : State :=
  let free (th : Thr) : Thr :=
    { th with awaits := th.awaits.filter (· != pte), stErr := if failed && th.awaits.contains pte then setOf (th.stErr ++ [pte]) else th.stErr }
  let fills := (s.die die).fills.filter (·.pte == pte)
  let team (t : Team) : Team :=
    if t.die == die && t.waits.contains pte then
      { t with waits := t.waits.filter (· != pte), groups := t.groups.map fun (g : Nat × Thr) => (g.1, free g.2) }
    else t
  let s : State := { s with teams := s.teams.map fun (t : Nat × Team) => (t.1, team t.2) }
  let s := if failed then (fills.flatMap (·.ctls)).foldl (fun s q => s.mapThr (.ctl q) fun th => { th with stErr := setOf (th.stErr ++ [pte]) }) s else s
  let stalled (x : Option (Nat × Bool)) : Option (Nat × Bool) := if x = some (pte, false) then (if failed then some (pte, true) else none) else x
  let s : State := { s with cmds := s.cmds.map fun (c : EngCmd) => { c with stall := if c.die = die then stalled c.stall else c.stall } }
  s.mapDie die fun d => { d with fills := d.fills.filter (·.pte != pte), tapStall := stalled d.tapStall }

/-- Count what an SQE has done (R374). -/
def State.countSqe (s : State) (k : Nat) : State := { s with sqeStats := bump k s.sqeStats }

/-- No cached copy of a line of a frame is kept: whoever reaches the frame through the leaf that is published next meets its data
(R297, R305). -/
def State.dropFrame (s : State) (frame : Nat) : State :=
  let keep (line : Nat) : Bool := line * 128 / 65536 != frame
  { s with cores := s.cores.map fun c => (c.1, { c.2 with copies := c.2.copies.filter fun x => keep x.line })
           quads := s.quads.map fun q => (q.1, { q.2 with fib := q.2.fib.filter fun x => keep x.line }) }

/-- A leaf with a resident page in a frame: RES = 1, D = 0 (R305). -/
def residentLeaf (l : BitVec 128) (frame : Nat) : BitVec 128 :=
  BitVec.ofNat 128 (l.toNat % 2 ^ 30 + frame % 2 ^ 34 * 2 ^ 30 + l.toNat / 2 ^ 64 * 2 ^ 64) &&& ~~~(0x80 : BitVec 128) ||| 0x40

/-- Two seconds in cycles of the present clock. -/
def State.twoSeconds (s : State) : Nat := 2000000 * s.power.clock

/-- Whether the storage port of an extent has a controller that has been brought up (R309, R378). -/
def State.driveUp (s : State) (part xref : Nat) : Bool := s.nvme.contains (s.extentOf part xref).port.toNat

/-- FILL_COMPLETE: the page's bytes are in the frame, and the leaf is published resident (R305, R309). A leaf that has
been removed meanwhile gets no page. -/
def execFillComplete (sqe : Nat) (s : State) : Out :=
  match s.sqes.find? (·.1 == sqe) with
  | none => .next s
  | some (_, x) =>
    let l := s.leafAt x.part x.pte
    let s' := { s with sqes := Sparse.del sqe s.sqes }
    if x.since + s.twoSeconds ≤ s.clk then .next s
    else if !Leaf.v l || Leaf.cls l != 2 || Leaf.res l then .next ((s'.freeFrame x.part x.frame).wake x.die x.pte false)
    else if !s.driveUp x.part (Leaf.xref l) then .next s
    else
      let l' := residentLeaf l x.frame
      let s' := (s'.readIn x.part l' x.frame).writeTable x.part x.pte (leBytes 16 l'.toNat)
      let s' := (s'.mapFrame x.frame fun r => { r with key := some (Leaf.key l), maps := 1 }).dropFrame x.frame
      .next ((s'.wake x.die x.pte false).countSqe (4 * sqe))

/-- A read that has failed: the frame returns to the pool, the leaf stays not resident (R310). -/
def State.failFill (s : State) (sqe : Nat) (x : Sqe) : State :=
  (({ s with sqes := Sparse.del sqe s.sqes } : State).freeFrame x.part x.frame).wake x.die x.pte true

/-- FILL_READ_FAIL: the read has ended with a nonzero NVMe status. -/
def execFillReadFail (sqe : Nat) (s : State) : Out :=
  match s.sqes.find? (·.1 == sqe) with
  | none => .next s
  | some (_, x) => .next ((s.failFill sqe x).countSqe (4 * sqe + 1))

/-- NVME_READ_TIMEOUT: a read that has not completed within 2 s counts as failed. -/
def execNvmeReadTimeout (sqe : Nat) (s : State) : Out :=
  match s.sqes.find? (·.1 == sqe) with
  | none => .next s
  | some (_, x) => if x.since + s.twoSeconds ≤ s.clk then .next ((s.failFill sqe x).countSqe (4 * sqe + 2)) else .next s

/-- STORAGE_DMA_REJECT: drive DMA is accepted only into and out of the frames of commands in flight on its port (R309). -/
def execStorageDmaReject (port addr : Nat) (s : State) : Out :=
  let inFlight := s.sqes.any fun x =>
    x.2.frame == addr / 65536 && (s.extentOf x.2.part (Leaf.xref (s.leafAt x.2.part x.2.pte))).port.toNat == port
  .next (if inFlight then s else { s with unsup := s.unsup + 1 })

/-! ### The Harvest engine (R324) -/

/-- The frame of a draining page and where its leaf lies. -/
def State.drainLeaf (s : State) (d : Drain) : Option (BitVec 128 × Nat) :=
  let r := s.region d.part d.region
  match s.walk r.qif (r.rbase + 65536 * d.page) with
  | .leaf l pte => some (l, pte)
  | _ => none

/-- The page that a Harvest engine frees next: the one whose step 1 ended first, of several in one cycle that of the lower
number. -/
def Die.nextDrain (x : Die) : Option Drain :=
  let at_ (d : Drain) : Nat := d.done.getD 0
  pickBy (fun a b => decide (at_ a < at_ b) || (at_ a == at_ b && decide (a.page < b.page))) (x.drains.filter (·.done.isSome))

/-- Whether every access that has been translated to a page's frame has been performed (R324 step 3). -/
def State.drainReady (s : State) (d : Drain) : Bool :=
  match s.drainLeaf d with
  | some (l, _) => (s.inFlight fun _ o => o.reaches (Leaf.frame l)).isEmpty
  | none => true

/-- HARVEST_FREE: the next page leaves its region, once the accesses to its frame have ended: V is cleared, its translations
are dropped, the frame returns to the pool, and an empty region without views ceases to exist. -/
def execHarvestFree (die : Nat) (s : State) : Out :=
  match (s.die die).nextDrain with
  | none => .next s
  | some d =>
    if !s.drainReady d then .next s
    else
      let s1 := match s.drainLeaf d with
        | some (l, pte) =>
          let s := s.writeTable d.part pte [(l.setWidth 8 &&& 0xFE : Byte)]
          (s.dropTlb fun e => e.pa == pte).freeFrame d.part (Leaf.frame l)
        | none => s
      let s2 := s1.mapRegion d.part d.region fun r =>
        { r with draining := r.draining.filter (· != d.page), harvested := r.harvested ++ [d.page] }
      .next ((s2.endRegion d.part d.region).mapDie die fun x => { x with drains := x.drains.filter (· != d) })

end Sys2Proof.Machine
end

