-- ==== Sys2Proof/Machine/Firmware.lean ====
section
/-! DEFINITION. Firmware: the call interface (R364, R365), leaves (R301 to R303), regions (R317), keys (R367),
pre-emption (R275, R280, R281), partitions (R362, R363, R366), extents (R308), and what firmware does to control
cores and to the lease clock (R110, R231, R334). -/

namespace Sys2Proof.Machine

open Sys2Proof

/-! ### Calls (R365) -/

/-- Statuses of a call beyond the refusals of Table 20.5. (PRESUMED, log entry 50.) -/
def stNoKeySlot : BitVec 8 := 0x09
@[inherit_doc stNoKeySlot]
def stKeyBusy : BitVec 8 := 0x0A
@[inherit_doc stNoKeySlot]
def stDenied : BitVec 8 := 0x0B
@[inherit_doc stNoKeySlot]
def stUnknown : BitVec 8 := 0x0C
/-- The refusals of Table 20.5 that other calls share. -/
def stMalformed : BitVec 8 := 0x01
@[inherit_doc stMalformed]
def stNoKey : BitVec 8 := 0x07

/-- What firmware decides: a refusal, which changes nothing; an effect, with the accesses that must be performed before
it reports success; nothing, where the event cannot happen; a page-table node outside the physical regions. -/
inductive Verdict where
  | refuse (st : BitVec 8)
  | effect (s : State) (ops : List (Agent × Nat))
  | skip
  | hole

/-- The 64 bytes of a response, whose layout the manual does not give. -/
def State.responseBytes (s : State) : List Byte :=
  (List.range 8).flatMap fun i => leBytes 8 (Config.freeWord s.freeCtr (810000 + i)).toNat

/-- Firmware ends a call: CALLRSP, then CALLST, BUSY last. -/
def State.endCall (s : State) (q : Nat) (st : BitVec 8) : State :=
  { s with taken := none }.mapQif q fun x => { x with rsp := s.responseBytes, callst := st, busy := false, drain := [] }

/-- An interface in ERROR drops a call: no response and no status (Table 23.4). -/
def State.dropCall (s : State) (q : Nat) : State := s.mapQif q fun x => { x with busy := false }

/-- The call level of an interface: interface 0 belongs to the hypervisor (R364). -/
def State.callLevel (s : State) (q : Nat) : Nat := if q = 0 then 2 else (s.qif q).call

/-- Whether an interface may make a call of a level: a protected partition's only in RUN (R365, R366). -/
def State.mayCall (s : State) (q least : Nat) : Bool :=
  let x := s.qif q
  decide (least ≤ s.callLevel q) && (!(s.part x.part).guarded || x.tdi == .run)

/-- Whether a rung call is the one that an event serves: the event's interface rang it in an earlier cycle, so that no call of
its cycle is still to come, and byte 0 of its CALLREQ is the event's code (R365). -/
def Bell.serves (b : Bell) (s : State) (h : CallHdr) (code : Byte → Bool) : Bool :=
  decide (b.clk < s.clk) && b.qif == h.qif && code (b.req.headD 0)

/-- Serve the call that was rung first, where it is the event's (R365). While a call is in progress the firmware takes no other
one; it ends that call once the accesses it waits for have been performed. The event carries the arguments, whose places in
CALLREQ the manual does not give. (DESIGN CHOICE, log entry 51.) -/
def firmwareCall (h : CallHdr) (code : Byte → Bool) (least : Nat) (body : State → Verdict) (s : State) : Out :=
  match s.taken, s.bells with
  | some q, _ => .next (if s.landed (s.qif q).drain then s.endCall q 0 else s)
  | none, [] => .next s
  | none, b :: rest =>
    if !b.serves s h code then .next s
    else
      let t := { s with bells := rest }
      if (s.qif h.qif).tdi = .error then .next (t.dropCall h.qif)
      else if !s.mayCall h.qif least then .next (t.endCall h.qif stDenied)
      else match body t with
        | .refuse st => .next (t.endCall h.qif st)
        | .effect t' [] => .next (t'.endCall h.qif 0)
        | .effect t' ops => .next ({ t' with taken := some h.qif }.mapQif h.qif fun x => { x with drain := ops })
        | .skip => .next s
        | .hole => .fault .noSuchMemory

/-- Whether a call of interface q may change what belongs to partition p: its own, or any as the hypervisor. -/
def State.mayChange (s : State) (q p : Nat) : Bool := s.callLevel q == 2 || ((s.qif q).part == p && (s.part p).live)

/-! ### MAP and UNMAP (R301 to R303) -/

/-- A class 2 leaf that has no frame. -/
def Leaf.bare (l : BitVec 128) : Bool := Leaf.cls l == 2 && !Leaf.res l

/-- The 64 KiB frames of a page from a frame on. -/
def pageFrames (ps f : Nat) : List Nat := (List.range (2 ^ (pageBits ps - 16))).map fun i => canon (65536 * (f + i)) / 65536

/-- The frames that a leaf maps, a shadow page's partner included. -/
def Leaf.frames (l : BitVec 128) : List Nat :=
  if Leaf.bare l then []
  else pageFrames (Leaf.ps l) (Leaf.frame l) ++ (if Leaf.cls l = 3 then pageFrames (Leaf.ps l) (Leaf.xref l) else [])

/-- Check 1 of Table 20.5. -/
def mapMalformed (a : MapArgs) : Bool :=
  let l := a.leaf
  let ps := Leaf.ps l
  !Leaf.v l || ps == 3 || (levels[a.level]?.bind fun x => x.2.2) != some ps
    || Leaf.frame l % 2 ^ (pageBits ps - 16) != 0 || a.va % 2 ^ pageBits ps != 0 || decide (2 ^ 52 ≤ a.va)
    || (Leaf.cls l != 2 && !Leaf.res l) || (decide (Leaf.cls l < 2) && Leaf.xref l != 0) || (Leaf.cls l != 2 && Leaf.pidx l != 0)

/-- Whether two pages lie in one region of Table 20.4. -/
def sameRegion (a b n : Nat) : Bool :=
  Config.regions.any fun r => decide (r.1 ≤ a) && decide (a + n ≤ r.2) && decide (r.1 ≤ b) && decide (b + n ≤ r.2)

/-- Whether an active key of a partition has an ID. -/
def State.hasKey (s : State) (part id : Nat) : Bool := s.keys.any fun k => k.2.active && k.2.id == id && k.2.part == part

/-- The checks of Table 20.5 in order: true where a check fails. -/
def State.leafChecks (s : State) (part : Nat) (a : MapArgs) : List Bool :=
  let l := a.leaf
  let bare := Leaf.bare l
  let n := 2 ^ pageBits (Leaf.ps l)
  let own (f : Nat) : Bool := (s.frame f).owner == some part
  let x := s.extentOf part (Leaf.xref l)
  [ mapMalformed a,
    !bare && !inRegion (65536 * Leaf.frame l) n,
    !bare && !(pageFrames (Leaf.ps l) (Leaf.frame l)).all own,
    !Block.legal (Leaf.fmt l) (Leaf.geo l),
    Leaf.cls l == 2 && (!x.valid || decide (Config.extentEntries ≤ Leaf.xref l) || decide (x.pages.toNat ≤ Leaf.pidx l)
      || (x.skey == 0) != (Leaf.key l == 0) || Leaf.ps l != 0 || (x.ro && Leaf.w l)),
    Leaf.cls l == 3 && (!(pageFrames (Leaf.ps l) (Leaf.xref l)).all own
      || !sameRegion (65536 * Leaf.frame l) (65536 * Leaf.xref l) n),
    Leaf.key l != 0 && !s.hasKey part (Leaf.key l),
    (Leaf.frames l).any fun f => match (s.frame f).key with | some k => k != Leaf.key l | none => false ]

/-- What placing an entry in a table ends with. -/
inductive Placed where
  | ok (s : State) (old : BitVec 128) (pte : Nat)
  | clash
  | noNode
  | hole

/-- Bytes of a node at the first of some levels. -/
def nodeBytes : List (Nat × Nat × Option Nat) → Nat
  | (_, bits, _) :: _ => 16 * 2 ^ bits
  | [] => 16

/-- Whether a node may lie at an address (Table 20.3). -/
def nodeOk (rest : List (Nat × Nat × Option Nat)) (n : Nat) : Bool := n % nodeBytes rest == 0 && inRegion n (nodeBytes rest)

/-- Make an empty node of a partition's page tables. -/
def State.newNode (s : State) (part a n : Nat) : State :=
  (if (s.tableKey part).isSome then s.writeTable part a (List.replicate n 0)
   else { s with mem := s.mem.filter fun c => decide (c.1 < a) || decide (a + n ≤ c.1) }).mapPart part fun p =>
    { p with nodes := p.nodes ++ [(a, n)] }

/-- Put a leaf at its level in a partition's table, with new nodes for the levels that have none. -/
def State.placeLeaf (part va target : Nat) (l : BitVec 128) : List (Nat × Nat × Option Nat) → Nat → Nat → List Nat → State → Placed
  | [], _, _, _, _ => .clash
  | (sh, bits, _) :: rest, i, node, nodes, s =>
    let pte := node + 16 * bitsOf va sh bits
    let e := s.leafAt part pte
    if !inRegion pte 16 then .hole
    else if i = target then
      if Leaf.v e && Leaf.ps e == 3 then .clash else .ok (s.writeTable part pte (leBytes 16 l.toNat)) e pte
    else if Leaf.v e then
      if Leaf.ps e = 3 then State.placeLeaf part va target l rest (i + 1) (bitsOf e.toNat 64 50) nodes s else .clash
    else match nodes with
      | [] => .noNode
      | n :: ns =>
        if !nodeOk rest n then .noNode
        else State.placeLeaf part va target l rest (i + 1) n ns
          ((s.newNode part n (nodeBytes rest)).writeTable part pte (leBytes 16 (1 + 3 * 2 ^ 28 + n * 2 ^ 64)))

/-- Record in the frame ownership table that a leaf maps its frames (R302). -/
def State.noteMapped (s : State) (l : BitVec 128) : State :=
  (Leaf.frames l).foldl (fun s f => s.mapFrame f fun r => { r with key := some (Leaf.key l), maps := r.maps + 1 }) s

/-- Record that a leaf no longer maps its frames: a frame that nothing maps is under no key. -/
def State.noteUnmapped (s : State) (l : BitVec 128) : State :=
  if !Leaf.v l then s
  else (Leaf.frames l).foldl (fun s f => s.mapFrame f fun r =>
    { r with maps := r.maps - 1, key := if r.maps ≤ 1 then none else r.key }) s

/-- After a change of an entry its translations go, and the accesses of the interface that used them must be performed
(R303, R357). -/
def State.shootDown (s : State) (iface pte : Nat) : Verdict :=
  .effect (s.dropTlb fun e => e.pa == pte) (s.inFlight fun b o => s.qifOf b == iface && o.kind.elems.any fun e => e.sp = .mem)

/-- MAP. A protected partition maps nothing in plaintext (R363), and nothing at all while its partition key is zeroised. -/
def State.mapCall (a : MapArgs) (q : Nat) (s : State) : Verdict :=
  let part := (s.qif a.iface).part
  if !s.mayChange q part || ((s.part part).guarded && Leaf.key a.leaf == 0) || s.tablesLost part then .refuse stDenied
  else match (s.leafChecks part a).findIdx? (· == true) with
    | some i => .refuse (BitVec.ofNat 8 (i + 1))
    | none =>
      let l := if Leaf.bare a.leaf then BitVec.ofNat 128 (a.leaf.toNat % 2 ^ 30 + a.leaf.toNat / 2 ^ 64 * 2 ^ 64) else a.leaf
      match State.placeLeaf part a.va a.level l levels 0 (s.qif a.iface).root a.nodes s with
      | .clash => .refuse stMalformed
      | .noNode => .skip
      | .hole => .hole
      | .ok s old pte =>
        let s := (s.noteUnmapped old).noteMapped l
        if Leaf.v old then s.shootDown a.iface pte else .effect s []

/-- UNMAP. An address that no leaf maps has nothing to remove. -/
def State.unmapCall (iface va q : Nat) (s : State) : Verdict :=
  if !s.mayChange q (s.qif iface).part then .refuse stDenied
  else if 2 ^ 52 ≤ va then .refuse stMalformed
  else match s.walk iface va with
    | .hole => .hole
    | .none => .effect s []
    | .leaf l pte => ((s.writeTable (s.qif iface).part pte (leBytes 16 0)).noteUnmapped l).shootDown iface pte

def execMap (h : CallHdr) (a : MapArgs) (s : State) : Out := firmwareCall h (· == 0x01) 1 (State.mapCall a h.qif) s
def execUnmap (h : CallHdr) (iface va : Nat) (s : State) : Out := firmwareCall h (· == 0x02) 1 (State.unmapCall iface va h.qif) s

/-! ### REGION (R317) -/

/-- Whether every page of a region is a plain 64 KiB page of class 1. -/
def State.regionMapped (s : State) (a : RegionArgs) : Bool :=
  (List.range a.pages).all fun j => match s.walk a.iface (a.rbase + 65536 * j) with
    | .leaf l _ => Leaf.cls l == 1 && Leaf.ps l == 0 && Leaf.fmt l == 0
    | _ => false

/-- The entry that REGION writes (Table 21.1). -/
def regionEntry (a : RegionArgs) : Region := ⟨true, a.rbase, 0, a.hdie, a.esh, a.pages, a.ctree, a.iface, [], []⟩

/-- Open the first views of a region in the free slots in turn; none where the slots do not suffice. -/
def State.firstViews (part k : Nat) : List (Nat × Nat) → State → Option State
  | [], s => some s
  | (lo, hi) :: r, s => match s.freeSlot part with
    | some n => State.firstViews part k r (s.openView part n k lo hi)
    | none => none

def State.regionCall (a : RegionArgs) (q : Nat) (s : State) : Verdict :=
  let bad := decide (Config.regionEntries ≤ a.index) || (s.region a.part a.index).live || a.rbase % 65536 != 0
    || decide (12 < a.esh) || decide (Config.dies ≤ a.hdie) || a.pages == 0 || decide (65535 < a.pages)
    || decide (2 ^ 52 < a.rbase + 65536 * a.pages) || decide (8 < a.views.length)
    || a.views.any (fun v => decide (v.2 < v.1) || decide ((regionEntry a).elems < v.2))
  if !s.mayChange q a.part || (s.qif a.iface).part != a.part then .refuse stDenied
  else if bad || !s.regionMapped a then .refuse stMalformed
  else match State.firstViews a.part a.index a.views (s.mapRegion a.part a.index fun _ => (regionEntry a)) with
    | some s => .effect s []
    | none => .refuse stMalformed

def execRegion (h : CallHdr) (a : RegionArgs) (s : State) : Out := firmwareCall h (· == 0x03) 1 (State.regionCall a h.qif) s

/-! ### Keys (R367) -/

/-- The session of a number that FINISH has completed. -/
def State.sessionOf (s : State) (id : Option Nat) : Option Session := s.sessions.find? fun x => some x.id == id && x.ready

/-- Its key. -/
def State.sessionKeyOf (s : State) (id : Option Nat) : Option (BitVec 256) :=
  (s.sessionOf id).map (·.key)

/-- A key slot that holds no key. -/
def KeySlot.free : KeySlot := ⟨false, 0, 0, 0⟩

/-- The lowest free key slot. -/
def State.freeKeySlot (s : State) : Option Nat := (List.range Config.keySlots).find? fun n => !(Sparse.get KeySlot.free n s.keys).active

/-- KEYNEW for a partition, with a key wrapped under a session key; the mailbox of an ordinary partition has no session, and
its key is unwrapped under zero. (DESIGN CHOICE, log entry 51.) -/
def State.keynewCall (part : Nat) (session : BitVec 256) (id : Nat) (key : BitVec 512) (s : State) : Verdict :=
  if id = 0 ∨ 4095 < id then .refuse stMalformed
  else match s.freeKeySlot with
    | none => .refuse stNoKeySlot
    | some n =>
      if s.keys.any fun k => k.2.active && k.2.id == id then .refuse stKeyBusy
      else .effect { s with keys := Sparse.put n ⟨true, id, part, Config.unwrap session key⟩ s.keys } []

/-- KEYNEW over the mailbox: a protected partition's ends Denied. -/
def State.keynewMail (q id : Nat) (key : BitVec 512) (s : State) : Verdict :=
  if (s.part (s.qif q).part).guarded then .refuse stDenied else s.keynewCall (s.qif q).part 0 id key

def State.keydelCall (q id : Nat) (s : State) : Verdict :=
  match s.keys.find? fun k => k.2.active && k.2.id == id && s.mayChange q k.2.part with
  | none => .refuse stNoKey
  | some (n, _) =>
    if s.frames.any fun f => f.2.key == some id then .refuse stKeyBusy
    else .effect { s with keys := Sparse.put n KeySlot.free s.keys } []

def execKeydel (h : CallHdr) (id : Nat) (s : State) : Out := firmwareCall h (· == 0x05) 1 (State.keydelCall h.qif id) s

/-! ### PREEMPT (R275, R280, R281) -/

/-- Whether a partition keeps a core on a die. -/
def State.keepsCore (s : State) (part d : Nat) : Bool :=
  (s.quadsOf part).any fun q => q / Config.quadsPerDie == d && (List.range 4).any fun i => !(s.part part).vacated.contains (4 * q + i)

/-- Deal chunks to dies in round robin. -/
def dealChunks (ds : List Nat) : Nat → List Nat → List (Nat × List Nat) → List (Nat × List Nat)
  | _, [], m => m
  | i, c :: r, m =>
    let d := ds.getD (i % ds.length) 0
    dealChunks ds (i + 1) r (Sparse.put d (Sparse.get [] d m ++ [c]) m)

/-- Unstarted chunks leave the dies on which a launch keeps no core (R280). -/
def State.handOver (s : State) (k : Nat) : State :=
  let l := s.launch k
  let (keep, lost) := (List.range Config.dies).partition (s.keepsCore l.part)
  if keep.isEmpty ∨ !l.live then s
  else
    let moved := lost.flatMap fun d => Sparse.get [] d l.chunks
    s.mapLaunch k fun l => { l with chunks := dealChunks keep 0 moved (l.chunks.filter fun c => keep.contains c.1) }

/-- Vacate one core: its teams are asked to go, and its partition is placed there no more. -/
def State.vacate (s : State) (c : Nat) : State :=
  let s := ((s.residents c).filter fun t => t.2.stage == .resident).foldl (fun s t => s.askPreempt t.1) s
  match s.quadOwner (c / 4) with
  | some p => s.mapPart p fun x => { x with vacated := if x.vacated.contains c then x.vacated else x.vacated ++ [c] }
  | none => s

def State.preemptCall (cores ctls : List Nat) (s : State) : Verdict :=
  if cores.any (fun c => decide (Config.cores ≤ c)) || ctls.any (fun q => decide (Config.quads ≤ q)) then .refuse stMalformed
  else
    let s := cores.foldl State.vacate s
    let s := ctls.foldl (fun s q => if (s.quad q).prog.isSome then s.mapQuad q fun x => { x with preempt := true } else s) s
    .effect ((s.launches.map (·.1)).foldl State.handOver s) []

def execPreempt (h : CallHdr) (cores ctls : List Nat) (s : State) : Out := firmwareCall h (· == 0x06) 2 (State.preemptCall cores ctls) s

/-! ### PART_CONFIG (R302, R362 to R366) -/

/-- The bitmaps of Table 23.1 with the numbers of their resources. -/
def bitmapClasses (b : Bitmaps) : List (Nat × List Nat) :=
  [(Config.quads, b.quads), (256, b.banks), (512, b.channels), (128, b.copy), (16, b.sqes), (4, b.taps), (16, b.finper),
   (8, b.cxl), (256, b.dieUnits)]

/-- Whether bitmaps name existing resources only, and none of another's. (DESIGN CHOICE, log entry 36.) -/
def bitmapsFit (b : Bitmaps) : Bool := (bitmapClasses b).all fun c => c.2.all fun n => decide (n < c.1)
@[inherit_doc bitmapsFit]
def bitmapsApart (a b : Bitmaps) : Bool := ((bitmapClasses a).zip (bitmapClasses b)).all fun c => c.1.2.all fun n => !c.2.2.contains n

/-- Whether what PART_CONFIG sets for an interface is well formed. Its level is that of the programs launched through it, up
to hypervisor, and maker while a debug unlock is in force (R337). (DESIGN CHOICE, log entry 72.) -/
def ifaceOk (unlock : Bool) (i : IfaceArgs) (part : Nat) : Bool :=
  decide (i.qif < interfaceCount) && i.part == part && decide (i.level ≤ (if unlock then 3 else 2)) && i.call == (if i.qif = 0 then 2 else 1)
    && nodeOk levels i.root

/-- Whether the scratchpad boundary of a quad may be set so (R136): the partition's quad, a multiple of 4 KiB up to the size
of a scratchpad, and no team or program on the quad whose spaces would move. -/
def State.boundaryOk (s : State) (quads : List Nat) (b : Nat × Nat) : Bool :=
  quads.contains b.1 && b.2 % 4096 == 0 && decide (b.2 ≤ Config.scratchBytes)
    && ((s.quad b.1).quadPart == b.2
      || ((s.quad b.1).prog.isNone && (List.range 4).all fun i => (s.residents (4 * b.1 + i)).isEmpty))

/-- Whether a partition with some bitmaps may own a frame (Table 23.1): one of the HBM needs pseudo-channels and an L2 bank of its
own, or the shared pool, one of the CXL tier a CXL port, one of the peer window a Finper port. Which of them, the manual does
not say. (DESIGN CHOICE, log entry 36.) -/
def bitmapsHold (b : Bitmaps) (useShared : Bool) (f : Nat) : Bool :=
  let a := 65536 * f
  if a < 2 ^ 40 then !b.channels.isEmpty && (useShared || !b.banks.isEmpty)
  else if 2 ^ 44 ≤ a ∧ a < 2 ^ 45 then !b.cxl.isEmpty
  else if 2 ^ 49 ≤ a ∧ a < 2 ^ 50 then !b.finper.isEmpty
  else true

/-- The frames that a partition owns once PART_CONFIG has set their records. -/
def State.framesAfter (s : State) (a : PartArgs) : List Nat :=
  let given := (a.frames.filter (!·.2)).map (·.1)
  (s.frames.filterMap fun f => if f.2.owner = some a.part ∧ !given.contains f.1 then some f.1 else none)
    ++ (a.frames.filter (·.2)).map (·.1)

/-- Whether work of the partition stands on none of what the bitmaps take away: no team or program on a quad, and no launch
with part of the die scratchpads. (DESIGN CHOICE, log entry 36.) -/
def State.nothingStands (s : State) (p : Nat) (b : Bitmaps) : Bool :=
  let old := (s.part p).maps
  (old.quads.all fun q => b.quads.contains q
    || ((s.quad q).prog.isNone && (List.range 4).all fun i => (s.residents (4 * q + i)).isEmpty))
    && (old.dieUnits.all (b.dieUnits.contains ·) || s.launches.all fun l => !l.2.live || l.2.part != p)

/-- Whether a configuration is well formed. -/
def State.partArgsOk (s : State) (a : PartArgs) : Bool :=
  let p := s.part a.part
  decide (a.part < partitionCount) && (!p.live || p.guarded == a.guarded) && !(a.guarded && a.useShared)
    && decide (1 ≤ a.tq) && decide (a.tq ≤ 1000) && bitmapsFit a.maps
    && s.parts.all (fun x => x.1 == a.part || !x.2.live || bitmapsApart a.maps x.2.maps)
    && (s.framesAfter a).all (bitmapsHold a.maps a.useShared) && s.nothingStands a.part a.maps
    && a.frames.all (fun f => decide (f.1 < 2 ^ 34) && (!f.2 || (match (s.frame f.1).owner with | some o => o == a.part | none => true)))
    && a.ifaces.all (ifaceOk s.unlock · a.part)
    && a.quadParts.all (s.boundaryOk a.maps.quads) && a.members.all (fun m => decide m.2.Nodup)
    && a.savePools.all (fun d => decide (d.1 < Config.dies))

/-- An interface goes to ERROR and its walker stops (Table 23.4). -/
def Qif.toError (x : Qif) : Qif := { x with tdi := .error, walking := false }

/-- The interfaces of the touched partitions that a tenant holds locked or running go to ERROR (R366). -/
def State.unbind (s : State) (touched : List Nat) : State :=
  { s with qifs := s.qifs.map fun (x : Nat × Qif) =>
      (x.1, if touched.contains x.2.part && (x.2.tdi == .locked || x.2.tdi == .run) then x.2.toError else x.2) }

/-- Take a frame into a partition, or give it up. -/
def State.setFrame (s : State) (part : Nat) (f : Nat × Bool) : State :=
  let r := s.frame f.1
  if f.2 then if r.owner = some part then s else s.mapFrame f.1 fun _ => ⟨some part, none, 0, false⟩
  else if r.owner = some part then
    (s.mapFrame f.1 fun _ => FrameRec.free).mapPart part fun p => { p with pool := p.pool.filter (· != f.1) }
  else s

/-- Set an interface; translations of its old table go. The interfaces of an ordinary partition are in CONFIG_UNLOCKED (R366).
A root that is no node of the partition yet becomes an empty one. -/
def State.setIface (s : State) (i : IfaceArgs) : State :=
  let s := (s.dropTlb fun e => e.qif == i.qif).mapQif i.qif fun x =>
    { x with pasid := i.pasid, part := i.part, call := i.call, level := i.level, root := i.root
             tdi := if (s.part i.part).guarded then x.tdi else .unlocked }
  if (s.part i.part).nodes.any (·.1 == i.root) then s else s.newNode i.part i.root (nodeBytes levels)

/-- Whether PART_CONFIG draws a partition key: for a protected partition that has none. -/
def Part.needsKey (p : Part) (a : PartArgs) : Bool := a.guarded && !(p.live && p.key != 0)

/-- The partition's record after PART_CONFIG: a new protected partition gets its key (R363) and no page tables yet,
coll its member lists (R202), and the dies their save pools (R314). -/
def Part.configured (p : Part) (a : PartArgs) (fresh : BitVec 512) : Part :=
  { p with live := true, guarded := a.guarded, maps := a.maps, useShared := a.useShared, tq := BitVec.ofNat 32 a.tq
           key := if !a.guarded then 0 else if p.needsKey a then fresh else p.key
           nodes := if p.needsKey a then [] else p.nodes
           stopped := false, vacated := [], savePools := a.savePools
           members := a.members.foldl (fun m x => Sparse.put x.1 x.2 m) [] }

def State.partConfigCall (a : PartArgs) (s : State) : Verdict :=
  if !s.partArgsOk a then .refuse stMalformed
  else
    let touched := a.part :: a.ifaces.map fun i => (s.qif i.qif).part
    let s := (s.unbind touched).mapPart a.part fun p => p.configured a (Config.partitionKey s.freeCtr)
    let s := a.ifaces.foldl State.setIface (a.frames.foldl (fun s f => s.setFrame a.part f) s)
    let s := a.quadParts.foldl (fun s b => s.mapQuad b.1 fun x => { x with quadPart := b.2 }) s
    let back := a.maps.quads.filter fun q => match (s.quad q).spare with | some (k, _) => (s.launch k).part == a.part | none => false
    .effect (back.foldl State.resumeProgram s) []

def execPartConfig (h : CallHdr) (a : PartArgs) (s : State) : Out := firmwareCall h (· == 0x07) 2 (State.partConfigCall a) s

/-! ### EXTENT (R308) and unknown calls -/

def State.extentCall (part index : Nat) (e : ExtentArgs) (s : State) : Verdict :=
  if partitionCount ≤ part ∨ Config.extentEntries ≤ index then .refuse stMalformed
  else .effect (s.mapPart part fun p => { p with extents := Sparse.put index e p.extents }) []

def execExtent (h : CallHdr) (part index : Nat) (e : ExtentArgs) (s : State) : Out := firmwareCall h (· == 0x08) 2 (State.extentCall part index e) s

/-- A call whose code Table 23.3 does not list ends Unknown call, at any level. -/
def execUnknownCall (h : CallHdr) (code : BitVec 8) (s : State) : Out :=
  firmwareCall h (fun c => c == code && (c == 0 || decide (8 < c.toNat))) 0 (fun _ => .refuse stUnknown) s

/-! ### Control cores and the lease clock -/

/-- Firmware restarts a control core that has halted (R110). -/
def execControlCoreRestart (q : Nat) (s : State) : Out := .next (s.mapQuad q fun x => { x with halted := false })

/-- Firmware ends a program: its unstarted matrix commands are dropped and its queues close (R229, R231); one that
pre-emption has saved never comes back. -/
def execFirmwareEndsProgram (q : Nat) (s : State) : Out :=
  let x := s.quad q
  .next (if x.prog.isSome then s.endProgram q
    else if x.spare.isSome then (s.closeProgram q).mapQuad q fun x => { x with spare := none, spill := [] }
    else s)

/-- A die firmware reset: recovery, with lsync clear (R334, R378). -/
def execDieFirmwareReset (d : Nat) (s : State) : Out := .next (if d < Config.dies then { s with lsync := false } else s)

/-- The lease clock network synchronises again, once bring-up has come to it (R378); the end of diagnostic mode. -/
def execLeaseClockResync (s : State) : Out :=
  .next (if 4 ≤ s.boot.stage then { s with lsync := true, boot := { s.boot with diag := false } } else s)

end Sys2Proof.Machine
end

