-- ==== Sys2Proof/Machine/Security.lean ====
section
/-! DEFINITION. The device boundary: kills (R372), the host link (R370), ECC (R371), SPDM (R368, R369), TDISP
(R366), KEYNEW in a session (R367), what else the host does (R364, R365, R374), IDE (R375), Finper links (R376), power (R377) and
package reset (R378). -/

namespace Sys2Proof.Machine

open Sys2Proof

/-! ### Stopping a partition's work -/

/-- The launch that an agent works for, a program saved by pre-emption included. -/
def State.workOf (s : State) : Agent → Option Nat
  | .grp t _ => some (s.team t).launch
  | .ctl q => match (s.quad q).prog with
    | some k => some k
    | none => (s.quad q).spare.map (·.1)

/-- Whether an agent works for a partition. -/
def State.worksFor (s : State) (p : Nat) (a : Agent) : Bool :=
  match s.workOf a with | some k => (s.launch k).part == p | none => false

/-- The command that an item of a tap FIFO belongs to. -/
def TapItem.cmd : TapItem → Nat
  | .command c _ _ _ => c.id
  | .watched c _ => c
  | .push c _ _ => c
  | .encode c _ => c
  | .fate c _ _ => c

/-- A quad without a partition's work. -/
def Quad.without (x : Quad) (mine : Agent → Bool) (ofPart : Nat → Bool) (ofQif : Nat → Bool) (q : Nat) : Quad :=
  let runs := match x.prog with | some k => ofPart k | none => false
  let waits := match x.spare with | some (k, _) => ofPart k | none => false
  let x := { x with
    queued := x.queued.filter fun k => !ofPart k
    mq := x.mq.filter fun c => !mine c.a
    scan := match x.scan with | some y => if ofQif y.qif then none else some y | none => none }
  if mine (.ctl q) then
    { x with prog := if runs then none else x.prog, ctl := if runs then Thr.idle true else x.ctl
             spare := if waits then none else x.spare, preempt := false, queues := [], closed := [], spill := [] }
  else x

/-- A die without a partition's work. -/
def Die.without (d : Die) (mine : Agent → Bool) (p : Nat) : Die :=
  let queued := d.items.filterMap fun i => match i with | .command c _ _ _ => some c | _ => none
  let gone := ((d.cmds ++ queued).filter fun c => mine c.a).map (·.id)
  let headGone := match d.items with | i :: _ => gone.contains i.cmd | [] => false
  { d with fills := d.fills.filter fun f => f.part != p
           items := d.items.filter fun i => !gone.contains i.cmd
           cmds := d.cmds.filter fun c => !gone.contains c.id
           tapStall := if headGone then none else d.tapStall }

/-- Every group and program of a partition stops without a save; its engine, matrix, tap and storage work is abandoned
(R370, R372). -/
def State.stopWork (s : State) (p : Nat) : State :=
  let mine := s.worksFor p
  let ofPart (k : Nat) : Bool := (s.launch k).part == p
  let ofQif (q : Nat) : Bool := (s.qif q).part == p
  let gone := (s.teams.filter fun t => ofPart t.2.launch && t.2.stage != .retired && t.2.stage != .absent).map (·.1)
  let reads := s.sqes.filter fun x => x.2.part == p
  let s1 : State := { s with
    quads := s.quads.map fun (x : Nat × Quad) => (x.1, x.2.without mine ofPart ofQif x.1)
    dies := s.dies.map fun (d : Nat × Die) => (d.1, d.2.without mine p)
    cmds := s.cmds.filter fun c => c.part != p
    sqes := s.sqes.filter fun x => x.2.part != p
    launches := s.launches.map fun (l : Nat × Launch) => (l.1, if l.2.part = p then { l.2 with live := false } else l.2) }
  let s2 := gone.foldl State.retireTeam s1
  reads.foldl (fun s x => s.freeFrame p x.2.frame) s2

/-- Zeroise the key slots and the partition key of a partition. The tables that the partition key encrypts are lost with it, so
that nothing maps a frame of the partition any more. (DESIGN CHOICE, log entry 78.) -/
def State.zeroise (s : State) (p : Nat) : State :=
  let s : State := { s with
    keys := s.keys.map fun (k : Nat × KeySlot) => (k.1, if k.2.part = p then KeySlot.free else k.2)
    frames := s.frames.map fun (f : Nat × FrameRec) => (f.1, if f.2.owner = some p then { f.2 with key := none, maps := 0 } else f.2)
    dies := s.dies.map fun (d : Nat × Die) => (d.1, { d.2 with drains := d.2.drains.filter (·.part != p) }) }
  s.mapPart p fun x => { x with key := 0, nodes := [], regions := [], views := [], extents := [], traced := false }

/-- The contents of a partition's frames are lost: free values. -/
def State.loseContents (s : State) (p : Nat) : State :=
  s.frames.foldl (fun (s : State) f =>
    if f.2.owner = some p then
      let bs := (List.range 8192).flatMap fun i => leBytes 8 (Config.freeWord s.freeCtr (2 ^ 32 + 8192 * f.1 + i)).toNat
      { s with mem := Memory.write s.mem (65536 * f.1) bs }
    else s) s

/-- The calls of a partition that are rung or in progress are abandoned. -/
def State.abandonCalls (s : State) (p : Nat) : State :=
  let ofQif (q : Nat) : Bool := (s.qif q).part == p
  { s with bells := s.bells.filter fun b => !ofQif b.qif
           taken := s.taken.filter fun q => !ofQif q
           qifs := s.qifs.map fun (x : Nat × Qif) => (x.1, if x.2.part = p then { x.2 with busy := false, drain := [] } else x.2) }

/-- The host launches of a partition finish with a status. -/
def State.finishAll (s : State) (p status : Nat) : State :=
  s.launches.foldl (fun (s : State) l =>
    if l.2.live && l.2.part == p && !l.2.mute then match l.2.src with
      | .chain q n addr => s.finishEntry q n addr status
      | _ => s
    else s) s

/-- Kill a partition (R372). (DEDUCED, log entry 53.) -/
def State.kill (s : State) (p : Nat) : State :=
  if !(s.part p).live then s
  else
    let s := (s.finishAll p 0x1A).stopWork p
    let s : State := { s with kills := s.kills ++ [p] }
    if (s.part p).guarded then
      ({ s with qifs := s.qifs.map fun (x : Nat × Qif) => (x.1, if x.2.part = p then x.2.toError else x.2) } : State).zeroise p
    else s.mapPart p fun x => { x with stopped := true }

/-! ### The host link (R370) -/

/-- HOST_LINK_RESET. Every walker stops, with what it has in hand; the launches of ordinary partitions run on and write no
completion word. -/
def execHostLinkReset (s : State) : Out :=
  let s1 : State := { s with
    qifs := s.qifs.map fun (x : Nat × Qif) => (x.1, { x.2 with tdi := .unlocked, walking := false, waitAt := none, signals := [] })
    launches := s.launches.map fun (l : Nat × Launch) => (l.1, { l.2 with mute := true })
    sessions := [], spdm := .closed, unread := false, linkUp := false }
  let guarded := (s.parts.filter fun p => p.2.live && p.2.guarded).map (·.1)
  .next (guarded.foldl (fun s p => (((s.stopWork p).abandonCalls p).loseContents p).zeroise p) s1)

/-! ### ECC (R371) and cache tags (R372) -/

/-- The class under which a correctable error is counted: HBM and the L2, the scratchpads, the register files, the
accumulators, code, metadata. -/
def eccClass : EccPlace → Nat
  | .memory _ => 0
  | .coreScratch _ _ => 1
  | .dieScratch _ _ => 2
  | .register _ _ _ => 3
  | .handle _ _ => 3
  | .accumulator _ _ _ => 4
  | .code _ => 5
  | .metadata _ => 6

def execEccCorrectable (w : EccPlace) (s : State) : Out :=
  .next { s with ecc := Sparse.put (eccClass w) (Sparse.get 0 (eccClass w) s.ecc + 1) s.ecc }

/-- Poison a register: a lane of a vector register by its position, or a scalar register. -/
def Thr.poisonReg (th : Thr) (reg lane : Nat) : Thr :=
  if th.scalar then { th with sregs := Sparse.put reg { (th.sreg reg) with poison := true } th.sregs }
  else
    let r := th.vreg reg
    { th with regs := Sparse.put reg { r with poison := r.poison ||| (1#32 <<< lane) } th.regs }

/-- The partition with a page-table node at an address (R371). -/
def State.nodeOwner (s : State) (pa : Nat) : Option Nat :=
  (s.parts.find? fun p => p.2.live && p.2.nodes.any fun n => decide (n.1 ≤ pa) && decide (pa < n.1 + n.2)).map (·.1)

/-- ECC_UNCORRECTABLE: data is marked where it lies; an error in a structure of protected metadata, a page table by its address,
kills its owner. -/
def execEccUncorrectable (w : EccPlace) (s : State) : Out :=
  .next (match w with
    | .memory pa => if inRegion pa 1 then
        match s.nodeOwner (canon pa) with
        | some p => s.kill p
        | none => s.addPoison .mem (canon pa / 32)
      else s
    | .coreScratch c off =>
      if c < Config.cores ∧ off < Config.scratchBytes then s.addPoison .scr ((c * Config.scratchBytes + off) / 32) else s
    | .dieScratch d off =>
      if d < Config.dies ∧ off < Config.dieScratchBytes then s.addPoison .dsp ((d * Config.dieScratchBytes + off) / 32) else s
    | .register a reg lane => if reg < (if (s.thr a).scalar then 64 else 256) ∧ lane < 32 then s.mapThr a fun th => th.poisonReg reg lane else s
    | .handle a n => if n < 16 then s.mapThr a fun th => { th with hs := Sparse.put n { (th.hreg n) with poison := true } th.hs } else s
    | .accumulator q n e =>
      s.mapQuad q fun x =>
        let y := Sparse.get Acc.zero n x.acc
        { x with acc := Sparse.put n { y with poison := if y.poison.contains e then y.poison else y.poison ++ [e] } x.acc }
    | .code a => match s.translate (s.who a) ⟨.fetch, 0, 0, false⟩ (s.thr a).issueAddr.toNat with
      | .ok pa _ => s.addPoison .mem (pa / 32)
      | _ => s
    | .metadata p => s.kill p)

/-- SHARED_TAG_PARITY_ERROR: the owner of the bank dies, or every partition that may use the shared pool. -/
def execSharedTagParityError (bank : Nat) (s : State) : Out :=
  .next (match s.parts.find? fun p => p.2.live && p.2.maps.banks.contains bank with
    | some (p, _) => s.kill p
    | none =>
      if 256 ≤ bank then s
      else ((s.parts.filter fun p => p.2.live && p.2.useShared && !p.2.guarded).map (·.1)).foldl State.kill s)

/-! ### SPDM (R368) -/

/-- The bytes of a digest or a key, most significant first. -/
def bytes256 (x : BitVec 256) : List Byte := Sha.highBytes 32 x.toNat
@[inherit_doc bytes256]
def bytes512 (x : BitVec 512) : List Byte := Sha.highBytes 64 x.toNat

/-- Send a response. -/
def State.reply (s : State) (bs : List Byte) : State := { s with response := bs, unread := true }

/-- ERROR with a code. -/
def spdmError (c : Byte) : List Byte := [0x7F, c]

/-- The certificate chain of slot 0. -/
def State.chain (s : State) : List Byte := Config.certificate (s.measured 1) (s.measured 2)

/-- Serve a request of the versions `vs` that is in order where `ok` holds. (PRESUMED, log entry 52.) -/
def serveSpdm (vs : List (BitVec 8)) (r : SpdmReq) (ok : State → Bool) (run : State → State) (s : State) : Out :=
  let s := s.hostUp
  .next (
    if !s.doeOpen then s
    else if s.unread && !r.read then s.reply (spdmError 0x03)
    else if !vs.contains r.version then s.reply (spdmError 0x41)
    else if !ok s then s.reply (spdmError 0x04)
    else if !r.good then s.reply (spdmError 0x01)
    else run s)

/-- Version 1.3. -/
def v13 : List (BitVec 8) := [0x13]

/-- Whether a request comes outside every session, or in one that FINISH has completed. -/
def State.inOrder (s : State) (r : SpdmReq) : Bool := r.session.isNone || (s.sessionKeyOf r.session).isSome

/-- Whether the connection has come to ALGORITHMS. -/
def State.negotiated (s : State) (r : SpdmReq) : Bool := s.inOrder r && s.spdm == .algorithms

/-- GET_VERSION carries version 1.0, as it does in every SPDM version, or 1.3. -/
def execGetVersion (r : SpdmReq) (s : State) : Out :=
  serveSpdm [0x10, 0x13] r (fun s => s.inOrder r) (fun s => { (s.reply [0x04, 0x13]) with spdm := .version }) s

/-- GET_CAPABILITIES is answered with the flags of CERT, CHAL, MEAS with signature, ENCRYPT, MAC and KEY_EX (PRESUMED, log entry
52). -/
def execGetCapabilities (r : SpdmReq) (s : State) : Out :=
  serveSpdm v13 r (fun s => s.inOrder r && s.spdm == .version) (fun s => { (s.reply (0x61 :: leBytes 4 0x2D6)) with spdm := .capabilities }) s

/-- What is negotiated: DMTF measurements with SHA-256, ECDSA P-256, SHA-256, secp256r1, AES-256-GCM and the SPDM key schedule
(PRESUMED, log entry 52). -/
def algorithms : List Byte :=
  0x01 :: (leBytes 4 0x02 ++ leBytes 4 0x10 ++ leBytes 4 0x01
    ++ [0x02, 0x20, 0x08, 0x00, 0x03, 0x20, 0x02, 0x00, 0x05, 0x20, 0x01, 0x00])

def execNegotiateAlgorithms (r : SpdmReq) (s : State) : Out :=
  serveSpdm v13 r (fun s => s.inOrder r && s.spdm == .capabilities) (fun s => { (s.reply (0x63 :: algorithms)) with spdm := .algorithms }) s

def execGetDigests (r : SpdmReq) (s : State) : Out :=
  serveSpdm v13 r (fun s => s.negotiated r) (fun s => s.reply (0x01 :: bytes256 (Sha.sha256 s.chain))) s

def execGetCertificate (r : SpdmReq) (s : State) : Out :=
  serveSpdm v13 r (fun s => s.negotiated r) (fun s => s.reply (0x02 :: s.chain)) s

/-- The device's signature over bytes, with the leaf key of registers 1 and 2. -/
def State.sign (s : State) (bs : List Byte) : List Byte := bytes512 (Config.signature (s.measured 1) (s.measured 2) bs)

/-- The signature over a nonce and data. -/
def State.signed (s : State) (nonce : BitVec 256) (bs : List Byte) : List Byte := s.sign (bytes256 nonce ++ bs)

def execChallenge (r : SpdmReq) (nonce : BitVec 256) (s : State) : Out :=
  serveSpdm v13 r (fun s => s.negotiated r)
    (fun s => s.reply (0x03 :: (bytes256 (Sha.sha256 s.chain) ++ s.signed nonce (bytes256 (Sha.sha256 s.chain))))) s

/-- The DMTF type of a measurement: the boot ROM immutable ROM, fuses and CXL configuration hardware and firmware configuration,
the debug state device mode, the log's digest a manifest, else mutable firmware. (PRESUMED, log entry 52.) -/
def measureType (i : Nat) : Byte :=
  match i with
  | 1 => 0x00
  | 3 => 0x02
  | 4 => 0x05
  | 13 => 0x03
  | 16 => 0x04
  | _ => 0x01

/-- The 16 measurement registers in order, each as a DMTF measurement block (R369). (PRESUMED, log entry 52.) -/
def State.measurements (s : State) : List Byte := (List.range 16).flatMap fun i =>
  [BitVec.ofNat 8 (i + 1), 0x01, 0x23, 0x00, measureType (i + 1), 0x20, 0x00] ++ bytes256 (s.measured (i + 1))

def execGetMeasurements (r : SpdmReq) (sign : Bool) (nonce : BitVec 256) (s : State) : Out :=
  serveSpdm v13 r (fun s => s.negotiated r)
    (fun s => s.reply (0x60 :: (s.measurements ++ (if sign then s.signed nonce s.measurements else [])))) s

/-- KEY_EXCHANGE begins a session in the lowest free number; a seventeenth is refused. -/
def execKeyExchange (r : SpdmReq) (exchange : BitVec 512) (s : State) : Out :=
  serveSpdm v13 r (fun s => s.negotiated r)
    (fun s =>
      match (List.range Config.sessions).find? fun i => !s.sessions.any (·.id == i) with
      | none => s.reply (spdmError 0x0A)
      | some id =>
        let mine := bytes512 (Config.exchangeData s.freeCtr)
        { (s.reply (0x64 :: (mine ++ s.sign (bytes512 exchange ++ mine)))) with
          sessions := s.sessions ++ [⟨id, Config.sessionKey s.freeCtr exchange, false, none⟩] }) s

/-- FINISH completes the session that it arrives in. -/
def execFinish (r : SpdmReq) (s : State) : Out :=
  serveSpdm v13 r (fun s => s.sessions.any fun x => some x.id == r.session && !x.ready)
    (fun s => { (s.reply [0x65]) with
      sessions := s.sessions.map fun (x : Session) => if some x.id = r.session then { x with ready := true } else x }) s

def execEndSession (r : SpdmReq) (s : State) : Out :=
  serveSpdm v13 r (fun s => (s.sessionKeyOf r.session).isSome)
    (fun s => { (s.reply [0x6C]) with sessions := s.sessions.filter fun x => some x.id != r.session }) s

/-- The request codes of Table 23.5. -/
def spdmCodes : List (BitVec 8) := [0x84, 0xE1, 0xE3, 0x81, 0x82, 0x83, 0xE0, 0xE4, 0xE5, 0xFE, 0xEC]

def execUnsupportedRequest (r : SpdmReq) (code : BitVec 8) (s : State) : Out :=
  if spdmCodes.contains code then .next s
  else serveSpdm v13 { r with good := true } (fun _ => true) (fun s => s.reply (spdmError 0x07)) s

/-! ### TDISP (R366) -/

/-- Serve a TDISP message of a secured session, for an interface: its response is the payload of a
VENDOR_DEFINED_RESPONSE. -/
def serveTdisp (r : SpdmReq) (q : Nat) (f : State → List Nat × State) (s : State) : Out :=
  serveSpdm v13 r (fun s => (s.sessionKeyOf r.session).isSome)
    (fun s =>
      let (bs, s) := if q < interfaceCount then f s else ([0x7F, 0x101], s)
      { (s.reply [0x7E]) with tdiRsp := bs }) s

/-- TDISP_ERROR: the interface is in no state that allows the request. -/
def tdispError : List Nat := [0x7F, 0x04]

/-- The number of a TDISP state (Table 23.2). -/
def Tdi.number : Tdi → Nat
  | .unlocked => 0
  | .locked => 1
  | .run => 2
  | .error => 3

/-- Move an interface from the states where `from_` holds, or answer with an error. -/
def moveTdi (q code : Nat) (from_ : Qif → Part → Bool) (next : Tdi) (s : State) : List Nat × State :=
  let x := s.qif q
  if from_ x (s.part x.part) then ([code], s.mapQif q fun x => { x with tdi := next }) else (tdispError, s)

def execGetTdispVersion (r : SpdmReq) (q : Nat) (s : State) : Out := serveTdisp r q (fun s => ([0x01, 0x10], s)) s
def execGetTdispCapabilities (r : SpdmReq) (q : Nat) (s : State) : Out := serveTdisp r q (fun s => ([0x02], s)) s

/-- LOCK: an interface of a protected partition, from CONFIG_UNLOCKED. The session becomes that partition's (R367). (DESIGN
CHOICE, log entry 51.) -/
def execLockInterfaceRequest (r : SpdmReq) (q : Nat) (s : State) : Out :=
  serveTdisp r q (fun s =>
    let x := s.qif q
    let y := moveTdi q 0x03 (fun x p => p.live && p.guarded && x.tdi == .unlocked) .locked s
    (y.1, if y.1 = tdispError then y.2
      else { y.2 with sessions := y.2.sessions.map fun (z : Session) => if some z.id = r.session then { z with part := some x.part } else z })) s

/-- The report lists the partition's bitmaps, kind and key IDs. -/
def State.report (s : State) (part : Nat) : List Nat :=
  let p := s.part part
  let classes := (bitmapClasses p.maps).flatMap fun c => c.2.length :: c.2
  let ids := (s.keys.filter fun k => k.2.active && k.2.part == part).map (·.2.id)
  0x04 :: (if p.guarded then 1 else 0) :: (classes ++ ids)

def execGetDeviceInterfaceReport (r : SpdmReq) (q : Nat) (s : State) : Out :=
  serveTdisp r q (fun s =>
    let x := s.qif q
    (if x.tdi = .locked ∨ x.tdi = .run then s.report x.part else tdispError, s)) s

def execGetDeviceInterfaceState (r : SpdmReq) (q : Nat) (s : State) : Out :=
  serveTdisp r q (fun s => ([0x05, (s.qif q).tdi.number], s)) s

def execStartInterfaceRequest (r : SpdmReq) (q : Nat) (s : State) : Out :=
  serveTdisp r q (moveTdi q 0x06 (fun x _ => x.tdi == .locked) .run) s

def execStopInterfaceRequest (r : SpdmReq) (q : Nat) (s : State) : Out :=
  serveTdisp r q (fun s => ([0x07], s.mapQif q fun x => { x with tdi := .unlocked, walking := if x.tdi = .unlocked then x.walking else false })) s

/-! ### Requests of a partition's own session (R367, R374), and the pages of the interfaces (R364, R365) -/

/-- The payload of a VENDOR_DEFINED_RESPONSE to KEYNEW: a status. -/
def keynewReply (st : BitVec 8) : List Byte := [0x7E, st]

/-- KEYNEW as a VENDOR_DEFINED_REQUEST of a session: for the partition whose session it is, one call at a time. -/
def State.keynewSecured (s : State) (id : Nat) (n : Nat) (key : BitVec 512) : State :=
  if !s.doeOpen || s.taken.isSome then s
  else if s.unread then s.reply (spdmError 0x03)
  else match s.sessionOf (some n) with
    | none => s.reply (spdmError 0x04)
    | some x => match x.part with
      | none => s.reply (keynewReply stDenied)
      | some p => match s.keynewCall p x.key id key with
        | .refuse st => s.reply (keynewReply st)
        | .effect s' _ => s'.reply (keynewReply 0)
        | _ => s

/-- KEYNEW over the mailbox of an interface, or in a session. -/
def execKeynew (h : CallHdr) (id : Nat) (key : BitVec 512) (s : State) : Out :=
  match h.session with
  | none => firmwareCall h (· == 0x04) 1 (State.keynewMail h.qif id key) s
  | some n => .next (s.keynewSecured id n key)

/-- A call that has been rung goes in by its cycle, those of one cycle by interface (R365). -/
def Bell.insert (b : Bell) : List Bell → List Bell
  | [] => [b]
  | x :: r => if b.clk < x.clk ∨ (b.clk = x.clk ∧ b.qif < x.qif) then b :: x :: r else x :: b.insert r

/-- A write of BELL submits CALLREQ as it stands; it is ignored while BUSY, and dropped in ERROR (R364, R366). -/
def State.ring (s : State) (q : Nat) : State :=
  let x := s.qif q
  if !s.booted || decide (interfaceCount ≤ q) || x.busy || x.tdi == .error then s
  else { (s.mapQif q fun x => { x with busy := true }) with bells := Bell.insert ⟨s.clk, q, x.callreq⟩ s.bells }

/-- A write into CALLREQ. -/
def State.writeCallreq (s : State) (q off : Nat) (bs : List Byte) : State :=
  if !s.booted || decide (interfaceCount ≤ q) || decide (64 < off + bs.length) then s
  else s.mapQif q fun x => { x with callreq := patch x.callreq off bs }

/-- A tenant enables or disables the PC-sampled trace of its protected partition through its session (R374). (DESIGN CHOICE, log
entry 73.) -/
def State.setTrace (r : SpdmReq) (p : Nat) (on : Bool) (s : State) : Out :=
  serveSpdm v13 r (fun s => match s.sessionOf r.session with | some x => x.part == some p | none => false)
    (fun s => (s.reply [0x7E]).mapPart p fun x => { x with traced := on }) s

/-- What reaches the device from outside beside the rows of the opcode table. -/
def State.hostAct (s : State) : HostAct → Out
  | .callReq q off bs => .next (s.hostUp.writeCallreq q off bs)
  | .bell q => .next (s.hostUp.ring q)
  | .trace r p on => State.setTrace r p on s
  | .congestion pkg rate => .next (if 3 ≤ s.boot.stage then
      { s with flows := Sparse.put pkg.toNat { (Sparse.get ⟨none, 0⟩ pkg.toNat s.flows : Flow) with rate := some rate } s.flows } else s)

/-! ### IDE (R375) -/

/-- IDE_KM keys one of the 8 selective streams, inside a session. -/
def execIdeKm (session stream : Nat) (key : BitVec 256) (s : State) : Out :=
  .next (if (s.sessionKeyOf (some session)).isSome ∧ stream < Config.ideStreams then { s with ide := Sparse.put stream key s.ide } else s)

/-! ### Finper links (R376) -/

/-- A port, and a change of one. -/
def State.port (s : State) (n : Nat) : Port := Sparse.get Port.reset n s.ports
@[inherit_doc State.port]
def State.mapPort (s : State) (n : Nat) (f : Port → Port) : State := { s with ports := Sparse.put n (f (s.port n)) s.ports }

/-- Finper ports of the package (Table 23.1). -/
def finperPorts : Nat := 16

/-- Whether a link carries flits: its port is up, and bring-up has trained the links (R378). -/
def State.linkOn (s : State) (n : Nat) : Bool := decide (3 ≤ s.boot.stage) && decide (n < finperPorts) && (s.port n).up

/-- FINPER_FLIT: a flit with a bad CRC, out of sequence, or without room is dropped, and a replay is asked for. -/
def execFinperFlit (n seq : Nat) (crcGood room : Bool) (s : State) : Out :=
  if !s.linkOn n then .next s
  else .next (s.mapPort n fun p =>
    if crcGood && room && seq == p.expect then { p with expect := p.expect + 1, accepted := p.accepted ++ [seq], asked := none }
    else { p with asked := some p.expect })

/-- Flits that a flow may have sent in the cycles since its last ones: at the rate that its destination has set, or any number
where it has set none (R376). -/
def Flow.room (f : Flow) (clk : Nat) : Option Nat := f.rate.map fun r => r * (clk - f.at_)

/-- The flow to the package at the other end of a port. -/
def State.flow (s : State) (n : Nat) : Flow := Sparse.get ⟨none, 0⟩ (Config.finperPeer n).toNat s.flows

/-- The flits that a sender has sent since its last replay: their number is free, within its buffer and the pace of its flow.
(DESIGN CHOICE, log entry 54.) -/
def Port.sent (p : Port) (free : Nat) (room : Option Nat) : Port :=
  let most := Config.flitBuffer - p.buffer.length
  let k := free % (min most (room.getD most) + 1)
  { p with buffer := p.buffer ++ (List.range k).map (p.next + ·), next := p.next + k }

/-- FINPER_REPLAY: the peer expects flit `seq` next, so those before it are acknowledged, and the rest is sent again
in order. A replay has failed where the peer asks for the same flit after it. -/
def execFinperReplay (n seq : Nat) (s : State) : Out :=
  let p := (s.port n).sent (Config.freeWord s.freeCtr (820000 + n)).toNat ((s.flow n).room s.clk)
  if !s.linkOn n || !p.buffer.contains seq then .next s
  else
    let rest := p.buffer.filter (seq ≤ ·)
    let s : State := { s with flows := Sparse.put (Config.finperPeer n).toNat { s.flow n with at_ := s.clk } s.flows }
    .next (s.mapPort n fun _ =>
      { p with buffer := rest, replayed := true, failed := if rest.length < p.buffer.length ∨ !p.replayed then 0 else p.failed + 1 })

/-- The links that a partition owns to the peer of a port, from the port on in turn. -/
def nextLinks (n : Nat) (maps : Bitmaps) : List Nat :=
  ((List.range (finperPorts - 1)).map fun i => (n + 1 + i) % finperPorts).filter fun m =>
    maps.finper.contains m && Config.finperPeer m == Config.finperPeer n

/-- LINK_RETRAIN: after 8 replays that failed the link retrains; its unacknowledged flits go on the next link to the same
peer, or their partition is killed. -/
def execLinkRetrain (n : Nat) (s : State) : Out :=
  let p := s.port n
  if !s.linkOn n || decide (p.failed < 8) then .next s
  else
    let s1 := s.mapPort n fun _ => Port.reset
    match s.parts.find? fun x => x.2.live && x.2.maps.finper.contains n with
    | none => .next s1
    | some (k, x) => match (nextLinks n x.maps).find? fun m => (s1.port m).up with
      | none => .next (s1.kill k)
      | some m => .next (s1.mapPort m fun y =>
          { y with buffer := y.buffer ++ (List.range p.buffer.length).map (y.next + ·), next := y.next + p.buffer.length })

/-! ### Power (R377) -/

/-- A number of milliseconds in cycles of the present clock. -/
def Power.millis (p : Power) (n : Nat) : Nat := 1000 * n * p.clock

def execClockStepDown (s : State) : Out :=
  let p := s.power
  .next (if p.limited ∧ Config.clockFloor < p.clock then
    { s with power := { p with clock := max Config.clockFloor (p.clock - Config.clockStep) } } else s)

/-- The clock rises by one step after 10 ms without a limit condition; the next step takes another 10 ms. -/
def execClockStepUp (s : State) : Out :=
  let p := s.power
  .next (if !p.limited ∧ p.since + p.millis 10 ≤ s.clk ∧ p.clock < Config.clockTop then
    { s with power := { p with clock := min Config.clockTop (p.clock + Config.clockStep), since := s.clk, hot := none } } else s)

def execPowerCapSet (mw : Nat) (s : State) : Out :=
  .next (if 2600000 ≤ mw ∧ mw ≤ 5200000 then { s with power := { s.power with cap := mw } } else s)

/-! ### Package reset (R369, R378) -/

/-- The machine after a package reset, before the bring-up that extends the measurement registers with some digests; a maker
debug unlock takes effect here, and whether the device comes up in diagnostic mode is free. What lies outside the package keeps its
contents: drives, the CXL tier, host and peer memory. (DESIGN CHOICE, log entry 5.) (DEDUCED, log entry 56.) -/
def State.bringUp (s : State) (digests : List (BitVec 256)) (unlock : Bool) : State :=
  { State.reset with
    freeCtr := s.freeCtr, drive := s.drive, mem := s.mem.filter fun c => decide (2 ^ 40 ≤ c.1)
    poisonM := s.poisonM.filter fun n => decide (2 ^ 35 ≤ n)
    boot := ⟨0, digests, Config.freeBit s.freeCtr 830200 0⟩
    unlock := unlock }

def execPackageReset (digests : List (BitVec 256)) (unlock : Bool) (s : State) : Out := .next (s.bringUp digests unlock)

/-- Digests that a bring-up which nobody names extends the registers with: free values. -/
def State.freeDigests (s : State) : List (BitVec 256) :=
  (List.range 16).map fun i =>
    let w (j : Nat) : BitVec 64 := Config.freeWord s.freeCtr (830000 + 4 * i + j)
    w 0 ++ w 1 ++ w 2 ++ w 3

/-- THERMAL_SHUTDOWN: at 105 °C, or after 100 ms above 95 °C at the lowest clock, every partition is killed and the
module resets. -/
def execThermalShutdown (s : State) : Out :=
  let p := s.power
  let due := decide (1050 ≤ p.junction) || (match p.hot with | some t => decide (t + p.millis 100 ≤ s.clk) | none => false)
  if !due then .next s
  else .next (((s.parts.map (·.1)).foldl State.kill s).bringUp s.freeDigests (Config.freeBit s.freeCtr 830100 0))

end Sys2Proof.Machine
end

