-- ==== Sys2Proof/Machine/Dispatch.lean ====
section
/-! DEFINITION. One arm per instruction of the opcode table: each is one call of its meaning. -/

namespace Sys2Proof.Machine

open Sys2Proof

def exec (i : Instr) (s : State) : Host.Outcome State Fault Refusal :=
  match i with
  | .nop c p => Sys2Proof.Machine.execNop c p s
  | .add c p => Sys2Proof.Machine.execAdd c p s
  | .sub c p => Sys2Proof.Machine.execSub c p s
  | .mul c p => Sys2Proof.Machine.execMul c p s
  | .mulhi c p => Sys2Proof.Machine.execMulhi c p s
  | .mad c p => Sys2Proof.Machine.execMad c p s
  | .min c p => Sys2Proof.Machine.execMin c p s
  | .max c p => Sys2Proof.Machine.execMax c p s
  | .abs c p => Sys2Proof.Machine.execAbs c p s
  | .neg c p => Sys2Proof.Machine.execNeg c p s
  | .and c p => Sys2Proof.Machine.execAnd c p s
  | .or c p => Sys2Proof.Machine.execOr c p s
  | .xor c p => Sys2Proof.Machine.execXor c p s
  | .not c p => Sys2Proof.Machine.execNot c p s
  | .shl c p => Sys2Proof.Machine.execShl c p s
  | .shr c p => Sys2Proof.Machine.execShr c p s
  | .sar c p => Sys2Proof.Machine.execSar c p s
  | .rot c p => Sys2Proof.Machine.execRot c p s
  | .popc c p => Sys2Proof.Machine.execPopc c p s
  | .clz c p => Sys2Proof.Machine.execClz c p s
  | .bfe c p => Sys2Proof.Machine.execBfe c p s
  | .bfi c p => Sys2Proof.Machine.execBfi c p s
  | .sel c p => Sys2Proof.Machine.execSel c p s
  | .cmp c p => Sys2Proof.Machine.execCmp c p s
  | .addi c p => Sys2Proof.Machine.execAddi c p s
  | .li c p => Sys2Proof.Machine.execLi c p s
  | .lih c p => Sys2Proof.Machine.execLih c p s
  | .mov c p => Sys2Proof.Machine.execMov c p s
  | .lea c p => Sys2Proof.Machine.execLea c p s
  | .cvt c p => Sys2Proof.Machine.execCvt c p s
  | .div c p => Sys2Proof.Machine.execDiv c p s
  | .rem c p => Sys2Proof.Machine.execRem c p s
  | .fadd c p => Sys2Proof.Machine.execFadd c p s
  | .fsub c p => Sys2Proof.Machine.execFsub c p s
  | .fmul c p => Sys2Proof.Machine.execFmul c p s
  | .fma c p => Sys2Proof.Machine.execFma c p s
  | .fmin c p => Sys2Proof.Machine.execFmin c p s
  | .fmax c p => Sys2Proof.Machine.execFmax c p s
  | .fabs c p => Sys2Proof.Machine.execFabs c p s
  | .fneg c p => Sys2Proof.Machine.execFneg c p s
  | .fcmp c p => Sys2Proof.Machine.execFcmp c p s
  | .fcvt c p => Sys2Proof.Machine.execFcvt c p s
  | .fround c p => Sys2Proof.Machine.execFround c p s
  | .fclass c p => Sys2Proof.Machine.execFclass c p s
  | .fscl c p => Sys2Proof.Machine.execFscl c p s
  | .fgetx c p => Sys2Proof.Machine.execFgetx c p s
  | .rcps c p => Sys2Proof.Machine.execRcps c p s
  | .rsqs c p => Sys2Proof.Machine.execRsqs c p s
  | .exs c p => Sys2Proof.Machine.execExs c p s
  | .lgs c p => Sys2Proof.Machine.execLgs c p s
  | .sns c p => Sys2Proof.Machine.execSns c p s
  | .css c p => Sys2Proof.Machine.execCss c p s
  | .fdiv c p => Sys2Proof.Machine.execFdiv c p s
  | .fsqrt c p => Sys2Proof.Machine.execFsqrt c p s
  | .dot2 c p => Sys2Proof.Machine.execDot2 c p s
  | .dot4 c p => Sys2Proof.Machine.execDot4 c p s
  | .pk2 c p => Sys2Proof.Machine.execPk2 c p s
  | .upk2 c p => Sys2Proof.Machine.execUpk2 c p s
  | .pk4 c p => Sys2Proof.Machine.execPk4 c p s
  | .upk4 c p => Sys2Proof.Machine.execUpk4 c p s
  | .hadd2 c p => Sys2Proof.Machine.execHadd2 c p s
  | .hmul2 c p => Sys2Proof.Machine.execHmul2 c p s
  | .hfma2 c p => Sys2Proof.Machine.execHfma2 c p s
  | .shfl c p => Sys2Proof.Machine.execShfl c p s
  | .vote c p => Sys2Proof.Machine.execVote c p s
  | .match_ c p => Sys2Proof.Machine.execMatch c p s
  | .cmpct c p => Sys2Proof.Machine.execCmpct c p s
  | .scan c p => Sys2Proof.Machine.execScan c p s
  | .red c p => Sys2Proof.Machine.execRed c p s
  | .segred c p => Sys2Proof.Machine.execSegred c p s
  | .srt c p => Sys2Proof.Machine.execSrt c p s
  | .topk c p => Sys2Proof.Machine.execTopk c p s
  | .kmerge c p => Sys2Proof.Machine.execKmerge c p s
  | .rgput c p => Sys2Proof.Machine.execRgput c p s
  | .rgget c p => Sys2Proof.Machine.execRgget c p s
  | .lperm c p => Sys2Proof.Machine.execLperm c p s
  | .bcast c p => Sys2Proof.Machine.execBcast c p s
  | .ffs c p => Sys2Proof.Machine.execFfs c p s
  | .br c p => Sys2Proof.Machine.execBr c p s
  | .brc c p => Sys2Proof.Machine.execBrc c p s
  | .brl c p => Sys2Proof.Machine.execBrl c p s
  | .brx c p => Sys2Proof.Machine.execBrx c p s
  | .call c p => Sys2Proof.Machine.execCall c p s
  | .ret c p => Sys2Proof.Machine.execRet c p s
  | .exit c p => Sys2Proof.Machine.execExit c p s
  | .yield c p => Sys2Proof.Machine.execYield c p s
  | .halt c p => Sys2Proof.Machine.execHalt c p s
  | .trap c p => Sys2Proof.Machine.execTrap c p s
  | .tret c p => Sys2Proof.Machine.execTret c p s
  | .brk c p => Sys2Proof.Machine.execBrk c p s
  | .bar c p => Sys2Proof.Machine.execBar c p s
  | .barv c p => Sys2Proof.Machine.execBarv c p s
  | .barw c p => Sys2Proof.Machine.execBarw c p s
  | .fenceFull c p => Sys2Proof.Machine.execFenceFull c p s
  | .fenceAcq c p => Sys2Proof.Machine.execFenceAcq c p s
  | .fenceRel c p => Sys2Proof.Machine.execFenceRel c p s
  | .twany c p => Sys2Proof.Machine.execTwany c p s
  | .twall c p => Sys2Proof.Machine.execTwall c p s
  | .tffs c p => Sys2Proof.Machine.execTffs c p s
  | .tclr c p => Sys2Proof.Machine.execTclr c p s
  | .racq c p => Sys2Proof.Machine.execRacq c p s
  | .rrel c p => Sys2Proof.Machine.execRrel c p s
  | .tgrow c p => Sys2Proof.Machine.execTgrow c p s
  | .tshrink c p => Sys2Proof.Machine.execTshrink c p s
  | .tag c p => Sys2Proof.Machine.execTag c p s
  | .tagset c p => Sys2Proof.Machine.execTagset c p s
  | .ld c p => Sys2Proof.Machine.execLd c p s
  | .st c p => Sys2Proof.Machine.execSt c p s
  | .lds c p => Sys2Proof.Machine.execLds c p s
  | .sts c p => Sys2Proof.Machine.execSts c p s
  | .pf c p => Sys2Proof.Machine.execPf c p s
  | .atom c p => Sys2Proof.Machine.execAtom c p s
  | .cas c p => Sys2Proof.Machine.execCas c p s
  | .atoms c p => Sys2Proof.Machine.execAtoms c p s
  | .hld c p => Sys2Proof.Machine.execHld c p s
  | .hst c p => Sys2Proof.Machine.execHst c p s
  | .hmk c p => Sys2Proof.Machine.execHmk c p s
  | .hget c p => Sys2Proof.Machine.execHget c p s
  | .vopen c p => Sys2Proof.Machine.execVopen c p s
  | .vnar c p => Sys2Proof.Machine.execVnar c p s
  | .vsplit c p => Sys2Proof.Machine.execVsplit c p s
  | .vclose c p => Sys2Proof.Machine.execVclose c p s
  | .vinfo c p => Sys2Proof.Machine.execVinfo c p s
  | .hpub c p => Sys2Proof.Machine.execHpub c p s
  | .cpy c p => Sys2Proof.Machine.execCpy c p s
  | .cpy2 c p => Sys2Proof.Machine.execCpy2 c p s
  | .gth c p => Sys2Proof.Machine.execGth c p s
  | .sct c p => Sys2Proof.Machine.execSct c p s
  | .coll c p => Sys2Proof.Machine.execColl c p s
  | .fill c p => Sys2Proof.Machine.execFill c p s
  | .fbset c p => Sys2Proof.Machine.execFbset c p s
  | .fbclr c p => Sys2Proof.Machine.execFbclr c p s
  | .sfpre c p => Sys2Proof.Machine.execSfpre c p s
  | .mma c p => Sys2Proof.Machine.execMma c p s
  | .mmz c p => Sys2Proof.Machine.execMmz c p s
  | .mst c p => Sys2Proof.Machine.execMst c p s
  | .mld c p => Sys2Proof.Machine.execMld c p s
  | .mscl c p => Sys2Proof.Machine.execMscl c p s
  | .mfeed c p => Sys2Proof.Machine.execMfeed c p s
  | .mdrain c p => Sys2Proof.Machine.execMdrain c p s
  | .tap c p => Sys2Proof.Machine.execTap c p s
  | .rowsel c p => Sys2Proof.Machine.execRowsel c p s
  | .rset c p => Sys2Proof.Machine.execRset c p s
  | .tapget c p => Sys2Proof.Machine.execTapget c p s
  | .wret c p => Sys2Proof.Machine.execWret c p s
  | .wrd c p => Sys2Proof.Machine.execWrd c p s
  | .tlaunch c p => Sys2Proof.Machine.execTlaunch c p s
  | .qpush c p => Sys2Proof.Machine.execQpush c p s
  | .qclose c p => Sys2Proof.Machine.execQclose c p s
  | .srd c p => Sys2Proof.Machine.execSrd c p s
  | .swr c p => Sys2Proof.Machine.execSwr c p s
  | .segset c p => Sys2Proof.Machine.execSegset c p s
  | .fpadd c p => Sys2Proof.Machine.execFpadd c p s
  | .pgev c p => Sys2Proof.Machine.execPgev c p s
  | .tlbiPage c p => Sys2Proof.Machine.execTlbiPage c p s
  | .tlbiInterface c p => Sys2Proof.Machine.execTlbiInterface c p s
  | .tlbiAll c p => Sys2Proof.Machine.execTlbiAll c p s
  | .dbgset c p => Sys2Proof.Machine.execDbgset c p s
  | .mrst c p => Sys2Proof.Machine.execMrst c p s
  | .headerPass => Sys2Proof.Machine.execHeaderPass s
  | .fixedResultLand a => Sys2Proof.Machine.execFixedResultLand a s
  | .variableOpComplete a k => Sys2Proof.Machine.execVariableOpComplete a k s
  | .blockingOpComplete a => Sys2Proof.Machine.execBlockingOpComplete a s
  | .groupEnd a => Sys2Proof.Machine.execGroupEnd a s
  | .teamRetire team => Sys2Proof.Machine.execTeamRetire team s
  | .latchPinRelease a => Sys2Proof.Machine.execLatchPinRelease a s
  | .runaheadEntry a => Sys2Proof.Machine.execRunaheadEntry a s
  | .runaheadLimit a => Sys2Proof.Machine.execRunaheadLimit a s
  | .thaw a => Sys2Proof.Machine.execThaw a s
  | .cacheCopyExpiry core => Sys2Proof.Machine.execCacheCopyExpiry core s
  | .fibreScanner quad => Sys2Proof.Machine.execFibreScanner quad s
  | .distributorPlace die => Sys2Proof.Machine.execDistributorPlace die s
  | .stealRequest die launch => Sys2Proof.Machine.execStealRequest die launch s
  | .equinoxStop a => Sys2Proof.Machine.execEquinoxStop a s
  | .solsticeSave team => Sys2Proof.Machine.execSolsticeSave team s
  | .controlCoreSave quad => Sys2Proof.Machine.execControlCoreSave quad s
  | .swapOut team => Sys2Proof.Machine.execSwapOut team s
  | .sqeFillRead die sqe => Sys2Proof.Machine.execSqeFillRead die sqe s
  | .fillComplete sqe => Sys2Proof.Machine.execFillComplete sqe s
  | .fillReadFail sqe => Sys2Proof.Machine.execFillReadFail sqe s
  | .nvmeReadTimeout sqe => Sys2Proof.Machine.execNvmeReadTimeout sqe s
  | .storageDmaReject port addr => Sys2Proof.Machine.execStorageDmaReject port addr s
  | .harvestFree die => Sys2Proof.Machine.execHarvestFree die s
  | .registerDeadlock core => Sys2Proof.Machine.execRegisterDeadlock core s
  | .matrixEngineTurn quad => Sys2Proof.Machine.execMatrixEngineTurn quad s
  | .engineCommandComplete k => Sys2Proof.Machine.execEngineCommandComplete k s
  | .tapCommandServe die => Sys2Proof.Machine.execTapCommandServe die s
  | .backgroundEncode die => Sys2Proof.Machine.execBackgroundEncode die s
  | .rowFate die => Sys2Proof.Machine.execRowFate die s
  | .tail qif v => Sys2Proof.Machine.execTail qif v s
  | .chainLaunch qif => Sys2Proof.Machine.execChainLaunch qif s
  | .chainWait qif => Sys2Proof.Machine.execChainWait qif s
  | .waitEntryFinish qif => Sys2Proof.Machine.execWaitEntryFinish qif s
  | .chainSignal qif => Sys2Proof.Machine.execChainSignal qif s
  | .chainInvalidOp qif => Sys2Proof.Machine.execChainInvalidOp qif s
  | .launchFinish launch => Sys2Proof.Machine.execLaunchFinish launch s
  | .controlProgramStart quad => Sys2Proof.Machine.execControlProgramStart quad s
  | .map call a => Sys2Proof.Machine.execMap call a s
  | .unmap call iface va => Sys2Proof.Machine.execUnmap call iface va s
  | .region call a => Sys2Proof.Machine.execRegion call a s
  | .keynew call keyId key => Sys2Proof.Machine.execKeynew call keyId key s
  | .keydel call keyId => Sys2Proof.Machine.execKeydel call keyId s
  | .preempt call cores ctls => Sys2Proof.Machine.execPreempt call cores ctls s
  | .partConfig call a => Sys2Proof.Machine.execPartConfig call a s
  | .extent call part index e => Sys2Proof.Machine.execExtent call part index e s
  | .unknownCall call code => Sys2Proof.Machine.execUnknownCall call code s
  | .getTdispVersion r qif => Sys2Proof.Machine.execGetTdispVersion r qif s
  | .getTdispCapabilities r qif => Sys2Proof.Machine.execGetTdispCapabilities r qif s
  | .lockInterfaceRequest r qif => Sys2Proof.Machine.execLockInterfaceRequest r qif s
  | .getDeviceInterfaceReport r qif => Sys2Proof.Machine.execGetDeviceInterfaceReport r qif s
  | .getDeviceInterfaceState r qif => Sys2Proof.Machine.execGetDeviceInterfaceState r qif s
  | .startInterfaceRequest r qif => Sys2Proof.Machine.execStartInterfaceRequest r qif s
  | .stopInterfaceRequest r qif => Sys2Proof.Machine.execStopInterfaceRequest r qif s
  | .getVersion r => Sys2Proof.Machine.execGetVersion r s
  | .getCapabilities r => Sys2Proof.Machine.execGetCapabilities r s
  | .negotiateAlgorithms r => Sys2Proof.Machine.execNegotiateAlgorithms r s
  | .getDigests r => Sys2Proof.Machine.execGetDigests r s
  | .getCertificate r => Sys2Proof.Machine.execGetCertificate r s
  | .challenge r nonce => Sys2Proof.Machine.execChallenge r nonce s
  | .getMeasurements r signed nonce => Sys2Proof.Machine.execGetMeasurements r signed nonce s
  | .keyExchange r exchange => Sys2Proof.Machine.execKeyExchange r exchange s
  | .finish r => Sys2Proof.Machine.execFinish r s
  | .endSession r => Sys2Proof.Machine.execEndSession r s
  | .unsupportedRequest r code => Sys2Proof.Machine.execUnsupportedRequest r code s
  | .hostLinkReset => Sys2Proof.Machine.execHostLinkReset s
  | .eccCorrectable w => Sys2Proof.Machine.execEccCorrectable w s
  | .eccUncorrectable w => Sys2Proof.Machine.execEccUncorrectable w s
  | .sharedTagParityError bank => Sys2Proof.Machine.execSharedTagParityError bank s
  | .finperFlit port seq crcGood room => Sys2Proof.Machine.execFinperFlit port seq crcGood room s
  | .finperReplay port seq => Sys2Proof.Machine.execFinperReplay port seq s
  | .linkRetrain port => Sys2Proof.Machine.execLinkRetrain port s
  | .clockStepDown => Sys2Proof.Machine.execClockStepDown s
  | .clockStepUp => Sys2Proof.Machine.execClockStepUp s
  | .thermalShutdown => Sys2Proof.Machine.execThermalShutdown s
  | .powerCapSet milliwatts => Sys2Proof.Machine.execPowerCapSet milliwatts s
  | .packageReset digests unlock => Sys2Proof.Machine.execPackageReset digests unlock s
  | .controlCoreRestart quad => Sys2Proof.Machine.execControlCoreRestart quad s
  | .firmwareEndsProgram quad => Sys2Proof.Machine.execFirmwareEndsProgram quad s
  | .dieFirmwareReset die => Sys2Proof.Machine.execDieFirmwareReset die s
  | .leaseClockResync => Sys2Proof.Machine.execLeaseClockResync s
  | .ideKm session stream key => Sys2Proof.Machine.execIdeKm session stream key s

end Sys2Proof.Machine
end

