-- ==== Sys2Proof/Machine/Place.lean ====
section
/-! DEFINITION. Placing code from outside: the state in which the next turn issues a given instruction as the first of
its block. It stands for what firmware, the hypervisor and a launch do before a program runs. -/

namespace Sys2Proof.Machine

open Sys2Proof

/-- Physical memory for placed code: a page table with one node for each level (at 0, 0x20000, 0x22000 and 0x24000), whose
one leaf maps page 0 to frame 3 with R, W and X. The header bitmap stands at 0x8000 of that page. -/
def placeTables (m : List Host.Cell) : List Host.Cell :=
  let node (m : List Host.Cell) (a v : Nat) : List Host.Cell := Memory.write m a (leBytes 16 v)
  let table (next : Nat) : Nat := 1 + 3 * 2 ^ 28 + next * 2 ^ 64
  let m := node m 0 (table 0x20000)
  let m := node m 0x20000 (table 0x22000)
  let m := node m 0x22000 (table 0x24000)
  node m 0x24000 (0x4F + 3 * 2 ^ 30)

/-- The bytes of a block: its header, with LEN 2, then an instruction of up to two words. -/
def placeBlock (m : List Host.Cell) (bs : List Byte) : List Host.Cell :=
  Memory.write (Memory.write m 0x38000 [1]) 0x30000 (leBytes 8 (2 * 2 ^ 52) ++ bs)

/-- The launch entry of placed code: one group, code at address 0, headers at 0x8000. -/
def placeEntry (kind : Nat) : Entry :=
  { groups := 0, cls := 1, kind := kind, code := 0, ext := 0, base := 7, hbmap := 0x8000, fen := 0, args := 0, bq := 0,
    bd := 0, bp := 0, bo := 0, trap := 0, entry := 0, quad := 0, gdx := 1, gdy := 1, gdz := 1, tags := 8, rgq := 0,
    lanesl := 0, coresp := 0, sg2 := 0, sg3 := 0 }

/-- The thread of placed code: it stands at the word after the header, at the highest level. -/
def placeThread (scalar : Bool) : Thr :=
  let th := Thr.start scalar (placeEntry 0) [] 2
  { th with pcv := th.pcv.map fun _ => 8 }

/-- The state whose next turn issues the instruction whose bytes are given: in a lane group on core 0, or in the
control core of quad 0. (DESIGN CHOICE, log entry 6.) -/
def State.placed (s : State) (scalar : Bool) (bs : List Byte) : State :=
  let l : Launch := { Launch.absent with
    live := true, src := .chain 1 1 0, qif := 1, part := 0, level := 2, e := placeEntry (if scalar then 1 else 0), teams := if scalar then [] else [0] }
  let s := { s with
    mem := placeBlock (placeTables s.mem) bs
    launches := Sparse.put 0 l s.launches, nLaunch := max 1 s.nLaunch
    frames := Sparse.put 3 ⟨some 0, some 0, 1, false⟩ s.frames
    parts := Sparse.put 0 { Part.absent with live := true, maps := { Bitmaps.empty with quads := [0] } } s.parts
    qifs := Sparse.put 1 { Qif.reset with call := 1, level := 2, num := 1 } s.qifs
    agenda := [if scalar then .control 0 else .quarter 0 0] }
  if scalar then
    { s with quads := Sparse.put 0 { Quad.reset with prog := some 0, ctl := placeThread true } s.quads }
  else
    let t : Team := { Team.absent with
      stage := .resident, launch := 0, cls := 1, groups := [(0, placeThread false)], n := 1, ntags := 64 }
    { s with teams := Sparse.put 0 t s.teams, nTeams := max 1 s.nTeams
             cores := Sparse.put 0 { Core.reset with free := Config.corePool - 128 } s.cores }

/-- Whether bytes hold an instruction that only a control core runs (R63). -/
def scalarOnly (bs : List Byte) : Bool :=
  match decode bs with
  | .ok (i, _) => match insOf i with
    | some n => n.row.mode == .scalar
    | none => false
  | .error _ => false

end Sys2Proof.Machine
end

