-- ==== Sys2Proof/Machine/Step.lean ====
section
/-! DEFINITION. One step of the device: the next turn of the agenda, or where it is empty the turn that
`Config.nextTurn` names. -/

namespace Sys2Proof.Machine

open Sys2Proof

/-- What a turn comes to, carried out. -/
def Given.run : Given → Host.Outcome State Fault Refusal
  | .next s => .next s
  | .exec i s => Sys2Proof.Machine.exec i s
  | .hole => .fault .noSuchMemory

/-- The turn that is taken next, and the state without it. (DESIGN CHOICE, log entry 1.) -/
def State.takeTurn (s : State) : Turn × State :=
  match s.agenda with
  | t :: r => (t, { s with agenda := r, freeCtr := s.freeCtr + 1 })
  | [] => (Config.nextTurn s.freeCtr, { s with freeCtr := s.freeCtr + 1 })

/-- Take a turn. A constructor that has words is no event: only a quarter or a control core issues it.
(DESIGN CHOICE, log entry 57.) -/
def State.turn (s : State) : Turn → Host.Outcome State Fault Refusal
  | .tick => .next s.tick
  | .quarter c q => (s.quarterTurn c q).run
  | .control q => (s.controlTurn q).run
  | .event i => if (insOf i).isNone then exec i s else .next s
  | .host h => s.hostAct h

/-- One step of the device. (DESIGN CHOICE, log entry 63.) -/
def step (s : State) : Host.Outcome State Fault Refusal := s.takeTurn.2.turn s.takeTurn.1

/-- The state in which the next step fetches and runs the instruction of these bits. -/
def State.withFetchWord (s : State) (nbits w : Nat) : State :=
  let bs := Decode.leBytes 16 (w % 2 ^ nbits)
  s.placed (scalarOnly bs) bs

end Sys2Proof.Machine
end

