-- ==== Sys2Proof/Machine/Counters.lean ====
section
/-! DEFINITION. The counter, log and trace sources with their least privilege levels (R23, R373, R374). -/

namespace Sys2Proof.Machine

open Sys2Proof

/-- A source of R374: a leaf of Table 23.6 of an interface (COUNT, Table 23.2), or of a core for a partition; diverged issue
slots of a core for a partition (R23); ECC counts by place class; the kill log and the FRAMEPOOL log by position; the counts
of an SQE (completed, failed, timed out reads); Unsupported Request completions given to drives; the PC-sampled trace of a
partition and the trace of the security processor by position. -/
inductive CountSource where
  | leaf (qif leaf : Nat)
  | tree (core part leaf : Nat)
  | split (core part : Nat)
  | ecc (place : Nat)
  | kill (i : Nat)
  | framepool (i : Nat)
  | sqe (n kind : Nat)
  | drive
  | pcTrace (part i : Nat)
  | securityTrace (i : Nat)
  deriving DecidableEq, Repr

/-- Who reads a source: a level, and the interface through which the reader works. -/
structure Reader where
  level : Nat
  qif   : Nat
  deriving DecidableEq, Repr

/-- Whether a reader reaches a source (R374). The trace of a protected partition is read only where its tenant has enabled
it. (DESIGN CHOICE, log entry 73: the manual names no request that enables it.) -/
def State.mayRead (s : State) (r : Reader) : CountSource → Bool
  | .leaf q _ => r.qif == q || decide (2 ≤ r.level)
  | .tree .. | .split .. | .ecc _ | .kill _ | .framepool _ | .sqe .. | .drive => decide (2 ≤ r.level)
  | .pcTrace p _ => decide (2 ≤ r.level) && (!(s.part p).guarded || (s.part p).traced)
  | .securityTrace _ => decide (3 ≤ r.level)

/-- What a source holds. The issued and waiting leaves of an interface are those numbered 0 to 8. The manual does not say
what a trace records: its words are free values. The slots of cycles in which a core had never held anything count as empty ones
without a group, so that the leaves of a core sum to 4 × cycles (R373). -/
def State.counted (s : State) : CountSource → Nat
  | .leaf q n => if n < 9 then Sparse.get 0 n (s.qif q).counts else 0
  | .tree c p n => Sparse.get 0 (16 * p + n) (s.coreOf c).leaves +
      (if n = 10 ∧ p = (s.quadOwner (c / 4)).getD partitionCount then 4 * s.clk - ((s.coreOf c).leaves.map (·.2)).sum else 0)
  | .split c p => Sparse.get 0 p (s.coreOf c).split
  | .ecc n => Sparse.get 0 n s.ecc
  | .kill i => s.kills.getD i 0
  | .framepool i => s.poolLog.getD i 0
  | .sqe n k => Sparse.get 0 (4 * n + k) s.sqeStats
  | .drive => s.unsup
  | .pcTrace p i => (Config.freeWord s.freeCtr (900000 + 64 * i + p)).toNat
  | .securityTrace i => (Config.freeWord s.freeCtr (1900000 + i)).toNat

/-- Read a source: below its level it reads as zero (R374). -/
def State.readCount (s : State) (r : Reader) (c : CountSource) : Nat := if s.mayRead r c then s.counted c else 0

end Sys2Proof.Machine
end

