-- ==== Sys2Proof/Safety.lean ====
section
/-! DEFINITION. What counts as a safe run, in the terms that claims use: the canonical form of the four memories,
reaching one state from another, running a number of steps without a stop, and what it is for an instruction to issue
without a cause: the state in which it is judged, what it reads, and the state that a fixed-latency result leaves. -/

namespace Sys2Proof.Safety

open Sys2Proof Sys2Proof.Machine

/-- The physical memory, the two scratchpad spaces and the drives are in the one canonical form. -/
def Form (s : State) : Prop :=
  Memory.wf s.mem = true ∧ Memory.wf s.scr = true ∧ Memory.wf s.dsp = true ∧ Memory.wf s.drive = true

/-- One step leads from `s` to `t`. -/
def Steps (s t : State) : Prop := Sys2Proof.Machine.step s = .next t

/-- Some number of steps leads from `s` to `t`. -/
inductive Reaches : State → State → Prop where
  | refl (s : State) : Reaches s s
  | tail (s t u : State) : Reaches s t → Steps t u → Reaches s u

/-- The device stops with a fault only where a translation names memory that does not exist. -/
def OnlyHoles (s : State) : Prop := ∀ f, Sys2Proof.Machine.step s = .fault f → f = Fault.noSuchMemory

/-- `k` steps from `s` meet no fault and no refusal. -/
def SafeFor : Nat → State → Prop
  | 0, _ => True
  | k + 1, s => ∃ t, Steps s t ∧ SafeFor k t

/-- Everything of the device is the same but the threads of groups and programs, what their teams and quads hold,
the cores, and the counters of the model. Instructions that touch no memory and no other agent keep this. -/
def SameOutside (s t : State) : Prop :=
  t = { s with teams := t.teams, quads := t.quads, cores := t.cores, freeCtr := t.freeCtr, agenda := t.agenda, cur := t.cur }

/-- Every byte of every space reads as before. -/
def SameBytes (s t : State) : Prop :=
  t.mem = s.mem ∧ t.scr = s.scr ∧ t.dsp = s.dsp ∧ t.drive = s.drive

/-! ### Issuing without a cause -/

/-- The state in which an issuing instruction is judged: the results due by this cycle have landed (R60). -/
def landed (s : State) : State := s.mapThr s.cur (Thr.landDue s.clk)

/-- That state with the fallbacks of the instruction noted in wsr (R65, R66); `x` holds the bits that its entry adds. -/
def noted (n : Ins) (x : BitVec 32) (s : State) : State :=
  (landed s).mapThr s.cur fun t => { t with wsr := t.wsr ||| n.warns t.scalar ||| x }

/-- What the instruction reads there: lanes, operands, type, rounding, saturation. -/
def sight (n : Ins) (x : BitVec 32) (s : State) : Go := readOperands n s.cur (noted n x s)

/-- The instruction issues in normal mode, passes the checks of R65 in their order, has an active lane, and no operand
raises a cause. This is a condition on the state and the instruction's fields alone. -/
structure Clear (n : Ins) (x : Extra) (s : State) : Prop where
  awake : ((landed s).thr s.cur).ra = none
  early : earlyTrap n x ((landed s).thr s.cur) = none
  late  : lateTrap n x ((landed s).thr s.cur) = none
  some  : (sight n x.warn s).full ≠ 0
  sound : (sight n x.warn s).faults = []

/-- A queue entry is consumed where the instruction reads uq (R38, R230); else nothing happens. -/
def consumed (n : Ins) (s : State) : State :=
  if n.readsUq (s.thr s.cur).scalar then s.consumeUq s.cur else s

/-- What every instruction that completes its issue does to its thread, beyond its own effect: it takes its place in the
issue order, its cycle counts for spacing (R42), its chain record and its latch entry are kept (R53, R54, R56), with what
they depend on (`Thr.track`, R331), and no failed fill waits for it any more (R310). -/
def stepped (n : Ins) (g : Go) (before : Thr) (clk : Nat) (e : Latch) (th : Thr) : Thr :=
  ({ th with
    chain := nextChain n g.addr g.act before th
    seq := before.seq + 1
    stErr := if g.addr = before.faultAt then [] else th.stErr
    reopen := none
    lastIssue := some clk
    latches := e :: (if n.readsLatch g.scal then th.latches else List.replicate 4 Latch.invalid).take 3
    latchDeps := [] :: th.latchDeps.take 3 } : Thr).track n g before

/-- The present lanes go on to the next instruction (R18): the others keep their PCs. -/
def goesOn (g : Go) (th : Thr) : Thr :=
  { th with pcv := (List.range th.pcv.length).map fun l =>
      if g.pres.getLsbD l then th.pcv.getD l exitedPc + BitVec.ofNat 48 (8 * g.n.len) else th.pcv.getD l exitedPc }

/-- The completion flag that a word names becomes busy (R43). -/
def flagged (n : Ins) (th : Thr) : Thr :=
  { th with busy := match n.flag with | some f => th.busy ||| (1#12 <<< f) | none => th.busy }

/-- The results `ws` are on their way, and the flag clears with them, `lat` cycles after the issue (R43, R60). -/
def sends (n : Ins) (clk lat : Nat) (ws : List RegW) (th : Thr) : Thr :=
  let t : Thr := { (flagged n th) with
    pend := if ws.isEmpty && n.flag.isNone then th.pend else th.pend ++ [⟨clk + lat, th.seq, n.flag, ws⟩] }
  t.noteWrites (positions ws)

/-- An operation with the completion flag of its word is in flight (R43), checked against the view of a region where its
handle names one (R320), with what its address and data depend on (R331). -/
def opens (n : Ins) (strong : Bool) (scope : Nat) (long : Bool) (k : VKind) (view : Option (Nat × Nat)) (deps : List Dep) (th : Thr) :
    Thr :=
  let t : Thr := { (flagged n th) with
    ops := th.ops ++ [⟨th.seq, n.flag, strong, scope, th.issueAddr, k, 0, view, deps⟩]
    long := match n.flag with | some f => if long then th.long ||| (1#12 <<< f) else th.long | none => th.long }
  t.noteWrites (positions k.results)

/-- The float flags raised by the active lanes are added to fsr, where they stay (R73). -/
def raises (fl : BitVec 5) (th : Thr) : Thr := { th with fsr := th.fsr ||| fl.setWidth 32 }

/-- Whether a result's latch entry holds 64 bits for each lane. -/
def wideResult (n : Ins) (g : Go) : Bool :=
  match n.row.dst with
  | .pred => false
  | _ => match n.dests g.scal with
    | (_, b) :: _ => b
    | [] => false

/-- The state that a result on its way leaves, with the latch entry `e`: of the issuing thread the results, the flag, the
float flags raised by the active lanes (R73), the latch entry, and the PCs; of everything else only a queue entry read. -/
def sentNext (n : Ins) (x : BitVec 32) (r : Res) (e : Latch) (s : State) : State :=
  let u := noted n x s
  let g := sight n x s
  let before := u.thr s.cur
  let v := u.mapThr s.cur fun th => raises (unionFlags g.act r.flags)
    (sends n s.clk (latency n.row.cls g.scal) (regWrites n before (r.mask.getD g.act) g.alive r 0) th)
  (consumed n v).mapThr s.cur fun th => goesOn g (stepped n g before s.clk e th)

/-- The state that a fixed-latency result leaves: its latch entry holds the result in the active lanes (R53). -/
def fixedNext (n : Ins) (x : BitVec 32) (r : Res) (s : State) : State :=
  let g := sight n x s
  sentNext n x r (resLatch g (wideResult n g) r 0) s

/-- The state that an operation put in flight leaves. -/
def varNext (n : Ins) (x : BitVec 32) (strong : Bool) (scope : Nat) (long : Bool) (k : VKind) (s : State)
    (view : Option (Nat × Nat) := none) (deps : List Dep := []) : State :=
  let u := noted n x s
  let g := sight n x s
  let before := u.thr s.cur
  (consumed n (u.mapThr s.cur (opens n strong scope long k view deps))).mapThr s.cur fun th =>
    goesOn g (stepped n g before s.clk Latch.invalid th)

end Sys2Proof.Safety
end

