-- ==== Sys2Proof/Certificates/Slice0/Obligations.lean ====
section
/-! DEFINITION. The statements for the provers. The helpers before them say in plain terms what an instruction gives; every
statement's docstring names the rules of the manual it formalises. -/

namespace Sys2Proof.Claims

open Sys2Proof Sys2Proof.Machine Sys2Proof.Safety

/-! ### What a lane-wise instruction gives -/

/-- A value for each active lane, zero elsewhere. -/
def lanewise (g : Go) (f : Nat → BitVec 64) : List (BitVec 64) := perLane fun l => if g.act.getLsbD l then f l else 0

/-- Where the instruction issues without a cause, `out` is the next state in which each active lane's value is on its way
to the destination after the latency of its class, tagged `t`, raising no float flag; nothing else changes (`fixedNext`). -/
def Gives (n : Ins) (x : Extra) (s : State) (out : Out) (v : Go → Nat → BitVec 64) (t : Go → Tag) : Prop :=
  Clear n x s → out = .next (fixedNext n x.warn
    { vals := lanewise (sight n x.warn s) (v (sight n x.warn s)), tag := t (sight n x.warn s) } s)

/-- The same for an operation in flight whose results land when it completes and clears its flag. -/
def Opens (n : Ins) (x : Extra) (s : State) (out : Out) (v : Go → Nat → BitVec 64) (t : Go → Tag) : Prop :=
  out = .next (varNext n x.warn false 8 false (.result
    (regWrites n ((noted n x.warn s).thr s.cur) (sight n x.warn s).act (sight n x.warn s).alive
      { vals := lanewise (sight n x.warn s) (v (sight n x.warn s)), tag := t (sight n x.warn s) } 0) 0) s)

/-- An exact integer clamped to the range of the instruction's type, as its register holds it (R91, R93). -/
def clamped (g : Go) (x : Int) : BitVec 64 :=
  let lo : Int := if isSigned g.ty then -(2 ^ (g.w - 1) : Nat) else 0
  let hi : Int := if isSigned g.ty then (2 ^ (g.w - 1) : Nat) - 1 else (2 ^ g.w : Nat) - 1
  g.fit (BitVec.ofInt 64 (if x < lo then lo else if hi < x then hi else x))

/-- The tag of an integer result: the row of Table 3.4 for an unsaturated 32-bit one, else U from U operands alone. -/
def intTag (t : Go → Tag) (g : Go) : Tag := if is64 g.ty ∨ g.sat then laneTag g.ops else t g

/-- The tag of a result that Table 3.4 does not list. -/
def anyTag (g : Go) : Tag := laneTag g.ops

/-- Operand i of lane l in 32 bits. -/
def low (g : Go) (i l : Nat) : BitVec 32 := (g.val i l).setWidth 32

/-- A 32-bit or 64-bit operation, by the width of TYPE, as its register holds the result (R91). -/
def byWidth (g : Go) (f32 : BitVec 32) (f64 : BitVec 64) : BitVec 64 := g.fit (if is64 g.ty then f64 else f32.setWidth 64)

/-- The shift count: S2 as n32 modulo the width of TYPE (Table 6.1). -/
def count (g : Go) (l : Nat) : Nat := (low g 1 l).toNat % (if is64 g.ty then 64 else 32)

/-- The state that an instruction leaves whose own effect on the state is `e` and that moves its lanes to `pcs`. -/
def jumps (n : Ins) (x : BitVec 32) (e : State → State) (pcs : List (BitVec 48)) (s : State) : State :=
  let u := noted n x s
  let g := sight n x s
  (consumed n (e u)).mapThr s.cur fun th => { (stepped n g (u.thr s.cur) s.clk Latch.invalid th) with pcv := pcs }

/-- The state that an instruction leaves whose own effect is `e` and whose present lanes go on. -/
def passes (n : Ins) (x : BitVec 32) (e : State → State) (s : State) : State :=
  let u := noted n x s
  let g := sight n x s
  (consumed n (e u)).mapThr s.cur fun th => goesOn g (stepped n g (u.thr s.cur) s.clk Latch.invalid th)

/-- A blocking instruction that completes at once: its flag clears in the next cycle (R59, R114). -/
def flagNext (n : Ins) (s : State) : State := s.mapThr s.cur fun th => sends n s.clk 1 [] th

end Sys2Proof.Claims

open Sys2Proof Sys2Proof.Machine Sys2Proof.Safety Sys2Proof.Claims

/-! ## Integer instructions -/

/-- R93, R94 and Table 6.1: sums, differences and products are reduced modulo the width of TYPE, or clamped under SAT;
mulhi gives the upper half of the double-width product. The tags are those of Table 3.4 (R30), but that a clamped result of A operands
is tagged G, where the table gives A (the model's choice, log entry 67). -/
def Obligations.IntegerArithmeticWritesReducedOrClampedResults : Prop :=
  ∀ (c : Ctl) (p : PayA) (q : PayB) (s : State),
    Gives (p.ins Rows.rowAdd c) {} s (exec (.add c p) s)
      (fun g l => if g.sat then clamped g (g.int 0 l + g.int 1 l) else g.fit (g.val 0 l + g.val 1 l)) (intTag fun g => sumTag (· + ·) g.act (g.op 0) (g.op 1)) ∧
    Gives (p.ins Rows.rowSub c) {} s (exec (.sub c p) s)
      (fun g l => if g.sat then clamped g (g.int 0 l - g.int 1 l) else g.fit (g.val 0 l - g.val 1 l)) (intTag fun g => sumTag (· - ·) g.act (g.op 0) (g.op 1)) ∧
    Gives (p.ins Rows.rowMul c) {} s (exec (.mul c p) s)
      (fun g l => if g.sat then clamped g (g.int 0 l * g.int 1 l) else g.fit (g.val 0 l * g.val 1 l)) (intTag fun g => scaleTag g.act (g.op 0) (g.op 1)) ∧
    Gives (q.ins Rows.rowMad c) {} s (exec (.mad c q) s)
      (fun g l => if g.sat then clamped g (g.int 0 l * g.int 1 l + g.int 2 l) else g.fit (g.val 0 l * g.val 1 l + g.val 2 l))
      (fun g =>
        if is64 g.ty ∨ g.sat then anyTag g
        else if (g.op 2).tag = .U then scaleTag g.act (g.op 0) (g.op 1) (((g.op 2).uni g.act).setWidth 32)
        else .G) ∧
    Gives (p.ins Rows.rowMulhi c) {} s (exec (.mulhi c p) s)
      (fun g l => byWidth g
        (if isSigned g.ty then (((low g 0 l).signExtend 64 * (low g 1 l).signExtend 64) >>> 32).setWidth 32
         else (((low g 0 l).setWidth 64 * (low g 1 l).setWidth 64) >>> 32).setWidth 32)
        (if isSigned g.ty then (((g.val 0 l).signExtend 128 * (g.val 1 l).signExtend 128) >>> 64).setWidth 64
         else (((g.val 0 l).setWidth 128 * (g.val 1 l).setWidth 128) >>> 64).setWidth 64)) anyTag ∧
    Gives (p.ins Rows.rowNeg c) {} s (exec (.neg c p) s)
      (fun g l => if g.sat then clamped g (-g.int 0 l) else g.fit (-g.val 0 l)) (intTag fun g => negTag (g.op 0)) ∧
    Gives (p.ins Rows.rowAbs c) {} s (exec (.abs c p) s)
      (fun g l => if g.sat then clamped g (g.int 0 l).natAbs
        else if g.int 0 l < 0 then g.fit (-g.val 0 l) else g.fit (g.val 0 l)) (intTag fun g => laneTag [g.op 0]) ∧
    Gives (p.ins Rows.rowMin c) {} s (exec (.min c p) s)
      (fun g l => if g.int 1 l < g.int 0 l then g.fit (g.val 1 l) else g.fit (g.val 0 l)) (intTag fun g => laneTag [g.op 0, g.op 1]) ∧
    Gives (p.ins Rows.rowMax c) {} s (exec (.max c p) s)
      (fun g l => if g.int 0 l < g.int 1 l then g.fit (g.val 1 l) else g.fit (g.val 0 l)) (intTag fun g => laneTag [g.op 0, g.op 1])

/-- R93 and Table 6.1: logic acts on bits; shifts take their count modulo the width; rot rotates left; popc and clz count
within the width of TYPE. -/
def Obligations.BitOperationsActOnTheWidthOfTheirType : Prop :=
  ∀ (c : Ctl) (p : PayA) (s : State),
    Gives (p.ins Rows.rowAnd c) {} s (exec (.and c p) s) (fun g l => byWidth g (low g 0 l &&& low g 1 l) (g.val 0 l &&& g.val 1 l)) anyTag ∧
    Gives (p.ins Rows.rowOr c) {} s (exec (.or c p) s) (fun g l => byWidth g (low g 0 l ||| low g 1 l) (g.val 0 l ||| g.val 1 l)) anyTag ∧
    Gives (p.ins Rows.rowXor c) {} s (exec (.xor c p) s) (fun g l => byWidth g (low g 0 l ^^^ low g 1 l) (g.val 0 l ^^^ g.val 1 l)) anyTag ∧
    Gives (p.ins Rows.rowNot c) {} s (exec (.not c p) s) (fun g l => byWidth g (~~~low g 0 l) (~~~g.val 0 l)) anyTag ∧
    Gives (p.ins Rows.rowShl c) {} s (exec (.shl c p) s)
      (fun g l => byWidth g (low g 0 l <<< count g l) (g.val 0 l <<< count g l))
      (fun g => if is64 g.ty then anyTag g else shlTag (g.op 0) (g.op 1) (count g (lowestLane g.act))) ∧
    Gives (p.ins Rows.rowShr c) {} s (exec (.shr c p) s) (fun g l => byWidth g (low g 0 l >>> count g l) (g.val 0 l >>> count g l)) anyTag ∧
    Gives (p.ins Rows.rowSar c) {} s (exec (.sar c p) s)
      (fun g l => byWidth g ((low g 0 l).sshiftRight (count g l)) ((g.val 0 l).sshiftRight (count g l))) anyTag ∧
    Gives (p.ins Rows.rowRot c) {} s (exec (.rot c p) s)
      (fun g l => byWidth g ((low g 0 l).rotateLeft (count g l)) ((g.val 0 l).rotateLeft (count g l))) anyTag ∧
    Gives (p.ins Rows.rowPopc c) {} s (exec (.popc c p) s)
      (fun g l => BitVec.ofNat 64 (((List.range (if is64 g.ty then 64 else 32)).filter fun k => (g.val 0 l).getLsbD k).length)) anyTag ∧
    Gives (p.ins Rows.rowClz c) {} s (exec (.clz c p) s)
      (fun g l => if is64 g.ty then (g.val 0 l).clz else (low g 0 l).clz.setWidth 64) anyTag

/-- R95 to R101: nop, the bit fields of Table 6.2, the immediates of Table 6.3, mov with its poison mark (R156), lea. -/
def Obligations.FieldsImmediatesAndMovesWriteWhatTheirEntriesSay : Prop :=
  ∀ (c : Ctl) (p : PayA) (q : PayB) (i : PayI) (s : State),
    (Clear (p.ins Rows.rowNop c) {} s →
      let n := p.ins Rows.rowNop c
      let g := sight n 0 s
      exec (.nop c p) s = .next ((noted n 0 s).mapThr s.cur fun th =>
        goesOn g (stepped n g ((noted n 0 s).thr s.cur) s.clk Latch.invalid (sends n s.clk (if g.scal then 2 else 4) [] th)))) ∧
    Gives (q.ins Rows.rowBfe c) {} s (exec (.bfe c q) s)
      (fun g l =>
        let pos := (g.val 1 l).extractLsb' 0 5
        let len := ((g.val 1 l).extractLsb' 8 6).toNat
        let n := min len (32 - pos.toNat)
        let x : BitVec 32 := (low g 0 l >>> pos.toNat) <<< (32 - n)
        if len = 0 then 0
        else if (g.val 1 l).getLsbD 16 ∧ n = len then (x.sshiftRight (32 - n)).setWidth 64
        else (x >>> (32 - n)).setWidth 64) anyTag ∧
    Gives (q.ins Rows.rowBfi c) {} s (exec (.bfi c q) s)
      (fun g l =>
        let pos := ((g.val 2 l).extractLsb' 0 5).toNat
        let n := min ((g.val 2 l).extractLsb' 8 6).toNat (32 - pos)
        let m : BitVec 32 := (BitVec.ofNat 32 (2 ^ n - 1)) <<< pos
        (((low g 0 l) &&& ~~~m) ||| ((low g 1 l <<< pos) &&& m)).setWidth 64) anyTag ∧
    Gives (i.ins Rows.rowAddi c) {} s (exec (.addi c i) s)
      (fun g l => if g.scal then g.val 0 l + i.imm.signExtend 64 else (low g 0 l + i.imm.signExtend 32).setWidth 64)
      (fun g => sumTag (· + ·) g.act (g.op 0) (Opd.const (i.imm.signExtend 64))) ∧
    Gives (i.ins Rows.rowLi c) {} s (exec (.li c i) s)
      (fun g _ => if g.scal then i.imm.signExtend 64 else (i.imm.signExtend 32).setWidth 64) (fun _ => .U) ∧
    Gives (i.ins Rows.rowLih c) {} s (exec (.lih c i) s)
      (fun g l =>
        if g.scal then (g.val 0 l).extractLsb' 32 32 ++ i.imm ++ (g.val 0 l).extractLsb' 0 16
        else (i.imm ++ (g.val 0 l).extractLsb' 0 16).setWidth 64)
      (fun g => if (g.op 0).tag = .U then .U else .G) ∧
    (Clear (p.ins Rows.rowMov c) {} s →
      exec (.mov c p) s = .next (fixedNext (p.ins Rows.rowMov c) 0
        { vals := lanewise (sight (p.ins Rows.rowMov c) 0 s) (fun l =>
            if (sight (p.ins Rows.rowMov c) 0 s).scal ∧ p.s1 = 0xFF ∧ (sight (p.ins Rows.rowMov c) 0 s).ty = 0
            then (low (sight (p.ins Rows.rowMov c) 0 s) 0 l).signExtend 64 else (sight (p.ins Rows.rowMov c) 0 s).val 0 l)
          poison := ((sight (p.ins Rows.rowMov c) 0 s).op 0).poison
          tag := if is64 (sight (p.ins Rows.rowMov c) 0 s).ty then anyTag (sight (p.ins Rows.rowMov c) 0 s)
            else ((sight (p.ins Rows.rowMov c) 0 s).op 0).tag } s)) ∧
    Gives (p.ins Rows.rowLea c) {} s (exec (.lea c p) s)
      (fun g l => g.val 0 l + ((if g.ty = 0 then (low g 1 l).signExtend 64 else (low g 1 l).setWidth 64) <<<
        (if p.mod.getLsbD 0 then 2 else 0))) anyTag

/-- R97, R98, R102: sel copies by the bit of its predicate and carries poison, its tag by what it has chosen (the model's choice, log
entry 67), cmp compares as TYPE and gives 1 or 0, cvt
keeps the low bits or clamps. -/
def Obligations.SelectCompareAndConvertWriteWhatTheirEntriesSay : Prop :=
  ∀ (c : Ctl) (p : PayA) (q : PayB) (k : PayC) (s : State),
    (let n := q.ins Rows.rowSel c
     let g := sight n 0 s
     let kp := ((noted n 0 s).thr s.cur).readP s.freeCtr (q.s3.extractLsb' 0 3).toNat
     ∀ _ : Clear n { mode := (s.thr s.cur).scalar && (q.s3.extractLsb' 0 3).toNat != 0 } s,
      exec (.sel c q) s = .next (fixedNext n 0
        { vals := lanewise g fun l => if kp.v.getLsbD l then g.val 0 l else g.val 1 l
          poison := ((g.op 0).poison &&& kp.v) ||| ((g.op 1).poison &&& ~~~kp.v)
          tag := if isU g.act (lanewise g fun l => if kp.v.getLsbD l then g.val 0 l else g.val 1 l) then laneTag g.ops else .G } s)) ∧
    (p.mod.extractLsb' 1 3 = 0 → Gives (p.ins Rows.rowCmp c) {} s (exec (.cmp c p) s) (fun g l => bit64 (g.int 0 l == g.int 1 l)) anyTag) ∧
    (p.mod.extractLsb' 1 3 = 1 → Gives (p.ins Rows.rowCmp c) {} s (exec (.cmp c p) s) (fun g l => bit64 (g.int 0 l != g.int 1 l)) anyTag) ∧
    (p.mod.extractLsb' 1 3 = 2 → Gives (p.ins Rows.rowCmp c) {} s (exec (.cmp c p) s) (fun g l => bit64 (decide (g.int 0 l < g.int 1 l))) anyTag) ∧
    (p.mod.extractLsb' 1 3 = 3 → Gives (p.ins Rows.rowCmp c) {} s (exec (.cmp c p) s) (fun g l => bit64 (decide (g.int 0 l ≤ g.int 1 l))) anyTag) ∧
    (p.mod.extractLsb' 1 3 = 4 → Gives (p.ins Rows.rowCmp c) {} s (exec (.cmp c p) s) (fun g l => bit64 (decide (g.int 1 l < g.int 0 l))) anyTag) ∧
    (p.mod.extractLsb' 1 3 = 5 → Gives (p.ins Rows.rowCmp c) {} s (exec (.cmp c p) s) (fun g l => bit64 (decide (g.int 1 l ≤ g.int 0 l))) anyTag) ∧
    Gives (k.ins Rows.rowCvt c) {} s (exec (.cvt c k) s)
      (fun g l =>
        let w := if g.ty = 2 ∨ g.ty = 3 then 64 else if g.ty = 13 ∨ g.ty = 14 then 8 else 32
        let a := intOf (isSigned g.st) (if g.st = 2 ∨ g.st = 3 then 64 else if g.st = 13 ∨ g.st = 14 then 8 else 32) (g.val 0 l)
        let lo : Int := if isSigned g.ty then -(2 ^ (w - 1) : Nat) else 0
        let hi : Int := if isSigned g.ty then (2 ^ (w - 1) : Nat) - 1 else (2 ^ w : Nat) - 1
        let y : BitVec 64 := BitVec.ofInt 64 (if g.sat then (if a < lo then lo else if hi < a then hi else a) else a)
        if w = 64 then y
        else if g.scal then (if isSigned g.ty then sext w y else zext w y)
        else if g.ty = 13 then ((y.setWidth 8).signExtend 32).setWidth 64
        else (y.setWidth w).setWidth 64) anyTag

/-- R103 and R104: division rounds toward zero, the remainder has the sign of the dividend, a clamp acts under SAT; one
zero divisor in an active lane takes DIVZERO in the lanes that hold one, and the instruction then puts nothing in flight. -/
def Obligations.DivisionRoundsTowardZeroAndTrapsOnZero : Prop :=
  ∀ (c : Ctl) (p : PayA) (s : State),
    (∀ _ : Clear (p.ins Rows.rowDiv c) {} s,
      let g := sight (p.ins Rows.rowDiv c) 0 s
      ((∀ l < 32, g.act.getLsbD l = true → g.int 1 l ≠ 0) →
        Opens (p.ins Rows.rowDiv c) {} s (exec (.div c p) s)
          (fun g l => if g.sat then clamped g (Int.tdiv (g.int 0 l) (g.int 1 l)) else g.fit (BitVec.ofInt 64 (Int.tdiv (g.int 0 l) (g.int 1 l)))) anyTag) ∧
      ((∃ l < 32, g.act.getLsbD l = true ∧ g.int 1 l = 0) → exec (.div c p) s = .next (deliver (p.ins Rows.rowDiv c) (noted (p.ins Rows.rowDiv c) 0 s)
        [{ cause := .divzero, lmask := maskOf fun l => g.act.getLsbD l && g.int 1 l == 0, tval := 0 }]))) ∧
    (∀ _ : Clear (p.ins Rows.rowRem c) {} s,
      let g := sight (p.ins Rows.rowRem c) 0 s
      ((∀ l < 32, g.act.getLsbD l = true → g.int 1 l ≠ 0) →
        Opens (p.ins Rows.rowRem c) {} s (exec (.rem c p) s)
          (fun g l => g.fit (BitVec.ofInt 64 (Int.tmod (g.int 0 l) (g.int 1 l)))) anyTag) ∧
      ((∃ l < 32, g.act.getLsbD l = true ∧ g.int 1 l = 0) → exec (.rem c p) s = .next (deliver (p.ins Rows.rowRem c) (noted (p.ins Rows.rowRem c) 0 s)
        [{ cause := .divzero, lmask := maskOf fun l => g.act.getLsbD l && g.int 1 l == 0, tval := 0 }])))

/-! ## Floating-point and packed instructions -/

namespace Sys2Proof.Claims

open Sys2Proof Sys2Proof.Machine Sys2Proof.Safety

/-- The float flags that each active lane raises. -/
def laneFlags (g : Go) (v : Nat → BitVec 64 × BitVec 5) : List (BitVec 5) :=
  perLane fun l => if g.act.getLsbD l then (v l).2 else 0

/-- The enable bits of fsr for the issuing thread (Table 5.4). -/
def enabled (n : Ins) (x : BitVec 32) (s : State) : BitVec 5 := ((noted n x s).thr s.cur).fsr.extractLsb' 8 5

/-- FPTRAP as R74 gives it: the lanes that raise an enabled flag, and the enabled flags raised in tval; fsr receives every
flag that an active lane raised. -/
def fptraps (n : Ins) (x : BitVec 32) (s : State) (v : Nat → BitVec 64 × BitVec 5) : State :=
  let g := sight n x s
  let all := unionFlags g.act (laneFlags g v)
  deliver n (noted n x s)
    [{ cause := .fptrap, lmask := maskOf fun l => g.act.getLsbD l && ((v l).2 &&& enabled n x s) != 0,
       tval := (all &&& enabled n x s).setWidth 64 }] all

/-- Where the instruction issues without a cause: if no active lane raises an enabled flag, each active lane's value is on
its way and the flags raised join fsr; if one does, FPTRAP is taken and no destination is written (R73, R74). -/
def FGives (n : Ins) (x : Extra) (s : State) (out : Out) (v : Go → Nat → BitVec 64 × BitVec 5)
    (t : Go → Tag := anyTag) (next : Res → State := fun r => fixedNext n x.warn r s) : Prop :=
  let g := sight n x.warn s
  Clear n x s →
    ((∀ l < 32, g.act.getLsbD l = true → (v g l).2 &&& enabled n x.warn s = 0) →
      out = .next (next { vals := lanewise g fun l => (v g l).1, tag := t g, flags := laneFlags g (v g) })) ∧
    ((∃ l < 32, g.act.getLsbD l = true ∧ (v g l).2 &&& enabled n x.warn s ≠ 0) → out = .next (fptraps n x.warn s (v g)))

/-- An operation on both halves of its operands, the flags of each half joined (R133). -/
def onHalves (f : Nat → BitVec 64 × BitVec 5) : BitVec 64 × BitVec 5 :=
  ((((f 1).1.setWidth 16 ++ (f 0).1.setWidth 16 : BitVec 32)).setWidth 64, (f 0).2 ||| (f 1).2)

/-- Half h of operand i in lane l. -/
def halfOf (g : Go) (i l h : Nat) : BitVec 64 := ((g.val i l).extractLsb' (16 * h) 16).setWidth 64

/-- Byte j of operand i in lane l as a signed or unsigned integer. -/
def byteOf (g : Go) (signed : Bool) (i l j : Nat) : Int :=
  if signed then ((g.val i l).extractLsb' (8 * j) 8).toInt else ((g.val i l).extractLsb' (8 * j) 8).toNat

/-- The value of a finite decoded number. -/
def ratOf (s : Bool) (m : Nat) (e : Int) : ℚ := (if s then -1 else 1) * (m : ℚ) * (2 : ℚ) ^ e

/-- The integer that a number rounds to under a rounding mode (Table 4.7). -/
def toWhole (rm : Nat) (q : ℚ) : Int :=
  if rm = 1 then (if q < 0 then ⌈q⌉ else ⌊q⌋) else if rm = 2 then ⌊q⌋ else if rm = 3 then ⌈q⌉
  else if q - ⌊q⌋ < 1 / 2 ∨ (q - ⌊q⌋ = 1 / 2 ∧ ⌊q⌋ % 2 = 0) then ⌊q⌋ else ⌊q⌋ + 1

/-- Whether `x` holds the number `q` in a format. -/
def Holds (f : Fp.Fmt) (x : BitVec 64) (q : ℚ) : Prop := ∃ s m e, Fp.decode f x = .num s m e ∧ ratOf s m e = q

/-- Least and greatest integer of a type code of Table 4.6, and the integer in its register: zeros above it, i8 extended to 32 bits. -/
def least (t : Nat) : Int := if t = 0 then -2147483648 else if t = 2 then -9223372036854775808 else if t = 13 then -128 else 0
@[inherit_doc least]
def greatest (t : Nat) : Int :=
  if t = 0 then 2147483647 else if t = 1 then 4294967295 else if t = 2 then 9223372036854775807
  else if t = 3 then 18446744073709551615 else if t = 13 then 127 else 255
@[inherit_doc least]
def inReg (t : Nat) (k : Int) : BitVec 64 := if t = 2 ∨ t = 3 then BitVec.ofInt 64 k else (BitVec.ofInt 32 k).setWidth 64

/-- The number in a float type, or infinity or NaN, that the source of an fcvt into that type becomes (R70, R71). -/
def FloatBecomes (f h : Fp.Fmt) (src dst rm : Nat) (sat : Bool) (x : BitVec 64) (y : BitVec 64 × BitVec 5) : Prop :=
  (∀ q, Fp.decode f x = .nan q → y = (BitVec.ofNat 64 h.nan, if q then 1 else 0)) ∧
  (∀ sg, Fp.decode f x = .inf sg →
    y = if (dst = 8 ∨ dst = 9) ∧ sat = true then (BitVec.ofNat 64 (h.maxFin sg), 0) else if dst = 8 then (0x7F, 1)
        else (BitVec.ofNat 64 (h.inf sg), 0)) ∧
  (∀ sg e, Fp.decode f x = .num sg 0 e → y = (BitVec.ofNat 64 (h.zero sg), 0)) ∧
  (∀ sg m e, Fp.decode f x = .num sg m e → m ≠ 0 → y = Fp.roundNum h rm sat sg m e false) ∧
  ((src = dst ∨ dst = 5 ∨ (dst = 4 ∧ src ≠ 5) ∨ ((dst = 6 ∨ dst = 7) ∧ (src = 8 ∨ src = 9))) →
    ∀ sg m e, Fp.decode f x = .num sg m e → Holds h y.1 (ratOf sg m e) ∧ y.2 = 0)

end Sys2Proof.Claims

/-- R119, R120, R123, R125, R130, R133: each of these gives in every active lane the exact result rounded once into its
type, with the flags of R69 and R70; an enabled flag takes FPTRAP instead (R74). -/
def Obligations.FloatArithmeticGivesRoundedResultsOrFptrap : Prop :=
  ∀ (c : Ctl) (p : PayA) (q : PayB) (s : State),
    FGives (p.ins Rows.rowFadd c) {} s (exec (.fadd c p) s) (fun g l => Fp.add (Fp.ofTy g.ty) g.rm (g.val 0 l) (g.val 1 l)) ∧
    FGives (p.ins Rows.rowFsub c) {} s (exec (.fsub c p) s) (fun g l => Fp.sub (Fp.ofTy g.ty) g.rm (g.val 0 l) (g.val 1 l)) ∧
    FGives (p.ins Rows.rowFmul c) {} s (exec (.fmul c p) s) (fun g l => Fp.mul (Fp.ofTy g.ty) g.rm (g.val 0 l) (g.val 1 l)) ∧
    FGives (q.ins Rows.rowFma c) {} s (exec (.fma c q) s)
      (fun g l => Fp.fma (Fp.ofTy g.ty) g.rm (g.val 0 l) (g.val 1 l) (g.val 2 l)) ∧
    FGives (p.ins Rows.rowFround c) {} s (exec (.fround c p) s)
      (fun g l => Fp.roundInt (Fp.ofTy g.ty) g.rm (p.mod.getLsbD 0) (g.val 0 l)) ∧
    FGives (p.ins Rows.rowFscl c) {} s (exec (.fscl c p) s)
      (fun g l => Fp.scale (Fp.ofTy g.ty) g.rm (g.val 0 l) (low g 1 l).toInt) ∧
    FGives (q.ins Rows.rowDot2 c) {} s (exec (.dot2 c q) s) (fun g l => dot2 g.ty g.rm (g.val 0 l) (g.val 1 l) (g.val 2 l)) ∧
    FGives (p.ins Rows.rowHadd2 c) {} s (exec (.hadd2 c p) s)
      (fun g l => onHalves fun h => Fp.add (Fp.ofTy g.ty) g.rm (halfOf g 0 l h) (halfOf g 1 l h)) ∧
    FGives (p.ins Rows.rowHmul2 c) {} s (exec (.hmul2 c p) s)
      (fun g l => onHalves fun h => Fp.mul (Fp.ofTy g.ty) g.rm (halfOf g 0 l h) (halfOf g 1 l h)) ∧
    FGives (q.ins Rows.rowHfma2 c) {} s (exec (.hfma2 c q) s)
      (fun g l => onHalves fun h => Fp.fma (Fp.ofTy g.ty) g.rm (halfOf g 0 l h) (halfOf g 1 l h) (halfOf g 2 l h))

/-- R119, R122, R124, R126, R131, R132: selection, sign, comparison, classification, exponents, byte sums and packing. fabs
and fneg change one bit, fclass sets one of ten, dot4 is reduced or clamped, and the flags are those of each entry. -/
def Obligations.FloatSelectionClassesAndPackingWriteWhatTheirEntriesSay : Prop :=
  ∀ (c : Ctl) (p : PayA) (q : PayB) (s : State),
    FGives (p.ins Rows.rowFmin c) {} s (exec (.fmin c p) s) (fun g l => Fp.minMax (Fp.ofTy g.ty) false (g.val 0 l) (g.val 1 l)) ∧
    FGives (p.ins Rows.rowFmax c) {} s (exec (.fmax c p) s) (fun g l => Fp.minMax (Fp.ofTy g.ty) true (g.val 0 l) (g.val 1 l)) ∧
    FGives (p.ins Rows.rowFabs c) {} s (exec (.fabs c p) s)
      (fun g l => (if g.ty = 5 then g.val 0 l &&& 0x7FFFFFFFFFFFFFFF
        else if g.ty = 6 ∨ g.ty = 7 then g.val 0 l &&& 0x7FFF else if g.ty = 8 ∨ g.ty = 9 then g.val 0 l &&& 0x7F
        else g.val 0 l &&& 0x7FFFFFFF, 0)) ∧
    FGives (p.ins Rows.rowFneg c) {} s (exec (.fneg c p) s)
      (fun g l => (if g.ty = 5 then g.val 0 l ^^^ 0x8000000000000000
        else if g.ty = 6 ∨ g.ty = 7 then (g.val 0 l ^^^ 0x8000) &&& 0xFFFF
        else if g.ty = 8 ∨ g.ty = 9 then (g.val 0 l ^^^ 0x80) &&& 0xFF else (g.val 0 l ^^^ 0x80000000) &&& 0xFFFFFFFF, 0)) ∧
    FGives (p.ins Rows.rowFcmp c) {} s (exec (.fcmp c p) s)
      (fun g l =>
        let a := Fp.decode (Fp.ofTy g.ty) (g.val 0 l)
        let b := Fp.decode (Fp.ofTy g.ty) (g.val 1 l)
        let un := Fp.Val.isNan a || Fp.Val.isNan b
        let o := Fp.cmpV a b
        let k := (p.mod.extractLsb' 1 3).toNat
        (bit64 (if k = 0 then !un && o == .eq else if k = 1 then un || o != .eq else if k = 2 then !un && o == .lt
            else if k = 3 then !un && o != .gt else if k = 4 then !un && o == .gt else if k = 5 then !un && o != .lt
            else if k = 6 then un else !un),
         if (2 ≤ k ∧ k ≤ 5 ∧ un = true) ∨ a = .nan true ∨ b = .nan true then 1 else 0)) ∧
    FGives (p.ins Rows.rowFclass c) {} s (exec (.fclass c p) s)
      (fun g l =>
        let f := Fp.ofTy g.ty
        (match Fp.decode f (g.val 0 l) with
          | .nan sg => if sg then 0x100 else 0x200
          | .inf sg => if sg then 0x001 else 0x080
          | .num sg m e =>
            if m = 0 then (if sg then 0x008 else 0x010)
            else if m < 2 ^ f.fb ∧ e = f.emin - f.fb then (if sg then 0x004 else 0x020)
            else (if sg then 0x002 else 0x040), 0)) ∧
    FGives (p.ins Rows.rowFgetx c) {} s (exec (.fgetx c p) s)
      (fun g l =>
        let y : BitVec 32 × BitVec 5 := match Fp.decode (Fp.ofTy g.ty) (g.val 0 l) with
          | .nan sg => (0x80000001, if sg then 1 else 0)
          | .inf _ => (0x7FFFFFFF, 0)
          | .num _ m e => if m = 0 then (0x80000000, 0) else (BitVec.ofInt 32 ((Nat.log2 m : Int) + e), 0)
        (if g.scal then y.1.signExtend 64 else y.1.setWidth 64, y.2)) ∧
    (∀ _ : Clear (q.ins Rows.rowDot4 c) {} s,
      exec (.dot4 c q) s = .next (fixedNext (q.ins Rows.rowDot4 c) 0
        { vals := lanewise (sight (q.ins Rows.rowDot4 c) 0 s) fun l =>
            let g := sight (q.ins Rows.rowDot4 c) 0 s
            let sa := match (q.ins Rows.rowDot4 c).ext with | some w => w.getLsbD 16 | none => true
            let sb := match (q.ins Rows.rowDot4 c).ext with | some w => w.getLsbD 17 | none => true
            let x : Int := byteOf g sa 0 l 0 * byteOf g sb 1 l 0 + byteOf g sa 0 l 1 * byteOf g sb 1 l 1
              + byteOf g sa 0 l 2 * byteOf g sb 1 l 2 + byteOf g sa 0 l 3 * byteOf g sb 1 l 3 + (low g 2 l).toInt
            (BitVec.ofInt 32 (if g.sat then (if x < -2147483648 then -2147483648 else if 2147483647 < x then 2147483647 else x)
              else x)).setWidth 64
          tag := anyTag (sight (q.ins Rows.rowDot4 c) 0 s) } s)) ∧
    FGives (p.ins Rows.rowPk2 c) {} s (exec (.pk2 c p) s)
      (fun g l => onHalves fun h => Fp.convert Fp.f32 (Fp.ofTy g.ty) g.rm false (g.val h l)) ∧
    FGives (p.ins Rows.rowUpk2 c) {} s (exec (.upk2 c p) s)
      (fun g l => Fp.convert (Fp.ofTy g.ty) Fp.f32 0 false (halfOf g 0 l (if p.mod.getLsbD 0 then 1 else 0)))

/-- R71, R72, R127 to R129, R132: fcvt converts by the pair of its types (Table 7.4) and marks a rounding or SAT without meaning:
between floats a NaN becomes the canonical one, a pair that holds every value keeps it, another rounds or follows Table 5.3; into an
integer it rounds by RND, clamps to the nearest bound with NV, and takes a NaN to 0 with NV; from an integer it rounds, a 64-bit one
into f64 to nearest whatever RND says (DEDUCED, log entry 18). pk4 and upk4 convert bytes, pk4 keeping the other two bytes of D. The
seeds give the special and the exact values of Table 7.6 with its flags; that their other results lie within its bounds, of free
choice (DEDUCED, log entry 59), is not stated here. -/
def Obligations.ConversionsAndTheSpecialValuesOfSeedsFollowTheirTables : Prop :=
  (∀ (src dst rm : Nat) (sat : Bool) (x : BitVec 64),
    let y := convertOne src dst rm sat x
    let f := Fp.ofTy src
    let h := Fp.ofTy dst
    let flt (t : Nat) : Prop := 4 ≤ t ∧ t ≤ 9
    let int (t : Nat) : Prop := t < 4 ∨ t = 13 ∨ t = 14
    rm < 4 →
    (flt src → flt dst → (dst ≠ 8 → dst ≠ 9 → sat = false) → FloatBecomes f h src dst rm sat x y) ∧
    (flt src → int dst →
      (∀ q, Fp.decode f x = .nan q → y = (0, 1)) ∧
      (∀ sg, Fp.decode f x = .inf sg → y = (inReg dst (if sg then least dst else greatest dst), 1)) ∧
      (∀ sg m e, Fp.decode f x = .num sg m e →
        let q := ratOf sg m e
        let k := toWhole rm q
        y = if k < least dst then (inReg dst (least dst), 1) else if greatest dst < k then (inReg dst (greatest dst), 1)
            else (inReg dst k, if (k : ℚ) = q then 0 else 16))) ∧
    (∀ k : Int, int src → flt dst → least src ≤ k → k ≤ greatest src → x = BitVec.ofInt 64 k →
      (k = 0 → y = (0, 0)) ∧
      (k ≠ 0 → ¬((src = 13 ∨ src = 14) ∧ (dst = 4 ∨ dst = 6 ∨ dst = 7)) →
        y = Fp.roundNum h (if dst = 5 then 0 else rm) sat (decide (k < 0)) k.natAbs 0 false) ∧
      ((k.natAbs ≤ 2 ^ 53 ∧ dst = 5) ∨ ((src = 13 ∨ src = 14) ∧ (dst = 4 ∨ dst = 6 ∨ dst = 7)) → Holds h y.1 (k : ℚ) ∧ y.2 = 0))) ∧
  ∀ (c : Ctl) (p : PayA) (k : PayC) (s : State),
    (let n := k.ins Rows.rowFcvt c
     FGives n { warn := fcvtWarn n (s.thr s.cur).scalar } s (exec (.fcvt c k) s)
      (fun g l => convertOne g.st g.ty g.rm (g.sat && (g.ty == 8 || g.ty == 9) && !exactPair g.st g.ty) (g.val 0 l))) ∧
    (let n := p.ins Rows.rowPk4 c
     FGives n { warn := warnBit 5 (isInt (n.ty (s.thr s.cur).scalar) && n.rnd != 0) } s (exec (.pk4 c p) s)
      (fun g l =>
        let y (i : Nat) : BitVec 64 × BitVec 5 :=
          if g.ty = 13 ∨ g.ty = 14 then
            let v := (low g i l).toInt
            let lo : Int := if g.ty = 13 then -128 else 0
            let hi : Int := if g.ty = 13 then 127 else 255
            (BitVec.ofInt 64 (if g.sat then (if v < lo then lo else if hi < v then hi else v) else v), 0)
          else Fp.convert Fp.f32 (Fp.ofTy g.ty) g.rm g.sat (g.val i l)
        let two : BitVec 16 := (y 1).1.setWidth 8 ++ (y 0).1.setWidth 8
        let d := low g 2 l
        (if p.mod.getLsbD 0 then (two ++ d.extractLsb' 0 16 : BitVec 32).setWidth 64
         else (d.extractLsb' 16 16 ++ two : BitVec 32).setWidth 64, (y 0).2 ||| (y 1).2))) ∧
    Gives (p.ins Rows.rowUpk4 c) {} s (exec (.upk4 c p) s)
      (fun g l =>
        let b := (g.val 0 l).extractLsb' (8 * ((g.val 1 l).extractLsb' 0 2).toNat) 8
        if g.ty = 13 then (b.signExtend 32).setWidth 64 else if g.ty = 14 then b.setWidth 64
        else (Fp.convert (Fp.ofTy g.ty) Fp.f32 0 false (b.setWidth 64)).1) anyTag ∧
    FGives (p.ins Rows.rowRcps c) {} s (exec (.rcps c p) s) (fun g l => Seed.rcps ((low g 0 l).setWidth 64)) ∧
    FGives (p.ins Rows.rowRsqs c) {} s (exec (.rsqs c p) s) (fun g l => Seed.rsqs ((low g 0 l).setWidth 64)) ∧
    FGives (p.ins Rows.rowExs c) {} s (exec (.exs c p) s) (fun g l => Seed.exs ((low g 0 l).setWidth 64)) ∧
    FGives (p.ins Rows.rowLgs c) {} s (exec (.lgs c p) s) (fun g l => Seed.lgs ((low g 0 l).setWidth 64)) ∧
    FGives (p.ins Rows.rowSns c) {} s (exec (.sns c p) s) (fun g l => Seed.sns ((low g 0 l).setWidth 64)) ∧
    FGives (p.ins Rows.rowCss c) {} s (exec (.css c p) s) (fun g l => Seed.css ((low g 0 l).setWidth 64)) ∧
    (∀ x : BitVec 64,
      let sp (f : BitVec 64 → BitVec 64 × BitVec 5) (n : Nat) (fl : BitVec 5) : Prop := f x = (BitVec.ofNat 64 n, fl)
      (∀ q, Fp.decode Fp.f32 x = .nan q → ∀ f ∈ [Seed.rcps, Seed.rsqs, Seed.exs, Seed.lgs, Seed.sns, Seed.css],
        sp f 0x7FC00000 (if q then 1 else 0)) ∧
      (∀ sg m e, Fp.decode Fp.f32 x = .num sg m e →
        (sg = true → m ≠ 0 → sp Seed.rsqs 0x7FC00000 1 ∧ sp Seed.lgs 0x7FC00000 1) ∧
        (128 ≤ ratOf sg m e → sp Seed.exs 0x7F800000 0) ∧
        (∀ n : Int, -149 ≤ n → n ≤ 127 → ratOf sg m e = n → Holds Fp.f32 (Seed.exs x).1 ((2 : ℚ) ^ n) ∧ (Seed.exs x).2 = 0) ∧
        (∀ n : Int, ratOf sg m e = (2 : ℚ) ^ n →
          Holds Fp.f32 (Seed.lgs x).1 n ∧ (Seed.lgs x).2 = 0 ∧ (n = 0 → (Seed.lgs x).1 = 0)) ∧
        (∀ k : Int, 2 * ratOf sg m e = k →
          sp Seed.sns (if k % 4 = 1 then 0x3F800000 else if k % 4 = 3 then 0xBF800000 else if sg ∧ m = 0 then 0x80000000 else 0) 0 ∧
          sp Seed.css (if k % 4 = 0 then 0x3F800000 else if k % 4 = 2 then 0xBF800000 else 0) 0)) ∧
      (x.setWidth 32 = (0x00000000 : BitVec 32) → Seed.rcps x = (0x7F800000, 2) ∧ Seed.rsqs x = (0x7F800000, 2) ∧
        Seed.lgs x = (0xFF800000, 2) ∧ Seed.sns x = (0, 0) ∧ Seed.css x = (0x3F800000, 0) ∧ Seed.exs x = (0x3F800000, 0)) ∧
      (x.setWidth 32 = (0x80000000 : BitVec 32) → Seed.rcps x = (0xFF800000, 2) ∧ Seed.rsqs x = (0xFF800000, 2) ∧
        Seed.lgs x = (0xFF800000, 2) ∧ Seed.sns x = (0x80000000, 0)) ∧
      (x.setWidth 32 = (0x7F800000 : BitVec 32) → Seed.rcps x = (0, 0) ∧ Seed.rsqs x = (0, 0) ∧ Seed.exs x = (0x7F800000, 0) ∧
        Seed.lgs x = (0x7F800000, 0) ∧ Seed.sns x = (0x7FC00000, 1) ∧ Seed.css x = (0x7FC00000, 1)) ∧
      (x.setWidth 32 = (0xFF800000 : BitVec 32) → Seed.rcps x = (0x80000000, 0) ∧ Seed.exs x = (0, 0) ∧
        Seed.rsqs x = (0x7FC00000, 1) ∧ Seed.lgs x = (0x7FC00000, 1)))

/-- R121 and R135: while no enable bit of fsr is set, fdiv and fsqrt put their rounded results and flags in flight and the
group goes on; while one is set they complete within the instruction, their results on their way as those of its fixed latency
(DEDUCED, log entry 27), or take FPTRAP. Either way the latch entry is invalid in every lane (R53). -/
def Obligations.FloatDivisionRunsInFlightOrHoldsItsGroup : Prop :=
  ∀ (c : Ctl) (p : PayA) (s : State),
    let one (n : Ins) (out : Out) (v : Go → Nat → BitVec 64 × BitVec 5) : Prop :=
      let g := sight n 0 s
      (∀ _ : Clear n {} s, enabled n 0 s = 0 →
        out = .next (varNext n 0 false 8 false (.result
          (regWrites n ((noted n 0 s).thr s.cur) g.act g.alive { vals := lanewise g fun l => (v g l).1, tag := anyTag g, flags := laneFlags g (v g) } 0)
          (unionFlags g.act (laneFlags g (v g)))) s)) ∧
      (enabled n 0 s ≠ 0 → FGives n {} s out v (next := fun r => sentNext n 0 r Latch.invalid s))
    one (p.ins Rows.rowFdiv c) (exec (.fdiv c p) s) (fun g l => Fp.div (Fp.ofTy g.ty) g.rm (g.val 0 l) (g.val 1 l)) ∧
    one (p.ins Rows.rowFsqrt c) (exec (.fsqrt c p) s) (fun g l => Fp.sqrt (Fp.ofTy g.ty) g.rm (g.val 0 l))

/-- R69: the value that a finite nonzero exact number rounds to, where it is finite, keeps the sign, has no other value of the
format between it and the exact one, lies on the side that the mode names, and under RNE is nearest, ties to even. R70, R119,
R120, R121: a NaN operand, infinities of opposite signs, a product of an infinity and a zero, 0/0 and ∞/∞ give the canonical NaN
with NV as these rules say; a finite nonzero number over zero gives an infinity with DZ. -/
def Obligations.RoundingAndInvalidOperationsGiveWhatTheirRulesName : Prop :=
  (∀ (f : Fp.Fmt) (rm : Nat) (sg : Bool) (m : Nat) (e : Int) (sg' : Bool) (m' : Nat) (e' : Int),
    f = Fp.f32 ∨ f = Fp.f64 ∨ f = Fp.f16 ∨ f = Fp.bf16 ∨ f = Fp.e4m3 ∨ f = Fp.e5m2 →
    0 < m → rm < 4 →
    Fp.decode f (Fp.roundNum f rm false sg m e false).1 = .num sg' m' e' →
    let x := ratOf sg m e
    let r := ratOf sg' m' e'
    sg' = sg ∧
    (rm = 1 → |r| ≤ |x|) ∧ (rm = 2 → r ≤ x) ∧ (rm = 3 → x ≤ r) ∧
    ∀ (y : BitVec 64) (sy : Bool) (my : Nat) (ey : Int), Fp.decode f y = .num sy my ey →
      let v := ratOf sy my ey
      ¬(x < v ∧ v < r) ∧ ¬(r < v ∧ v < x) ∧
      (rm = 0 → |x - r| ≤ |x - v| ∧ (|x - r| = |x - v| → v ≠ r → (Fp.roundNum f rm false sg m e false).1.getLsbD 0 = false))) ∧
  (∀ (f : Fp.Fmt) (rm : Nat) (a b d : BitVec 64),
    let nan : BitVec 64 := BitVec.ofNat 64 f.nan
    let nv (vs : List Fp.Val) : BitVec 5 := if vs.contains (.nan true) then 1 else 0
    let va := Fp.decode f a
    let vb := Fp.decode f b
    let vd := Fp.decode f d
    ((Fp.Val.isNan va ∨ Fp.Val.isNan vb) →
      Fp.add f rm a b = (nan, nv [va, vb]) ∧ Fp.mul f rm a b = (nan, nv [va, vb]) ∧ Fp.div f rm a b = (nan, nv [va, vb]) ∧
      Fp.sub f rm a b = (nan, nv [va, vb])) ∧
    (∀ t, va = .inf t → vb = .inf (!t) → Fp.add f rm a b = (nan, 1)) ∧
    (∀ t, va = .inf t → vb = .inf t → Fp.sub f rm a b = (nan, 1) ∧ Fp.div f rm a b = (nan, 1)) ∧
    (∀ t u e, va = .inf t → vb = .num u 0 e → Fp.mul f rm a b = (nan, 1) ∧ Fp.mul f rm b a = (nan, 1) ∧
      Fp.fma f rm a b d = (nan, 1) ∧ Fp.fma f rm b a d = (nan, 1)) ∧
    (∀ t u e e', va = .num t 0 e → vb = .num u 0 e' → Fp.div f rm a b = (nan, 1)) ∧
    (∀ t u m e e', va = .num t m e → m ≠ 0 → vb = .num u 0 e' → Fp.div f rm a b = (BitVec.ofNat 64 (f.inf (t != u)), 2)) ∧
    (Fp.Val.isNan vd → (∀ t u e, va = .inf t → vb ≠ .num u 0 e) → (∀ t u e, vb = .inf t → va ≠ .num u 0 e) →
      Fp.fma f rm a b d = (nan, nv [va, vb, vd])))

/-! ## Lane and group instructions -/

namespace Sys2Proof.Claims

open Sys2Proof Sys2Proof.Machine Sys2Proof.Safety

/-- Where the instruction issues without a cause, `r` is the result on its way. -/
def RGives (n : Ins) (x : Extra) (s : State) (out : Out) (r : Go → Res) : Prop :=
  Clear n x s → out = .next (fixedNext n x.warn (r (sight n x.warn s)) s)

/-- Lanes l and m hold the same key in the width of TYPE: 64 bits, 32, or of f16 and bf16 the low 16 (R68, R175). -/
def sameBits (g : Go) (l m : Nat) : Bool :=
  if is64 g.ty then g.val 0 l == g.val 0 m
  else if g.ty = 6 ∨ g.ty = 7 then (low g 0 l).setWidth 16 == ((low g 0 m).setWidth 16 : BitVec 16)
  else low g 0 l == low g 0 m

/-- The first active lane with the key of lane l. -/
def firstOf (g : Go) (l : Nat) : Nat := ((lanesOf g.act).find? fun m => sameBits g m l).getD 32

/-- The lane that a shfl of mode `mode` names for lane l, as an integer (R172). -/
def shflLane (g : Go) (mode l : Nat) : Int :=
  let n : Int := (low g 1 l).toNat
  if mode = 0 then n % 32 else if mode = 1 then l - n else if mode = 2 then l + n else ((l ^^^ ((low g 1 l).toNat % 32) : Nat) : Int)

/-- The lane whose value lane l receives. -/
def shflFrom (g : Go) (mode l : Nat) : Nat :=
  let j := shflLane g mode l
  if 0 ≤ j ∧ j ≤ 31 ∧ g.act.getLsbD j.toNat = true then j.toNat else l

/-- Whether key a is greater than key b (R181): i32 keys as signed numbers, f32 keys by their values, −0 equal to +0, and every NaN
below −∞ and equal to every other. -/
def keyAbove (int : Bool) (a b : BitVec 32) : Prop :=
  if int then b.toInt < a.toInt
  else match Fp.decode Fp.f32 (a.setWidth 64), Fp.decode Fp.f32 (b.setWidth 64) with
    | .nan _, _ => False
    | _, .nan _ => True
    | .inf true, _ => False
    | .inf false, y => y ≠ .inf false
    | .num _ _ _, .inf t => t = true
    | .num s m e, .num s' m' e' => ratOf s' m' e' < ratOf s m e

/-- Whether pair P ranks above pair Q, where `first` says that P comes first of two with equal key and id (R181). -/
def pairAbove (int : Bool) (first : Prop) (p q : KeyId) : Prop :=
  keyAbove int p.1 q.1 ∨ (¬keyAbove int q.1 p.1 ∧ (p.2 < q.2 ∨ (p.2 = q.2 ∧ first)))

/-- The pair of lane l in operands i and j; of a lane that is not active the filler (R181). -/
def pairOf (g : Go) (int : Bool) (i j l : Nat) : KeyId :=
  if g.act.getLsbD l then (low g i l, low g j l) else (if int then 0x80000000 else 0xFF800000, 0xFFFFFFFF)

/-- The 32 pairs of S1 and S2, highest rank first: of equal ones that of the lower lane (R181). -/
def InRankOrder (g : Go) (int : Bool) (L : List KeyId) : Prop :=
  ∃ lanes : List Nat, lanes.Perm (List.range 32) ∧ L = lanes.map (pairOf g int 0 1) ∧
    lanes.Pairwise fun l m => pairAbove int (l < m) (pairOf g int 0 1 l) (pairOf g int 0 1 m)

/-- A pair destination written by a variable-latency list result: keys to D and ids to D + 1 in the active lanes (R181). -/
def pairWrites (n : Ins) (g : Go) (th : Thr) (out : List KeyId) : List RegW :=
  if n.wb false then
    [ { tgt := .v (th.pos (n.fld .d).toNat), mask := g.act, v := perLane fun l => (out.getD l (0, 0)).1.setWidth 64, tag := .G, poison := 0, frost := 0, dead := 0 },
      { tgt := .v (th.pos (n.fld .d + 1).toNat), mask := g.act, v := perLane fun l => (out.getD l (0, 0)).2.setWidth 64, tag := .G, poison := 0, frost := 0, dead := 0 } ]
  else []

/-- The list result `out` is in flight. -/
def LGives (n : Ins) (s : State) (o : Out) (out : List KeyId) : Prop :=
  o = .next (varNext n 0 false 8 false (.result (pairWrites n (sight n 0 s) ((noted n 0 s).thr s.cur) out) 0) s)

end Sys2Proof.Claims

/-- R170, R172, R173: shfl, lperm, bcast and ffs deliver the value of the lane that their entries name, the poison mark with it; a
lane that shfl finds no active source for keeps its own S1, and one that no lane of lperm names keeps D. The latch lane of a lane
that no lane names is log entry 21, D read with a write on its way log entry 8. -/
def Obligations.LaneMovesDeliverTheNamedLane : Prop :=
  ∀ (c : Ctl) (p : PayA) (s : State),
    RGives (p.ins Rows.rowShfl c) {} s (exec (.shfl c p) s)
      (fun g =>
        let mode := (p.mod.extractLsb' 2 2).toNat
        { vals := lanewise g fun l => g.val 0 (shflFrom g mode l)
          poison := maskOf fun l => g.act.getLsbD l && (g.op 0).poison.getLsbD (shflFrom g mode l)
          tag := if mode = 0 ∧ (g.op 1).tag = .U ∧ (lanesOf g.act).all (fun l => g.act.getLsbD (shflLane g 0 l).toNat) = true ∧
              g.alive &&& ~~~g.act = 0 then .U else .G }) ∧
    RGives (p.ins Rows.rowBcast c) {} s (exec (.bcast c p) s)
      (fun g =>
        let j := if p.mod.getLsbD 0 then (lanesOf g.act).getLastD 32 else (lanesOf g.act).headD 32
        { vals := lanewise g fun _ => g.val 0 j, poison := if (g.op 0).poison.getLsbD j then g.act else 0, tag := .U }) ∧
    RGives (p.ins Rows.rowFfs c) {} s (exec (.ffs c p) s)
      (fun g =>
        let hits := (lanesOf g.act).filter fun l => low g 0 l != 0
        { vals := lanewise g fun _ => BitVec.ofNat 64 (if p.mod.getLsbD 0 then hits.getLastD 32 else hits.headD 32), tag := .U }) ∧
    (let n := p.ins Rows.rowLperm c
     let g := sight n 0 s
     let th := (noted n 0 s).thr s.cur
     let from_ (t : Nat) : Option Nat := ((lanesOf g.act).filter fun j => (low g 1 j).toNat % 32 == t).getLast?
     let named : Mask := maskOf fun t => g.act.getLsbD t && (from_ t).isSome
     ∀ _ : Clear n {} s, ∃ r : Res, exec (.lperm c p) s = .next (fixedNext n 0 r s) ∧ r.mask = some named ∧ r.traps = [] ∧ r.flags = [] ∧
      (∀ t < 32, named.getLsbD t = true →
        lane64 r.vals t = g.val 0 ((from_ t).getD t) ∧ r.poison.getLsbD t = (g.op 0).poison.getLsbD ((from_ t).getD t)) ∧
      (∀ t < 32, g.act.getLsbD t = true → named.getLsbD t = false → g.wb = true → is64 g.ty = false →
        lane64 r.vals t = (lane32 (th.readV s.freeCtr (th.pos p.d.toNat)).v t).setWidth 64))

/-- R174 to R176: vote counts and compares the active lanes, and falls back with W8 where TYPE is set for a mode that does not read
it; match gives each lane the mask of the lanes with its key, and cmpct the place that brings equal keys together in the order of
their first occurrence. That with a 64-bit TYPE these write v(D) alone is log entry 74. -/
def Obligations.VotesAndMatchesCompareTheActiveLanes : Prop :=
  ∀ (c : Ctl) (p : PayA) (s : State),
    (let n := p.ins Rows.rowVote c
     RGives n { bad := decide (5 ≤ (n.bits 1 3).toNat) } s (exec (.vote c p) s)
      (fun g =>
        let hits := (lanesOf g.act).filter fun l => low g 0 l != 0
        let m := p.mod.extractLsb' 1 3
        let x : BitVec 64 :=
          if m = 0 then (maskOf fun l => hits.contains l).setWidth 64
          else if m = 1 then BitVec.ofNat 64 hits.length
          else if m = 2 then bit64 (hits != [])
          else if m = 3 then bit64 (hits == lanesOf g.act)
          else (maskOf fun l => g.act.getLsbD l && sameBits g l ((lanesOf g.act).headD 32)).setWidth 64
        { vals := lanewise g fun _ => x, tag := .U }) ∧
     (Clear n { bad := decide (5 ≤ (n.bits 1 3).toNat) } s → p.mod.extractLsb' 1 3 ≠ (4 : BitVec 3) → p.mod.extractLsb' 4 4 ≠ (0 : BitVec 4) →
       ((noted n 0 s).thr s.cur).wsr.getLsbD 8 = true)) ∧
    RGives (p.ins Rows.rowMatch c) {} s (exec (.match_ c p) s)
      (fun g => { vals := lanewise g fun l => (maskOf fun m => g.act.getLsbD m && sameBits g m l).setWidth 64 }) ∧
    RGives (p.ins Rows.rowCmpct c) {} s (exec (.cmpct c p) s)
      (fun g => { vals := lanewise g fun l =>
        let before := (lanesOf g.act).filter fun m => decide (firstOf g m < firstOf g l) || (decide (firstOf g m = firstOf g l) && decide (m < l))
        BitVec.ofNat 64 ((lanesOf g.act).getD before.length 0) })

/-- R177 to R180: red, scan and segred combine the active lanes in the trees of R86, with the flags of every combination counted as
raised by every active lane; an exclusive scan starts from the identity of Table 11.2. -/
def Obligations.ReductionsCombineTheActiveLanesInTheirTrees : Prop :=
  ∀ (c : Ctl) (p : PayA) (s : State),
    let op := (p.mod.extractLsb' 1 3).toNat
    let slots (g : Go) (m : Nat → Bool) : List Slot :=
      perLane fun l => if g.act.getLsbD l && m l then some (if is64 g.ty then g.val 0 l else (low g 0 l).setWidth 64, 0) else none
    let flagsOf (t : List Slot) : BitVec 5 := t.foldl (fun f x => f ||| slotFlags x) 0
    (let n := p.ins Rows.rowRed c
     FGives n { bad := decide (6 ≤ (n.bits 1 3).toNat) } s (exec (.red c p) s)
      (fun g _ => (slotVal (tree op g.ty (slots g fun _ => true)), slotFlags (tree op g.ty (slots g fun _ => true)))) (fun _ => .U)) ∧
    (let n := p.ins Rows.rowScan c
     FGives n { bad := decide (6 ≤ (n.bits 1 3).toNat) } s (exec (.scan c p) s)
      (fun g l =>
        let t := scanAll op g.ty (slots g fun _ => true)
        let below := (lanesOf g.act).filter fun m => decide (m < l)
        (if p.mod.getLsbD 0 then (if below = [] then identity op g.ty else slotVal (t.getD (below.getLastD 0) none))
         else slotVal (t.getD l none), flagsOf t)) (fun _ => .G)) ∧
    (let n := p.ins Rows.rowSegred c
     let keyOf (g : Go) (l : Nat) : BitVec 32 := low g 1 l
     let inSeg (g : Go) (l j : Nat) : Bool := (lanesOf g.act).all fun i =>
       !(decide (l ≤ i ∧ i ≤ j) || decide (j ≤ i ∧ i ≤ l)) || keyOf g i == keyOf g l
     FGives n { bad := decide (6 ≤ (n.bits 1 3).toNat) } s (exec (.segred c p) s)
      (fun g l => (slotVal (tree op g.ty (slots g (inSeg g l))),
        flagsOf (perLane fun m => if g.act.getLsbD m then tree op g.ty (slots g (inSeg g m)) else none))) (fun _ => .G))

/-- R86, R177: for integer types the tree and the scan give what a fold over the active lanes in increasing order gives: the sum
modulo the width, the least or greatest value as TYPE, or the bitwise operation. -/
def Obligations.IntegerReductionsEqualTheirFolds : Prop :=
  ∀ (g : Go) (m : Mask) (op : Nat), g.ty = 0 ∨ g.ty = 1 ∨ g.ty = 2 ∨ g.ty = 3 → op < 6 →
    let key (l : Nat) : BitVec 64 := if is64 g.ty then g.val 0 l else (low g 0 l).setWidth 64
    let fold (ls : List Nat) : BitVec 64 := match ls with
      | [] => 0
      | l :: more => more.foldl (fun x j => (combine op g.ty x (key j)).1) (key l)
    slotVal (tree op g.ty (g.slots m)) = fold (lanesOf m) ∧
    slotFlags (tree op g.ty (g.slots m)) = 0 ∧
    ∀ l < 32, slotVal ((scanAll op g.ty (g.slots m)).getD l none) = fold ((lanesOf m).filter fun j => decide (j ≤ l))

/-- R181 to R184: srt writes all 32 pairs in rank order or, where its flag asks for it, in the exact reverse of that order, and topk
the k highest-ranking pairs in rank order and filler pairs above them; kmerge merges its two lists as its procedure says, and
where both are in rank order they are the first 32 of all 64 pairs in rank order. -/
def Obligations.SortsRankTheirPairs : Prop :=
  ∀ (c : Ctl) (p : PayA) (s : State),
    let f32 : Bool := decide (p.mod.extractLsb' 5 3 ≠ (1 : BitVec 3))
    (∀ _ : Clear (p.ins Rows.rowSrt c) {} s,
      let n := p.ins Rows.rowSrt c
      ∃ L, InRankOrder (sight n 0 s) (!f32) L ∧ LGives n s (exec (.srt c p) s) (if p.mod.getLsbD 0 then L.reverse else L)) ∧
    (∀ _ : Clear (p.ins Rows.rowTopk c) {} s,
      let n := p.ins Rows.rowTopk c
      let k := (p.mod.extractLsb' 0 5).toNat + 1
      ∃ L, InRankOrder (sight n 0 s) (!f32) L ∧ LGives n s (exec (.topk c p) s)
        (L.take k ++ List.replicate (32 - k) (if f32 then (0xFF800000, 0xFFFFFFFF) else (0x80000000, 0xFFFFFFFF)))) ∧
    (∀ _ : Clear (p.ins Rows.rowKmerge c) {} s,
      let n := p.ins Rows.rowKmerge c
      let A := pairOf (sight n 0 s) (!f32) 0 1
      let B := pairOf (sight n 0 s) (!f32) 2 3
      ∃ (L : List KeyId) (i j : Nat → Nat), LGives n s (exec (.kmerge c p) s) L ∧ L.length = 32 ∧ i 0 = 0 ∧ j 0 = 0 ∧
        (∀ q < 32,
          (pairAbove (!f32) False (B (j q)) (A (i q)) → L.getD q (0, 0) = B (j q) ∧ j (q + 1) = j q + 1 ∧ i (q + 1) = i q) ∧
          (¬pairAbove (!f32) False (B (j q)) (A (i q)) → L.getD q (0, 0) = A (i q) ∧ i (q + 1) = i q + 1 ∧ j (q + 1) = j q)) ∧
        ((∀ l < 31, ¬pairAbove (!f32) False (A (l + 1)) (A l)) → (∀ l < 31, ¬pairAbove (!f32) False (B (l + 1)) (B l)) →
          ∃ rest : List KeyId, (L ++ rest).Perm ((List.range 32).map A ++ (List.range 32).map B) ∧
            (L ++ rest).Pairwise fun x y => ¬pairAbove (!f32) False y x))

/-- R186, R187: rgput appends one entry for each active lane where the team's quota has room, ahead of those that a higher group has
appended in the same cycle, and its flag clears in the next cycle; else it does not issue, its fallbacks noted (log entry 27).
rgget takes the oldest entries: lane p receives the values and the tag of entry p, the marks with them, goes on to the next
instruction, and every other lane exits; with WB = 0 the values are discarded. What the entries order with them is R190. -/
def Obligations.RegroupingTableIsFilledAndEmptiedInOrder : Prop :=
  ∀ (c : Ctl) (p : PayA) (t k : Nat) (s : State), s.cur = .grp t k →
    (let n := p.ins Rows.rowRgput c
     let g := sight n 0 s
     let b := (p.d.extractLsb' 0 2).toNat
     let m := (p.mod.extractLsb' 0 2).toNat + 1
     let held := (s.team t).bins.foldl (fun k x => k + x.2.length) 0
     let old := (s.team t).bin b
     ∀ _ : Clear n { bad := rgBad n s } s,
      let after (e : RgEntry) : Bool := e.clk == s.clk && decide (k < e.grp)
      (held + (lanesOf g.act).length ≤ (s.team t).rgq → ∃ new : List RgEntry,
        exec (.rgput c p) s = .next (passes n 0 (fun u => flagNext n (u.mapTeam t fun x =>
          { x with bins := Sparse.put b (old.filter (fun e => !after e) ++ new ++ old.filter after) x.bins })) s) ∧
        (new.map fun e => (e.clk, e.grp, e.vals, e.tag, e.poison)) = (lanesOf g.act).map fun l =>
          (s.clk, k, (List.range m).map fun i => low g (i + 1) l, low g 0 l,
            (List.range m).foldl (fun q i => if (g.op (i + 1)).poison.getLsbD l then q ||| (1#5 <<< i) else q)
              (if (g.op 0).poison.getLsbD l then 16 else 0))) ∧
      ((s.team t).rgq < held + (lanesOf g.act).length → exec (.rgput c p) s = .next (noted n 0 s))) ∧
    (let n := p.ins Rows.rowRgget c
     let g := sight n 0 s
     let th := (noted n 0 s).thr s.cur
     let b := (p.mod.extractLsb' 2 2).toNat
     let m := (p.mod.extractLsb' 0 2).toNat + 1
     let es := ((s.team t).bin b).take 32
     ∀ _ : Clear n { bad := rgBad n s } s, ∃ ws : List RegW,
      exec (.rgget c p) s = .next (jumps n 0 (fun u =>
          ((u.mapTeam t fun x => { x with bins := Sparse.put b (((s.team t).bin b).drop es.length) x.bins }).takeOrder s.cur es).mapThr s.cur
            (opens n false 8 false (.result ws 0) none []))
        (perLane fun l => if l < es.length then g.addr + BitVec.ofNat 48 (8 * g.n.len) else exitedPc) s) ∧
      (c.wb = 0 → ws = []) ∧
      (c.wb = 1 →
        ws.map (·.tgt) = ((List.range m).map fun i => .v (th.pos (p.d.toNat + i))) ++ [.v (th.pos p.s1.toNat)] ∧
        (∀ w ∈ ws, w.tag = .G ∧ w.dead = 0 ∧ ∀ l < 32, w.mask.getLsbD l = decide (l < es.length)) ∧
        ∀ l e, es[l]? = some e →
          (∀ i < m, ∃ w, ws[i]? = some w ∧ (lane64 w.v l).setWidth 32 = e.vals.getD i 0 ∧ w.poison.getLsbD l = e.poison.getLsbD i) ∧
          ∃ w, ws[m]? = some w ∧ (lane64 w.v l).setWidth 32 = e.tag ∧ w.poison.getLsbD l = e.poison.getLsbD 4))

/-! ## Control instructions -/

namespace Sys2Proof.Claims

open Sys2Proof Sys2Proof.Machine Sys2Proof.Safety

/-- Each lane of `m` at its target, every other present lane past the instruction, the rest where they are (R18). -/
def movedPcs (n : Ins) (s : State) (m : Mask) (target : Nat → BitVec 48) : List (BitVec 48) :=
  let th := (noted n 0 s).thr s.cur
  (List.range th.pcv.length).map fun l =>
    if m.getLsbD l then target l
    else if (sight n 0 s).pres.getLsbD l then th.pcv.getD l exitedPc + BitVec.ofNat 48 (8 * n.len) else th.pcv.getD l exitedPc

/-- A branch of the lanes `m` (R105): to their targets where all are legal, with `e` done; else ILLEGAL with the lowest
illegal target, and nothing done. Where the page of the header bitmap that a target needs is not resident, its fill is
requested and the instruction does not issue (R305); a fill that has failed gives STORAGE_ERR (R310). -/
def Branches (n : Ins) (s : State) (out : Out) (m : Mask) (target : Nat → Int) (e : State → State) : Prop :=
  let u := noted n 0 s
  let missing (l : Nat) : Option Nat :=
    if m.getLsbD l ∧ 0 ≤ target l ∧ target l < 2 ^ 48 then u.headerAbsent s.cur (target l).toNat else none
  let illegal (l : Nat) : Prop := m.getLsbD l = true ∧ u.targetOk s.cur (target l) = false ∧ missing l = none
  Clear n {} s →
    ((∀ l < 32, ¬illegal l ∧ missing l = none) → out = .next (jumps n 0 e (movedPcs n s m fun l => BitVec.ofInt 48 (target l)) s)) ∧
    ((∀ l < 32, ¬illegal l) → (∃ l < 32, missing l ≠ none) →
      (∀ l < 32, ∀ p, missing l = some p → p ∉ (u.thr s.cur).stErr) →
      out = .next (u.storageFault s.cur ((List.range 32).filterMap missing))) ∧
    ((∀ l < 32, ¬illegal l) → (∃ l < 32, ∃ p, missing l = some p ∧ p ∈ (u.thr s.cur).stErr) →
      ∃ lm tv, out = .next (deliver n u [{ cause := .storageErr, lmask := lm, tval := tv }]) ∧
        ∀ l < 32, lm.getLsbD l = true ↔ ∃ p, missing l = some p ∧ p ∈ (u.thr s.cur).stErr) ∧
    ((∃ l < 32, illegal l) → ∃ lm tv, out = .next (deliver n u [{ cause := .illegal, lmask := lm, tval := tv }]) ∧
      (∀ l < 32, lm.getLsbD l = true ↔ illegal l) ∧
      (∃ l < 32, illegal l ∧ tv = BitVec.ofInt 64 (target l)) ∧
      (∀ l < 32, illegal l → tv.toNat ≤ (BitVec.ofInt 64 (target l)).toNat))

end Sys2Proof.Claims

/-- R105 to R108, R305, R310: each branch takes the lanes of its entry to their targets and lets the others advance; a target outside
the code or at a word that is no header takes ILLEGAL, a bitmap page that is not resident a storage fault; call writes its link register
in the active lanes. The target modulo 2^64 in tval, and the unsigned least one, are log entry 66. -/
def Obligations.BranchesMoveTheLanesOfTheirEntries : Prop :=
  ∀ (c : Ctl) (j : PayJ) (p : PayA) (s : State),
    let jump (n : Ins) : Int := ((sight n 0 s).addr.toNat : Int) + 8 * j.tgt.toInt
    Branches (j.ins Rows.rowBr c) s (exec (.br c j) s) (sight (j.ins Rows.rowBr c) 0 s).pres
      (fun _ => jump (j.ins Rows.rowBr c)) (flagNext (j.ins Rows.rowBr c)) ∧
    (let n := j.ins Rows.rowBrc c
     let g := sight n 0 s
     Branches n s (exec (.brc c j) s) (if g.val 0 (lowestLane g.pres) = 0 then 0 else g.pres) (fun _ => jump n) (flagNext n)) ∧
    (let n := j.ins Rows.rowBrl c
     let g := sight n 0 s
     Branches n s (exec (.brl c j) s) (maskOf fun l => g.act.getLsbD l && g.val 0 l != 0) (fun _ => jump n) (flagNext n)) ∧
    (let n := p.ins Rows.rowBrx c
     let g := sight n 0 s
     Branches n s (exec (.brx c p) s) g.act (fun l => (g.addr.toNat : Int) + 8 * (low g 0 l).toInt) (flagNext n)) ∧
    (let n := p.ins Rows.rowRet c
     let g := sight n 0 s
     Branches n s (exec (.ret c p) s) g.act (fun l => ((g.val 0 l).toNat : Int)) (flagNext n)) ∧
    (let n := j.ins Rows.rowCall c
     let g := sight n 0 s
     let link : Res := { vals := lanewise g fun _ => (g.addr + 8).setWidth 64, tag := .U }
     Branches n s (exec (.call c j) s) g.act (fun _ => jump n) fun u => u.mapThr s.cur fun th =>
       let ws := regWrites n (u.thr s.cur) g.act g.alive link 0
       sends n s.clk 1 [] ((ws.foldl (fun t w => t.land th.seq w) th).noteWrites (positions ws)))

/-- R109 to R111: exit takes the active lanes out, and in handler mode must reach every lane that has not exited; halt ends a
control-core program for good; yield only gives up the next cycle. -/
def Obligations.ExitHaltAndYieldEndOrPause : Prop :=
  ∀ (c : Ctl) (p : PayA) (s : State),
    (let n := p.ins Rows.rowExit c
     let g := sight n 0 s
     let th := (noted n 0 s).thr s.cur
     Clear n {} s →
       (th.handler = false ∨ g.alive &&& ~~~g.act = 0 →
         exec (.exit c p) s = .next (jumps n 0 (fun u => (flagNext n u).leaveProgram s.cur) (movedPcs n s g.act fun _ => exitedPc) s)) ∧
       (th.handler = true → g.alive &&& ~~~g.act ≠ 0 →
         exec (.exit c p) s = .next (deliver n (noted n 0 s) [{ cause := .illegal, lmask := g.full, tval := n.word0 }]))) ∧
    (∀ q, s.cur = .ctl q →
      let n := p.ins Rows.rowHalt c
      let g := sight n 0 s
      Clear n {} s →
        exec (.halt c p) s = .next (jumps n 0
          (fun u => ((flagNext n u).closeProgram q).mapQuad q fun x => { x with halted := true }) (movedPcs n s g.act fun _ => exitedPc) s)) ∧
    (let n := p.ins Rows.rowYield c
     Clear n {} s →
       exec (.yield c p) s = .next (passes n 0 (fun u => (flagNext n u).mapThr s.cur fun th => { th with yielded := some s.clk }) s))

/-- R112, R272: trap and brk enter the handler of the group with their cause, the active lanes in lmask, and epc at the word
after the instruction; every lane that has not exited goes to the trap entry; memory and predicates stay. -/
def Obligations.SoftwareTrapsEnterTheHandler : Prop :=
  ∀ (c : Ctl) (p : PayA) (s : State),
    let enters (n : Ins) (out : Out) (code : BitVec 32) (tval : BitVec 64) : Prop :=
      let u := noted n 0 s
      let g := sight n 0 s
      let th := u.thr s.cur
      Clear n {} s → th.handler = false → u.trapEntry s.cur ≠ 0 →
        ∃ t, out = .next t ∧ SameBytes s t ∧
          let h := t.thr s.cur
          h.handler = true ∧ h.cause = code ∧ h.tval = tval ∧ h.lmask = g.act ∧ h.also = 0 ∧ h.pendBits = 0 ∧
          h.epc = g.addr + BitVec.ofNat 48 (8 * n.len) ∧ h.recPcv = th.pcv ∧
          h.latches = List.replicate 4 Latch.invalid ∧ h.fsr = th.fsr ∧ h.busy = th.busy ∧ h.ops = th.ops ∧ h.pend = th.pend ∧
          h.lastIssue = none ∧ h.regs = th.regs ∧ h.preds = th.preds ∧
          (∀ l < 32, l < th.pcv.length → th.alive.getLsbD l = true → h.pcv.getD l exitedPc = BitVec.ofNat 48 (u.trapEntry s.cur)) ∧
          (∀ l < 32, th.alive.getLsbD l = false → h.pcv.getD l exitedPc = th.pcv.getD l exitedPc)
    enters (p.ins Rows.rowTrap c) (exec (.trap c p) s) 0x40
      ((sight (p.ins Rows.rowTrap c) 0 s).val 0 (lowestLane (sight (p.ins Rows.rowTrap c) 0 s).act)) ∧
    enters (p.ins Rows.rowBrk c) (exec (.brk c p) s) 0x42 ((p.s2 ++ p.mod : BitVec 16).setWidth 64)

/-- R113, R273, R274: tret delivers the held cause of lowest rank, or leaves handler mode, the lanes of lmask going to epc and
every other lane that has not exited to its recorded PC. -/
def Obligations.TretDeliversTheNextCauseOrReturns : Prop :=
  ∀ (c : Ctl) (p : PayA) (s : State),
    let n := p.ins Rows.rowTret c
    let u := noted n 0 s
    let th := u.thr s.cur
    Clear n { bad := !(s.thr s.cur).handler || n.c.pred != 0 || n.c.pn == 1 } s →
      ∃ t, exec (.tret c p) s = .next t ∧ SameBytes s t ∧
        let h := t.thr s.cur
        h.epc = th.epc ∧ h.lmask = th.lmask ∧ h.recPcv = th.recPcv ∧ h.latches = List.replicate 4 Latch.invalid ∧ h.lastIssue = none ∧
        ((∀ r < 24, th.pendBits.getLsbD r = false) →
          h.handler = false ∧ h.cause = th.cause ∧
          ∀ l < 32, l < th.pcv.length → th.alive.getLsbD l = true →
            h.pcv.getD l exitedPc = if th.lmask.getLsbD l then th.epc else th.recPcv.getD l exitedPc) ∧
        (∀ r < 24, th.pendBits.getLsbD r = true → (∀ q < r, th.pendBits.getLsbD q = false) →
          h.handler = th.handler ∧ h.cause = ((Cause.ofRank r).code.setWidth 32) ||| 0x100 ∧ h.also = 0 ∧
          h.tval = Sparse.get 0 r th.pendTval ∧ h.pendBits = th.pendBits &&& ~~~(1#24 <<< r) ∧
          ∀ l < 32, l < th.pcv.length → th.alive.getLsbD l = true → h.pcv.getD l exitedPc = BitVec.ofNat 48 (u.trapEntry s.cur))

/-! ## Traps -/

/-- R271: of causes that different lanes of one instruction raise, the group reports the highest-ranked, with the lanes that raised it,
the tval of the lowest of them, and the ranks of the others in ALSO. The others are not delivered; the instruction has had no effect on
registers or memory, and its address is epc (of one that reads a latch the head of its chain), so that the lanes of lmask issue it
again when the handler returns. -/
def Obligations.TheHighestRankedCauseIsReported : Prop :=
  ∀ (n : Ins) (s : State) (ts : List Trap), ts ≠ [] → (∀ t ∈ ts, t.lmask ≠ 0 ∧ t.also = 0) →
    (∀ t ∈ ts, t.cause ≠ .swtrap ∧ t.cause ≠ .brk) →
    (s.thr s.cur).handler = false → s.trapEntry s.cur ≠ 0 → BitVec.ofNat 48 (s.trapEntry s.cur) ≠ exitedPc →
    let th := s.thr s.cur
    let u := deliver n s ts
    let h := u.thr s.cur
    ∃ x : Cause, h.cause = x.code.setWidth 32 ∧ (∃ t ∈ ts, t.cause = x) ∧ (∀ t ∈ ts, x.rank ≤ t.cause.rank) ∧
      (∀ l < 32, h.lmask.getLsbD l = true ↔ ∃ t ∈ ts, t.cause = x ∧ t.lmask.getLsbD l = true) ∧
      (∃ t ∈ ts, t.cause = x ∧ t.tval = h.tval ∧ ∀ q ∈ ts, q.cause = x → lowestLane t.lmask ≤ lowestLane q.lmask) ∧
      (∀ k < 24, h.also.getLsbD k = true ↔ ∃ t ∈ ts, t.cause ≠ x ∧ t.cause.rank = k) ∧
      h.pendBits = 0 ∧ h.handler = true ∧ SameBytes s u ∧
      (∀ k, n.readsLatch th.scalar = true → th.chain = some k → h.epc = k.head) ∧
      (n.readsLatch th.scalar = false → h.regs = th.regs ∧ h.preds = th.preds ∧ h.sregs = th.sregs ∧ h.hs = th.hs ∧ h.pend = th.pend ∧
        h.ops = th.ops ∧ h.epc = th.issueAddr ∧ h.recPcv = th.pcv ∧
        ∀ e l, l < 32 → l < th.pcv.length → th.alive.getLsbD l = true →
        ((h.returnTrap e).pcv.getD l exitedPc = if h.lmask.getLsbD l then th.issueAddr else th.pcv.getD l exitedPc))

/-- R274: in handler mode a cause is held pending and the present lanes step over the instruction; the first tval of a rank is
kept, and epc, lmask, the recorded PC vector and handler mode stay. R284, R285: without a trap entry a host launch fails, and a
team of tlaunch or of the tap engine stops, with the cause recorded where none stands already; a control-core program ends, and
the queues of its teams are closed (R229, R231). An agent that takes a cause runs a program: its quad has one. -/
def Obligations.CausesAreHeldInHandlerModeAndStopWhatHasNoTrapEntry : Prop :=
  (∀ (s : State) (a : Agent) (len : Nat) (reads : Bool) (t : Trap), (s.thr a).handler = true →
    let th := s.thr a
    let h := (s.takeTrap a len reads t).thr a
    h.handler = true ∧ h.epc = th.epc ∧ h.lmask = th.lmask ∧ h.recPcv = th.recPcv ∧ h.cause = th.cause ∧ h.tval = th.tval ∧
    h.pendBits = th.pendBits ||| (1#24 <<< t.cause.rank) ∧
    (th.pendBits.getLsbD t.cause.rank = true → h.pendTval = th.pendTval) ∧
    (th.pendBits.getLsbD t.cause.rank = false → Sparse.get 0 t.cause.rank h.pendTval = t.tval) ∧
    h.pcv = (List.range th.pcv.length).map fun l =>
      if th.present.getLsbD l then th.pcv.getD l exitedPc + BitVec.ofNat 48 (8 * len) else th.pcv.getD l exitedPc) ∧
  (∀ (s : State) (a : Agent) (addr : BitVec 48) (t : Trap), s.trapEntry a = 0 →
    let k := s.launchOf a
    let u := s.enterTrap a addr t
    (∀ x g q o b, a = .grp x g → (s.launch k).src = .chain q o b →
      (u.launch k).failed = true ∧ (u.launch k).cause = some ((s.launch k).cause.getD t.cause.code) ∧ u.teams = s.teams) ∧
    (∀ x g y b, a = .grp x g → (s.launch k).src = .program y b →
      (u.team x).stopped = true ∧ (u.launch b).cause = some ((s.launch b).cause.getD t.cause.code) ∧ (u.launch k).failed = (s.launch k).failed) ∧
    (∀ x g y r b, a = .grp x g → (s.launch k).src = .tap y r b → (u.team x).stopped = true ∧ u.launches = s.launches) ∧
    (∀ q, a = .ctl q → (s.quad q).prog.isSome = true → (u.launch k).failed = true ∧ ((u.quad q).ctl.pcv.all (· == exitedPc)) = true ∧
      ∀ p ∈ (s.quad q).queues, (s.launch (s.team p.2).launch).src = .program q ((s.quad q).prog.getD 0) → (u.team p.2).uqOpen = false))

/-- R272: a cause in normal mode records what R270 gives, holds the handler bank, invalidates the latches and sends every lane
that has not exited to the trap entry; epc is the instruction, or the word after it for SWTRAP and BRK. R58: when an instruction
of a chain that reads a latch traps, the head's destination is restored and every present lane returns to the head, whose
address is epc (log entry 65). -/
def Obligations.TrapsEnterTheHandlerAndUnwindTheirChain : Prop :=
  (∀ (s : State) (a : Agent) (len : Nat) (t : Trap),
    (s.thr a).handler = false → s.trapEntry a ≠ 0 →
      let th := s.thr a
      let u := s.takeTrap a len false t
      let h := u.thr a
      h.handler = true ∧ h.cause = t.cause.code.setWidth 32 ∧ h.tval = t.tval ∧ h.lmask = t.lmask ∧ h.also = t.also ∧
      h.pendBits = 0 ∧ h.recPcv = th.pcv ∧ h.latches = List.replicate 4 Latch.invalid ∧ h.lastIssue = none ∧
      h.regs = th.regs ∧ h.preds = th.preds ∧ h.pend = th.pend ∧ h.ops = th.ops ∧
      h.epc = (if t.cause = .swtrap ∨ t.cause = .brk then th.issueAddr + BitVec.ofNat 48 (8 * len) else th.issueAddr) ∧
      (∀ l < 32, l < th.pcv.length → th.alive.getLsbD l = true → h.pcv.getD l exitedPc = BitVec.ofNat 48 (s.trapEntry a)) ∧
      (∀ l < 32, th.alive.getLsbD l = false → h.pcv.getD l exitedPc = th.pcv.getD l exitedPc) ∧
      SameBytes s u ∧ u.cur = s.cur ∧ u.clk = s.clk ∧ u.launches = s.launches ∧
      ∀ b, b ≠ a → (u.thr b).regs = (s.thr b).regs ∧ (u.thr b).pcv = (s.thr b).pcv) ∧
  (∀ (s : State) (a : Agent) (len : Nat) (t : Trap) (c : Chain), (s.thr a).handler = false → s.trapEntry a ≠ 0 →
    (s.thr a).chain = some c → t.cause ≠ .swtrap → t.cause ≠ .brk →
      let th := s.thr a
      let h := (s.takeTrap a len true t).thr a
      h.epc = c.head ∧ h.cause = t.cause.code.setWidth 32 ∧ h.tval = t.tval ∧ h.lmask = t.lmask ∧
      (∀ l < 32, l < th.pcv.length → th.present.getLsbD l = true → h.recPcv.getD l exitedPc = c.head) ∧
      (∀ l < 32, th.present.getLsbD l = false → h.recPcv.getD l exitedPc = th.pcv.getD l exitedPc) ∧
      (∀ w p, c.undo = [w] → w.tgt = .v p → w.dead = 0 → ∀ l < 32, w.mask.getLsbD l = true →
        lane32 (h.vreg p).v l = (lane64 w.v l).setWidth 32))

/-! ## The issue path -/

/-- R63, R65, R66: a wrong mode takes MODE, then a level too low takes PRIV, each before any fallback is noted; the remaining
ILLEGAL conditions stop the instruction after its fallbacks have been added to wsr. That lmask names every present lane for
these causes, and tval holds the first word, is DEDUCED (log entry 10), as is what counts as an ILLEGAL condition (log entry 9).
R33, R38, R43, R44: an instruction that passes its checks and has no active lane has no effect but its place in the issue order
and in its chain; its flag clears in the next cycle, its latch entry is invalid in every lane, its present lanes go on, and one
that names uq steps over its entry where there is one (DEDUCED, log entry 11). -/
def Obligations.ChecksComeInOrderAndNoActiveLaneMeansNoEffect : Prop :=
  (∀ (n : Ins) (x : Extra) (body : Body) (s : State) (fl : Go → BitVec 5),
    let th := (landed s).thr s.cur
    let now (c : Cause) : Trap := { cause := c, lmask := th.present, tval := n.word0 }
    th.ra = none → x.mode = false → x.bad = false →
      (th.scalar = true → (n.row.mode = .lane ∨ n.c.pred ≠ 0 ∨ n.c.pn = 1) → issue n x body s fl = deliver n (landed s) [now .mode]) ∧
      (th.scalar = false → n.row.mode = .scalar → issue n x body s fl = deliver n (landed s) [now .mode]) ∧
      (modeBad n x th.scalar = false → th.level < x.lvl.getD n.row.lvl → issue n x body s fl = deliver n (landed s) [now .priv]) ∧
      (modeBad n x th.scalar = false → x.lvl.getD n.row.lvl ≤ th.level →
        (n.row.cls = .var ∧ n.flag = none) ∨ (n.readsLatch th.scalar = true ∧ ∃ k, th.chain = some k ∧ (k.last = true ∨ 8 ≤ k.n)) →
          issue n x body s fl = deliver n (noted n x.warn s) [now .illegal]) ∧
      ((noted n x.warn s).thr s.cur).wsr = th.wsr ||| n.warns th.scalar ||| x.warn) ∧
  (∀ (n : Ins) (x : Extra) (body : Body) (s : State) (fl : Go → BitVec 5),
    let g := sight n x.warn s
    let u := noted n x.warn s
    ((landed s).thr s.cur).ra = none → earlyTrap n x ((landed s).thr s.cur) = none → lateTrap n x ((landed s).thr s.cur) = none →
      (∀ l < 32, g.pres.getLsbD l = true → n.row.noPred = false ∧
        (((u.thr s.cur).readP s.freeCtr n.c.pred.toNat).v.getLsbD l ^^ (n.c.pn == 1 && n.c.pred != 0)) = false) →
      issue n x body s fl =
        (if n.readsUq g.scal = true ∧ (u.uqNext s.cur).isSome = true then u.consumeUq s.cur else u).mapThr s.cur fun th =>
          let w := sends n s.clk 1 [] th
          goesOn g { w with
            chain := nextChain n g.addr 0 (u.thr s.cur) w
            seq := w.seq + 1
            lastIssue := some s.clk
            latches := Latch.invalid :: (if n.readsLatch g.scal then w.latches else List.replicate 4 Latch.invalid).take 3
            latchDeps := [] :: w.latchDeps.take 3 })

/-- R47, R48, R30, R55: the source codes of Table 4.3 with nothing on its way to the register named: a register's lanes and tag, a
pair of registers, zero, laneid, the queue entry, a literal at the width of the operand, and a latch, of whose entry a 64-bit operand
reads the whole value, a 32-bit one its low half, and a 64-bit one nothing valid where the entry holds a 32-bit result. -/
def Obligations.SourceCodesReadWhatTable43Says : Prop :=
  ∀ (th : Thr) (ctr : Nat) (n : Ins) (uq : BitVec 64) (x : Src), th.pend = [] → th.ops = [] →
    let o := th.readSrc ctr n uq x
    let c := x.code.toNat
    (c = 0xFD → o = Opd.const 0) ∧
    (c = 0xFE → th.scalar = true → o = Opd.const 0) ∧
    (c = 0xFE → th.scalar = false → o.tag = .A 0 1 ∧ o.poison = 0 ∧ ∀ l < 32, lane64 o.v l = BitVec.ofNat 64 l) ∧
    (c = 0xFC → o = Opd.const uq) ∧
    (c = 0xFF → x.wide = true → n.row.fmt ≠ .EM → n.row.fmt ≠ .EML → o = Opd.const (n.w1.getD 0)) ∧
    (c = 0xFF → x.wide = false → x.w1 = true → n.row.fmt ≠ .EM → n.row.fmt ≠ .EML →
      o = Opd.const (((n.w1.getD 0).extractLsb' 0 32 : BitVec 32).setWidth 64)) ∧
    (∀ k, k < 4 → c = 0xF8 + k →
      let e := th.latches.getD k Latch.invalid
      o.latch = some k ∧ o.tag = e.tag ∧ o.poison = e.poison ∧
      (x.wide = true ∨ th.scalar = true → ∀ l < 32, lane64 o.v l = lane64 e.v l) ∧
      (x.wide = false → th.scalar = false →
        ∀ l < 32, lane64 o.v l = ((lane64 e.v l).extractLsb' 0 32 : BitVec 32).setWidth 64) ∧
      o.invalid = if x.wide = true ∧ th.scalar = false ∧ e.wide = false then BitVec.allOnes 32 else ~~~e.valid) ∧
    (c < 0xF8 → th.scalar = true → ∀ l < 32, lane64 o.v l = (th.sreg c).v) ∧
    (c < 0xF8 → th.scalar = false → x.wide = false → o.tag = (th.vreg (th.pos c)).tag ∧ o.poison = (th.vreg (th.pos c)).poison ∧
      ∀ l < 32, lane64 o.v l = (lane32 (th.vreg (th.pos c)).v l).setWidth 64) ∧
    (c < 0xF8 → th.scalar = false → x.wide = true →
      ∀ l < 32, lane64 o.v l = lane32 (th.vreg (th.pos (c + 1))).v l ++ lane32 (th.vreg (th.pos c)).v l)

/-- R43, R60: a fixed-latency result lands, and its flag clears, in the cycle in which it is due and not before; until then a
read gives in each lane the old value or the new one; when it has landed every written lane holds it. After the last exit a
result is discarded (R19). -/
def Obligations.FixedLatencyResultsLandWhenTheyAreDue : Prop :=
  ∀ (s : State) (a : Agent) (due seq p : Nat) (f : Option Nat) (w : RegW),
    (s.thr a).ra = none → (s.thr a).ops = [] → (s.thr a).pend = [⟨due, seq, f, [w]⟩] → w.tgt = .v p → w.dead = 0 →
      ∃ t, exec (.fixedResultLand a) s = .next t ∧ SameBytes s t ∧ t.clk = s.clk ∧
        (s.clk < due → (t.thr a) = s.thr a ∧
          ∀ ctr, ∀ l < 32, lane32 ((s.thr a).readV ctr p).v l = lane32 ((s.thr a).vreg p).v l ∨
            (w.mask.getLsbD l = true ∧ lane32 ((s.thr a).readV ctr p).v l = (lane64 w.v l).setWidth 32)) ∧
        (due ≤ s.clk → (t.thr a).pend = [] ∧ (∀ k, f = some k → (t.thr a).busy = (s.thr a).busy &&& ~~~(1#12 <<< k)) ∧
          ∀ l < 32, lane32 ((t.thr a).vreg p).v l =
            if w.mask.getLsbD l ∧ (s.thr a).alive ≠ 0 then (lane64 w.v l).setWidth 32 else lane32 ((s.thr a).vreg p).v l)

/-- R25, R32, R66, R73, R283: a group or program starts at its entry header with the handles of its argument block, the enables of
FEN, no flag or warning set, zero in every register, no predicate bit set, and its base set held. -/
def Obligations.ThreadsStartAsTheirLaunchEntrySays : Prop :=
  ∀ (scalar : Bool) (e : Entry) (hargs : List (BitVec 128)) (level : Nat),
    let th := Thr.start scalar e hargs level
    th.pcv.length = (if scalar then 1 else 32) ∧ (∀ pc ∈ th.pcv, pc = BitVec.ofNat 48 (e.code + 8 * e.entry)) ∧
    (∀ k < 16, (th.hreg k).v = hargs.getD k 0 ∧ (th.hreg k).poison = false) ∧
    th.fsr = (e.fen.setWidth 32) <<< 8 ∧ th.wsr = 0 ∧ th.level = level ∧ th.handler = false ∧ th.busy = 0 ∧ th.ended = false ∧
    (∀ p, th.vreg p = VReg.zero) ∧ (∀ k, th.sreg k = ⟨0, false⟩) ∧ (∀ k, 1 ≤ k → (th.pred k).v = 0) ∧
    (∀ k < 248, th.holds k = decide (k < 16 * (e.base + 1))) ∧ th.seg 2 = e.sg2 ∧ th.seg 3 = e.sg3 ∧
    th.latches.all (fun x => x.valid == 0) = true ∧ th.chain = none ∧ th.pend = [] ∧ th.ops = []

/-! ## Steps, decoding and the whole device -/

namespace Sys2Proof.Claims

open Sys2Proof Sys2Proof.Machine Sys2Proof.Safety

/-- What a slot given to an agent adds before the instruction is executed: the agent is the one that issues, the access to its
code page is noted, and a comparator that was to be passed once has been passed (R358). -/
def given (a : Agent) (u : State) : State :=
  let v := ({ u with cur := a } : State).noteAccess (u.who a) .fetch (u.thr a).issueAddr.toNat
  if (u.thr a).skipCmp = some (u.thr a).issueAddr ∧ (u.thr a).ra = none then v.mapThr a fun t => { t with skipCmp := none } else v

/-- What a quarter notes when it gives its slot to agent `a` of slot `k` (R23, R57, R212, R373). -/
def pickNoted (core q k : Nat) (a : Agent) (gs : List (Nat × Agent)) (pin : Option Agent) (u : State) : State :=
  let v := (u.mapCore core fun c => { c with issued := Sparse.put q (u.clk + 1) c.issued }).tally gs gs (some a) pin
  ((v.mapCore core fun c => { c with picks := Sparse.put (5 * q + u.pickClass a) k c.picks }).countSlot core
    (if (u.thr a).ra.isSome then 1 else 0) (some a)).countSplit core a

/-- The bytes at an agent's issue address are the words of instruction i. -/
def Fetches (u : State) (a : Agent) (i : Instr) : Prop :=
  (∃ w, encode i = [w] ∧ u.fetchNat a (u.thr a).issueAddr.toNat 8 = .ok w.toNat) ∨
  (∃ w w1, encode i = [w, w1] ∧ u.fetchNat a (u.thr a).issueAddr.toNat 8 = .ok w.toNat ∧
    u.fetchNat a ((u.thr a).issueAddr.toNat + 8) 8 = .ok w1.toNat)

/-- `n` bytes at physical address `a` lie within one region of Table 20.4. -/
def Lies (a n : Nat) : Prop :=
  a + n ≤ 2 ^ 40 ∨ (2 ^ 44 ≤ a ∧ a + n ≤ 2 ^ 45) ∨ (2 ^ 46 ≤ a ∧ a + n ≤ 2 ^ 47) ∨ (2 ^ 49 ≤ a ∧ a + n ≤ 2 ^ 50)

/-- The issue address lies in a block, at no header, and the page of the header bitmap that holds its bit is resident. -/
def InBlock (u : State) (a : Agent) : Prop :=
  (u.thr a).alive ≠ 0 ∧ u.headerAbsent a (u.thr a).issueAddr.toNat = none ∧ u.headerBit a (u.thr a).issueAddr.toNat = false ∧
  ∃ h x, u.blockHeader a (u.thr a).issueAddr.toNat = some h ∧ u.fetchNat a h 8 = .ok x ∧
    (u.thr a).issueAddr.toNat ≤ h + 8 * Hdr.len x

end Sys2Proof.Claims

/-- R17, R22, R40, R42, R229: the bytes at the issue address of an eligible agent that decode to a well-formed instruction are that
instruction, and the turn of its control core, or of its quarter where it is the only group, executes it, at most once in a cycle. -/
def Obligations.AStepRunsTheDecodedInstruction : Prop :=
  ∀ (s : State) (rest : List Turn) (i : Instr) (n : Ins), i.wellFormed = true → insOf i = some n →
    let u := { s with agenda := rest, freeCtr := s.freeCtr + 1 }
    (∀ a, InBlock u a → Fetches u a i → u.atIssue a = .code n (.instr i)) ∧
    (∀ q, s.agenda = .control q :: rest →
      let a : Agent := .ctl q
      InBlock u a → Fetches u a i → u.upkeep a = none → u.why a n = none → (u.thr a).lost = none →
        (u.comparator a = none) → (u.quad q).issued ≠ u.clk + 1 →
          step s = exec i (given a (u.mapQuad q fun x => { x with issued := u.clk + 1 }))) ∧
    (∀ core q k a, s.agenda = .quarter core q :: rest → u.quarterGroups core q = [(k, a)] →
      InBlock u a → Fetches u a i → u.upkeep a = none → u.agentWhy a = none → (u.thr a).lost = none → u.comparator a = none →
      (u.coreOf core).issued.any (fun x => x.1 == q && x.2 == u.clk + 1) = false → (u.thr a).pinned < Config.pinLimit → u.pickClass a ≤ 4 →
        let v := pickNoted core q k a [(k, a)] (if u.pins a then some a else none) u
        (v.comparator a = none ∧ (v.thr a).lost = none) → step s = exec i (given a v))

/-- R40, R41, R45, R62: words written out from the encoding tables of the manual decode to the instructions they stand for. -/
def Obligations.WordsOfTheTablesDecodeToTheirInstructions : Prop :=
  decodeTableWord 64 0x0002303406020340 = some (.fdiv ⟨0, 1, 1, 1, 0, 0⟩ ⟨6, 2, 3, 0x40, none⟩) ∧
  decodeTableWord 64 0x0001F02903028420 = some (.fcvt ⟨0, 0, 15, 1, 0, 0⟩ ⟨3, 2, 8, 4, 0, 1, 0, none⟩) ∧
  decodeTableWord 64 0x0001F02802040544 = some (.fcmp ⟨0, 0, 15, 1, 0, 0⟩ ⟨2, 4, 5, 0x44, none⟩) ∧
  decodeTableWord 128 (0x0001F048080102FF + 0x0000000003000070 * 2 ^ 64) =
    some (.hfma2 ⟨0, 0, 15, 1, 0, 0⟩ ⟨8, 1, 2, 0xFF, some 0x0000000003000070⟩) ∧
  decodeTableWord 64 0x0001E06600000000 = some (.exit ⟨0, 0, 15, 0, 0, 0⟩ ⟨0, 0, 0, 0, none⟩) ∧
  decodeTableWord 64 0x0001E07300000080 = some (.fenceFull ⟨0, 0, 15, 0, 0, 0⟩ ⟨0, 0, 0, 0x80, none⟩) ∧
  decodeTableWord 64 0x0001E0E500000001 = some (.tlbiInterface ⟨0, 0, 15, 0, 0, 0⟩ ⟨0, 0, 0, 1, none⟩) ∧
  decodeTableWord 64 0x0001E06000FFFFFF = some (.br ⟨0, 0, 15, 0, 0, 0⟩ ⟨0, 0xFFFFFF⟩) ∧
  decodeTableWord 64 0x0001E0FF00000000 = none

/-- R40, R41, R45 to R50, R62: decoding the encoded bytes of a well-formed instruction gives it back with every field of every
format at every value, and leaves what follows. R40, R64: what decodes is well-formed and has the words it was read from: no two
words stand for one instruction. -/
def Obligations.DecodingAndEncodingAgree : Prop :=
  (∀ (i : Instr) (more : List Byte), i.wellFormed = true →
    decode (encodeBytes i ++ more) = .ok (i, more) ∧ ((encode i).length = 1 ∨ (encode i).length = 2)) ∧
  (∀ (bs more : List Byte) (i : Instr), decode bs = .ok (i, more) → i.wellFormed = true ∧ bs = encodeBytes i ++ more)

/-- The memory, the scratchpads and the drives stay in their one canonical form through every step of every kind. -/
def Obligations.EveryStepKeepsTheCanonicalFormOfMemory : Prop :=
  ∀ s t : State, Form s → Steps s t → Form t

/-- An event on the agenda is the device's own step and is executed as it stands; a constructor that has words is no event; an
act of the host is carried out; a tick passes one cycle; an empty agenda takes the turn that the schedule names (the model's
choices: log entries 1, 7, 57 and 63). No step is refused, and the one fault is noSuchMemory. A translation ends in it only
where the walk meets an entry, or the leaf names a frame, outside the regions of Table 20.4 (R298), where the manual has no
memory; and an access of a lane or a fetch meets it only through such a translation (DEDUCED, log entry 61). -/
def Obligations.AStepRunsTheNextTurnAndIsNeverRefused : Prop :=
  (∀ (s : State) (rest : List Turn) (i : Instr),
    let u := { s with agenda := rest, freeCtr := s.freeCtr + 1 }
    (s.agenda = .event i :: rest → insOf i = none → step s = exec i u) ∧
    (s.agenda = .event i :: rest → (insOf i).isSome = true → step s = .next u) ∧
    (∀ h, s.agenda = .host h :: rest → step s = u.hostAct h) ∧
    (s.agenda = .tick :: rest → ∃ t, step s = .next t ∧ t.clk = s.clk + 1 ∧ t.mem = s.mem) ∧
    (s.agenda = [] → step s = ({ s with freeCtr := s.freeCtr + 1 } : State).turn (Config.nextTurn s.freeCtr))) ∧
  ((∀ (s : State) (w : Who) (acc : Access) (va : Nat), s.translate w acc va = .hole →
    s.walk w.qif va = .hole ∨ ∃ l pte b, s.leafOf w acc.need va = (.leaf l pte, b) ∧
      ¬Lies (canon (s.frameOf w.part acc.slot acc.back l * 65536 + va % 2 ^ pageBits (Leaf.ps l))) 1) ∧
  (∀ (s : State) (part va node : Nat), s.walkFrom part va levels node = .hole →
    ¬Lies (node + 16 * bitsOf va 39 13) 16 ∨ ∃ up sh, Leaf.v (s.leafAt part up) = true ∧ Leaf.ps (s.leafAt part up) = 3 ∧
      (sh = 30 ∨ sh = 21 ∨ sh = 16) ∧
      ¬Lies (bitsOf (s.leafAt part up).toNat 64 50 + 16 * bitsOf va sh (if sh = 16 then 5 else 9)) 16) ∧
  (∀ (s : State) (i : Instr), (∃ c m, i = .ld c m) ∨ (∃ c m, i = .st c m) ∨ (∃ c m, i = .atom c m) ∨ (∃ c m, i = .hld c m) ∨
    (∃ c m, i = .hst c m) → exec i s = .fault .noSuchMemory →
      ∃ acc va, (landed s).translate ((landed s).who s.cur) acc va = .hole) ∧
  (∀ (u : State) (a : Agent), u.atIssue a = .hole → ∃ va, u.translate (u.who a) ⟨.fetch, 0, 0, false⟩ va = .hole) ∧
  (∀ (s : State) (i : Instr), (∃ t, exec i s = .next t) ∨ exec i s = .fault .noSuchMemory) ∧
  ∀ s : State, (∃ t, Sys2Proof.Machine.step s = .next t) ∨ Sys2Proof.Machine.step s = .fault .noSuchMemory)

/-- The canonical form holds after reset, and with a program placed there (log entries 5 and 6). What the package holds right
after its reset, before its bring-up (R378): nothing runs, no session and no mailbox is open, the links are down, lsync is
clear, nothing is measured, no comparator matches, memory lists nothing, and the clock is at its upper end (the model's choices:
log entries 3, 5 and 56). -/
def Obligations.ResetHoldsTheCanonicalFormAndRunsNothing : Prop :=
  (Form State.reset ∧ ∀ nbits w : Nat, Form (State.reset.withFetchWord nbits w)) ∧
  (let s := State.reset
  s.teams = [] ∧ s.launches = [] ∧ (∀ q, (s.quad q).prog = none) ∧ (∀ a, s.standing a = false) ∧
  (∀ c k, Sparse.get 0 k (s.coreOf c).cmps = 0) ∧ s.sessions = [] ∧ s.mem = [] ∧ s.power.clock = Config.clockTop ∧
  s.boot.stage = 0 ∧ s.lsync = false ∧ s.linkUp = false ∧ s.doeOpen = false ∧ (∀ k, s.measured k = 0) ∧
  (∀ a : Nat, Memory.byte s.mem a = 0) ∧
  ∀ core q, ∃ t, ({ s with agenda := [.quarter core q] } : State).turn (.quarter core q) = .next t ∧ t.mem = s.mem)

/-! ## Blocking instructions: fences, barriers, tags, register pools -/

namespace Sys2Proof.Claims

open Sys2Proof Sys2Proof.Machine Sys2Proof.Safety

/-- The state that a blocking instruction leaves which has issued, has done `e`, and waits for `h`: its flag is busy and its
lanes stand where they are (R59). -/
def waits (n : Ins) (h : Hold) (e : State → State) (s : State) : State :=
  let u := noted n 0 s
  let g := sight n 0 s
  (consumed n ((e u).mapThr s.cur fun th => { (flagged n th) with wait := some ⟨h, n.len, n.flag⟩ })).mapThr s.cur fun th =>
    stepped n g (u.thr s.cur) s.clk Latch.invalid th

/-- A trap of the instruction in all its active lanes. -/
def illegalOf (n : Ins) (x : BitVec 32) (s : State) : State :=
  deliver n (noted n x s) [{ cause := .illegal, lmask := (sight n x s).full, tval := n.word0 }]

/-- Whether some earlier load or atomic, or some earlier store or atomic, of the issuing thread is not yet performed. -/
def loadsLeft (n : Ins) (s : State) : Bool := ((noted n 0 s).thr s.cur).ops.any fun o => o.kind.reads
@[inherit_doc loadsLeft]
def storesLeft (n : Ins) (s : State) : Bool := ((noted n 0 s).thr s.cur).ops.any fun o => o.kind.writes

/-- Operand i as a uniform n32 value. -/
def uni32 (n : Ins) (s : State) (i : Nat) : Nat := (((sight n 0 s).uni i).setWidth 32 : BitVec 32).toNat

end Sys2Proof.Claims

/-- R197, R198: an arrival is counted once; a .team barrier completes its phase when every group that has not ended has
arrived, a wider one when the count that the phase's first arrival set is reached; the counter then rises by 1. What the arriving
group has met is noted with the phase, for those who wait for it (R199). -/
def Obligations.BarrierArrivalsCompletePhases : Prop :=
  ∀ (u : State) (t g id count : Nat),
    let a : Agent := .grp t g
    (let x := u.team t
     let here := (x.bar id).2 ++ [g]
     let all := x.groups.all fun y => y.2.alive == 0 || here.contains y.1
     let once := Sparse.put id ((x.bar id).1, here) x.bars
     let y := (u.arrive a 2 id count).team t
     y = { x with bars := (if all then Sparse.put id ((x.bar id).1 + 1, []) once else once), barView := y.barView } ∧
     ∀ c ∈ (u.thr a).released 2, (id, (x.bar id).1, c) ∈ y.barView) ∧
    (∀ scope, scope ≠ 2 →
      let inst := u.barInst a scope
      let b := u.wideBar a scope id inst
      let want := if b.arrived = [] then count else b.want
      let v := u.arrive a scope id count
      v.phase a scope id inst = (if want ≤ b.arrived.length + 1 then b.phase + 1 else b.phase) ∧
      v.hasArrived a scope id = decide (b.arrived.length + 1 < want) ∧ v.teams = u.teams ∧
      ∀ c ∈ (u.thr a).released scope, (b.phase, c) ∈ (v.wideBar a scope id inst).view)

/-- R197 to R199: bar and barv arrive once every earlier access is performed, barv returning the phase as its token; bar and barw
wait until the phase has passed, in barw past each active lane's token, and then acquire what its arrivals have released; a wrong
scope takes ILLEGAL in the present lanes before any operand is judged (log entries 9 and 10), a wrong id, count or a second arrival
after that. -/
def Obligations.BarrierInstructionsArriveAndWait : Prop :=
  ∀ (c : Ctl) (p : PayA) (s : State),
    let arg (n : Ins) : Nat := if Ins.scope n = 2 then 1 else uni32 n s 1
    let okBar (n : Ins) : Bool := decide (uni32 n s 0 < (noted n 0 s).barIds s.cur (Ins.scope n))
    let free (n : Ins) : Extra := { bad := !(Ins.scope n == 2 || Ins.scope n == 4 || Ins.scope n == 5 || Ins.scope n == 6 || Ins.scope n == 7) }
    let refused (n : Ins) (out : Out) : Prop := (free n).bad = true → ((landed s).thr s.cur).ra = none →
      earlyTrap n (free n) ((landed s).thr s.cur) = none →
        out = .next (deliver n (noted n 0 s) [{ cause := .illegal, lmask := ((landed s).thr s.cur).present, tval := n.word0 }])
    let bad (n : Ins) : Prop := okBar n = false ∨ arg n = 0 ∨ 65535 < arg n ∨
      (noted n 0 s).hasArrived s.cur (Ins.scope n) (uni32 n s 0) = true
    let inst (n : Ins) : Nat := (noted n 0 s).barInst s.cur (Ins.scope n)
    let token (n : Ins) : BitVec 32 := (noted n 0 s).phase s.cur (Ins.scope n) (uni32 n s 0) (inst n)
    let arrival (n : Ins) (u : State) : State :=
      (u.mapThr s.cur (Thr.passFence 2 (Ins.scope n))).arrive s.cur (Ins.scope n) (uni32 n s 0) (arg n)
    let arrived (n : Ins) : State := arrival n (noted n 0 s)
    let past (u : State) (n : Ins) (tok : BitVec 32) : Prop := 0 < (u.phase s.cur (Ins.scope n) (uni32 n s 0) (inst n) - tok).toInt
    let acq (n : Ins) (e : State → State) (toks : List (BitVec 32)) : State := passes n 0 (fun u => flagNext n
      (((e u).acquire s.cur (Ins.scope n)).join s.cur (Ins.scope n) ((e u).barReleased s.cur (Ins.scope n) (uni32 n s 0) (inst n) toks))) s
    (let n := p.ins Rows.rowBarv c
     refused n (exec (.barv c p) s) ∧ (Clear n (free n) s →
      (bad n → exec (.barv c p) s = .next (illegalOf n 0 s)) ∧
      (¬bad n → storesLeft n s = false → loadsLeft n s = false → ∃ t, exec (.barv c p) s = .next t ∧ SameBytes s t ∧
        ((n.wb false = true → ∀ l < 32, (sight n 0 s).act.getLsbD l = true →
          lane32 ((t.thr s.cur).vreg (((noted n 0 s).thr s.cur).pos p.d.toNat)).v l = token n)) ∧
        ∀ sc id k, t.phase s.cur sc id k = (arrived n).phase s.cur sc id k) ∧
      (¬bad n → storesLeft n s = true ∨ loadsLeft n s = true →
        ∃ ws, exec (.barv c p) s = .next (waits n (.arrive (Ins.scope n) (uni32 n s 0) (arg n) false ws) id s)))) ∧
    (let n := p.ins Rows.rowBar c
     refused n (exec (.bar c p) s) ∧ (Clear n (free n) s →
      (bad n → exec (.bar c p) s = .next (illegalOf n 0 s)) ∧
      (¬bad n → storesLeft n s = false → loadsLeft n s = false → past (arrived n) n (token n) →
        exec (.bar c p) s = .next (acq n (arrival n) [token n])) ∧
      (¬bad n → storesLeft n s = false → loadsLeft n s = false → ¬past (arrived n) n (token n) →
        exec (.bar c p) s = .next (waits n (.barrier (Ins.scope n) (uni32 n s 0) (inst n) [token n]) (arrival n) s)) ∧
      (¬bad n → storesLeft n s = true ∨ loadsLeft n s = true →
        exec (.bar c p) s = .next (waits n (.arrive (Ins.scope n) (uni32 n s 0) (arg n) true []) id s)))) ∧
    (let n := p.ins Rows.rowBarw c
     let toks : List (BitVec 32) := (lanesOf (sight n 0 s).act).map fun l => low (sight n 0 s) 1 l
     refused n (exec (.barw c p) s) ∧ (Clear n (free n) s →
      (okBar n = false → exec (.barw c p) s = .next (illegalOf n 0 s)) ∧
      (okBar n = true → loadsLeft n s = false → (∀ tok ∈ toks, past (noted n 0 s) n tok) → exec (.barw c p) s = .next (acq n id toks)) ∧
      (okBar n = true → (loadsLeft n s = true ∨ ∃ tok ∈ toks, ¬past (noted n 0 s) n tok) →
        exec (.barw c p) s = .next (waits n (.barrier (Ins.scope n) (uni32 n s 0) (inst n) toks) id s))))

/-- R200, Table 12.4: twany waits for some tag of its mask and twall for all; a masked tag that failed gives its cause with the
lowest such tag, in tffs too; else tffs gives the lowest ready tag or 64; tclr clears the tags of its mask with no command pending.
The end of a wait acquires what the commands have written (R204). -/
def Obligations.TagInstructionsFollowTheirTable : Prop :=
  ∀ (c : Ctl) (p : PayA) (s : State),
    let bits (n : Ins) := (noted n 0 s).tagBits s.cur
    let mask (n : Ins) : BitVec 64 := (sight n 0 s).uni 0
    let named (n : Ins) (t : Nat) : Prop := t < (bits n).2.2.1 ∧ (mask n).getLsbD t = true
    let ready (n : Ins) (t : Nat) : Prop := (bits n).1.getLsbD t = true
    let failed (n : Ins) (t : Nat) : Prop := named n t ∧ (bits n).2.1.getLsbD t = true
    let waitsFor (n : Ins) (out : Out) (all : Bool) (met : Prop) : Prop :=
      Clear n {} s → (bits n).2.2.1 ≤ 64 →
        (¬met → out = .next (waits n (.tags all (mask n)) id s)) ∧
        (met → (∀ t, ¬failed n t) → out = .next (passes n 0 (fun u => flagNext n
          ((u.acquire s.cur 8).join s.cur 8 (u.tagWrites s.cur (mask n &&& lowTags (bits n).2.2.1)))) s)) ∧
        (∀ t, met → failed n t → (∀ r < t, ¬failed n r) → out = .next (deliver n (noted n 0 s)
          [{ cause := Cause.ofCode (Sparse.get 0x18 t (bits n).2.2.2), lmask := ((noted n 0 s).thr s.cur).present, tval := BitVec.ofNat 64 t }]))
    (let n := p.ins Rows.rowTwany c
     waitsFor n (exec (.twany c p) s) false (∃ t, named n t ∧ ready n t)) ∧
    (let n := p.ins Rows.rowTwall c
     waitsFor n (exec (.twall c p) s) true (∀ t, named n t → ready n t)) ∧
    (let n := p.ins Rows.rowTffs c
     Clear n {} s → (bits n).2.2.1 ≤ 64 →
      (∀ t, failed n t → (∀ r < t, ¬failed n r) → exec (.tffs c p) s = .next (deliver n (noted n 0 s)
        [{ cause := Cause.ofCode (Sparse.get 0x18 t (bits n).2.2.2), lmask := (sight n 0 s).act, tval := BitVec.ofNat 64 t }])) ∧
      ((∀ t, ¬failed n t) → ∃ x,
        exec (.tffs c p) s = .next (fixedNext n 0 { vals := lanewise (sight n 0 s) fun _ => BitVec.ofNat 64 x, tag := .U } s) ∧
        ((named n x ∧ ready n x ∧ ∀ r < x, ¬(named n r ∧ ready n r)) ∨ (x = 64 ∧ ∀ r, ¬(named n r ∧ ready n r))))) ∧
    (let n := p.ins Rows.rowTclr c
     Clear n {} s → ∃ r e cs, exec (.tclr c p) s = .next (passes n 0 (fun u => flagNext n (u.setTags s.cur r e cs)) s) ∧
      ∀ t < 64, let gone : Bool := decide (t < (bits n).2.2.1) && (mask n).getLsbD t && !(noted n 0 s).tagPending s.cur t
        r.getLsbD t = ((bits n).1.getLsbD t && !gone) ∧ e.getLsbD t = ((bits n).2.1.getLsbD t && !gone))

namespace Sys2Proof.Claims

open Sys2Proof Sys2Proof.Machine Sys2Proof.Safety

/-- Registers that `m` chunks from chunk `from_` on count (R35). -/
def chunkRegs (from_ m : Nat) : Nat := ((List.range m).map fun i => if from_ + i = 15 then 8 else 16).sum

/-- Registers of a team's pool that no group of it holds (R26, R339). -/
def poolFree (x : Team) : Nat := x.pool - (x.groups.map fun g => chunkRegs g.2.baseChunks (g.2.chunks - g.2.baseChunks)).sum

/-- Registers that a team has on its core (R26). -/
def teamRegs (x : Team) : Nat := (x.groups.map fun g => 16 * g.2.baseChunks + 8).sum + x.pool

/-- Nobody's request comes before one of agent `a` in this queue: its own is the oldest, or nobody waits and the quarters before
its own have had their slots of this cycle (R341). -/
def served (u : State) (a : Agent) (l : List PoolReq) : Prop :=
  (∃ r rest, l = r :: rest ∧ r.a = a ∧ r.clk < u.clk) ∨
  (l = [] ∧ ∀ q < (u.thr a).slot / 4, (q, u.clk + 1) ∈ (u.coreOf (u.coreNo a)).issued)

/-- A queue of requests without those of an agent. -/
def without (a : Agent) (l : List PoolReq) : List PoolReq := l.filter fun r => r.a != a

/-- The group holds `m` chunks more, and each new register holds zero with tag U (R32, R339). -/
def acquires (t m : Nat) (a : Agent) (u : State) : State :=
  (u.mapTeam t fun x => { x with poolReqs := without a x.poolReqs }).mapThr a fun th =>
    { th with chunks := th.chunks + m
              regs := th.regs.filter fun r => !(decide (16 * th.chunks ≤ r.1) && decide (r.1 < min 248 (16 * (th.chunks + m)))) }

/-- The group gives its highest `m` chunks back to its team's pool (R339). -/
def releases (m : Nat) (a : Agent) (u : State) : State :=
  u.mapThr a fun th =>
    { th with chunks := th.chunks - m
              regs := th.regs.filter fun r => !(decide (16 * (th.chunks - m) ≤ r.1) && decide (r.1 < 248)) }

/-- The team's pool takes 16 × `m` registers from its core's (R340). -/
def grows (t m : Nat) (a : Agent) (u : State) : State :=
  (u.mapTeam t fun x => { x with pool := x.pool + 16 * m }).mapCore (u.team t).core fun k =>
    { k with free := k.free - 16 * m, reqs := without a k.reqs }

/-- The team's pool gives 16 × `m` registers to its core's (R340). -/
def shrinks (t m : Nat) (a : Agent) (u : State) : State :=
  (u.mapTeam t fun x => { x with poolReqs := without a x.poolReqs, pool := x.pool - 16 * m }).mapCore (u.team t).core fun k =>
    { k with free := k.free + 16 * m }

/-- A queue with the request of `m` registers by agent `a` in its place: after the older ones, and after those of its cycle from
a lower quarter, then slot (R341). -/
def queued (u : State) (a : Agent) (m : Nat) (l : List PoolReq) : List PoolReq :=
  let slot := (u.thr a).slot
  let ahead (r : PoolReq) : Bool := decide (r.clk < u.clk) || (r.clk == u.clk && decide (r.slot < slot))
  l.filter ahead ++ [⟨a, m, u.clk, slot⟩] ++ l.filter fun r => !ahead r

end Sys2Proof.Claims

/-- R339 to R341: racq, rrel, tgrow and tshrink complete at once where nobody waits before them and the pool has room: the group
or the team has its chunks more or less, its flag clears in the next cycle, its lanes go on, and nothing else changes. A count
of zero only passes. That nobody comes before a first request once the lower quarters have had their slots is log entry 64. R339
to R341: a request that is not granted at once waits in the order of arrival, of one cycle by quarter, then slot; a count beyond
what can ever be takes ILLEGAL. A granted register holds zero with tag U (R32). -/
def Obligations.RegisterPoolsGrantInArrivalOrder : Prop :=
  (∀ (c : Ctl) (p : PayA) (t k : Nat) (s : State), s.cur = .grp t k →
    let now (n : Ins) (e : Agent → State → State) : Out := .next (passes n 0 (fun u => flagNext n (e s.cur u)) s)
    (let n := p.ins Rows.rowRacq c
     let u := noted n 0 s
     let m := uni32 n s 0
     Clear n {} s → (u.thr s.cur).chunks + m ≤ 16 →
      (m = 0 → exec (.racq c p) s = now n fun _ v => v) ∧
      (0 < m → served u s.cur (u.team t).poolReqs → chunkRegs (u.thr s.cur).chunks m ≤ poolFree (u.team t) →
        exec (.racq c p) s = now n (acquires t m))) ∧
    (let n := p.ins Rows.rowRrel c
     let u := noted n 0 s
     let m := uni32 n s 0
     Clear n {} s → m ≤ (u.thr s.cur).chunks - (u.thr s.cur).baseChunks → exec (.rrel c p) s = now n (releases m)) ∧
    (let n := p.ins Rows.rowTgrow c
     let u := noted n 0 s
     let m := uni32 n s 0
     Clear n {} s →
      (m = 0 → exec (.tgrow c p) s = now n fun _ v => v) ∧
      (0 < m → teamRegs (u.team t) + 16 * m ≤ 3072 → served u s.cur (u.coreOf (u.team t).core).reqs →
        16 * m ≤ (u.coreOf (u.team t).core).free → exec (.tgrow c p) s = now n (grows t m))) ∧
    (let n := p.ins Rows.rowTshrink c
     let u := noted n 0 s
     let m := uni32 n s 0
     Clear n {} s →
      (m = 0 → exec (.tshrink c p) s = now n fun _ v => v) ∧
      (0 < m → 16 * m ≤ (u.team t).pool → served u s.cur (u.team t).poolReqs → 16 * m ≤ poolFree (u.team t) →
        exec (.tshrink c p) s = now n (shrinks t m)))) ∧
  (∀ (c : Ctl) (p : PayA) (t k : Nat) (s : State), s.cur = .grp t k →
    (let n := p.ins Rows.rowRacq c
     let u := noted n 0 s
     let m := uni32 n s 0
     let th := u.thr s.cur
     Clear n {} s →
      (0 < m → 16 < th.chunks + m → exec (.racq c p) s = .next (illegalOf n 0 s)) ∧
      (0 < m → th.chunks + m ≤ 16 → (¬served u s.cur (u.team t).poolReqs ∨ poolFree (u.team t) < chunkRegs th.chunks m) →
        ∃ v, exec (.racq c p) s = .next v ∧ (v.thr s.cur).wait = some ⟨.racq m, n.len, n.flag⟩ ∧ (v.thr s.cur).pcv = th.pcv ∧
          (v.team t).poolReqs = queued u s.cur (chunkRegs th.chunks m) (u.team t).poolReqs) ∧
      (∀ v q, 16 * (v.thr s.cur).chunks ≤ q → q < 16 * ((v.thr s.cur).chunks + m) → q < 248 →
        ((acquires t m s.cur v).thr s.cur).vreg q = VReg.zero)) ∧
    (let n := p.ins Rows.rowRrel c
     let th := (noted n 0 s).thr s.cur
     Clear n {} s → th.chunks - th.baseChunks < uni32 n s 0 → exec (.rrel c p) s = .next (illegalOf n 0 s)) ∧
    (let n := p.ins Rows.rowTgrow c
     let u := noted n 0 s
     let m := uni32 n s 0
     let core := (u.team t).core
     Clear n {} s →
      (0 < m → 3072 < teamRegs (u.team t) + 16 * m → exec (.tgrow c p) s = .next (illegalOf n 0 s)) ∧
      (0 < m → teamRegs (u.team t) + 16 * m ≤ 3072 → (¬served u s.cur (u.coreOf core).reqs ∨ (u.coreOf core).free < 16 * m) →
        ∃ v, exec (.tgrow c p) s = .next v ∧ (v.thr s.cur).wait = some ⟨.tgrow m, n.len, n.flag⟩ ∧
          (v.coreOf core).reqs = queued u s.cur (16 * m) (u.coreOf core).reqs)) ∧
    (let n := p.ins Rows.rowTshrink c
     let u := noted n 0 s
     let m := uni32 n s 0
     Clear n {} s →
      (0 < m → (u.team t).pool < 16 * m → exec (.tshrink c p) s = .next (illegalOf n 0 s)) ∧
      (0 < m → 16 * m ≤ (u.team t).pool → (¬served u s.cur (u.team t).poolReqs ∨ poolFree (u.team t) < 16 * m) →
        ∃ v, exec (.tshrink c p) s = .next v ∧ (v.thr s.cur).wait = some ⟨.tshrink m, n.len, n.flag⟩ ∧
          (v.team t).poolReqs = queued u s.cur (16 * m) (u.team t).poolReqs)))

/-- R343, R344: tag reads the code of a register's tag; tagset gives the wider of k and the narrowest tag that fits the lanes that
have not exited, and exited lanes the values that the new tag states. A register with a write on its way is read as R60 gives, with tag
G in tag (log entry 8), and tagset acts when it issues (log entry 22). -/
def Obligations.ShapeTagsAreReadAndNarrowed : Prop :=
  ∀ (c : Ctl) (p : PayA) (s : State),
    (let n := p.ins Rows.rowTag c
     let r := ((noted n 0 s).thr s.cur).readV s.freeCtr (((noted n 0 s).thr s.cur).pos p.s1.toNat)
     Clear n { bad := decide (0xF8 ≤ p.s1.toNat) } s →
      exec (.tag c p) s = .next (fixedNext n 0
        { vals := lanewise (sight n 0 s) fun _ => if r.poison ≠ 0 then 4 else match r.tag with | .U => 1 | .A .. => 2 | .G => 3
          tag := .U } s)) ∧
    (let n := p.ins Rows.rowTagset c
     let th := (noted n 0 s).thr s.cur
     let q := th.pos p.d.toNat
     let k := uni32 n s 0
     let r0 := th.vreg q
     let r := th.readV s.freeCtr q
     let x (l : Nat) : BitVec 32 := lane32 r.v l
     let same : Prop := ∀ l < 32, ∀ m < 32, th.alive.getLsbD l = true → th.alive.getLsbD m = true → x l = x m
     let affine : Prop := ∃ b st : BitVec 32, ∀ l < 32, th.alive.getLsbD l = true → x l = b + BitVec.ofNat 32 l * st
     Clear n { bad := decide (0xF8 ≤ p.d.toNat) } s →
      ((k = 0 ∨ 3 < k) → exec (.tagset c p) s = .next (illegalOf n 0 s)) ∧
      (1 ≤ k → k ≤ 3 → ∃ t, exec (.tagset c p) s = .next t ∧ SameBytes s t ∧
        let y := (t.thr s.cur).vreg q
        (∀ l < 32, th.alive.getLsbD l = true → lane32 y.v l = lane32 r0.v l) ∧ y.poison = r0.poison ∧
        (k = 3 ∨ r.poison ≠ 0 → y.tag = .G) ∧
        (k < 3 → r.poison = 0 → ¬affine → y.tag = .G) ∧
        (k < 3 → r.poison = 0 → affine → ¬same → ∃ b st, y.tag = .A b st) ∧
        (k = 2 → r.poison = 0 → same → ∃ b st, y.tag = .A b st) ∧
        (k = 1 → r.poison = 0 → same → y.tag = .U) ∧
        (y.tag = .U → ∃ b, ∀ l < 32, if th.alive.getLsbD l then x l = b else lane32 y.v l = b) ∧
        (∀ b st : BitVec 32, y.tag = .A b st → ∀ l < 32,
          if th.alive.getLsbD l then x l = b + BitVec.ofNat 32 l * st else lane32 y.v l = b + BitVec.ofNat 32 l * st) ∧
        (th.onTheWay (.v q) = [] → r = r0) ∧
        (∀ m, m ≠ q → (t.thr s.cur).vreg m = th.vreg m)))

namespace Sys2Proof.Claims

open Sys2Proof Sys2Proof.Machine Sys2Proof.Safety

/-- The wait of an agent ends in state `v` with the results `ws`: they land, the flag of the instruction clears, and the present
lanes go on (R59). -/
def waitOver (a : Agent) (w : Wait) (ws : List RegW) (v : State) : State :=
  v.mapThr a fun th => (th.endWait w ws).advance th.present w.len

end Sys2Proof.Claims

/-- R59, R43, R196 to R200, R204, R230, R264, R266, R339, R340, R357: a blocking instruction that waits completes when what it waits
for holds: a fence's accesses are performed, an arrival may be made, a phase has passed, tags are ready, a pool has room, wret and qpush
have their accesses performed and their queues room, what tlbi waits for has landed; its effect then happens, its results land, its
flag clears and its lanes go on. A tag whose command has failed gives its cause instead. Until then nothing changes. -/
def Obligations.BlockingInstructionsCompleteWhenTheirWaitEnds : Prop :=
  ∀ (s : State) (a : Agent) (w : Wait),
    let u := s.mapThr a (Thr.landDue s.clk)
    let th := u.thr a
    let run : Out := exec (.blockingOpComplete a) s
    let loads : Bool := th.ops.any fun o => o.kind.reads
    let stores : Bool := th.ops.any fun o => o.kind.writes
    let acquired (v : State) (sc id k : Nat) (toks : List (BitVec 32)) : State := (v.acquire a sc).join a sc (v.barReleased a sc id k toks)
    th.wait = some w → u.standing a = true →
      (∀ k sc, w.hold = .fence k sc →
        let alone : Bool := match a with | .grp .. => decide (sc < 2) | .ctl _ => decide (sc < 4)
        let left : Bool := if k = 0 then loads || (stores && !alone) else if k = 1 then loads else stores && !alone
        (left = false → run = .next (waitOver a w []
          (u.mapThr a fun th => (if k = 1 then th else th.noteFence k sc).passFence k sc))) ∧
        (left = true → run = .next u)) ∧
      (∀ sc id n bar ws, w.hold = .arrive sc id n bar ws →
        let token := u.phase a sc id (u.barInst a sc)
        let v := (u.mapThr a (Thr.passFence 2 sc)).arrive a sc id n
        let past : Prop := 0 < (v.phase a sc id (u.barInst a sc) - token).toInt
        (loads = true ∨ stores = true → run = .next u) ∧
        (loads = false → stores = false →
          (bar = false → run = .next (waitOver a w (ws.map fun r => { r with v := List.replicate 32 (token.setWidth 64) }) v)) ∧
          (bar = true → past → run = .next (waitOver a w [] (acquired v sc id (u.barInst a sc) [token]))) ∧
          (bar = true → ¬past → run = .next (v.mapThr a fun th =>
            { th with wait := some { w with hold := .barrier sc id (u.barInst a sc) [token] } })))) ∧
      (∀ sc id k toks, w.hold = .barrier sc id k toks →
        let past : Prop := ∀ tok ∈ toks, 0 < (u.phase a sc id k - tok).toInt
        (past → loads = false → run = .next (waitOver a w [] (acquired u sc id k toks))) ∧
        (¬past ∨ loads = true → run = .next u)) ∧
      (∀ all mask, w.hold = .tags all mask → (u.tagBits a).2.2.1 ≤ 64 →
        let named (t : Nat) : Prop := t < (u.tagBits a).2.2.1 ∧ mask.getLsbD t = true
        let ready (t : Nat) : Prop := (u.tagBits a).1.getLsbD t = true
        let failed (t : Nat) : Prop := named t ∧ (u.tagBits a).2.1.getLsbD t = true
        let met : Prop := if all then ∀ t, named t → ready t else ∃ t, named t ∧ ready t
        (¬met → run = .next u) ∧
        (met → (∀ t, ¬failed t) → run = .next (waitOver a w []
          ((u.acquire a 8).join a 8 (u.tagWrites a (mask &&& lowTags (u.tagBits a).2.2.1))))) ∧
        (∀ t, met → failed t → (∀ r < t, ¬failed r) →
          let x : Trap :=
            { cause := Cause.ofCode (Sparse.get 0x18 t (u.tagBits a).2.2.2), lmask := th.present, tval := BitVec.ofNat 64 t }
          let v := u.mapThr a (Thr.endWait w [])
          (th.handler = true → run = .next (v.mapThr a fun th => (th.holdCause x).advance th.present w.len)) ∧
          (th.handler = false → run = .next (v.takeTrap a w.len ((th.chain.map fun c => decide (0 < c.n)).getD false) x)))) ∧
      (∀ t g m, a = .grp t g → w.hold = .racq m →
        let ok : Prop := served u a (u.team t).poolReqs ∧ chunkRegs th.chunks m ≤ poolFree (u.team t)
        (ok → run = .next (waitOver a w [] (acquires t m a u))) ∧ (¬ok → run = .next u)) ∧
      (∀ t g m, a = .grp t g → w.hold = .tgrow m →
        let ok : Prop := served u a (u.coreOf (u.team t).core).reqs ∧ 16 * m ≤ (u.coreOf (u.team t).core).free
        (ok → run = .next (waitOver a w [] (grows t m a u))) ∧ (¬ok → run = .next u)) ∧
      (∀ t g m, a = .grp t g → w.hold = .tshrink m →
        let ok : Prop := served u a (u.team t).poolReqs ∧ 16 * m ≤ poolFree (u.team t)
        (ok → run = .next (waitOver a w [] (shrinks t m a u))) ∧ (¬ok → run = .next u)) ∧
      (∀ mode, w.hold = .wret mode →
        (loads = true ∨ stores = true → run = .next u) ∧
        (∀ r die cmd cls, loads = false → stores = false → th.recs.getLast? = some r → u.handlerOf a = some (die, cmd, cls) →
          run = .next (waitOver a w [] ((((u.mapDie die fun d => { d with tapView := d.tapView ++ th.released 5 }).mapThr a
            (Thr.passFence 2 5)).mapThr a fun th => { th with recs := th.recs.dropLast }).answer die r mode)))) ∧
      (∀ q mask x, a = .ctl q → w.hold = .qpush mask x →
        let named := (u.quad q).queues.filter fun y => mask.getLsbD y.1
        let full : Prop := ∃ y ∈ named, (u.team y.2).uqOpen = true ∧ 64 ≤ (u.team y.2).uq.length
        (loads = true ∨ stores = true ∨ full → run = .next u) ∧
        (loads = false → stores = false → ¬full → ∃ v, run = .next (waitOver a w [] v) ∧ SameBytes u v ∧
          (∀ y ∈ named, (named.filter (·.2 == y.2)).length = 1 → (u.team y.2).uqOpen = true →
            (v.team y.2).uq = (u.team y.2).uq ++ [x] ∧ (v.team y.2).uqView = (u.team y.2).uqView ++ [th.released 5]) ∧
          ∀ t, ((∀ y ∈ named, y.2 ≠ t) ∨ (u.team t).uqOpen = false) → v.team t = u.team t)) ∧
      (∀ ops, w.hold = .drain ops →
        let left : Prop := ∃ x ∈ ops, ∃ o ∈ (u.thr x.1).ops, o.seq = x.2
        (left → run = .next u) ∧ (¬left → run = .next (waitOver a w [] u))) ∧
      ∀ v ws, ((waitOver a w ws v).thr a).wait = none ∧
        (∀ f, w.flag = some f → ((waitOver a w [] v).thr a).busy = (v.thr a).busy &&& ~~~(1#12 <<< f)) ∧
        ∀ l < 32, l < (v.thr a).pcv.length → ((waitOver a w ws v).thr a).pcv.getD l exitedPc =
          if (v.thr a).present.getLsbD l then (v.thr a).pcv.getD l exitedPc + BitVec.ofNat 48 (8 * w.len) else (v.thr a).pcv.getD l exitedPc

/-! ## Memory accesses and handles -/

namespace Sys2Proof.Claims

open Sys2Proof Sys2Proof.Machine Sys2Proof.Safety

/-- The state that an access leaves which has done `e` and is in flight: its flag busy, its elements noted in the TLBs, what its
address and data depend on noted with it (R331), nothing performed. `view` is the region whose view it has been checked against
(R320). -/
def inFlight (n : Ins) (need : Need) (els : List (Elem × Nat)) (strong : Bool) (scope : Nat) (k : VKind) (view : Option (Nat × Nat))
    (s : State) (e : State → State := id) : State :=
  let u := noted n 0 s
  let g := sight n 0 s
  (consumed n (((e u).noteAll need els).mapThr s.cur fun th =>
    opens n strong scope (k.reads && u.isLong need els) k view (g.memDeps th k) th)).mapThr s.cur fun th =>
      goesOn g (stepped n g (u.thr s.cur) s.clk Latch.invalid th)

/-- What an access comes to by the checks `P` of its active lanes (R144, R146, R305, R310): causes first, then a page whose fill
has failed, then one that is not resident, which cancels the instruction, else the access is in flight. Only a translation into
a hole is no step. -/
def Accesses (n : Ins) (x : Extra) (s : State) (out : Out) (need : Need) (P : Plan) (strong : Bool) (scope : Nat)
    (k : List Elem → VKind) (view : Option (Nat × Nat) := none) : Prop :=
  let u := noted n 0 s
  let failed := P.absent.filter fun y => (u.thr s.cur).stErr.contains y.1
  Clear n x s →
    (P.traps ≠ [] → out = .next (deliver n u P.traps)) ∧
    (P.traps = [] → P.hole = true → out = .fault .noSuchMemory) ∧
    (P.traps = [] → P.hole = false → failed ≠ [] → out = .next (deliver n u (failed.map fun y =>
      { cause := .storageErr, lmask := 1 <<< y.2.2, tval := BitVec.ofNat 64 y.2.1 }))) ∧
    (P.traps = [] → P.hole = false → P.absent ≠ [] → failed = [] → out = .next (u.storageFault s.cur (P.absent.map (·.1)))) ∧
    (P.traps = [] → P.hole = false → P.absent = [] → out = .next (inFlight n need P.els strong scope (k (P.els.map (·.1))) view s))

/-- The region whose view an access through handle register `k` is checked against (R320). -/
def viewOf (n : Ins) (s : State) (k : BitVec 4) : Option (Nat × Nat) :=
  let h := (((noted n 0 s).thr s.cur).hreg k.toNat).v
  if (h.extractLsb' 52 4).toNat = 1 then
    some (s.partOf s.cur, ((noted n 0 s).view (s.partOf s.cur) (h.extractLsb' 112 16).toNat).region)
  else none

/-- The checks of the active lanes through the handle of format M, for elements of `w` bytes. -/
def globalPlan (n : Ins) (s : State) (need : Need) : Plan :=
  planM need (fun g => tyBytes g.ty) (sight n 0 s).act (sight n 0 s) (noted n 0 s)

/-- The checks of the active lanes of a local access. -/
def localPlan (n : Ins) (s : State) : Plan := planL (sight n 0 s).act (sight n 0 s) (noted n 0 s)

/-- The register results that a load or atomic has prepared: tag G, in the active lanes. -/
def prepared (n : Ins) (s : State) : List RegW :=
  regWrites n ((noted n 0 s).thr s.cur) (sight n 0 s).act (sight n 0 s).alive { vals := [], tag := .G } 0

/-- Byte j of a value, lowest address first (R4). -/
def byteOfVal (x : BitVec 64) (j : Nat) : Byte := (x >>> (8 * j)).setWidth 8

/-- The last element of a list that covers an address of a space. -/
def covering (els : List Elem) (sp : Sp) (A : Nat) : Option Elem :=
  els.reverse.find? fun e => e.sp = sp && decide (e.a ≤ A) && decide (A < e.a + e.w)

/-- The operation that an agent is to complete, in the state in which its due results have landed: it follows no earlier one that
is still in flight (R164, R330), the agent is not in runahead and has lanes left. -/
def Completing (s : State) (a : Agent) (k : Nat) (o : VOp) : Prop :=
  ((s.mapThr a (Thr.landDue s.clk)).thr a).ops.find? (·.seq == k) = some o ∧
  (s.mapThr a (Thr.landDue s.clk)).mayPerform a o = true ∧ ((s.mapThr a (Thr.landDue s.clk)).thr a).ra = none ∧ (s.thr a).alive ≠ 0

/-- The little-endian value of bytes (R4). -/
def leValue : List Byte → BitVec 64
  | [] => 0
  | b :: r => b.setWidth 64 ||| leValue r <<< 8

/-- A loaded value as its register holds it (R68, R91, R153): n8 and the small floats zero-extended, i8 sign-extended, a 32-bit
value in 32 bits, and in scalar mode i32 and i8 sign-extended to 64. -/
def loadedValue (scal : Bool) (ty : Nat) (x : BitVec 64) : BitVec 64 :=
  if ty = 2 ∨ ty = 3 ∨ ty = 5 then x
  else if ty = 6 ∨ ty = 7 then (x.setWidth 16).setWidth 64
  else if ty = 8 ∨ ty = 9 ∨ ty = 14 then (x.setWidth 8).setWidth 64
  else if ty = 13 then (if scal then (x.setWidth 8).signExtend 64 else ((x.setWidth 8).signExtend 32).setWidth 64)
  else if ty = 0 ∧ scal = true then (x.setWidth 32).signExtend 64
  else (x.setWidth 32).setWidth 64

/-- The i-th register of a result holds its part of value `x` for lane `l` with poison mark `pz`: a lane of a vector register 32
bits of it, a scalar register all. -/
def holdsPart (th : Thr) (w : RegW) (i l : Nat) (x : BitVec 64) (pz : Bool) : Prop :=
  match w.tgt with
  | .v p => lane32 (th.vreg p).v l = (x >>> (32 * i)).setWidth 32 ∧ (th.vreg p).poison.getLsbD l = pz
  | .s n => l = 0 → th.sreg n = ⟨x, pz⟩
  | _ => True

/-- Value `x` with poison mark `pz` of lane `l` has landed in the registers of `ws` and the flag is clear, or the operation has been
performed and the value is on its way to them, the flag still busy (R43, R60). -/
def Arrives (t : State) (a : Agent) (o : VOp) (ws : List RegW) (l : Nat) (x : BitVec 64) (pz : Bool) : Prop :=
  ((∀ i w, ws[i]? = some w → w.mask.getLsbD l = true → holdsPart (t.thr a) w i l x pz) ∧
    (t.thr a).ops.all (fun y => y.seq != o.seq) = true ∧ ∀ f, o.flag = some f → (t.thr a).busy.getLsbD f = false) ∨
  (∃ vs, (t.thr a).ops.any (fun y => y.seq == o.seq && decide (y.kind = .load [] 0 0 vs 3)) = true ∧
    ∀ i w, ws[i]? = some w → ∃ v, vs[i]? = some v ∧ v.tgt = w.tgt ∧ v.mask = w.mask ∧
      (l < 32 → (∀ p, w.tgt = .v p → (lane64 v.v l).setWidth 32 = (x >>> (32 * i)).setWidth 32) ∧
        (∀ n, w.tgt = .s n → lane64 v.v l = x) ∧ v.poison.getLsbD l = pz))

/-- The results of a load or atomic: one register, or the two of a pair, none of whose lanes a later write has taken. -/
def OwnResults (ws : List RegW) : Prop :=
  ws.length ≤ 2 ∧ (ws.map (·.tgt)).Nodup ∧ ∀ w ∈ ws, w.dead = 0 ∧ ((∃ p, w.tgt = .v p) ∨ (ws.length = 1 ∧ ∃ n, w.tgt = .s n))

/-- What an atomic leaves in an element of type `ty`, in the low bits of the result (R193). -/
def atomicValue (op ty : Nat) (old a b : BitVec 64) : BitVec 64 :=
  let le : Bool :=
    if ty = 0 then (old.setWidth 32).sle (a.setWidth 32) else if ty = 1 then decide (old.setWidth 32 ≤ a.setWidth 32)
    else if ty = 2 then old.sle a else decide (old ≤ a)
  let same : Bool := if ty = 2 ∨ ty = 3 then old == a else old.setWidth 32 == a.setWidth 32
  if op = 0 then (if ty = 4 then (Fp.add Fp.f32 0 old a).1 else old + a)
  else if op = 1 then (if ty = 4 then (Fp.minMax Fp.f32 false old a).1 else if le then old else a)
  else if op = 2 then (if ty = 4 then (Fp.minMax Fp.f32 true old a).1 else if le then a else old)
  else if op = 3 then old &&& a else if op = 4 then old ||| a else if op = 5 then old ^^^ a else if op = 6 then a
  else if same then b else old

/-- The lanes of an atomic one after the other, over the bytes of the spaces: the bytes that they leave, and each lane's old
value. An element that `bad` names is left unchanged (R193). -/
def oneByOne (op ty : Nat) (bad : Elem → Bool) : (Sp → Nat → Byte) → List Elem → (Sp → Nat → Byte) × List (Nat × BitVec 64)
  | m, [] => (m, [])
  | m, e :: r =>
    let old := leValue ((List.range e.w).map fun i => m e.sp (e.a + i))
    let new := atomicValue op ty old e.data e.data2
    let m' : Sp → Nat → Byte := fun sp A =>
      if bad e = false ∧ sp = e.sp ∧ e.a ≤ A ∧ A < e.a + e.w then byteOfVal new (A - e.a) else m sp A
    let q := oneByOne op ty bad m' r
    (q.1, (e.lane, old) :: q.2)

/-- Sector n of memory with `new` at byte i of its plaintext under key pair `k` (R147, R148): read, decrypted, merged, encrypted. -/
def merged (k : BitVec 512) (n i : Nat) (new : List Byte) (m : List Host.Cell) : List Byte :=
  let old := Aes.xts false k n (Memory.read m (32 * n) 32)
  Aes.xts true k n (old.take i ++ new ++ old.drop (i + new.length))

end Sys2Proof.Claims

/-- R144, R153, R154, R158, R159, R191: ld, st, pf, lds, sts, atom, cas and atoms check every active lane; a cause in any lane, or a
page that is not resident, leaves memory and registers alone; else the access is in flight with the data and handle read now. R84: a
store that leaves part of a block takes FMTPART, after the causes of the lanes and with the lowest such block (log entry 29). That
the translation is fixed at issue is log entry 15, what an access depends on is entry 13, what pf asks for and where CH 1 fills is entry
31. -/
def Obligations.AccessesTrapWaitOrAreInFlight : Prop :=
  ∀ (c : Ctl) (p : PayM) (l : PayML) (e : PayEM) (f : PayEML) (s : State),
    let data (n : Ins) (x : Elem) : Elem := { x with data := (sight n 0 s).val 1 x.lane, data2 := (sight n 0 s).val 2 x.lane }
    (let n := p.ins (pageRow Rows.rowLd (s.pageFmt p.h)) c
     Accesses n {} s (exec (.ld c p) s) .read (globalPlan n s .read) (p.w == 0) (Ins.scope n)
      (fun els => .load els (sight n 0 s).ty 0 (prepared n s) (Ins.ch n))
      (viewOf n s p.h)) ∧
    (let n := p.ins (pageRow Rows.rowSt (s.pageFmt p.h)) c
     let P := globalPlan n s .write
     let g := sight n 0 s
     let u := noted n 0 s
     let h := ((u.thr s.cur).hreg p.h.toNat).v
     let fg := u.baseFormat (u.who s.cur) h
     let place (l : Nat) : Nat × Nat := Block.place fg.1 fg.2 (Hd.stride h) (g.index l)
     let short (l : Nat) : Prop := fg.1 ≠ 0 ∧ g.act.getLsbD l = true ∧
       ∃ j < Block.elems fg.1, ∀ m < 32, g.act.getLsbD m = true → place m ≠ ((place l).1, j)
     ((∀ l < 32, ¬short l) → Accesses n {} s (exec (.st c p) s) .write P (p.w == 0) (Ins.scope n)
        (fun els => .store (els.map fun x => (sight n 0 s).storeData x) ((P.els.map (·.1.fmt)).headD 0) (Ins.ch n))
        (viewOf n s p.h)) ∧
     (Clear n {} s → P.traps ≠ [] → (∃ l < 32, short l) → exec (.st c p) s = .next (deliver n u P.traps)) ∧
     (Clear n {} s → P.traps = [] → (∃ l < 32, short l) → ∃ lmask l,
       let at_ := blockVa (u.basePage (u.who s.cur) h) fg.1 h (place l).1
       exec (.st c p) s = .next (deliver n u [{ cause := .fmtpart, lmask := lmask, tval := BitVec.ofNat 64 at_ }]) ∧
         (∀ m < 32, lmask.getLsbD m = true ↔ short m) ∧ l < 32 ∧ short l ∧ ∀ m < 32, short m → (place l).1 ≤ (place m).1)) ∧
    (let n := l.ins Rows.rowLds c
     Accesses n { mode := (s.thr s.cur).scalar && decide (l.sp.toNat < 2) } s (exec (.lds c l) s) .read (localPlan n s) true
      ([0, 3, 4, 5].getD l.sp.toNat 0) fun els => .load els (sight n 0 s).ty 0 (prepared n s) 0) ∧
    (let n := l.ins Rows.rowSts c
     Accesses n { mode := (s.thr s.cur).scalar && decide (l.sp.toNat < 2) } s (exec (.sts c l) s) .write (localPlan n s) true
      ([0, 3, 4, 5].getD l.sp.toNat 0) fun els => .store (els.map fun x => (sight n 0 s).storeData x) 0 0) ∧
    (let n := p.ins Rows.rowPf c
     let P := planM .read (fun _ => tyBytes p.ty.toNat) (sight n 0 s).act (sight n 0 s) (noted n 0 s)
     Clear n {} s → ∃ ch, (p.ch ≠ 1 → ch = p.ch.toNat) ∧ (p.ch = 1 → ch = 1 ∨ ch = 3) ∧
      exec (.pf c p) s = .next (inFlight n .read P.els false 8 (.prefetch (P.els.map (·.1)) ch) none s fun u =>
        P.absent.foldl (fun v y => v.softFill (v.dieOf s.cur) y.1 (v.partOf s.cur)) u)) ∧
    (let n := e.ins Rows.rowAtom c
     let op := (e.w1.extractLsb' 12 4).toNat
     Accesses n { bad := decide (6 < op) } s (exec (.atom c e) s) .rmw (globalPlan n s .rmw) true (Ins.scope n)
      (fun els => .atomic (els.map (data n)) op (sight n 0 s).ty (prepared n s)) (viewOf n s e.h)) ∧
    (let n := e.ins Rows.rowCas c
     Accesses n {} s (exec (.cas c e) s) .rmw (globalPlan n s .rmw) true (Ins.scope n)
      (fun els => .atomic (els.map (data n)) 7 (sight n 0 s).ty (prepared n s)) (viewOf n s e.h)) ∧
    (let n := f.ins Rows.rowAtoms c
     let op := (f.w1.extractLsb' 12 4).toNat
     Accesses n { bad := decide (7 < op), mode := (s.thr s.cur).scalar && decide (f.sp.toNat < 2) } s (exec (.atoms c f) s) .rmw
      (localPlan n s) true ([0, 3, 4, 5].getD f.sp.toNat 0) fun els => .atomic (els.map (data n)) op (sight n 0 s).ty (prepared n s))

/-- R196, R326: a fence completes at once where no earlier access that its KIND names is unperformed, and else holds its group's
issue; a store is visible at once within a scope that holds nobody else. A .full or .rel fence is remembered while accesses are
in flight that it orders before later ones (R165, R332); what the thread has met is passed on accordingly (`Thr.passFence`, log
entry 13). R164, R165, R196, R326, R327, R330, R331, R334: an access follows an earlier one of its thread with which it shares a
byte; strong ones of one space, and those on two sides of a fence, follow each other for the observers within the narrower
scope, who perform nothing meanwhile; no copy serves that is older than what its reader has met. How the model holds this is log
entries 13 and 14. -/
def Obligations.FencesAndScopesOrderAccesses : Prop :=
  (∀ (c : Ctl) (p : PayA) (s : State),
    let n := p.ins Rows.rowFence c
    let sc := Ins.scope n
    let alone : Bool := match s.cur with | .grp .. => decide (sc < 2) | .ctl _ => decide (sc < 4)
    let unseen : Bool := storesLeft n s && !alone
    let ordered (k : Nat) (u : State) : State := u.mapThr s.cur fun th => (th.noteFence k sc).passFence k sc
    Clear n {} s →
      (loadsLeft n s = false → unseen = false →
        exec (.fenceFull c p) s = .next (passes n 0 (fun u => flagNext n (ordered 0 u)) s)) ∧
      (loadsLeft n s = true ∨ unseen = true → exec (.fenceFull c p) s = .next (waits n (.fence 0 sc) id s)) ∧
      (loadsLeft n s = false → exec (.fenceAcq c p) s = .next (passes n 0 (fun u => flagNext n (u.mapThr s.cur (Thr.passFence 1 sc))) s)) ∧
      (loadsLeft n s = true → exec (.fenceAcq c p) s = .next (waits n (.fence 1 sc) id s)) ∧
      (unseen = false → exec (.fenceRel c p) s = .next (passes n 0 (fun u => flagNext n (ordered 2 u)) s)) ∧
      (unseen = true → exec (.fenceRel c p) s = .next (waits n (.fence 2 sc) id s)) ∧
      ∀ (th : Thr) (k : Nat), (th.noteFence k sc).ops = th.ops ∧ (th.noteFence k sc).fences =
        if th.ops.any fun o => o.kind.reads || o.kind.writes then th.fences ++ [(th.place, k, sc)] else th.fences) ∧
  ((∀ (s : State) (a : Agent) (k : Nat) (o e : VOp) (x y : Elem),
    let u := s.mapThr a (Thr.landDue s.clk)
    ((u.thr a).ops.find? fun z => z.seq == k) = some o → e ∈ (u.thr a).ops → e.seq < o.seq → x ∈ o.kind.elems → y ∈ e.kind.elems →
      x.sp = y.sp → x.a < y.a + y.w → y.a < x.a + x.w → exec (.variableOpComplete a k) s = .next u) ∧
  (∀ (s : State) (a b : Agent) (k n : Nat) (o e : VOp),
    let u := s.mapThr b (Thr.landDue s.clk)
    a ∈ u.agents → a ≠ b → e ∈ (u.thr a).ops → e.passed = n + 1 → u.contains n a (.agent b) = true →
      ((u.thr b).ops.find? fun z => z.seq == k) = some o → o.kind.elems ≠ [] → exec (.variableOpComplete b k) s = .next u) ∧
  (∀ (fences : List (Nat × Nat × Nat)) (o e : VOp), e.seq < o.seq → o.kind.elems ≠ [] → e.kind.elems ≠ [] →
    (∀ x ∈ o.kind.elems ++ e.kind.elems, x.sp = .mem ∧ x.a < 2 ^ 46) →
    (∀ x ∈ o.kind.elems, ∀ y ∈ e.kind.elems, x.a + x.w ≤ y.a ∨ y.a + y.w ≤ x.a) →
    let k := if o.strong = true ∧ e.strong = true then min o.scope e.scope else 0
    (fences = [] → o.follows fences e = if k ≤ 1 then 0 else k + 1) ∧
    (∀ f ∈ fences, e.seq < f.1 → f.1 < o.seq → 2 ≤ f.2.2 →
      (f.2.1 = 0 → f.2.2 + 1 ≤ o.follows fences e) ∧
      (f.2.1 = 1 → e.kind.reads = true → f.2.2 + 1 ≤ o.follows fences e) ∧
      (f.2.1 = 2 → o.kind.writes = true → f.2.2 + 1 ≤ o.follows fences e))) ∧
  (∀ (fences : List (Nat × Nat × Nat)) (o e l : VOp), e.seq < o.seq → o.kind.elems ≠ [] → e.kind.elems ≠ [] →
    (l = o ∧ (∀ x ∈ o.kind.elems, x.sp ≠ .mem) ∧ (∀ y ∈ e.kind.elems, y.sp = .mem) ∨
      l = e ∧ (∀ x ∈ o.kind.elems, x.sp = .mem) ∧ ∀ y ∈ e.kind.elems, y.sp ≠ .mem) → l.strong = true →
    (fences = [] → o.follows fences e = 0) ∧
    (∀ f ∈ fences, e.seq < f.1 → f.1 < o.seq → 2 ≤ max f.2.2 l.scope →
      (f.2.1 = 0 ∨ (f.2.1 = 1 ∧ e.kind.reads = true) ∨ (f.2.1 = 2 ∧ o.kind.writes = true)) →
      max f.2.2 l.scope + 1 ≤ o.follows fences e)) ∧
  (∀ (s : State) (k : Nat) (a : Agent), s.contains k a (.agent a) = true ∧
    ∀ b, (6 ≤ k → s.contains k a (.agent b) = true) ∧ (k = 5 → (s.contains k a (.agent b) = true ↔ a = b ∨ s.dieOf a = s.dieOf b)) ∧
      (k = 4 → (s.contains k a (.agent b) = true ↔ a = b ∨ s.quadOf a = s.quadOf b)) ∧ (k < 2 → (s.contains k a (.agent b) = true ↔ a = b)) ∧
      ∀ t g u h, a = .grp t g → b = .grp u h → (k = 2 → (s.contains k a (.agent b) = true ↔ a = b ∨ t = u)) ∧
        (k = 3 → (s.contains k a (.agent b) = true ↔ a = b ∨ s.coreNo a = s.coreNo b))) ∧
  (∀ (s : State) (a : Agent) (o : VOp) (ch : Nat) (e : Elem) (c : Copy), s.oldCopy a o ch e = some c →
    e.sp = .mem ∧ ch ≠ 3 ∧ c.line = e.a / 128 ∧ s.clk < c.fill + 65536 ∧
    (∀ x ∈ (s.thr a).seen, x.c.sp = .mem → x.c.a < e.a + e.w → e.a < x.c.a + x.c.n →
      (x.via = false ∧ (s.lsync = true ∨ o.strong = true ∨ x.weak = false ∨ 0 < x.rel) ∨
        x.via = true ∧ (0 < x.strong ∧ 0 < o.strength ∨ o.dependsOn e.lane x = true)) → x.c.at_ ≤ c.at_) ∧
    (∀ r ∈ s.log, ∀ b q, r.by_ = some (b, q) → r.sp = .mem → r.a < e.a + e.w → e.a < r.a + r.n → 0 < r.strong → 0 < o.strength →
      s.contains (r.strong - 1) b (.agent a) = true → s.contains (o.strength - 1) a (.agent b) = true → r.at_ ≤ c.at_)) ∧
  (∀ (th : Thr) (kind scope : Nat), ∀ x ∈ (th.passFence kind scope).seen, (kind = 0 ∨ kind = 1 ∧ x.load = true) →
    x.via = false ∧ scope + 1 ≤ x.rel))

/-- R137, R138, R140, R143, R144, R320: the checks of a lane in their order and the place of its element: through a handle on plain
pages, and in the four local spaces. PERM for a page of another format ranks before KEYALIAS, a nonzero SWIZ of a view stands at
the view step. A quad element that would cross a stripe is log entry 76. -/
def Obligations.LanesAreCheckedInOrderAndReachTheirElement : Prop :=
  (∀ (s : State) (wh : Who) (need : Need) (h : BitVec 128) (w l e : Nat),
    let base := (h.extractLsb' 0 52).toNat
    let kind := (h.extractLsb' 52 4).toNat
    let mode := (h.extractLsb' 62 2).toNat
    let b := (h.extractLsb' 59 3).toNat
    let sh := (h.extractLsb' 56 3).toNat
    let slot := (h.extractLsb' 112 16).toNat
    let extent := (h.extractLsb' 64 32).toNat
    let stride := (h.extractLsb' 96 16).toNat
    let o := e * (if stride = 0 then w else stride)
    let off := if mode = 1 then o ^^^ ((o / 2 ^ (4 + b + sh) % 2 ^ b) * 16) else o
    let va := base + off
    let r := s.laneCheck wh need h w l e
    let plain (lf : BitVec 128) : Prop := Leaf.fmt lf = 0 ∧ Leaf.geo lf = 0
    let legal : Prop := kind < 3 ∧ (mode = 1 ∨ (mode = 0 ∧ b = 0 ∧ sh = 0))
    let v := s.view wh.part slot
    let rg := s.region wh.part v.region
    let inside : Prop := v.isOpen = true ∧ rg.rbase + v.lo * 2 ^ rg.esh ≤ va ∧ va + w ≤ rg.rbase + v.hi * 2 ^ rg.esh
    let seen : Prop := kind = 1 → h.extractLsb' 56 8 = (0 : BitVec 8) ∧ inside
    s.baseFormat wh h = (0, 0) →
      (¬legal → r = .trap .perm 0) ∧
      (legal → extent ≤ e → r = .trap .bounds e) ∧
      (legal → e < extent → kind = 1 → h.extractLsb' 56 8 ≠ (0 : BitVec 8) → r = .trap .perm 0) ∧
      (legal → e < extent → kind = 1 → h.extractLsb' 56 8 = (0 : BitVec 8) → ¬inside → r = .trap .viewclosed e) ∧
      (legal → e < extent → seen →
        (2 ^ 52 ≤ va → r = .trap .nomap va) ∧
        (∀ x, s.translate wh ⟨need, kind, slot, false⟩ va = .cause x →
          (x ≠ .keyalias → r = .trap x va) ∧
          (∀ lf pte b, x = .keyalias → s.leafOf wh need va = (.leaf lf pte, b) →
            (plain lf → r = .trap .keyalias va) ∧ (¬plain lf → r = .trap .perm va))) ∧
        (∀ pte lf, s.translate wh ⟨need, kind, slot, false⟩ va = .absent pte lf →
          (¬plain lf → r = .trap .perm va) ∧ (plain lf → va % w ≠ 0 → r = .trap .align va) ∧
          (plain lf → va % w = 0 → r = .absent pte va)) ∧
        (∀ pa lf, s.translate wh ⟨need, kind, slot, false⟩ va = .ok pa lf →
          (¬plain lf → r = .trap .perm va) ∧ (plain lf → va % w ≠ 0 → r = .trap .align va) ∧
          (plain lf → va % w = 0 → ∃ el, r = .el el va ∧ el.lane = l ∧ el.sp = .mem ∧ el.a = pa ∧ el.w = w ∧ el.key = Leaf.key lf ∧
            permits need lf = true ∧ va < 2 ^ 52)))) ∧
  (∀ (s : State) (a : Agent) (sp w l b : Nat), sp < 4 →
    let sg := (s.thr a).seg sp
    let lim := (sg.extractLsb' 32 32).toNat
    let at0 := (sg.extractLsb' 0 32).toNat
    let q := at0 + b
    let part := (s.quad (s.quadOf a)).quadPart
    let r := s.laneLocal a sp w l b
    (lim < b + w → r = .trap .bounds b) ∧
    (sp = 2 → 4 * part < q + w → r = .trap .bounds b) ∧
    (∀ el va, r = .el el va → el.lane = l ∧ el.w = w ∧
      (sp = 0 → el.sp = .scr ∧ el.a = s.coreNo a * Config.scratchBytes + at0 + l * lim + b) ∧
      (sp = 1 → el.sp = .scr ∧ el.a = s.coreNo a * Config.scratchBytes + at0 + b) ∧
      (sp = 2 → el.sp = .scr ∧ el.a = (4 * s.quadOf a + q / 4096 % 4) * Config.scratchBytes + (Config.scratchBytes - part) +
        q / 4096 / 4 * 4096 + q % 4096) ∧
      (sp = 3 → el.sp = .dsp ∧ el.a = s.dieOf a * Config.dieScratchBytes + at0 + b)))

/-- R147, R148, R153, R154, R156, R160, R164, R193: a store writes each element's bytes, the highest lane supplying a shared one, and no
other byte; a load of any type delivers its element, from home or from a copy that may serve it, with the sector's poison mark; an
atomic performs its lanes one after the other; on a page with a key a sector is decrypted, merged and encrypted. The mark of a load
served from a copy is log entry 75. -/
def Obligations.PerformedAccessesMoveExactlyTheirBytes : Prop :=
  ∀ (s : State) (a : Agent) (k : Nat) (o : VOp), Completing s a k o →
    let u := s.mapThr a (Thr.landDue s.clk)
    let scal := (s.thr a).scalar
    let apart (els : List Elem) : Prop := els ≠ [] ∧ (els.map (·.lane)).Nodup ∧ ∀ e ∈ els, e.lane < 32
    let source (ch : Nat) (e : Elem) (v : State) : Prop := v = u ∨ ∃ c, u.oldCopy a o ch e = some c ∧ v = u.throughCopy c
    (∀ els ch, o.kind = .store els 0 ch → (∀ e ∈ els, e.key = 0 ∧ e.alt = none) →
      ∃ t, exec (.variableOpComplete a k) s = .next t ∧
      (∀ sp A, Memory.byte (t.space sp) A = match covering (els.filter fun e => !s.hostLost e.sp e.a) sp A with
        | some e => byteOfVal e.data (A - e.a)
        | none => Memory.byte (s.space sp) A) ∧
      (∀ f, o.flag = some f → (t.thr a).busy.getLsbD f = false) ∧ (t.thr a).ops.all (fun x => x.seq != o.seq) = true ∧ t.drive = s.drive) ∧
    (∀ els ty ws ch, o.kind = .load els ty 0 ws ch → OwnResults ws → (∀ e ∈ els, e.fmt = 0 ∧ e.alt = none) → apart els →
      ∃ t, exec (.variableOpComplete a k) s = .next t ∧ SameBytes s t ∧
      ∀ e ∈ els, ∃ v, source ch e v ∧
        Arrives t a o ws e.lane (loadedValue scal ty (leValue (v.readAt e.sp e.key e.a e.w))) (s.poisoned e.sp e.a e.w)) ∧
    (∀ els op ty ws, o.kind = .atomic els op ty ws → OwnResults ws → op < 8 → ty < 5 →
      (∀ e ∈ els, e.key = 0 ∧ e.alt = none ∧ e.w = if ty = 2 ∨ ty = 3 then 8 else 4) → apart els →
      let q := oneByOne op ty (fun e => s.poisoned e.sp e.a e.w) (fun sp A => Memory.byte (s.space sp) A) els
      ∃ t, exec (.variableOpComplete a k) s = .next t ∧ (∀ sp A, Memory.byte (t.space sp) A = q.1 sp A) ∧
      ∀ e ∈ els, ∀ old, (e.lane, old) ∈ q.2 →
        Arrives t a o ws e.lane (loadedValue scal ty old) (s.poisoned e.sp e.a e.w)) ∧
    (∀ e n ch lanes, o.kind = .hld e n ch lanes → e.alt = none → ∃ t v, exec (.variableOpComplete a k) s = .next t ∧ SameBytes s t ∧
      source ch e v ∧ (t.thr a).hreg n = (if s.poisoned e.sp e.a 16 then { ((u.thr a).hreg n) with poison := true }
        else { ((u.thr a).hreg n) with v := BitVec.ofNat 128 (leNat (v.readAt e.sp e.key e.a 16)), poison := false })) ∧
    (∀ e h, o.kind = .hst e h → e.alt = none → e.key = 0 → s.hostLost e.sp e.a = false →
      ∃ t, exec (.variableOpComplete a k) s = .next t ∧ ∀ sp A, Memory.byte (t.space sp) A =
        if sp = e.sp ∧ e.a ≤ A ∧ A < e.a + 16 then (h >>> (8 * (A - e.a))).setWidth 8 else Memory.byte (s.space sp) A) ∧
    (∀ e kp, e.sp = .mem → e.key ≠ 0 → e.alt = none → s.keyOf e.key = some kp → 0 < e.w → e.a % 32 + e.w ≤ 32 →
      let n := e.a / 32
      (∀ v : State, v.keyOf e.key = some kp →
        v.readAt .mem e.key e.a e.w = ((Aes.xts false kp n (Memory.read v.mem (32 * n) 32)).drop (e.a % 32)).take e.w) ∧
      (∀ ch, o.kind = .store [e] 0 ch → s.hostLost .mem e.a = false → ∃ t, exec (.variableOpComplete a k) s = .next t ∧
        t.mem = Memory.write s.mem (32 * n) (merged kp n (e.a % 32) ((List.range e.w).map (byteOfVal e.data)) s.mem) ∧
        t.scr = s.scr ∧ t.dsp = s.dsp) ∧
      (∀ op ty ws, o.kind = .atomic [e] op ty ws → op < 8 → ty < 5 → (e.w = if ty = 2 ∨ ty = 3 then 8 else 4) →
        s.poisoned .mem e.a e.w = false → ∃ t, exec (.variableOpComplete a k) s = .next t ∧
        t.mem = Memory.write s.mem (32 * n) (merged kp n (e.a % 32)
          ((List.range e.w).map (byteOfVal (atomicValue op ty (leValue (u.readAt .mem e.key e.a e.w)) e.data e.data2))) s.mem) ∧
        t.scr = s.scr ∧ t.dsp = s.dsp))

/-- R160 to R162: hmk derives a handle inside its parent's range or takes the cause that R161 names; hget gives a field; hld and hst
check one address. PERM with tval 0 where the parent's base lies on a formatted page, and the parent's swizzle for elements of 16 bytes,
are log entry 30; BASE modulo 2^52 and SLOT as it stands are entry 76. -/
def Obligations.HandleInstructionsDeriveReadAndMoveHandles : Prop :=
  ∀ (c : Ctl) (p : PayA) (s : State),
    let hreg (n : Ins) (k : BitVec 4) : BitVec 128 := (((noted n 0 s).thr s.cur).hreg k.toNat).v
    let one (n : Ins) (need : Need) (out : Out) (k : Elem → VKind) : Prop :=
      let view := viewOf n s (p.d.extractLsb' 4 4)
      let u := noted n 0 s
      let g := sight n 0 s
      let h := hreg n (p.d.extractLsb' 4 4)
      let l := lowestLane g.act
      let e := (low g 0 l).toNat
      Clear n {} s → g.act ≠ 0 →
        (((u.baseFormat (u.who s.cur) h).1 ≠ 0 → out = .next (deliver n u [{ cause := .perm, lmask := g.act, tval := 0 }])) ∧
         ((u.baseFormat (u.who s.cur) h).1 = 0 → ∀ x v, u.laneCheck (u.who s.cur) need h 16 l e = .trap x v →
           out = .next (deliver n u [{ cause := x, lmask := g.act, tval := BitVec.ofNat 64 v }])) ∧
         ((u.baseFormat (u.who s.cur) h).1 = 0 → ∀ el va, u.laneCheck (u.who s.cur) need h 16 l e = .el el va →
           out = .next (inFlight n need [(el, va)] (!p.mod.getLsbD 3) (Ins.scope n) (k el) view s)))
    (let n := p.ins Rows.rowHld c
     one n .read (exec (.hld c p) s) fun el =>
      .hld el (p.d.extractLsb' 0 4).toNat (Ins.ch n) (lanesOf (sight n 0 s).act).length) ∧
    one (p.ins Rows.rowHst c) .write (exec (.hst c p) s) (fun el => .hst el (hreg (p.ins Rows.rowHst c) (p.d.extractLsb' 0 4))) ∧
    (let n := p.ins Rows.rowHmk c
     let g := sight n 0 s
     let h := hreg n (p.d.extractLsb' 4 4)
     let off := uni32 n s 0
     let cnt := uni32 n s 1
     let delta := off * (h.extractLsb' 96 16).toNat
     let mode := (h.extractLsb' 62 2).toNat
     let unit := 2 ^ (4 + 2 * (h.extractLsb' 59 3).toNat + (h.extractLsb' 56 3).toNat)
     let trapped (x : Cause) : Prop := exec (.hmk c p) s = .next (deliver n (noted n 0 s) [{ cause := x, lmask := g.act, tval := 0 }])
     Clear n {} s →
      (3 ≤ (h.extractLsb' 52 4).toNat → trapped .perm) ∧
      ((h.extractLsb' 52 4).toNat < 3 → (h.extractLsb' 64 32).toNat < off + cnt → trapped .bounds) ∧
      ((h.extractLsb' 52 4).toNat < 3 → off + cnt ≤ (h.extractLsb' 64 32).toNat →
        ((h.extractLsb' 96 16 = (0 : BitVec 16) ∧ off ≠ 0) ∨ (mode = 1 ∧ delta % unit ≠ 0) → trapped .align) ∧
        (¬((h.extractLsb' 96 16 = (0 : BitVec 16) ∧ off ≠ 0) ∨ (mode = 1 ∧ delta % unit ≠ 0)) → ∃ w : RegW,
          exec (.hmk c p) s = .next (passes n 0 (fun u => u.mapThr s.cur (sends n s.clk (if g.scal then 2 else 4) [w])) s) ∧
          w.tgt = .h (p.d.extractLsb' 0 4).toNat ∧
          let d : BitVec 128 := lane64 w.v 1 ++ lane64 w.v 0
          d.extractLsb' 0 52 = h.extractLsb' 0 52 + BitVec.ofNat 52 delta ∧ d.extractLsb' 64 32 = BitVec.ofNat 32 cnt ∧
          d.extractLsb' 52 12 = (h.extractLsb' 52 12 : BitVec 12) ∧ d.extractLsb' 96 32 = (h.extractLsb' 96 32 : BitVec 32)))) ∧
    (let n := p.ins Rows.rowHget c
     let h := hreg n (p.s1.extractLsb' 0 4)
     let f := (p.mod.extractLsb' 0 4).toNat
     let x : BitVec 64 :=
       if f = 0 then (h.extractLsb' 0 52 : BitVec 52).setWidth 64 else if f = 1 then (h.extractLsb' 52 4 : BitVec 4).setWidth 64
       else if f = 2 then (h.extractLsb' 56 8 : BitVec 8).setWidth 64 else if f = 3 then (h.extractLsb' 64 32 : BitVec 32).setWidth 64
       else if f = 4 then (h.extractLsb' 96 16 : BitVec 16).setWidth 64 else if f = 5 then (h.extractLsb' 112 16 : BitVec 16).setWidth 64
       else if f = 6 then h.extractLsb' 0 64 else h.extractLsb' 64 64
     Clear n { bad := n.pay.getLsbD 3 } s →
      exec (.hget c p) s = .next (fixedNext n 0 { vals := lanewise (sight n 0 s) fun _ => x, tag := .U } s))

/-! ## Views -/

namespace Sys2Proof.Claims

open Sys2Proof Sys2Proof.Machine Sys2Proof.Safety

/-- The state that an instruction leaves which has done `e` and put an operation in flight: its flag busy, its lanes past it. `x` holds
the fallback bits that its entry adds. -/
def inOp (n : Ins) (strong : Bool) (scope : Nat) (k : VKind) (e : State → State) (s : State) (x : BitVec 32 := 0) : State :=
  let u := noted n x s
  let g := sight n x s
  (consumed n ((e u).mapThr s.cur (opens n strong scope false k none []))).mapThr s.cur fun th =>
    goesOn g (stepped n g (u.thr s.cur) s.clk Latch.invalid th)

/-- The state that a view change leaves which gives handle register `d` the handle `h`: that register holds it at once, and no older
result on its way to it lands any more. -/
def hands (n : Ins) (d : Nat) (h : BitVec 128) (e : State → State) (s : State) : State :=
  passes n 0 (fun v => (e v).mapThr s.cur fun th => th.land th.seq (handleW d h)) s

/-- The cause `x` with `tv` in the instruction's active lanes, and nothing done. -/
def refusedBy (n : Ins) (s : State) (out : Out) (x : Cause) (tv : Nat) (w : BitVec 32 := 0) : Prop :=
  out = .next (deliver n (noted n w s) [{ cause := x, lmask := (sight n w s).act, tval := BitVec.ofNat 64 tv }])

/-- Handle register `k` as the instruction reads it. -/
def handleOf (n : Ins) (s : State) (k : BitVec 4) : BitVec 128 := (((noted n 0 s).thr s.cur).hreg k.toNat).v

/-- A change of the view slots `ks` over region `r` of a partition and of nothing that another agent or memory holds: a page of the
region whose count of open views falls to zero becomes draining, unless it has been harvested (R319, R324). -/
def ViewsChange (u v : State) (part r : Nat) (ks : List Nat) : Prop :=
  SameBytes u v ∧ v.teams = u.teams ∧ v.quads = u.quads ∧ v.launches = u.launches ∧ v.frames = u.frames ∧
  (∀ k, k ∉ ks → v.view part k = u.view part k) ∧
  (∀ j < (u.region part r).pages, (v.region part r).draining.contains j = true ↔
    ((u.region part r).draining.contains j = true ∨
      (0 < u.cov part r j ∧ v.cov part r j = 0 ∧ (u.region part r).harvested.contains j = false)))

/-- A range that is empty or lies inside another (R321). -/
def inside (lo hi LO HI : Nat) : Prop := lo = hi ∨ (LO ≤ lo ∧ hi ≤ HI)

end Sys2Proof.Claims

/-- R321, R323, R324, R346 to R348: vopen, vnar, vsplit and vclose change the views that their entries name or take WIDEN,
VIEWCLOSED or PERM. A change is judged and committed, its handle written and its flag clear, at its issue, where R349 has a
commit and a flag that clears at it (DEDUCED, log entries 31 and 70). vinfo gives a slot's range. R205, R345: hpub takes PERM
where its handle is not of KIND 2, and else puts the publishing of the shadow pair in flight; it flips the pair when it
completes, no command of an engine being bound to it. A handle register that a view change gives a handle holds exactly that
handle, neither poisoned nor Frost. -/
def Obligations.ViewInstructionsOpenNarrowSplitCloseAndPublish : Prop :=
  (∀ (c : Ctl) (p : PayA) (s : State),
    let part := s.partOf s.cur
    (let n := p.ins Rows.rowVopen c
     let u := noted n 0 s
     let h := handleOf n s (p.d.extractLsb' 4 4)
     let lo := uni32 n s 0
     let hi := uni32 n s 1
     let slot := (h.extractLsb' 112 16).toNat
     let v := u.view part slot
     let out := exec (.vopen c p) s
     let opened (r : Nat) (mk : Nat → BitVec 128) : Prop :=
       (u.slotFor part r = none → refusedBy n s out .perm 0x10000) ∧
       (∀ k, u.slotFor part r = some k → ∃ e : State → State,
         out = .next (hands n (p.d.extractLsb' 0 4).toNat (mk k) e s) ∧
         ViewsChange u (e u) part r [k] ∧ (e u).view part k = ⟨true, lo, hi, r, 0⟩ ∧
         ((e u).region part r).views = (u.region part r).views + 1)
     Clear n {} s →
      ((h.extractLsb' 52 4).toNat ≠ 1 → (h.extractLsb' 52 4).toNat ≠ 3 → refusedBy n s out .perm 0) ∧
      ((h.extractLsb' 52 4).toNat = 1 → v.isOpen = false → refusedBy n s out .viewclosed slot) ∧
      ((h.extractLsb' 52 4).toNat = 1 → v.isOpen = true →
        ((hi < lo ∨ ¬inside lo hi v.lo v.hi) → refusedBy n s out .widen (hi * 2 ^ 32 + lo)) ∧
        (lo ≤ hi → inside lo hi v.lo v.hi → opened v.region fun k =>
          BitVec.ofNat 16 k ++ (h.extractLsb' 96 16 : BitVec 16) ++ (h.extractLsb' 64 32 : BitVec 32) ++ 0#8 ++ 1#4 ++
            (h.extractLsb' 0 52 : BitVec 52))) ∧
      ((h.extractLsb' 52 4).toNat = 3 → u.rootRegion part h = none → refusedBy n s out .perm 0) ∧
      (∀ r, (h.extractLsb' 52 4).toNat = 3 → u.rootRegion part h = some r →
        let x := u.region part r
        let legal : Prop := lo = hi ∨ (hi ≤ x.elems ∧ ∀ j < x.pages, lo * 2 ^ x.esh < (j + 1) * 65536 → j * 65536 < hi * 2 ^ x.esh →
          0 < u.cov part r j)
        ((hi < lo ∨ ¬legal) → refusedBy n s out .widen (hi * 2 ^ 32 + lo)) ∧
        (lo ≤ hi → legal → opened r fun k => Hd.make x.rbase 1 0 x.elems (2 ^ x.esh) k))) ∧
    (let n := p.ins Rows.rowVnar c
     let u := noted n 0 s
     let h := handleOf n s (p.d.extractLsb' 0 4)
     let lo := uni32 n s 0
     let hi := uni32 n s 1
     let slot := (h.extractLsb' 112 16).toNat
     let v := u.view part slot
     let out := exec (.vnar c p) s
     Clear n {} s →
      ((h.extractLsb' 52 4).toNat ≠ 1 → refusedBy n s out .perm 0) ∧
      ((h.extractLsb' 52 4).toNat = 1 → v.isOpen = false → refusedBy n s out .viewclosed slot) ∧
      ((h.extractLsb' 52 4).toNat = 1 → v.isOpen = true →
        ((hi < lo ∨ ¬inside lo hi v.lo v.hi) → refusedBy n s out .widen (hi * 2 ^ 32 + lo)) ∧
        (lo ≤ hi → inside lo hi v.lo v.hi → ∃ e : State → State, out = .next (passes n 0 e s) ∧
          ViewsChange u (e u) part v.region [slot] ∧ (e u).view part slot = { v with lo := lo, hi := hi }))) ∧
    (let n := p.ins Rows.rowVsplit c
     let u := noted n 0 s
     let h := handleOf n s (p.d.extractLsb' 4 4)
     let m := uni32 n s 0
     let slot := (h.extractLsb' 112 16).toNat
     let v := u.view part slot
     let out := exec (.vsplit c p) s
     Clear n {} s →
      ((h.extractLsb' 52 4).toNat ≠ 1 → refusedBy n s out .perm 0) ∧
      ((h.extractLsb' 52 4).toNat = 1 → v.isOpen = false → refusedBy n s out .viewclosed slot) ∧
      ((h.extractLsb' 52 4).toNat = 1 → v.isOpen = true →
        ((m < v.lo ∨ v.hi < m) → refusedBy n s out .widen m) ∧
        (v.lo ≤ m → m ≤ v.hi → u.slotFor part v.region = none → refusedBy n s out .perm 0x10000) ∧
        (∀ k, v.lo ≤ m → m ≤ v.hi → u.slotFor part v.region = some k → k ≠ slot → ∃ e : State → State,
          out = .next (hands n (p.d.extractLsb' 0 4).toNat
            (BitVec.ofNat 16 k ++ (h.extractLsb' 96 16 : BitVec 16) ++ (h.extractLsb' 64 32 : BitVec 32) ++ (h.extractLsb' 56 8 : BitVec 8) ++
              1#4 ++ (h.extractLsb' 0 52 : BitVec 52)) e s) ∧
          ViewsChange u (e u) part v.region [slot, k] ∧ (e u).view part slot = { v with hi := m } ∧
          (e u).view part k = ⟨true, m, v.hi, v.region, 0⟩))) ∧
    (let n := p.ins Rows.rowVclose c
     let u := noted n 0 s
     let h := handleOf n s (p.d.extractLsb' 0 4)
     let slot := (h.extractLsb' 112 16).toNat
     let v := u.view part slot
     let out := exec (.vclose c p) s
     Clear n {} s →
      ((h.extractLsb' 52 4).toNat ≠ 1 → refusedBy n s out .perm 0) ∧
      ((h.extractLsb' 52 4).toNat = 1 → v.isOpen = false → refusedBy n s out .viewclosed slot) ∧
      ((h.extractLsb' 52 4).toNat = 1 → v.isOpen = true → ∃ e : State → State, out = .next (passes n 0 e s) ∧
        ViewsChange u (e u) part v.region [slot] ∧ ((e u).view part slot).isOpen = false ∧
        ((e u).region part v.region).views = (u.region part v.region).views - 1)) ∧
    (let n := p.ins Rows.rowVinfo c
     let u := noted n 0 s
     let h := handleOf n s (p.s1.extractLsb' 0 4)
     let v := u.view part (h.extractLsb' 112 16).toNat
     let scal := (s.thr s.cur).scalar
     let each (x : Nat) (j : Nat) : RegW :=
       { tgt := if scal then .s (p.d + BitVec.ofNat 8 j).toNat else .v ((u.thr s.cur).pos (p.d + BitVec.ofNat 8 j).toNat)
         mask := (sight n 0 s).act
         v := lanewise (sight n 0 s) fun _ => BitVec.ofNat 64 (if v.isOpen then x else 0xFFFFFFFF)
         tag := writeTag (sight n 0 s).alive (sight n 0 s).act .U, poison := 0, frost := 0, dead := 0 }
     Clear n {} s →
       exec (.vinfo c p) s = .next (inOp n true 6 (.result (if n.wb scal then [each v.lo 0, each v.hi 1] else []) 0) id s))) ∧
  ((∀ (c : Ctl) (p : PayA) (s : State),
    let n := p.ins Rows.rowHpub c
    let h := handleOf n s (p.d.extractLsb' 0 4)
    Clear n {} s →
      ((h.extractLsb' 52 4).toNat ≠ 2 → refusedBy n s (exec (.hpub c p) s) .perm 0) ∧
      ((h.extractLsb' 52 4).toNat = 2 → exec (.hpub c p) s = .next (inOp n true 8
        (.publish (s.partOf s.cur * 65536 + (h.extractLsb' 112 16).toNat)) id s))) ∧
  (∀ (s : State) (a : Agent) (k : Nat) (o : VOp), Completing s a k o →
    (∀ pair, o.kind = .publish pair → (∀ x ∈ s.cmds, ∀ h, x.target = some h → Hd.kind h = 2 → x.part * 65536 + Hd.slot h ≠ pair) →
      ∃ t, exec (.variableOpComplete a k) s = .next t ∧ SameBytes s t ∧
        (t.pairOf pair).swapped = !(s.pairOf pair).swapped ∧ (t.pairOf pair).by_ = some a ∧ (t.pairOf pair).clk = s.clk ∧
        (∀ x, x ≠ pair → t.pairOf x = s.pairOf x) ∧
        ∀ f, o.flag = some f → (t.thr a).busy.getLsbD f = false)) ∧
  (∀ (th : Thr) (seq d : Nat) (h : BitVec 128), d < 16 → th.alive ≠ 0 →
    (th.land seq (handleW d h)).hreg d = ⟨h, false, false⟩ ∧ ∀ k, k ≠ d → (th.land seq (handleW d h)).hreg k = th.hreg k))

/-! ## Engine commands -/

namespace Sys2Proof.Claims

open Sys2Proof Sys2Proof.Machine Sys2Proof.Safety

/-- A range of n elements from lo lies below EXTENT, and of a view inside its current range (R144, R203). -/
def Ranged (u : State) (part : Nat) (d : Side) (lo n : Nat) : Prop :=
  n = 0 ∨ (lo + n ≤ (d.h.extractLsb' 64 32).toNat ∧ ((d.h.extractLsb' 52 4).toNat = 1 →
    u.inView part (d.h.extractLsb' 112 16).toNat (d.va lo) (d.va (lo + n - 1) + d.size - d.va lo) = true))

/-- What the issue of an engine command comes to (R200, R201, R203): a side that cannot be used, or formats that do not fit, take
PERM; a range outside takes BOUNDS or VIEWCLOSED, a formatted base off its page's first byte ALIGN; a command pending on the tag holds the group; else the command is accepted, and
READY and ERR of its tag clear. -/
def Commanded (n : Ins) (s : State) (out : Out) (usable : Prop) (ranges : List (Side × Nat × Nat)) (core : Prop) (c : EngCmd) : Prop :=
  let u := noted n 0 s
  let part := s.partOf s.cur
  Clear n { bad := decide (s.tagCount s.cur ≤ c.tag) } s →
    (¬usable → refusedBy n s out .perm 0) ∧
    (usable → ¬((∀ r ∈ ranges, Ranged u part r.1 r.2.1 r.2.2) ∧ core) →
      ∃ x tv, (x = .bounds ∨ x = .viewclosed ∨ x = .align) ∧ refusedBy n s out x tv) ∧
    (usable → (∀ r ∈ ranges, Ranged u part r.1 r.2.1 r.2.2) → core →
      (u.tagPending s.cur c.tag = true → out = .next u) ∧
      (u.tagPending s.cur c.tag = false → ∃ e : State → State, out = .next (inOp n false 8 .accept e s) ∧
        (e u).cmds = u.cmds ++ [c] ∧ SameBytes u (e u) ∧ (e u).launches = u.launches ∧ (e u).parts = u.parts ∧
        ((e u).tagBits s.cur).1 = (u.tagBits s.cur).1 &&& ~~~(1#64 <<< c.tag) ∧
        ((e u).tagBits s.cur).2.1 = (u.tagBits s.cur).2.1 &&& ~~~(1#64 <<< c.tag)))

/-- The side that handle register k gives for elements of w bytes. -/
def sideOf (n : Ins) (s : State) (k : BitVec 4) (w : Nat) : Side := (noted n 0 s).side (s.who s.cur) (handleOf n s k) w

/-- A side on formatted pages begins at the first byte of one (R82). -/
def Aligned (d : Side) : Prop := d.fmt = 0 ∨ (d.h.extractLsb' 0 52).toNat % d.page = 0

/-- A command of the issuing agent. It keeps the translation path of its launch and the place in issue order before which a release
whose scope holds the engine (`k`) has ordered its earlier accesses (R203, R204). -/
def command (n : Ins) (s : State) (tag : BitVec 6) (op : EngOp) (d r : Side) (w : Nat) (pinned : List Side) (k : Nat := 5) : EngCmd :=
  { a := s.cur, die := s.dieOf s.cur, tag := tag.toNat, op := op, hd := d.h, hs := r.h, w := w, sg1 := (s.thr s.cur).seg 1
    qif := s.qifOf s.cur, part := s.partOf s.cur, after := ((noted n 0 s).thr s.cur).releasedBefore k, at_ := s.freeCtr
    pins := pinned.flatMap (s.pin (s.partOf s.cur)), stall := none }

/-- The n bytes at va lie together at pa, in one page without key or format that the die's TLB holds with D set. -/
def RunAt (s : State) (wh : Who) (acc : Access) (va n pa : Nat) : Prop :=
  va / 65536 = (va + n - 1) / 65536 ∧ (∃ e, s.held wh va = some e ∧ Leaf.d e.leaf = true) ∧
  ∀ j < n, s.hostLost .mem (pa + j) = false ∧
    ∃ l, s.translate wh acc (va + j) = .ok (pa + j) l ∧ Leaf.key l = 0 ∧ Leaf.fmt l = 0 ∧ Leaf.geo l = 0

/-- A side on plain pages that counts its elements one after the other: no format, KIND 0 or 1, no swizzle, STRIDE 0 (R143). -/
def Plain (x : Side) : Prop :=
  x.fmt = 0 ∧ x.geo = 0 ∧ (x.h.extractLsb' 52 4).toNat < 2 ∧ x.h.extractLsb' 56 8 = (0 : BitVec 8) ∧ (x.h.extractLsb' 96 16 : BitVec 16) = 0

/-- The access by which a command reads, or writes, through a side (R205: a write reaches the back copy of a pair). -/
def readsBy (x : Side) : Access := ⟨.read, (x.h.extractLsb' 52 4).toNat, (x.h.extractLsb' 112 16).toNat, false⟩
@[inherit_doc readsBy]
def writesBy (x : Side) : Access := ⟨.write, (x.h.extractLsb' 52 4).toNat, (x.h.extractLsb' 112 16).toNat, true⟩

/-- BASE of a side. -/
def baseOf (x : Side) : Nat := (x.h.extractLsb' 0 52).toNat

/-- Two runs of bytes do not meet. -/
def Apart (a m b n : Nat) : Prop := a + m ≤ b ∨ b + n ≤ a

/-- What coll makes of the members' values, in increasing rank (R202): a sum modulo 2^32, or in f32 with one rounding to nearest for
each addition, of bf16 in f32 with one more at the end; the least or greatest of them. -/
def collected (op : Nat) : List (BitVec 64) → BitVec 64
  | [] => 0
  | v :: r =>
    let up (x : BitVec 64) : BitVec 64 := (Fp.convert Fp.bf16 Fp.f32 0 false x).1
    if op / 16 % 8 = 0 then
      if op % 16 = 0 then BitVec.ofNat 64 (((v :: r).map (·.toNat)).sum % 2 ^ 32)
      else if op % 16 = 4 then r.foldl (fun (a x : BitVec 64) => (Fp.add Fp.f32 0 a x).1) v
      else (Fp.convert Fp.f32 Fp.bf16 0 false (r.foldl (fun (a x : BitVec 64) => (Fp.add Fp.f32 0 a (up x)).1) (up v))).1
    else if op % 16 = 0 then
      r.foldl (fun (a x : BitVec 64) =>
        let x' := (x.setWidth 32).toInt
        let a' := (a.setWidth 32).toInt
        if (op / 16 % 8 = 1 ∧ x' < a') ∨ (op / 16 % 8 = 2 ∧ a' ≤ x') then x else a) v
    else r.foldl (fun (a x : BitVec 64) => (Fp.minMax (Fp.ofTy (op % 16)) (op / 16 % 8 == 2) a x).1) v

/-- A member of a round of coll: its operands, and where its source lies and its destination of k elements. -/
def Member (s : State) (m : EngCmd) (id op n k pa qa : Nat) : Prop :=
  let d := s.side ⟨m.qif, m.part, m.die, none⟩ m.hd m.w
  let r := s.side ⟨m.qif, m.part, m.die, none⟩ m.hs m.w
  m.w = (if op % 16 = 7 then 2 else 4) ∧ Plain d ∧ Plain r ∧ ∃ i j, m.op = .coll i j id op n ∧
    RunAt s ⟨m.qif, m.part, m.die, none⟩ (writesBy d) (baseOf d + i * m.w) (k * m.w) pa ∧
    RunAt s ⟨m.qif, m.part, m.die, none⟩ (readsBy r) (baseOf r + j * m.w) (n * m.w) qa

/-- The command at place k of those in flight has ended: it is gone, READY of its tag is set, ERR and the other tags are as they were. -/
def Ended (s t : State) (c : EngCmd) : Prop :=
  c ∉ t.cmds ∧ (t.tagBits c.a).1 = (s.tagBits c.a).1 ||| (1#64 <<< c.tag) ∧ (t.tagBits c.a).2.1 = (s.tagBits c.a).2.1

end Sys2Proof.Claims

/-- R200, R202: a fill, a copy of one or two dimensions, a gather, a scatter or a round of coll on plain pages that meets no cause writes
its destination and no other byte, sets READY of its tag and leaves ERR; a fill whose page takes a cause sets both and writes nothing.
The runs do not meet one another, and nothing holds the command back: an access that a release ordered before it (R204), or that its
partition owns no copy engine of the die (the model's choice, log entry 36). A command runs in one step (log entry 34). -/
def Obligations.EngineCommandsMoveTheirDataAndSetTheirTag : Prop :=
  ∀ (s : State) (k : Nat) (c : EngCmd), s.cmds[k]? = some c → s.heldBack c = false →
    let wh : Who := ⟨c.qif, c.part, c.die, none⟩
    let d := s.side wh c.hd c.w
    let r := s.side wh c.hs c.w
    let wr := writesBy d
    let rd := readsBy r
    (∀ i x n pa, c.op = .fill i x n → Plain d → 0 < c.w → 0 < n → RunAt s wh wr (baseOf d + i * c.w) (n * c.w) pa →
      ∃ t, exec (.engineCommandComplete k) s = .next t ∧ Ended s t c ∧ t.scr = s.scr ∧ t.dsp = s.dsp ∧ t.drive = s.drive ∧
        ∀ A, Memory.byte t.mem A =
          if pa ≤ A ∧ A < pa + n * c.w then byteOfVal (x.setWidth 64) ((A - pa) % c.w) else Memory.byte s.mem A) ∧
    (∀ i j n pa qa, c.op = .cpy i j n → Plain d → Plain r → 0 < c.w → 0 < n → RunAt s wh wr (baseOf d + i * c.w) (n * c.w) pa →
      RunAt s wh rd (baseOf r + j * c.w) (n * c.w) qa → Apart pa (n * c.w) qa (n * c.w) →
      (∀ b < n * c.w, s.poisoned .mem (qa + b) 1 = false) →
      ∃ t, exec (.engineCommandComplete k) s = .next t ∧ Ended s t c ∧ t.scr = s.scr ∧ t.dsp = s.dsp ∧ t.drive = s.drive ∧
        ∀ A, Memory.byte t.mem A =
          if pa ≤ A ∧ A < pa + n * c.w then Memory.byte s.mem (qa + (A - pa)) else Memory.byte s.mem A) ∧
    (∀ i j pd ps l rows pa qa, c.op = .cpy2 i j pd ps l rows → Plain d → Plain r → 0 < c.w → 0 < l → 0 < rows → (rows = 1 ∨ l ≤ pd) →
      let dn := ((rows - 1) * pd + l) * c.w
      let from_ := ((rows - 1) * ps + l) * c.w
      RunAt s wh wr (baseOf d + i * c.w) dn pa → RunAt s wh rd (baseOf r + j * c.w) from_ qa → Apart pa dn qa from_ →
      ∃ t, exec (.engineCommandComplete k) s = .next t ∧ Ended s t c ∧ t.scr = s.scr ∧ t.dsp = s.dsp ∧ t.drive = s.drive ∧
        (∀ a < rows, ∀ b < l * c.w, Memory.byte t.mem (pa + a * pd * c.w + b) = Memory.byte s.mem (qa + a * ps * c.w + b)) ∧
        ∀ A, (∀ a < rows, A < pa + a * pd * c.w ∨ pa + a * pd * c.w + l * c.w ≤ A) → Memory.byte t.mem A = Memory.byte s.mem A) ∧
    (∀ (gather : Bool) (o j m l xa : Nat) (ix at_ : Nat → Nat),
      c.op = (if gather then EngOp.gth o j m l else EngOp.sct o j m l) → 0 < c.w → 0 < l → 0 < m →
      let x := s.side wh c.hd 4
      let ca := s.coreNo c.a * Config.scratchBytes + (c.sg1.extractLsb' 0 32).toNat + o
      Plain x → Plain r → RunAt s wh (readsBy x) (baseOf x + j * 4) (m * 4) xa →
      (∀ k < m, leNat (Memory.read s.mem (xa + 4 * k) 4) = ix k ∧ (∀ b < 4, s.poisoned .mem (xa + 4 * k + b) 1 = false) ∧
        Ranged s c.part r (ix k * l) l ∧ (∀ i < l, Ranged s c.part r (ix k * l + i) 1) ∧
        RunAt s wh (if gather then readsBy r else writesBy r) (baseOf r + ix k * l * c.w) (l * c.w) (at_ k)) →
      (gather = false → (∀ k < m, Apart (at_ k) (l * c.w) xa (m * 4)) ∧ ∀ k < m, ∀ k' < m, k ≠ k' → Apart (at_ k) (l * c.w) (at_ k') (l * c.w)) →
      ∃ t, exec (.engineCommandComplete k) s = .next t ∧ Ended s t c ∧ t.dsp = s.dsp ∧ t.drive = s.drive ∧
        (gather = true → t.mem = s.mem ∧
          (∀ k < m, ∀ b < l * c.w, Memory.byte t.scr (ca + k * l * c.w + b) = Memory.byte s.mem (at_ k + b)) ∧
          ∀ A, A < ca ∨ ca + m * l * c.w ≤ A → Memory.byte t.scr A = Memory.byte s.scr A) ∧
        (gather = false → t.scr = s.scr ∧
          (∀ k < m, ∀ b < l * c.w, Memory.byte t.mem (at_ k + b) = Memory.byte s.scr (ca + k * l * c.w + b)) ∧
          ∀ A, (∀ k < m, A < at_ k ∨ at_ k + l * c.w ≤ A) → Memory.byte t.mem A = Memory.byte s.mem A)) ∧
    (∀ (i j id op n : Nat) (cs : List EngCmd) (pa qa : Nat → Nat), c.op = .coll i j id op n → s.round c = some cs →
      (∀ m ∈ cs, s.heldBack m = false) → op / 16 % 8 < 4 → (op % 16 = 0 ∨ op % 16 = 4 ∨ op % 16 = 7) → 0 < n →
      let w := if op % 16 = 7 then 2 else 4
      let dn := if op / 16 % 8 = 3 then cs.length * n else n
      (∀ r < cs.length, ∃ m, cs[r]? = some m ∧ Member s m id op n dn (pa r) (qa r)) →
      (∀ r < cs.length, ∀ r' < cs.length, Apart (pa r) (dn * w) (qa r') (n * w) ∧ (r ≠ r' → Apart (pa r) (dn * w) (pa r') (dn * w))) →
      ∃ t, exec (.engineCommandComplete k) s = .next t ∧ t.scr = s.scr ∧ t.dsp = s.dsp ∧ t.drive = s.drive ∧
        (∀ m ∈ cs, m ∉ t.cmds ∧ (m.tag < 64 → (t.tagBits m.a).1.getLsbD m.tag = true) ∧ (t.tagBits m.a).2.1 = (s.tagBits m.a).2.1) ∧
        (∀ r < cs.length, op / 16 % 8 = 3 → ∀ r' < cs.length, ∀ b < n * w,
          Memory.byte t.mem (pa r + r' * n * w + b) = Memory.byte s.mem (qa r' + b)) ∧
        (∀ r < cs.length, op / 16 % 8 ≠ 3 → ∀ e < n, ∀ b < w, Memory.byte t.mem (pa r + e * w + b) =
          byteOfVal (collected op ((List.range cs.length).map fun r' =>
            BitVec.ofNat 64 (leNat (Memory.read s.mem (qa r' + e * w) w)))) b) ∧
        ∀ A, (∀ r < cs.length, A < pa r ∨ pa r + dn * w ≤ A) → Memory.byte t.mem A = Memory.byte s.mem A) ∧
    (∀ i x y, c.op = .fill i x 1 → Plain d → 0 < c.w → s.translate wh wr (baseOf d + i * c.w) = .cause y →
      (∀ l pte, (s.leafOf wh .read (baseOf d + i * c.w)).1 = .leaf l pte → Leaf.fmt l = 0 ∧ Leaf.geo l = 0) →
      ∃ t, exec (.engineCommandComplete k) s = .next t ∧ SameBytes s t ∧ c ∉ t.cmds ∧
        (t.tagBits c.a).1.getLsbD c.tag = decide (c.tag < 64) ∧ (t.tagBits c.a).2.1.getLsbD c.tag = decide (c.tag < 64) ∧
        Sparse.get 0 c.tag (t.tagBits c.a).2.2.2 = y.code)

/-- R200 to R203: cpy, cpy2, gth, sct, coll and fill are accepted, wait for their tag, or take the cause that their checks at
issue name. The operands stand in the order of Table 12.5, S2 before S1. That ALIGN comes after the ranges, that ranges are
counted in blocks on formatted pages, and the tval of each (log entry 32), what gth, sct and coll may reach (log entry 33) and
the scanner's window read in one step (log entry 35) are DEDUCED. R202, R203, R224: fbset programs the scanner of its quad,
fbclr stops it, sfpre never raises a cause and moves no byte; the scanner reads the two row pointers and the columns between
them, and a cause in its reads stops it, a page of another format than its base among them (R82). -/
def Obligations.EngineAndFibreInstructionsActAsTheirEntriesSay : Prop :=
  (∀ (c : Ctl) (p : PayA) (s : State),
    let w := 2 ^ (p.mod.extractLsb' 0 2).toNat
    let tag : BitVec 6 := p.mod.extractLsb' 2 6
    let part := s.partOf s.cur
    let coreOk (o bytes : Nat) : Prop := bytes = 0 ∨ o + bytes ≤ (((s.thr s.cur).seg 1).extractLsb' 32 32).toNat
    (let n := p.ins Rows.rowCpy c
     let d := sideOf n s (p.d.extractLsb' 4 4) w
     let r := sideOf n s (p.d.extractLsb' 0 4) w
     let k := uni32 n s 0; let i := uni32 n s 1; let j := uni32 n s 2
     Commanded n s (exec (.cpy c p) s) (d.ok = true ∧ r.ok = true ∧ d.fmt = r.fmt) [(d, i, k), (r, j, k)] (Aligned d ∧ Aligned r)
       (command n s tag (.cpy i j k) d r w [d, r])) ∧
    (let n := p.ins Rows.rowCpy2 c
     let d := sideOf n s (p.d.extractLsb' 4 4) w
     let r := sideOf n s (p.d.extractLsb' 0 4) w
     let i := uni32 n s 0; let j := uni32 n s 1; let pd := uni32 n s 2; let ps := uni32 n s 3; let l := uni32 n s 4; let rows := uni32 n s 5
     let span (pitch : Nat) : Nat := if rows = 0 ∨ l = 0 then 0 else (rows - 1) * pitch + l
     Commanded n s (exec (.cpy2 c p) s) (d.ok = true ∧ r.ok = true ∧ d.fmt = r.fmt) [(d, i, span pd), (r, j, span ps)] (Aligned d ∧ Aligned r)
       (command n s tag (.cpy2 i j pd ps l rows) d r w [d, r])) ∧
    (let n := p.ins Rows.rowGth c
     let x := sideOf n s (p.d.extractLsb' 4 4) 4
     let d := sideOf n s (p.d.extractLsb' 0 4) w
     let o := uni32 n s 0; let j := uni32 n s 1; let m := uni32 n s 2; let l := uni32 n s 3
     Commanded n s (exec (.gth c p) s) (x.ok = true ∧ d.ok = true ∧ x.fmt = d.fmt) [(x, j, m)]
       (coreOk o (m * l * d.size) ∧ Aligned x ∧ Aligned d) (command n s tag (.gth o j m l) x d w [x, d])) ∧
    (let n := p.ins Rows.rowSct c
     let x := sideOf n s (p.d.extractLsb' 4 4) 4
     let d := sideOf n s (p.d.extractLsb' 0 4) w
     let o := uni32 n s 0; let j := uni32 n s 1; let m := uni32 n s 2; let l := uni32 n s 3
     Commanded n s (exec (.sct c p) s) (x.ok = true ∧ d.ok = true ∧ x.fmt = d.fmt) [(x, j, m)]
       (coreOk o (m * l * d.size) ∧ Aligned x ∧ Aligned d) (command n s tag (.sct o j m l) x d w [x, d])) ∧
    (let n := p.ins Rows.rowFill c
     let d := sideOf n s (p.d.extractLsb' 4 4) w
     let k := uni32 n s 0; let i := uni32 n s 1
     Commanded n s (exec (.fill c p) s) (d.ok = true) [(d, i, k)] (Aligned d)
       (command n s tag (.fill i (((sight n 0 s).uni 2).setWidth 32) k) d d w [d])) ∧
    (let n := p.ins Rows.rowColl c
     let k := uni32 n s 0; let i := uni32 n s 1; let j := uni32 n s 2; let id := uni32 n s 3; let op := uni32 n s 4
     let ew := if op % 16 = 7 then 2 else 4
     let d := sideOf n s (p.d.extractLsb' 4 4) ew
     let r := sideOf n s (p.d.extractLsb' 0 4) ew
     let ms := s.members part id
     op / 16 % 8 < 4 → op % 16 = 0 ∨ op % 16 = 4 ∨ op % 16 = 7 →
     Commanded n s (exec (.coll c p) s) (s.cur ∈ ms ∧ d.ok = true ∧ r.ok = true ∧ d.fmt = r.fmt)
       [(d, i, if op / 16 % 8 = 3 then ms.length * k else k), (r, j, k)] (Aligned d ∧ Aligned r)
       (command n s tag (.coll i j id op k) d r ew [d, r] 7))) ∧
  ((∀ (c : Ctl) (p : PayA) (s : State),
    let q := s.quadOf s.cur
    (let n := p.ins Rows.rowFbset c
     let w := 2 ^ (p.mod.extractLsb' 2 2).toNat
     let x := sideOf n s (p.d.extractLsb' 4 4) w
     let r := sideOf n s (p.d.extractLsb' 0 4) 4
     let y := sideOf n s (p.mod.extractLsb' 4 4) 4
     let a := uni32 n s 0
     let b := uni32 n s 1
     Clear n {} s →
      (x.ok = false ∨ r.ok = false ∨ y.ok = false → refusedBy n s (exec (.fbset c p) s) .perm 0) ∧
      (x.ok = true → r.ok = true → y.ok = true → Ranged (noted n 0 s) (s.partOf s.cur) r a (b + 1) →
        exec (.fbset c p) s = .next (inOp n false 8 .accept (fun u => u.mapQuad q fun z =>
          { z with scan := some { hx := x.h, hr := r.h, hc := y.h, r := a, q := b, w := w, pos := 0, cols := [], done := false
                                  qif := s.qifOf s.cur } }) s))) ∧
    (let n := p.ins Rows.rowFbclr c
     Clear n {} s → exec (.fbclr c p) s = .next (inOp n false 8 .accept (fun u => u.mapQuad q fun z => { z with scan := none }) s)) ∧
    (let n := p.ins Rows.rowSfpre c
     Clear n {} s → ∃ e : State → State, exec (.sfpre c p) s = .next (inOp n false 8 .accept e s) ∧
       SameBytes (noted n 0 s) (e (noted n 0 s)) ∧ (e (noted n 0 s)).teams = (noted n 0 s).teams ∧
       (e (noted n 0 s)).quads = (noted n 0 s).quads)) ∧
  (∀ (s : State) (q : Nat) (sc : Scan), (s.quad q).scan = some sc → sc.done = false →
    let wh : Who := ⟨sc.qif, (s.qif sc.qif).part, q / Config.quadsPerDie, none⟩
    let reads (h : BitVec 128) (e v : Nat) : Prop :=
      let d := s.side wh h 4
      e < (h.extractLsb' 64 32).toNat ∧ s.runFmt wh d (d.va e) d.size = true ∧
      ∃ bs, s.readVirt wh (readsBy d) (d.va e) d.size = .ok bs false ∧ (d.fmt = 0 → leNat bs = v)
    ∃ t, exec (.fibreScanner q) s = .next t ∧ SameBytes s t ∧ t.teams = s.teams ∧ t.cores = s.cores ∧
      (∀ lo hi cols, (s.side wh sc.hr 4).fmt = 0 → (s.side wh sc.hc 4).fmt = 0 → reads sc.hr sc.r lo → reads sc.hr (sc.r + sc.q) hi → cols.length = min (hi - lo) 65536 →
        (∀ i v, cols[i]? = some v → reads sc.hc (lo + i) v) → (t.quad q).scan = some { sc with cols := cols, done := true }) ∧
      ((∀ v, ¬reads sc.hr sc.r v) → (t.quad q).scan = none)))

/-! ## The matrix engine -/

namespace Sys2Proof.Claims

open Sys2Proof Sys2Proof.Machine Sys2Proof.Safety

/-- An accepted matrix command (R255): it joins the queue of the issuer's quad and holds the flag; a mode it sets is tracked. A full
queue of 16 holds the issue of a command that is no mfeed; mfeeds of one cycle stand by core, then group (R259). `w` holds W8
where a word that the instruction reads has reserved bits. -/
def Joins (n : Ins) (s : State) (out : Out) (op : MOp) (ws : List RegW) (w : BitVec 32) (mode : Option (Nat × Bool)) : Prop :=
  let u := noted n w s
  let q := s.quadOf s.cur
  let rank (a : Agent) : Nat := s.coreNo a * 65536 + groupNo a
  let later (y : MCmd) : Bool := op.feeds.isSome && y.op.feeds.isSome && y.clk == s.clk && decide (rank s.cur < rank y.a)
  let room : Prop := ((u.quad q).mq.filter fun x => x.op.feeds.isNone).length < 16
  (op.feeds.isNone = true → ¬room → out = .next u) ∧
  (op.feeds.isSome = true ∨ room → out = .next (inOp n false 8 (.engine s.cmdIds ws) (fun v =>
    ({ v with cmdIds := s.cmdIds + 1 } : State).mapQuad q fun x =>
      { x with mq := x.mq.filter (fun y => !later y) ++ ⟨s.cmdIds, s.cur, op, s.clk, 0⟩ :: x.mq.filter later
               modes := match mode with | some m => Sparse.put m.1 m.2 x.modes | none => x.modes }) s w))

/-- The byte offset o is one that an operand of K k-steps reads: elements with k < K in stored rows below ROWS (R235). -/
def Reads (d : BitVec 128) (ty K : Nat) (byRow : Bool) (o : Nat) : Prop :=
  ∃ t i j b, t < (K + 127) / 128 ∧ i < Desc.rows d ∧ b < (unitOf ty j).1 ∧
    (if byRow then j < min 128 (K - 128 * t) else j < 128 ∧ i < min 128 (K - 128 * t)) ∧
    o = Desc.byte d (rowLen ty) t i ((unitOf ty j).2.1 + b)

/-- A value converted from an accumulator element as Table 17.2 and R260 give: 0 i32, 2 i64, 4 f32, 5 f64, 7 bf16. -/
def convertedFrom (int : Bool) (ty : Nat) (sat : Bool) (x : BitVec 64) : BitVec 64 :=
  if int then
    if ty = 2 then x
    else if ty = 0 then
      (if sat ∧ x.toInt < -2 ^ 31 then 0x80000000 else if sat ∧ 2 ^ 31 ≤ x.toInt then 0x7FFFFFFF else (x.setWidth 32).setWidth 64)
    else (Fp.fromInt (Fp.ofTy ty) 0 false x.toInt).1
  else if ty = 0 then ((BitVec.ofInt 32 (Fp.toInt Fp.f64 0 true 32 x).1 : BitVec 32)).setWidth 64
  else if ty = 2 then BitVec.ofInt 64 (Fp.toInt Fp.f64 0 true 64 x).1
  else (Fp.convert Fp.f64 (Fp.ofTy ty) 0 false x).1

/-- Element (r, k) of an i8 or n8 operand in quad space or in a feed buffer (R235, R238): zero in a stored row that it does not have. -/
def intElem (s : State) (q : Nat) (src : OpFrom) (signed byRow : Bool) (r k : Nat) : Int :=
  let i := if byRow then r else k % 128
  let j := if byRow then k % 128 else r
  let b : Byte := match src with
    | .quad d => Memory.byte s.scr (s.quadByte q (Desc.byte d 128 (k / 128) i j))
    | .feed f => Sparse.get 0 (128 * i + j) f.bytes
  match src with
  | .quad d => if Desc.rows d ≤ i then 0 else if signed then b.toInt else b.toNat
  | .feed _ => if signed then b.toInt else b.toNat

/-- G of an operand type (Table 16.2): 7 bf16, 8 e4m3, 9 e5m2, 0xA kb3, 0xB kb5, 0xC kb8, 0xD i8, 0xE n8, 0xF mx4. -/
def groupOf (t : Nat) : Nat := if t = 7 ∨ t = 12 then 4 else if t = 10 ∨ t = 15 then 32 else 8

/-- Element (r, k) of an operand of any type (R235, R238): zero in a stored row that it does not have; else the value of its bytes, or
its value in its block, times 2^(S − 127) where a scale table stands for it, or NaN where S is 0xFF (R239). -/
def elemOf (s : State) (q : Nat) (src : OpFrom) (t : Nat) (signed byRow : Bool) (scale : Option Scale) (r k : Nat) : Fp.Val :=
  let i := if byRow then r else k % 128
  let j := if byRow then k % 128 else r
  let block : Prop := t = 10 ∨ t = 11 ∨ t = 12 ∨ t = 15
  let w := if block then Block.size t else if t = 7 then 2 else 1
  let L := if block then 128 / Block.elems t * w else 128 * w
  let at_ := if block then j / Block.elems t * w else j * w
  let raw := leNat ((List.range w).map fun b => match src with
    | .quad d => Memory.byte s.scr (s.quadByte q (Desc.byte d L (k / 128) i (at_ + b)))
    | .feed f => Sparse.get 0 (L * i + at_ + b) f.bytes)
  let y : Int := if signed then (BitVec.ofNat 8 raw).toInt else (BitVec.ofNat 8 raw).toNat
  let v : Fp.Val := if block then Block.elem t raw (j % Block.elems t) else if t = 13 ∨ t = 14 then .num (decide (y < 0)) y.natAbs 0
    else Fp.decode (Fp.ofTy t) (BitVec.ofNat 64 raw)
  let a := match src with | .quad d => Desc.base d + k / 128 * Desc.tpitch d + i * Desc.pitch d + at_ | .feed _ => L * i + at_
  if (match src with | .quad d => decide (Desc.rows d ≤ i) | .feed _ => false) then .num false 0 0
  else match scale with
    | none => v
    | some z =>
      let S := Sparse.get 0x7F ((((a : Int) - z.base.toNat) / (2 ^ z.shift : Nat)) % 1024).toNat z.tab
      if S = 0xFF then .nan false else match v with | .num sg m e => .num sg m (e + S.toNat - 127) | v => v

/-- The sign of an infinite product. -/
def infinite (p : Fp.Val × Fp.Val) : Option Bool :=
  match p with
  | (.inf a, .inf b) => some (a != b)
  | (.inf a, .num b m _) => if m = 0 then none else some (a != b)
  | (.num a m _, .inf b) => if m = 0 then none else some (a != b)
  | _ => none

/-- Whether a group's products have no number: a NaN, an infinity times a zero, or infinities of both signs (R87, R75). -/
def NoNumber (ps : List (Fp.Val × Fp.Val)) : Prop :=
  (∃ p ∈ ps, Fp.Val.isNan p.1 = true ∨ Fp.Val.isNan p.2 = true ∨
    ∃ a b e, p = (.inf a, .num b 0 e) ∨ p = (.num b 0 e, .inf a)) ∨
  ((∃ p ∈ ps, infinite p = some true) ∧ ∃ p ∈ ps, infinite p = some false)

/-- The exact sum of finite products. -/
def sumOf (ps : List (Fp.Val × Fp.Val)) : ℚ :=
  (ps.map fun p => match p with | (.num a m e, .num b n d) => ratOf a m e * ratOf b n d | _ => 0).sum

/-- One group of k-steps into an element of mode F (R87): the exact sum of element and products, rounded once to nearest into
binary64; an exact zero is −0 only where the element and every product are −0. -/
def FloatGroup (old new : BitVec 64) (ps : List (Fp.Val × Fp.Val)) : Prop :=
  let nan : BitVec 64 := 0x7FF8000000000000
  let fin : Prop := ∀ p ∈ ps, ∃ a m e b n d, p = (.num a m e, .num b n d)
  (NoNumber ps ∨ Fp.Val.isNan (Fp.decode Fp.f64 old) = true → new = nan) ∧
  (∀ t, ¬NoNumber ps → (∃ p ∈ ps, infinite p = some t) → Fp.Val.isNan (Fp.decode Fp.f64 old) = false →
    new = if Fp.decode Fp.f64 old = .inf (!t) then nan else BitVec.ofNat 64 (Fp.f64.inf t)) ∧
  (∀ t, fin → Fp.decode Fp.f64 old = .inf t → new = old) ∧
  (∀ a m e, fin → Fp.decode Fp.f64 old = .num a m e →
    (∀ sg n d, n ≠ 0 → ratOf sg n d = ratOf a m e + sumOf ps → new = (Fp.roundNum Fp.f64 0 false sg n d false).1) ∧
    (ratOf a m e + sumOf ps = 0 →
      let allNeg : Prop := a = true ∧ m = 0 ∧ ∀ p ∈ ps, ∃ a' m' e' b' n' d', p = (.num a' m' e', .num b' n' d') ∧
        m' * n' = 0 ∧ (a' != b') = true
      (allNeg → new = 0x8000000000000000) ∧ (¬allNeg → new = 0)))

/-- One group of k-steps into an element of mode I (R87, R233): element and products are added modulo 2^64 where their sum is an
integer; a NaN leaves the canonical f64 NaN. What another sum leaves is free (the model's choice, log entry 38). -/
def IntGroup (old new : BitVec 64) (ps : List (Fp.Val × Fp.Val)) : Prop :=
  (NoNumber ps → new = 0x7FF8000000000000) ∧
  ∀ z : Int, (∀ p ∈ ps, ∃ a m e b n d, p = (.num a m e, .num b n d)) → sumOf ps = z → new = old + BitVec.ofInt 64 z

/-- The command of a quad's engine whose turn it is, with the operation in flight that it answers; no access is in flight that a
release ordered before it (R196). -/
def Turning (s : State) (q : Nat) (c : MCmd) (o : VOp) : Prop :=
  (s.quad q).turn s.clk = some c ∧ s.matrixHeld q c = false ∧ (s.thr c.a).ra = none ∧
  ((s.thr c.a).ops.find? fun x => match x.kind with | .engine id _ => id == c.id | _ => false) = some o

/-- The command has been performed: it has left the queue, its flag is clear, and no other accumulator has changed. -/
def Performed (s t : State) (q : Nat) (c : MCmd) (o : VOp) (n : Option Nat) : Prop :=
  (∀ x ∈ (t.quad q).mq, x.id ≠ c.id) ∧ (∀ f, o.flag = some f → (t.thr c.a).busy.getLsbD f = false) ∧
  (∀ k, some k ≠ n → (t.quad q).accum k = (s.quad q).accum k) ∧ t.mem = s.mem ∧ t.dsp = s.dsp ∧ t.drive = s.drive

end Sys2Proof.Claims

/-- R232 to R238, R255 to R260: the matrix instructions check what their entries name, take ILLEGAL, BOUNDS with the highest offset,
or POISON, and are else accepted into the queue of their quad's engine; they write no register at issue. An operand that a feed
buffer stands for is not read; reserved bits of a word that is read set W8. Which commands count among the 16 entries, and that an
mfeed needs none, is DEDUCED (log entry 37). -/
def Obligations.MatrixCommandsJoinTheQueueOfTheirEngine : Prop :=
  ∀ (c : Ctl) (p : PayA) (s : State),
    let size := 4 * (s.quad (s.quadOf s.cur)).quadPart
    let acc := (p.d.extractLsb' 0 2).toNat
    let w8 (b : Bool) : BitVec 32 := if b then 0x100 else 0
    let pairAt (n : Ins) (i : Nat) : BitVec 128 := (sight n 0 s).uni (i + 1) ++ (sight n 0 s).uni i
    let moves (n : Ins) (out : Out) (op : BitVec 128 → MOp) (mode : Option (Nat × Bool)) : Prop :=
      let d := pairAt n 0
      let L := 128 * tyBytes (sight n 0 s).ty
      let top := Desc.base d + (Desc.rows d - 1) * Desc.pitch d + L
      let legal : Prop := 1 ≤ Desc.rows d ∧ Desc.rows d ≤ 128 ∧ (Desc.rot d = 0 ∨ L % 256 = 0)
      let x := w8 (Desc.reserved d)
      Clear n { warn := x } s →
        (¬legal → out = .next (illegalOf n x s)) ∧ (legal → size < top → refusedBy n s out .bounds (top - 1) x) ∧
        (legal → top ≤ size → Joins n s out (op d) [] x mode)
    (let n := p.ins Rows.rowMmz c
     Clear n {} s → Joins n s (exec (.mmz c p) s) (.mmz acc (p.mod.getLsbD 0)) [] 0 (some (acc, p.mod.getLsbD 0))) ∧
    (let n := p.ins Rows.rowMst c
     moves n (exec (.mst c p) s) (fun d => .mst acc d (sight n 0 s).ty (sight n 0 s).sat) none) ∧
    (let n := p.ins Rows.rowMld c
     moves n (exec (.mld c p) s) (fun d => .mld acc d (sight n 0 s).ty) (some (acc, (sight n 0 s).ty == 0 || (sight n 0 s).ty == 2))) ∧
    (let n := p.ins Rows.rowMscl c
     let b := (sight n 0 s).uni 1
     Clear n {} s →
       (size ≤ uni32 n s 0 + 1023 → refusedBy n s (exec (.mscl c p) s) .bounds (uni32 n s 0 + 1023)) ∧
       (uni32 n s 0 + 1023 < size → Joins n s (exec (.mscl c p) s)
         (.mscl (p.d.getLsbD 0) (uni32 n s 0) (b.extractLsb' 0 32).toNat (b.extractLsb' 32 5).toNat) [] 0 none)) ∧
    (let n := p.ins Rows.rowMfeed c
     let k := uni32 n s 1
     Clear n {} s →
       (256 ≤ k → refusedBy n s (exec (.mfeed c p) s) .bounds k) ∧
       (k < 256 → Joins n s (exec (.mfeed c p) s) (.mfeed (p.mod.getLsbD 1) k (p.mod.getLsbD 0) (sight n 0 s).act
         (perLane fun l => low (sight n 0 s) 0 l)) [] 0 none)) ∧
    (let n := p.ins Rows.rowMdrain c
     Clear n {} s → Joins n s (exec (.mdrain c p) s)
       (.mdrain (p.s2.extractLsb' 0 2).toNat (uni32 n s 0) (sight n 0 s).ty (sight n 0 s).sat) (prepared n s) 0 none) ∧
    (let m := p.ins Rows.rowMma c
     let w : BitVec 64 := lane64 (((landed s).thr s.cur).readSrc s.freeCtr m 0 ⟨m.fld .s3, true, true, false⟩).v 0
     let fa := w.getLsbD 12
     let fb := w.getLsbD 13
     let n : Ins := { m with row := { m.row with fed := (if fa then [.s1] else []) ++ (if fb then [.s2] else []) } }
     let g := sight n 0 s
     let u := noted n 0 s
     let out := exec (.mma c p) s
     let at_ := (w.extractLsb' 0 4).toNat
     let bt := (w.extractLsb' 4 4).toNat
     let K := ((w.extractLsb' 16 8).toNat + 1) * 32
     let a := if fa then 0 else 2
     let b := if fb then 0 else 2
     let byRowA := !w.getLsbD 10
     let byRowB := w.getLsbD 11
     let da := pairAt n 0
     let db := pairAt n a
     let k := (n.fld .s3).toNat
     let m0 := (u.thr s.cur).readS s.freeCtr (k + 1)
     let m1 := (u.thr s.cur).readS s.freeCtr (k + 2)
     let float (t : Nat) : Prop := t = 7 ∨ t = 8 ∨ t = 9 ∨ t = 10 ∨ t = 11 ∨ t = 12 ∨ t = 15
     let int (t : Nat) : Prop := t = 13 ∨ t = 14
     let okDesc (d : BitVec 128) (t : Nat) : Prop := 1 ≤ Desc.rows d ∧ Desc.rows d ≤ 128 ∧ (Desc.rot d = 0 ∨ rowLen t % 256 = 0)
     let legal : Prop := ((float at_ ∧ float bt ∧ u.trackedMode acc = false) ∨ (int at_ ∧ int bt ∧ u.trackedMode acc = true)) ∧
       (fa = true ∨ fb = true → K = 128) ∧ (w.getLsbD 26 = true → k ≤ 61) ∧ (fa = false → okDesc da at_) ∧ (fb = false → okDesc db bt)
     let reads (o : Nat) : Prop := (fa = false ∧ Reads da at_ K byRowA o) ∨ (fb = false ∧ Reads db bt K byRowB o)
     let dead : Prop := (∃ i < a + b, (g.op i).poison.getLsbD 0 = true) ∨
       (w.getLsbD 26 = true ∧ (m0.poison = true ∨ m1.poison = true))
     let x := w8 ((w &&& 0xFFFFFFFFFB000000 != 0) || (!fa && Desc.reserved da) || (!fb && Desc.reserved db))
     Clear n { warn := x } s →
       (¬legal → out = .next (illegalOf n x s)) ∧
       (∀ o, legal → reads o → (∀ y, reads y → y ≤ o) → size ≤ o → refusedBy n s out .bounds o x) ∧
       (legal → (∀ y, reads y → y < size) → dead → refusedBy n s out .poison 0 x) ∧
       (legal → (∀ y, reads y → y < size) → ¬dead → Joins n s out (.mma acc da db w (m1.v ++ m0.v) 0) [] x none))

/-- R87, R232, R238 to R240, R242, R257 to R260, R268: what the command whose turn it is does to accumulators, quad space, scale
tables, feed buffers and registers; an mma that no fault of its program met adds the exact products of each group of k-steps, in
increasing order, modulo 2^64 in mode I and with one rounding in mode F, scaled by its tables. mrst (R359) empties the engine of its
quad. Whose turn it is, is DEDUCED (log entry 37). -/
def Obligations.TheMatrixEnginePerformsTheCommandWhoseTurnItIs : Prop :=
  (∀ (s : State) (q : Nat) (c : MCmd) (o : VOp), Turning s q c o →
    let x := s.quad q
    ∃ t, exec (.matrixEngineTurn q) s = .next t ∧
      (∀ n i, c.op = .mmz n i → Performed s t q c o (some n) ∧ t.scr = s.scr ∧ ((t.quad q).accum n).int = i ∧
        ∀ k, ((t.quad q).accum n).at k = (0, false)) ∧
      (∀ n d ty, c.op = .mld n d ty → Performed s t q c o (some n) ∧ t.scr = s.scr ∧
        ((t.quad q).accum n).int = (ty == 0 || ty == 2) ∧
        ∀ i < 128, ∀ j < 128, (((t.quad q).accum n).at (128 * i + j)).1 =
          if Desc.rows d ≤ i then 0
          else
            let raw := BitVec.ofNat 64 (leNat ((List.range (tyBytes ty)).map fun b =>
              Memory.byte s.scr (s.quadByte q (Desc.byte d (128 * tyBytes ty) 0 i (j * tyBytes ty + b)))))
            if ty = 0 then (raw.setWidth 32 : BitVec 32).signExtend 64 else if ty = 4 then (Fp.convert Fp.f32 Fp.f64 0 false raw).1 else raw) ∧
      (∀ n d ty sat, c.op = .mst n d ty sat → ty = 0 ∨ ty = 4 ∨ ty = 7 → 128 * tyBytes ty ≤ Desc.pitch d → x.quadPart % 4096 = 0 →
        x.quadPart ≤ Config.scratchBytes → Desc.base d + Desc.rows d * Desc.pitch d ≤ 4 * x.quadPart →
        Performed s t q c o none ∧
        (∀ i < Desc.rows d, ∀ j < 128, ∀ b < tyBytes ty,
          Memory.byte t.scr (s.quadByte q (Desc.byte d (128 * tyBytes ty) 0 i (j * tyBytes ty + b))) =
            byteOfVal (convertedFrom (x.accum n).int ty sat ((x.accum n).at (128 * i + j)).1) b) ∧
        (∀ A, (∀ i < Desc.rows d, ∀ p < 128 * tyBytes ty, A ≠ s.quadByte q (Desc.byte d (128 * tyBytes ty) 0 i p)) →
          Memory.byte t.scr A = Memory.byte s.scr A)) ∧
      (∀ b src base sh, c.op = .mscl b src base sh → Performed s t q c o none ∧ t.scr = s.scr ∧
        let z := if b then (t.quad q).scaleB else (t.quad q).scaleA
        (∀ i < 1024, Sparse.get 0x7F i z.tab = Memory.byte s.scr (s.quadByte q (src + i))) ∧ z.base = BitVec.ofNat 32 base ∧ z.shift = sh ∧
        (if b then (t.quad q).scaleA = x.scaleA else (t.quad q).scaleB = x.scaleB)) ∧
      (∀ b k last m v, c.op = .mfeed b k last m v → Performed s t q c o none ∧ t.scr = s.scr ∧
        let y := if b then x.feedB else x.feedA
        let z := if b then (t.quad q).feedB else (t.quad q).feedA
        z.full = (y.full || last) ∧
        (∀ l < 32, ∀ j < 4, Sparse.get 0 (128 * k + 4 * l + j) z.bytes =
          if m.getLsbD l then ((lane32 v l >>> (8 * j)).setWidth 8 : Byte) else Sparse.get 0 (128 * k + 4 * l + j) y.bytes) ∧
        (∀ i, (i < 128 * k ∨ 128 * k + 128 ≤ i) → Sparse.get 0 i z.bytes = Sparse.get 0 i y.bytes)) ∧
      (∀ n sel ty sat w p, c.op = .mdrain n sel ty sat → o.kind.results = [w] → w.tgt = .v p → w.dead = 0 →
        Performed s t q c o none ∧ t.scr = s.scr ∧
        ∀ l < 32, (s.thr c.a).alive ≠ 0 → w.mask.getLsbD l = true → lane32 ((t.thr c.a).vreg p).v l =
          (convertedFrom (x.accum n).int ty sat ((x.accum n).at (128 * (sel % 128) + 32 * (sel / 128 % 4) + l)).1).setWidth 32) ∧
      (∀ n da db w mask, c.op = .mma n da db w mask 0 → c.met = 0 →
        (w.extractLsb' 0 4 = 13#4 ∨ w.extractLsb' 0 4 = 14#4) → (w.extractLsb' 4 4 = 13#4 ∨ w.extractLsb' 4 4 = 14#4) →
        w.getLsbD 14 = false → w.getLsbD 15 = false →
        let a := if w.getLsbD 12 then OpFrom.feed x.feedA else OpFrom.quad da
        let b := if w.getLsbD 13 then OpFrom.feed x.feedB else OpFrom.quad db
        Performed s t q c o (some n) ∧ t.scr = s.scr ∧ ((t.quad q).accum n).int = (x.accum n).int ∧
        (w.getLsbD 12 = true → (t.quad q).feedA = ⟨[], false⟩) ∧ (w.getLsbD 13 = true → (t.quad q).feedB = ⟨[], false⟩) ∧
        ∀ i < 128, ∀ j < 128, (((t.quad q).accum n).at (128 * i + j)).1 =
          if w.getLsbD 26 = true ∧ mask.getLsbD i = false then ((x.accum n).at (128 * i + j)).1
          else ((x.accum n).at (128 * i + j)).1 + BitVec.ofInt 64 (((List.range (((w.extractLsb' 16 8).toNat + 1) * 32)).map fun k =>
            intElem s q a (w.getLsbD 8) (!w.getLsbD 10) i k * intElem s q b (w.getLsbD 9) (w.getLsbD 11) j k).sum)) ∧
      (∀ n da db w mask, c.op = .mma n da db w mask 0 → c.met = 0 →
        let ta := (w.extractLsb' 0 4).toNat
        let tb := (w.extractLsb' 4 4).toNat
        let int (t : Nat) : Prop := t = 13 ∨ t = 14
        let K := ((w.extractLsb' 16 8).toNat + 1) * 32
        let G := min (groupOf ta) (groupOf tb)
        let a := if w.getLsbD 12 then OpFrom.feed x.feedA else OpFrom.quad da
        let b := if w.getLsbD 13 then OpFrom.feed x.feedB else OpFrom.quad db
        7 ≤ ta → 7 ≤ tb → (int ta ↔ int tb) →
        Performed s t q c o (some n) ∧ t.scr = s.scr ∧
        ∀ i < 128, ∀ j < 128, (w.getLsbD 26 = true → mask.getLsbD i = true) → ∃ z : Nat → BitVec 64,
          z 0 = ((x.accum n).at (128 * i + j)).1 ∧ z (K / G) = (((t.quad q).accum n).at (128 * i + j)).1 ∧
          ∀ g < K / G,
            let ps := (List.range G).map fun k =>
              (elemOf s q a ta (w.getLsbD 8) (!w.getLsbD 10) (if w.getLsbD 14 then some x.scaleA else none) i (g * G + k),
               elemOf s q b tb (w.getLsbD 9) (w.getLsbD 11) (if w.getLsbD 15 then some x.scaleB else none) j (g * G + k))
            (int ta → IntGroup (z g) (z (g + 1)) ps) ∧ (¬int ta → FloatGroup (z g) (z (g + 1)) ps))) ∧
  (∀ (c : Ctl) (p : PayA) (s : State),
    let n := p.ins Rows.rowMrst c
    let k := uni32 n s 0
    Clear n {} s →
      (40 ≤ k → exec (.mrst c p) s = .next (illegalOf n 0 s)) ∧
      (k < 40 → ∃ t, exec (.mrst c p) s = .next t ∧ SameBytes s t ∧
        let y := t.quad (40 * s.dieOf s.cur + k)
        y.mq = [] ∧ (∀ i, y.accum i = ⟨false, [], []⟩) ∧ y.feedA = ⟨[], false⟩ ∧ y.feedB = ⟨[], false⟩ ∧
        ∀ i, Sparse.get 0x7F i y.scaleA.tab = 0x7F ∧ Sparse.get 0x7F i y.scaleB.tab = 0x7F))

/-! ## The tap engine, teams and queues -/

namespace Sys2Proof.Claims

open Sys2Proof Sys2Proof.Machine Sys2Proof.Safety

/-- What an instruction that names a tap descriptor through a handle comes to (R262): PERM for a KIND other than 0, ALIGN for a BASE
that is no multiple of 128, else `good`. -/
def Described (n : Ins) (x : Extra) (s : State) (out : Out) (h : BitVec 128) (good : Nat → Prop) : Prop :=
  let base := (h.extractLsb' 0 52).toNat
  Clear n x s →
    ((h.extractLsb' 52 4).toNat ≠ 0 → refusedBy n s out .perm 0) ∧
    ((h.extractLsb' 52 4).toNat = 0 → base % 128 ≠ 0 → refusedBy n s out .align base) ∧
    ((h.extractLsb' 52 4).toNat = 0 → base % 128 = 0 → good base)

/-- The item at the head of a die's FIFO, whose engine the partitions of all its items own (R362), while no agent's order would be seen
broken (R328). -/
def AtHead (s : State) (die : Nat) (it : TapItem) (rest : List TapItem) : Prop :=
  (s.die die).items = it :: rest ∧ (∀ x ∈ it :: rest, s.tapOwned die (s.itemPart die x) = true) ∧ s.shutOut (.die die) = false

/-- The operation in flight that a tap command answers to. -/
def Tapping (s : State) (c : TapCmd) (o : VOp) : Prop :=
  ((s.thr c.a).ops.find? fun x => match x.kind with | .engine j _ => j == c.id | _ => false) = some o

end Sys2Proof.Claims

/-- R230, R249, R262 to R266: tap joins the FIFO of its die; rowsel, rset, tapget and wrd are in flight; wret answers the record that
its group read last, once the group's accesses have been performed, and releases what the group has met (R332); tlaunch has its entry
read and checked, and that an entry of KIND 1 or of more than 16 teams takes ILLEGAL with the first word in tval is DEDUCED (log entry
46); qpush and qclose act on the queues that their mask names. -/
def Obligations.TapAndQueueInstructionsActAsTheirEntriesSay : Prop :=
  ∀ (c : Ctl) (p : PayA) (s : State),
    (let n := p.ins Rows.rowTap c
     let g := sight n 0 s
     Described n {} s (exec (.tap c p) s) (handleOf n s (p.d.extractLsb' 0 4)) fun base =>
       let k : TapCmd := { id := s.cmdIds, a := s.cur, launch := s.launchOf s.cur, desc := [], sg2 := (s.thr s.cur).seg 2
                           sg3 := (s.thr s.cur).seg 3, level := (s.thr s.cur).level, rows := [], teams := [], held := [] }
       exec (.tap c p) s = .next (inOp n false 8 (.engine s.cmdIds []) (fun u =>
         ({ u with cmdIds := s.cmdIds + 1 } : State).mapDie (s.dieOf s.cur) fun d =>
           { d with items := d.items ++ [.command k base (g.uni 1 ++ g.uni 0) (s.thr s.cur).seq] }) s)) ∧
    (let n := p.ins Rows.rowRowsel c
     Described n {} s (exec (.rowsel c p) s) (handleOf n s (p.s2.extractLsb' 4 4)) fun base =>
       ∃ ws : List RegW, (c.wb = 1 → ws.map (·.tgt) = [.s p.d.toNat, .s (p.d + 1).toNat]) ∧
         exec (.rowsel c p) s = .next (inOp n true 5 (.tapReq (.rowsel base (((sight n 0 s).uni 0).setWidth 16)) ws) id s)) ∧
    (let n := p.ins Rows.rowRset c
     let g := sight n 0 s
     Described n {} s (exec (.rset c p) s) (handleOf n s (p.d.extractLsb' 0 4)) fun base =>
       exec (.rset c p) s = .next (inOp n true 5 (.tapReq (.rset base (g.uni 2 ++ g.uni 1) ((g.uni 0).setWidth 32)) []) id s)) ∧
    (let n := p.ins Rows.rowTapget c
     Described n { bad := p.mod.extractLsb' 0 2 == (3 : BitVec 2) } s (exec (.tapget c p) s) (handleOf n s (p.s2.extractLsb' 4 4)) fun base =>
       ∃ ws : List RegW, (c.wb = 1 → p.d.toNat < 0xF8 → ws.map (·.tgt) = [.s p.d.toNat]) ∧
         exec (.tapget c p) s = .next
           (inOp n true 5 (.tapReq (.tapget base (p.mod.extractLsb' 0 2).toNat ((sight n 0 s).uni 0).toNat) ws) id s)) ∧
    (∀ t k, s.cur = .grp t k →
     let n := p.ins Rows.rowWrd c
     Clear n { bad := (s.handlerOf s.cur).isNone } s → ∃ ws : List RegW,
       exec (.wrd c p) s = .next (inOp n false 8 (.record p.d.toNat ws)
         (fun u => u.mapTeam t fun x => { x with readers := x.readers ++ [k] }) s) ∧
       (c.wb = 1 → ws.map (·.tgt) = (List.range 8).map fun i => .v (((noted n 0 s).thr s.cur).pos (p.d.toNat + i)))) ∧
    (let n := p.ins Rows.rowWret c
     let mode := uni32 n s 0
     let th := (noted n 0 s).thr s.cur
     Clear n { bad := (s.handlerOf s.cur).isNone } s →
       (2 < mode → refusedBy n s (exec (.wret c p) s) .illegal mode) ∧
       (mode ≤ 2 → th.recs = [] → exec (.wret c p) s = .next (illegalOf n 0 s)) ∧
       (mode ≤ 2 → th.recs ≠ [] → (storesLeft n s = true ∨ loadsLeft n s = true) → exec (.wret c p) s = .next (waits n (.wret mode) id s)) ∧
       (∀ r die cmd cls, mode ≤ 2 → th.recs.getLast? = some r → storesLeft n s = false → loadsLeft n s = false → s.handlerOf s.cur = some (die, cmd, cls) →
         exec (.wret c p) s = .next (passes n 0 (fun u =>
           flagNext n ((((u.mapDie die fun d => { d with tapView := d.tapView ++ (u.thr s.cur).released 5 }).mapThr s.cur
             (Thr.passFence 2 5)).mapThr s.cur fun th => { th with recs := th.recs.dropLast }).answer die r mode)) s))) ∧
    (let n := p.ins Rows.rowTlaunch c
     let u := noted n 0 s
     let va := ((sight n 0 s).uni 0).toNat % 2 ^ 52
     let read := u.readEntry { (s.who s.cur) with core := none } va (fun _ => [s.quadOf s.cur])
       fun e => if e.kind ≠ 0 ∨ 16 < e.gdx * e.gdy * e.gdz then some n.word0.toNat else none
     Clear n {} s →
       (∀ x v, read = .error (.cause x v) → exec (.tlaunch c p) s = .next (deliver n u
         [{ cause := x, lmask := (sight n 0 s).act, tval := BitVec.ofNat 64 v }])) ∧
       (∀ pte, read = .error (.absent pte) → pte ∉ (u.thr s.cur).stErr →
         exec (.tlaunch c p) s = .next ((u.storageFault s.cur [pte]).mapThr s.cur fun th => { th with stErr := [] })) ∧
       (∀ pte, read = .error (.absent pte) → pte ∈ (u.thr s.cur).stErr → exec (.tlaunch c p) s = .next (deliver n u
         [{ cause := .storageErr, lmask := (sight n 0 s).act, tval := (sight n 0 s).uni 0 }])) ∧
       (∀ e hargs, read = .ok (e, hargs) → ∃ ws, exec (.tlaunch c p) s =
         .next ((inOp n false 8 (.launch e hargs ws) id s).mapThr s.cur fun th => { th with stErr := [] }))) ∧
    (let n := p.ins Rows.rowQpush c
     let u := noted n 0 s
     let mask : BitVec 16 := ((sight n 0 s).uni 0).setWidth 16
     let v : BitVec 32 := ((sight n 0 s).uni 1).setWidth 32
     let x := u.quad (s.quadOf s.cur)
     let named := x.queues.filter fun y => mask.getLsbD y.1
     let closed : Prop := ∃ y ∈ named, y.1 ∈ x.closed
     let full : Prop := ∃ y ∈ named, (u.team y.2).uqOpen = true ∧ 64 ≤ (u.team y.2).uq.length
     Clear n {} s →
       (closed → refusedBy n s (exec (.qpush c p) s) .illegal mask.toNat) ∧
       (¬closed → (storesLeft n s = true ∨ loadsLeft n s = true ∨ full) → exec (.qpush c p) s = .next (waits n (.qpush mask v) id s)) ∧
       (∀ q, s.cur = .ctl q → ¬closed → storesLeft n s = false → loadsLeft n s = false → ¬full → ∃ e : State → State,
         exec (.qpush c p) s = .next (passes n 0 (fun u => flagNext n (e u)) s) ∧ SameBytes u (e u) ∧
         (∀ y ∈ named, (named.filter (·.2 == y.2)).length = 1 → ((e u).team y.2).uq = if (u.team y.2).uqOpen then (u.team y.2).uq ++ [v] else (u.team y.2).uq) ∧
         ∀ t, (∀ y ∈ named, y.2 ≠ t) → (e u).team t = u.team t)) ∧
    (let n := p.ins Rows.rowQclose c
     let u := noted n 0 s
     let mask : BitVec 16 := ((sight n 0 s).uni 0).setWidth 16
     let x := u.quad (s.quadOf s.cur)
     let named := x.queues.filter fun y => mask.getLsbD y.1
     Clear n {} s →
       ((∃ y ∈ named, y.1 ∈ x.closed) → refusedBy n s (exec (.qclose c p) s) .illegal mask.toNat) ∧
       ((∀ y ∈ named, y.1 ∉ x.closed) → ∃ e : State → State,
         exec (.qclose c p) s = .next (passes n 0 (fun u => flagNext n (e u)) s) ∧ SameBytes u (e u) ∧
         (∀ y ∈ named, ((e u).team y.2).uqOpen = false ∧ ((e u).team y.2).uq = (u.team y.2).uq) ∧
         ((e u).quad (s.quadOf s.cur)).closed = x.closed ++ named.map (·.1)))

/-- R244, R245, R249 to R253, R262, R263: what the tap engine does with the item at the head of its FIFO: it accepts a command or fails
it with TAPFAULT, marks its row, queues records to a handler team, writes the log, and settles a row's fate. DEDUCED: the offset 0x80
for a descriptor that cannot be read (log entry 41), a row's elements as acceptance reads them (log entry 42), a new team where that of
the class has retired and the EXTENT of h0 (log entry 43), what an acceptance waits for (log entry 44). An engine that the partition
does not own serves nothing (the model's choice, log entry 36). -/
def Obligations.TheTapEngineServesTheItemAtItsHead : Prop :=
  (∀ (s : State) (w : Who) (b : List Byte), s.tapCheck w b = .ok none →
    (∀ n < Td.f b * Td.d b / 16, s.isKb5 w (Td.wenc b + n / (s.wencPage w b / 12) * s.wencPage w b) = true) ∧ Td.hoff b % 8 = 0 ∧ Td.d b % 16 = 0 ∧ 16 ≤ Td.d b ∧ Td.d b ≤ 16384 ∧
    1 ≤ Td.f b ∧ Td.f b ≤ 2 ^ 20 ∧ 1 ≤ Td.k b ∧ Td.k b ≤ 64 ∧ 1 ≤ Td.nrows b ∧ Td.nrows b ≤ 128 ∧ Td.d b ≤ Td.rpitch b ∧
    4 ≤ Td.rtlog b ∧ Td.rtlog b ≤ 20 ∧ Td.act b + 2 * Td.nrows b * Td.rpitch b ≤ 2 ^ 52) ∧
  (∀ (k : Nat) (pres : List (BitVec 64)), (∀ x ∈ pres, (Fp.decode Fp.f32 x).isNan = false ∧ x.toNat < 2 ^ 32) →
    let positive (x : BitVec 64) : Prop := (Fp.compare Fp.f32 4 x 0).1 = true
    let beats (i j : Nat) : Prop := (Fp.compare Fp.f32 4 (pres.getD i 0) (pres.getD j 0)).1 = true ∨ (pres.getD i 0 = pres.getD j 0 ∧ i < j)
    (topK k pres).length ≤ k ∧
    (∀ f x, (f, x) ∈ topK k pres → f < pres.length ∧ x = pres.getD f 0 ∧ positive x) ∧
    (∀ f g, f < pres.length → positive (pres.getD f 0) → f ∉ (topK k pres).map (·.1) → g ∈ (topK k pres).map (·.1) → beats g f) ∧
    (∀ f, f < pres.length → positive (pres.getD f 0) → f ∉ (topK k pres).map (·.1) → (topK k pres).length = k)) ∧
  (∀ (s : State) (die : Nat) (rest : List TapItem) (c : TapCmd) (desc : Nat) (mask : BitVec 128) (n : Nat) (o : VOp),
    AtHead s die (.command c desc mask n) rest → Tapping s c o → (s.thr c.a).tapWaits n = false →
    let w := s.tapWho die c.launch
    let failed (v : Nat) : Prop := ∃ t, exec (.tapCommandServe die) s = .next t ∧ SameBytes s t ∧ (t.die die).items = rest ∧
      (t.thr c.a).ops = (s.thr c.a).ops.map fun x => match x.kind with
        | .engine j _ => if j = c.id then { x with kind := .fail Cause.tapfault.rank (BitVec.ofNat 64 v) } else x
        | _ => x
    (∀ x v, s.tapRead w desc 128 = .error (.cause x v) → failed 0x80) ∧
    (∀ b v, s.tapRead w desc 128 = .ok b → s.tapCheck w b = .ok (some v) → failed v) ∧
    (∀ b, s.tapRead w desc 128 = .ok b → s.tapCheck w b = .ok none → (∀ r < Td.nrows b, mask.getLsbD r = false) →
      ∃ t, exec (.tapCommandServe die) s = .next t ∧ SameBytes s t ∧ (t.die die).items = rest ∧
        (∀ f, o.flag = some f → (t.thr c.a).busy.getLsbD f = false) ∧ (t.thr c.a).ops.all (fun x => x.seq != o.seq) = true) ∧
    (∀ b r x v xs s1, s.tapRead w desc 128 = .ok b → s.tapCheck w b = .ok none → r < Td.nrows b →
      (∀ i < Td.nrows b, mask.getLsbD i = decide (i = r)) → s.tapNat w (Td.stateVa b r) 4 = .ok x → (rowSt x = 0 ∨ rowSt x = 2) →
      s.tapNat w (Td.rset b + 2 * r) 2 = .ok v → s.tapHalves w (Td.rowVa b r) (Td.d b) = .ok xs →
      s.tapWrite w (Td.stateVa b r) (leBytes 4 ((if v = 0 then x else x - 65536 * rowSt x + 65536) - x % 65536 + Td.tapid b)) = .ok s1 →
      ∃ t, exec (.tapCommandServe die) s = .next t ∧ t.mem = s1.mem ∧
        (v ≠ 0 → (t.die die).items = .watched c.id [r] :: rest ∧ (t.thr c.a).busy = (s.thr c.a).busy) ∧
        (v = 0 → (t.die die).items = rest ++ [.encode c.id r] ∧ ∀ f, o.flag = some f → (t.thr c.a).busy.getLsbD f = false))) ∧
  (∀ (s : State) (die : Nat) (rest : List TapItem) (c : TapCmd) (cls : Nat) (r : Rec) (more : List (Nat × Rec))
      (close : Bool), AtHead s die (.push c.id ((cls, r) :: more) close) rest → s.tapCmd die c.id = some c →
    let tail := (if more = [] then [] else [TapItem.push c.id more close]) ++ rest
    let ends : Bool := close && more.isEmpty
    (∀ k, (c.teams.find? fun t => t.1 == cls && (s.team t.2).stage != .retired) = some (cls, k) →
      ((s.team k).recs.length < 256 → ∃ t, exec (.tapCommandServe die) s = .next t ∧ SameBytes s t ∧
        (t.team k).recs = (s.team k).recs ++ [r] ∧
        (ends = false → (t.die die).items = tail ∧ ∀ j, j ≠ k → t.team j = s.team j) ∧
        (ends = true → (t.die die).items = rest ++ ((c.rows.filter fun x => x.rs = 0 ∧ x.copy.isSome).map fun x => .encode c.id x.row) ∧
          ∀ o f, Tapping s c o → o.flag = some f → (t.thr c.a).busy.getLsbD f = false)) ∧
      (256 ≤ (s.team k).recs.length → ∃ t, exec (.tapCommandServe die) s = .next t ∧ SameBytes s t ∧ (t.die die).items = (s.die die).items ∧
        t.teams = s.teams)) ∧
    ((c.teams.find? fun t => t.1 == cls && (s.team t.2).stage != .retired) = none → Td.hoff c.desc % 8 = 0 → ends = false →
      ∃ t, exec (.tapCommandServe die) s = .next t ∧ SameBytes s t ∧ (t.die die).items = tail ∧ t.nTeams = s.nTeams + 1 ∧
        let x := t.team s.nTeams
        x.recs = [r] ∧ x.cls = cls ∧ x.quad = some (s.quadOf c.a) ∧ x.stage = .waiting ∧ x.ntags = 8 ∧ x.scrLen = 0 ∧ x.rgq = 0 ∧
        x.groups.length = Td.hgrp c.desc + 1 ∧
        ∀ y ∈ x.groups, y.2.pcv = List.replicate 32 (BitVec.ofNat 48 (Td.hcode c.desc + Td.hoff c.desc)) ∧
          y.2.chunks = Td.hbase c.desc + 1 ∧ y.2.level = c.level ∧ y.2.seg 2 = c.sg2 ∧ y.2.seg 3 = c.sg3 ∧
          y.2.hreg 0 = ⟨Hd.make (Td.act c.desc) 0 0 (Td.nrows c.desc * Td.rpitch c.desc) 2 0, false, false⟩)) ∧
  (∀ (s : State) (die id r mode : Nat) (rest : List TapItem) (c : TapCmd), AtHead s die (.fate id r mode) rest →
    s.tapCmd die id = some c → (mode = 0 ∨ mode = 2) →
    let w := s.tapWho die c.launch
    ((c.held.any fun e => e.row == r) = false → ∃ t, exec (.rowFate die) s = .next t ∧ SameBytes s t ∧ (t.die die).items = rest) ∧
    ((c.held.any fun e => e.row == r) = true → ∀ x s1, s.tapNat w (Td.stateVa c.desc r) 4 = .ok x →
      s.tapWrite w (Td.stateVa c.desc r) (leBytes 4 (x - 65536 * rowSt x + 65536 * (if mode = 0 then 2 else 3))) = .ok s1 →
      ∃ t, exec (.rowFate die) s = .next t ∧ t.mem = s1.mem ∧ (t.die die).items = rest)) ∧
  (∀ (s : State) (die id r : Nat) (rest : List TapItem) (c : TapCmd) (xs : List (BitVec 16)) (e : Encoded) (s1 s2 : State),
    AtHead s die (.fate id r 1) rest → s.tapCmd die id = some c → (c.held.any fun e => e.row == r) = true →
    let w := s.tapWho die c.launch
    s.tapHalves w (Td.rowVa c.desc r) (Td.d c.desc) = .ok xs → s.encodeRow w c.id c.desc r (c.rowOf r).rs xs = .ok e →
    (match e.row with | some bs => s.tapWrite w (Td.rowVa c.desc r) bs | none => .ok s) = .ok s1 → s1.appendLog w c.desc e.logs = .ok s2 →
    (e.recs = [] → ∀ x s3, s2.tapNat w (Td.stateVa c.desc r) 4 = .ok x →
      s2.tapWrite w (Td.stateVa c.desc r) (leBytes 4 (x - 65536 * rowSt x + 65536 * 2)) = .ok s3 →
      ∃ t, exec (.rowFate die) s = .next t ∧ t.mem = s3.mem ∧ (t.die die).items = rest) ∧
    (e.recs ≠ [] → ∃ t, exec (.rowFate die) s = .next t ∧ t.mem = s2.mem ∧ (t.die die).items = .push c.id e.recs false :: rest)) ∧
  (∀ (s : State) (die id r : Nat) (rest : List TapItem) (c : TapCmd) (xs : List (BitVec 16)) (e : Encoded) (s1 : State),
    AtHead s die (.encode id r) rest → s.tapCmd die id = some c → (c.rowOf r).copy = some xs →
    let w := s.tapWho die c.launch
    s.encodeRow w c.id c.desc r 0 xs = .ok e → s.appendLog w c.desc e.logs = .ok s1 →
    e.row = none ∧ ∃ t, exec (.backgroundEncode die) s = .next t ∧ t.mem = s1.mem ∧ (t.die die).items = rest ∧ t.teams = s1.teams) ∧
  (∀ (s : State) (w : Who) (b : List Byte) (e : List Byte) (pa pos : Nat), 0 < Td.logcap b → e.length = 16 → w.core = none →
    RunAt s w devWrite (Td.log b) (16 + 16 * Td.logcap b) pa →
    s.tapNat w (Td.log b) 8 = .ok pos → pos + 1 < 2 ^ 64 → ∃ t, s.appendLog w b [e] = .ok t ∧
      ∀ A, Memory.byte t.mem A =
        if pa ≤ A ∧ A < pa + 8 then byteOfVal (BitVec.ofNat 64 (pos + 1)) (A - pa)
        else if pa + 16 + 16 * (pos % Td.logcap b) ≤ A ∧ A < pa + 32 + 16 * (pos % Td.logcap b) then
          e.getD (A - (pa + 16 + 16 * (pos % Td.logcap b))) 0
        else Memory.byte s.mem A)

/-! ## Special registers and system instructions -/

namespace Sys2Proof.Claims

open Sys2Proof Sys2Proof.Machine Sys2Proof.Safety

/-- The least level that reads special register k, where Table 22.4 lists it. -/
def readLevel (k : Nat) : Option Nat :=
  if 0x01 ≤ k ∧ k ≤ 0x18 then some 0
  else if k = 0x40 ∨ k = 0x41 ∨ k = 0x45 ∨ k = 0x46 ∨ (0x48 ≤ k ∧ k ≤ 0x4F) then some 1
  else if k = 0x42 ∨ k = 0x43 ∨ k = 0x44 then some 2 else none

/-- The least level that swr needs for special register k, where it may write it (Table 22.4). -/
def writeLevel (k : Nat) : Option Nat :=
  if k = 0x0B ∨ k = 0x0C ∨ k = 0x0F then some 0 else if k = 0x43 ∨ k = 0x44 then some 2 else none

/-- The value of special register k in lane l (Table 22.4), no float operation being in flight. -/
def registerValue (u : State) (a : Agent) (k l : Nat) : BitVec 64 :=
  let th := u.thr a
  let e := (u.launch (u.launchOf a)).e
  let pt := u.part (u.partOf a)
  let group : Nat := match a with | .grp _ g => g | .ctl _ => 0
  let team : Nat := match a with | .grp t _ => (u.team t).teamid | .ctl _ => 0
  let nat (x : Nat) : BitVec 64 := BitVec.ofNat 64 x
  let either (x y : Nat) : BitVec 64 := nat (if th.scalar then y else x)
  if k = 0x01 then either group 0
  else if k = 0x02 then either (team % 2 ^ 32) 0
  else if k = 0x03 then either (u.coreNo a % 160) 0xFFFFFFFF
  else if k = 0x04 then nat (u.quadOf a % 40)
  else if k = 0x05 then nat (u.quadOf a / 40)
  else if k = 0x06 then Config.pkgid.setWidth 64
  else if k = 0x07 then nat u.clk
  else if k = 0x08 then (th.pcv.getD l exitedPc).setWidth 64
  else if k = 0x09 then (if th.scalar then 1 else th.present.setWidth 64)
  else if k = 0x0A then (u.tagBits a).1 &&& BitVec.ofNat 64 (2 ^ (u.tagBits a).2.2.1 - 1)
  else if k = 0x0B then th.fsr.setWidth 64
  else if k = 0x0C then th.wsr.setWidth 64
  else if k = 0x0D then th.cause.setWidth 64
  else if k = 0x0E then (th.pendBits.setWidth 64 <<< 32) ||| th.also.setWidth 64
  else if k = 0x0F then th.epc.setWidth 64
  else if k = 0x10 then th.tval
  else if k = 0x11 then th.lmask.setWidth 64
  else if k = 0x12 then either (team % e.gdx) 0
  else if k = 0x13 then either (team / e.gdx % e.gdy) 0
  else if k = 0x14 then either (team / e.gdx / e.gdy) 0
  else if k = 0x15 then either e.gdx 1
  else if k = 0x16 then either e.gdy 1
  else if k = 0x17 then either e.gdz 1
  else if k = 0x18 then nat e.args
  else if k = 0x40 then nat (u.qifOf a)
  else if k = 0x41 then nat (u.partOf a)
  else if k = 0x42 then nat pt.pool.length
  else if k = 0x43 then pt.mark.setWidth 64
  else if k = 0x44 then pt.tq.setWidth 64
  else if k = 0x45 then bit64 u.lsync
  else if k = 0x46 then nat th.level
  else (Sparse.get (0 : BitVec 128) (k - 0x48) (u.coreOf (u.coreNo a)).cmps).setWidth 64

end Sys2Proof.Claims

/-- R350 to R352: srd gives the register of Table 22.4 with tag U, or G for pcv; swr writes fsr, wsr, epc, fpwm or tq; a level
too low takes PRIV, and a number that is not listed, or that swr may not write, ILLEGAL, with the present lanes in lmask
(DEDUCED, log entry 10). R23, R373, R374: counters, logs and statistics read as they stand at their least level and above, and
as zero below it. What a trace records is not given (log entry 73). -/
def Obligations.SpecialRegistersAndCountersAreReadAtTheirLevels : Prop :=
  (∀ (c : Ctl) (p : PayA) (s : State),
    let k := p.s1.toNat
    (∀ L, readLevel k = some L →
      let n := p.ins Rows.rowSrd c
      (Clear n { lvl := some L } s → (k = 0x0B → ((noted n 0 s).thr s.cur).ops = []) →
        exec (.srd c p) s = .next (fixedNext n 0
          { vals := lanewise (sight n 0 s) fun l => registerValue (noted n 0 s) s.cur k l, tag := if k = 0x08 then .G else .U } s)) ∧
      (((landed s).thr s.cur).ra = none → modeBad n {} ((landed s).thr s.cur).scalar = false → ((landed s).thr s.cur).level < L →
        exec (.srd c p) s = .next (deliver n (landed s) [{ cause := .priv, lmask := ((landed s).thr s.cur).present, tval := n.word0 }]))) ∧
    (readLevel k = none →
      let n := p.ins Rows.rowSrd c
      let th := (landed s).thr s.cur
      th.ra = none → modeBad n {} th.scalar = false →
        exec (.srd c p) s = .next (deliver n (if th.level = 0 ∧ 0x40 ≤ k then landed s else noted n 0 s)
          [{ cause := if th.level = 0 ∧ 0x40 ≤ k then .priv else .illegal, lmask := th.present, tval := n.word0 }])) ∧
    (let n := p.ins Rows.rowSwr c
     let v := (sight n 0 s).uni 0
     let w : BitVec 32 := v.setWidth 32
     let writes (e : State → State) : Prop := exec (.swr c p) s = .next (passes n 0 (fun u => flagNext n (e u)) s)
     (∀ L, writeLevel k = some L → Clear n { lvl := some L } s →
       (k = 0x0B → writes fun u => u.mapThr s.cur fun th => { th with fsr := w &&& 0x1F1F }) ∧
       (k = 0x0C → writes fun u => u.mapThr s.cur fun th => { th with wsr := w &&& 0x3FFE }) ∧
       (k = 0x0F → (s.thr s.cur).handler = true → writes fun u => u.mapThr s.cur fun th => { th with epc := v.setWidth 48 }) ∧
       (k = 0x0F → (s.thr s.cur).handler = false → exec (.swr c p) s = .next (illegalOf n 0 s)) ∧
       (k = 0x43 → writes fun u => u.mapPart (s.partOf s.cur) fun x => { x with mark := w }) ∧
       (k = 0x44 → 1 ≤ w.toNat → w.toNat ≤ 1000 → writes fun u => u.mapPart (s.partOf s.cur) fun x => { x with tq := w }) ∧
       (k = 0x44 → w.toNat = 0 ∨ 1000 < w.toNat → exec (.swr c p) s = .next (illegalOf n 0 s))) ∧
     (∀ L, writeLevel k = some L →
       let th := (landed s).thr s.cur
       th.ra = none → modeBad n {} th.scalar = false → th.level < L → exec (.swr c p) s =
         .next (deliver n (landed s) [{ cause := .priv, lmask := th.present, tval := n.word0 }])) ∧
     (∀ L, writeLevel k = none → readLevel k = some L →
       let th := (landed s).thr s.cur
       th.ra = none → modeBad n {} th.scalar = false →
         exec (.swr c p) s = .next (deliver n (if th.level < L then landed s else noted n 0 s)
           [{ cause := if th.level < L then .priv else .illegal, lmask := th.present, tval := n.word0 }])))) ∧
  (∀ (s : State) (r : Reader),
    (∀ q n, n < 9 → s.readCount r (.leaf q n) = if r.qif = q ∨ 2 ≤ r.level then Sparse.get 0 n (s.qif q).counts else 0) ∧
    (let above (c : CountSource) (x : Nat) : Prop := s.readCount r c = if 2 ≤ r.level then x else 0
     (∀ core part n, above (.tree core part n) (Sparse.get 0 (16 * part + n) (s.coreOf core).leaves)) ∧
     (∀ core part, above (.split core part) (Sparse.get 0 part (s.coreOf core).split)) ∧ (∀ n, above (.ecc n) (Sparse.get 0 n s.ecc)) ∧
     (∀ i, above (.kill i) (s.kills.getD i 0) ∧ above (.framepool i) (s.poolLog.getD i 0)) ∧
     (∀ n k, above (.sqe n k) (Sparse.get 0 (4 * n + k) s.sqeStats)) ∧ above .drive s.unsup) ∧
    (∀ p i, r.level < 2 ∨ ((s.part p).guarded = true ∧ (s.part p).traced = false) → s.readCount r (.pcTrace p i) = 0) ∧
    (∀ i, r.level < 3 → s.readCount r (.securityTrace i) = 0))

/-- R311, R353 to R358: segset, fpadd, pgev, tlbi and dbgset have the effects of their entries or take the cause that their checks
name; pgev clears RES, waits for the accesses to the frame it found, and gives its status. DEDUCED: tlbi drops entries at its issue,
and a write-back fails by free choice (log entry 49); freed frames join the end of the pool (log entry 62). The bytes of the leaf are
stated where the tables are not encrypted (log entry 78). -/
def Obligations.SystemInstructionsActAsTheirEntriesSay : Prop :=
  (∀ (c : Ctl) (p : PayA) (s : State),
    (∀ t g, s.cur = .grp t g →
     let n := p.ins Rows.rowSegset c
     let k := (p.d.extractLsb' 0 2).toNat
     let sg := (sight n 0 s).uni 0
     let base := (sg.extractLsb' 0 32).toNat
     let lim := (sg.extractLsb' 32 32).toNat
     let x := s.team t
     let owned : Prop := (k = 0 → x.scrBase ≤ base ∧ base + 32 * lim ≤ x.scrBase + x.scrLen) ∧
       (k = 1 → x.scrBase ≤ base ∧ base + lim ≤ x.scrBase + x.scrLen) ∧
       (k = 2 → base + lim ≤ 4 * (s.quad (s.quadOf s.cur)).quadPart) ∧
       (k = 3 → s.dieSpaceOk (s.partOf s.cur) (s.dieOf s.cur) sg = true)
     Clear n {} s →
       (owned → exec (.segset c p) s = .next (passes n 0 (fun u =>
         flagNext n (u.mapThr s.cur fun th => { th with segs := Sparse.put k sg th.segs })) s)) ∧
       (¬owned → refusedBy n s (exec (.segset c p) s) .perm 0)) ∧
    (let n := p.ins Rows.rowFpadd c
     let u := noted n 0 s
     let addr := ((sight n 0 s).uni 0).toNat
     let m := uni32 n s 1
     let free (o f : Nat) : Prop := (u.frame f).owner = some o ∧ (u.frame f).maps = 0 ∧ (u.frame f).pooled = false
     Clear n {} s →
       ((m = 0 ∨ 65536 < m) → exec (.fpadd c p) s = .next (illegalOf n 0 s)) ∧
       (1 ≤ m → m ≤ 65536 → addr % 65536 ≠ 0 ∨ (u.frame (addr / 65536)).owner = none → refusedBy n s (exec (.fpadd c p) s) .perm addr) ∧
       (∀ o i, 1 ≤ m → m ≤ 65536 → addr % 65536 = 0 → (u.frame (addr / 65536)).owner = some o → i < m →
         ¬free o (addr / 65536 + i) → (∀ j < i, free o (addr / 65536 + j)) →
         refusedBy n s (exec (.fpadd c p) s) .perm (65536 * (addr / 65536 + i))) ∧
       (∀ o, 1 ≤ m → m ≤ 65536 → addr % 65536 = 0 → (∀ i < m, free o (addr / 65536 + i)) → ∃ e : State → State,
         exec (.fpadd c p) s = .next (passes n 0 (fun u => flagNext n (e u)) s) ∧ SameBytes u (e u) ∧
         ((e u).part o).pool = (u.part o).pool ++ (List.range m).map (addr / 65536 + ·) ∧
         ∀ f, ((e u).frame f).pooled = ((u.frame f).pooled || decide (addr / 65536 ≤ f ∧ f < addr / 65536 + m)))) ∧
    (let n := p.ins Rows.rowPgev c
     let u := noted n 0 s
     let va := ((sight n 0 s).uni 0).toNat
     let part := s.partOf s.cur
     let status (x : BitVec 32) : Prop := ∃ t, exec (.pgev c p) s = .next t ∧ SameBytes s t ∧
       (n.wb false = true → (s.thr s.cur).scalar = false → ∀ l < 32, (sight n 0 s).act.getLsbD l = true →
         lane32 ((t.thr s.cur).vreg ((u.thr s.cur).pos p.d.toNat)).v l = x)
     Clear n {} s →
       (2 ^ 52 ≤ va → status 1) ∧ (va < 2 ^ 52 → u.walk (s.qifOf s.cur) va = .none → status 1) ∧
       (∀ l pte, va < 2 ^ 52 → u.walk (s.qifOf s.cur) va = .leaf l pte → Leaf.cls l ≠ 2 → status 1) ∧
       (∀ l pte, va < 2 ^ 52 → u.walk (s.qifOf s.cur) va = .leaf l pte → Leaf.cls l = 2 → Leaf.res l = true → u.leafAt part pte = l →
         Leaf.v l = true → s.hostLost .mem pte = false → (u.dies.any fun d => d.2.fills.any fun f => f.pte == pte) = false →
         ∃ t ops ws, exec (.pgev c p) s = .next t ∧ (t.thr s.cur).wait = some ⟨.evict va pte (some l) ops ws, n.len, n.flag⟩ ∧
           (t.thr s.cur).pcv = (u.thr s.cur).pcv ∧
           ((u.part part).guarded = false →
             ∀ A, Memory.byte t.mem A = if A = pte then Memory.byte s.mem A &&& 0xBF else Memory.byte s.mem A) ∧
           (∀ d ∈ t.dies, ∀ e ∈ d.2.tlb, e.pa ≠ pte) ∧ (∀ x ∈ t.cores, ∀ e ∈ x.2.tlb, e.pa ≠ pte))) ∧
    (let drops (n : Ins) (out : Out) (hit : TlbEnt → Prop) (mine : Nat → Bool) : Prop :=
       Clear n {} s → ∃ e : State → State,
         let u := noted n 0 s
         let left := (e u).inFlight fun b o => mine (u.qifOf b) && o.kind.elems.any fun x => x.sp = .mem
         SameBytes u (e u) ∧ (e u).teams = u.teams ∧ (e u).quads = u.quads ∧
         (∀ d ∈ (e u).dies, ∀ x ∈ d.2.tlb, ¬hit x) ∧ (∀ d ∈ (e u).cores, ∀ x ∈ d.2.tlb, ¬hit x) ∧
         (left = [] → out = .next (passes n 0 (fun u => flagNext n (e u)) s)) ∧
         (left ≠ [] → out = .next (waits n (.drain left) e s))
     let n := p.ins Rows.rowTlbi c
     let q := uni32 n s 1
     drops n (exec (.tlbiPage c p) s) (fun x => x.qif = q ∧ x.page = ((sight n 0 s).uni 0).toNat / 2 ^ pageBits x.ps) (· == q) ∧
     drops n (exec (.tlbiInterface c p) s) (fun x => x.qif = q) (· == q) ∧
     drops n (exec (.tlbiAll c p) s) (fun _ => True) (fun _ => true) ∧
     (∀ w w1, Decode.instr w w1 = .error (.tlbiKind c p) → p.tlbiKind = 3 ∧ wordsAt w w1 = .code n .badKind) ∧
     (let th := (landed s).thr s.cur
      th.ra = none → modeBad n {} th.scalar = false → 2 ≤ th.level →
        s.issueBad n .badKind = deliver n (noted n 0 s) [{ cause := .illegal, lmask := th.present, tval := n.word0 }])) ∧
    (let n := p.ins Rows.rowDbgset c
     let k := uni32 n s 0
     let pc := (sight n 0 s).uni 1
     let w := (sight n 0 s).uni 2
     let foreign : Prop := w.getLsbD 12 = true ∨ (w.extractLsb' 0 12).toNat ≠ s.qifOf s.cur
     Clear n {} s →
       (7 < k → (2 ≤ (s.thr s.cur).level ∨ ¬foreign) → exec (.dbgset c p) s = .next (illegalOf n 0 s)) ∧
       ((s.thr s.cur).level < 2 → foreign → exec (.dbgset c p) s = .next (deliver n (noted n 0 s)
         [{ cause := .priv, lmask := (sight n 0 s).act, tval := n.word0 }])) ∧
       (k ≤ 7 → (2 ≤ (s.thr s.cur).level ∨ ¬foreign) → exec (.dbgset c p) s = .next (passes n 0 (fun u =>
         flagNext n (u.mapCore (s.coreNo s.cur) fun x => { x with cmps := Sparse.put k ((w &&& 0xFFFF3FFF) ++ (pc &&& 0xFFFFFFFFFFFF)) x.cmps })) s)))) ∧
  (∀ (s : State) (a : Agent) (w : Wait) (va pte : Nat) (l : BitVec 128) (ops : List (Agent × Nat)) (ws : List RegW),
    let u := s.mapThr a (Thr.landDue s.clk)
    let part := u.partOf a
    let x := u.extentOf part (Leaf.xref l)
    let found : Prop := u.leafAt part pte = l &&& ~~~(0x40 : BitVec 128)
    let freed (t : State) : Prop := (t.part part).pool = (u.part part).pool ++ [Leaf.frame l]
    (u.thr a).wait = some w → w.hold = .evict va pte (some l) ops ws → u.standing a = true → s.hostLost .mem pte = false →
    ((u.landed ops = false → exec (.blockingOpComplete a) s = .next u) ∧
     (u.landed ops = true → ∃ t, exec (.blockingOpComplete a) s = .next t ∧ (t.thr a).wait = none ∧
       (Leaf.d l = false ∨ x.ro = true → SameBytes s t ∧ freed t) ∧
       (Leaf.d l = true → x.ro = false →
         (t.mem = s.mem ∧ freed t ∧
           (x.skey = 0 → Leaf.key l = 0 → ∀ i < 65536, Memory.byte t.drive (driveByte x (Leaf.pidx l) + i) =
             Memory.byte s.mem (65536 * Leaf.frame l + i))) ∨
         (t.drive = s.drive ∧ (¬found → t.mem = s.mem ∧ freed t) ∧ (found → (t.part part).pool = (u.part part).pool ∧
           ((u.part part).guarded = false →
             ∀ A, Memory.byte t.mem A = if A = pte then (l.setWidth 8 ||| 0x40 : Byte) else Memory.byte s.mem A)))))))

/-! ## The device's own steps: groups, cores, storage -/

/-- R22, R24, R27, R57, R215 to R220, R331: what passing a header, the end of a group and of its team, the release of a latch pin, the
entry, the limit and the end of runahead, and the expiry of cached copies do. tval at a header with HDL set is log entry 24, that
a group's end returns its extended chunks log entry 48, what registers outside the checkpoint hold at Thaw log entry 60, and that
a team's end waits for the pages its partition's Harvest engine still drains log entry 77. -/
def Obligations.GroupsPassHeadersEndAndRunAheadAsTheirRulesSay : Prop :=
  (∀ (s : State) (w : Nat),
    let a := s.cur
    let th := s.thr a
    let pc := th.issueAddr
    s.standing a = true → th.wait = none → th.ra = none → s.headerBit a pc.toNat = true → s.fetchNat a pc.toNat 8 = .ok w →
      (s.headerBad a pc.toNat w = false → ∃ t, exec .headerPass s = .next t ∧ SameBytes s t ∧
        let h := t.thr a
        h.latches = List.replicate 4 Latch.invalid ∧ h.live = BitVec.ofNat 16 (w / 2 ^ 36) ∧
        (∃ b, h.blocks.getLast? = some b ∧ b.addr = pc ∧ b.len = w / 2 ^ 52 % 4096 ∧ b.live = h.live ∧ b.ra = Hdr.ra w ∧ b.wrote = []) ∧ h.regs = th.regs ∧ h.preds = th.preds ∧ h.hs = th.hs ∧
        h.wsr = (if w / 8 % 256 = 0 then th.wsr else th.wsr ||| 0x200) ∧
        h.pcv = (List.range th.pcv.length).map fun l =>
          if th.present.getLsbD l then th.pcv.getD l exitedPc + 8 else th.pcv.getD l exitedPc) ∧
      ((w / 2 ^ 52 % 4096 = 0 ∨ (w.testBit 2 = true ∧ th.handler = false)) → th.handler = false → s.trapEntry a ≠ 0 →
        ∃ t, exec .headerPass s = .next t ∧ SameBytes s t ∧
          let h := t.thr a
          h.handler = true ∧ h.cause = Cause.illegal.code.setWidth 32 ∧ h.epc = pc ∧ h.tval = pc.setWidth 64 ∧ h.lmask = th.present)) ∧
  (∀ (s : State) (k g : Nat), (s.team k).groups.any (·.1 == g) = true →
    let th := s.thr (.grp k g)
    th.ended = false → th.alive = 0 → th.ops = [] →
      ∃ t, exec (.groupEnd (.grp k g)) s = .next t ∧ SameBytes s t ∧ (t.thr (.grp k g)).ended = true ∧
        (t.thr (.grp k g)).chunks = th.baseChunks ∧ (t.thr (.grp k g)).pend = [] ∧ ∀ j, j ≠ k → t.team j = s.team j) ∧
  (∀ (s : State) (q : Nat), (s.quad q).prog.isSome = true → (s.quad q).ctl.ended = false → (s.quad q).ctl.alive = 0 → (s.quad q).ctl.ops = [] →
    ∃ t, exec (.groupEnd (.ctl q)) s = .next t ∧ SameBytes s t ∧ (t.quad q).prog = none ∧ (t.quad q).ctl.ended = true) ∧
  (∀ (s : State) (k : Nat),
    let x := s.team k
    x.stage = .resident → (∀ g ∈ x.groups, g.2.ended = true) → (∀ c ∈ s.cmds, ∀ j g, c.a = .grp j g → j ≠ k) →
      (∀ die cmd cls, (s.launch x.launch).src ≠ .tap die cmd cls) → (∀ y ∈ s.dies, ∀ e ∈ y.2.drains, e.part ≠ (s.launch x.launch).part) →
      ∃ t, exec (.teamRetire k) s = .next t ∧ t.mem = s.mem ∧ t.dsp = s.dsp ∧ t.drive = s.drive ∧ (t.team k).stage = .retired ∧
        (∀ A, A < x.core * 524288 + x.scrBase ∨ x.core * 524288 + x.scrBase + x.scrLen ≤ A → Memory.byte t.scr A = Memory.byte s.scr A) ∧
        (t.coreOf x.core).free = (s.coreOf x.core).free + x.registers ∧ (∀ j, j ≠ k → t.team j = s.team j) ∧
        ∀ q y, x.producer = some q → y ∈ (t.quad q).queues → y.2 ≠ k) ∧
  (∀ (s : State) (a : Agent),
    let th := s.thr a
    (64 ≤ th.pinned → th.pinOther = true → ∀ c, th.chain = some c →
      ∃ t, exec (.latchPinRelease a) s = .next t ∧ SameBytes s t ∧
        let h := t.thr a
        h.latches = List.replicate 4 Latch.invalid ∧ h.chain = none ∧ h.pinned = 0 ∧ h.handler = th.handler ∧
        h.pcv = (List.range th.pcv.length).map (fun l => if th.present.getLsbD l then c.head else th.pcv.getD l exitedPc) ∧
        (∀ w p, c.undo = [w] → w.tgt = .v p → w.dead = 0 → ∀ l < 32, w.mask.getLsbD l = true →
          lane32 (h.vreg p).v l = (lane64 w.v l).setWidth 32)) ∧
    ((th.pinned < 64 ∨ th.pinOther = false) → exec (.latchPinRelease a) s = .next s)) ∧
  (∀ (s : State) (a : Agent) (n : Ins) (x : Code),
    let u := s.mapThr a (Thr.landDue s.clk)
    let th := u.thr a
    u.insAt a = some (n, x) → u.entersRunahead a n = true →
      ∃ t c, exec (.runaheadEntry a) s = .next t ∧ SameBytes s t ∧ (t.thr a).ra = some c ∧ c.pcv = th.pcv ∧ c.preds = th.preds ∧
        c.need = Sys2Proof.Machine.Ins.needs n ∧ (t.thr a).pcv = th.pcv ∧ (t.thr a).busy = th.busy ∧ (t.thr a).latches = List.replicate 4 Latch.invalid ∧
        (∀ y ∈ c.regs, y.2 = th.vreg y.1) ∧
        (∀ b, th.block = some b → ∀ p < 248, p / 16 < th.chunks → (b.live.getLsbD (p / 16) = true ∨ ∃ y ∈ b.wrote, y / 16 = p / 16) → p ∈ c.regs.map (·.1)) ∧
        (∀ o ∈ th.ops, ∀ w ∈ o.kind.results, ∀ p, w.tgt = .v p → ((t.thr a).vreg p).frost = BitVec.allOnes 32) ∧
        ∀ p l, lane32 ((t.thr a).vreg p).v l = lane32 (th.vreg p).v l) ∧
  (∀ (s : State) (a : Agent) (c : Ckpt), (s.thr a).ra = some c →
    (512 ≤ c.count → ∃ t, exec (.runaheadLimit a) s = .next t ∧ SameBytes s t ∧ (t.thr a).ra = some { c with ended := true } ∧
      (t.thr a).regs = (s.thr a).regs) ∧
    (c.count < 512 → exec (.runaheadLimit a) s = .next s) ∧
    ((s.thr a).busy &&& c.need = 0 → ∃ t, exec (.thaw a) s = .next t ∧ SameBytes s t ∧
      let h := t.thr a
      h.ra = none ∧ h.pcv = c.pcv ∧ h.preds = c.preds ∧ h.latches = List.replicate 4 Latch.invalid ∧ h.busy = (s.thr a).busy ∧
      (∀ y ∈ c.regs, (∀ z ∈ c.regs, z.1 = y.1 → z = y) → h.vreg y.1 = { y.2 with frost := 0 }) ∧ (∀ y ∈ h.hs, y.2.frost = false) ∧ (∀ p, (h.vreg p).frost = 0))) ∧
  (∀ (s : State) (core : Nat), ∃ t, exec (.cacheCopyExpiry core) s = .next t ∧ SameBytes s t ∧ t.teams = s.teams ∧
    (t.coreOf core).copies = (s.coreOf core).copies.filter (fun x => decide (s.clk < x.fill + 65536)) ∧
    (t.quad (core / 4)).fib = (s.quad (core / 4)).fib.filter (fun x => decide (s.clk < x.fill + 65536)))

/-- R276, R279 to R281, R286 to R289, R312 to R315, R342: placement takes the fitting core with most free registers; a thief takes
half; Equinox and Solstice saves hold groups; a drained team leaves its core; a deadlock has one victim. What a save keeps and
what its Dawn finds again is log entry 48. -/
def Obligations.TeamsArePlacedStolenSavedAndSwapped : Prop :=
  (∀ (s : State) (x : Team) (c : Nat), s.bestCore x = some c → s.fits x c = true ∧ c < 640 ∧
    ∀ b < 640, s.fits x b = true → (s.coreOf b).free < (s.coreOf c).free ∨ ((s.coreOf b).free = (s.coreOf c).free ∧ c ≤ b)) ∧
  (∀ (s : State) (d k c : Nat) (r : List Nat), s.candidates d = k :: r → (s.team k).stage = .waiting → k < s.nTeams →
    s.bestCore (s.team k) = some c → (s.die d).placed ≠ s.clk + 1 →
    ∃ t, exec (.distributorPlace d) s = .next t ∧ t.mem = s.mem ∧ (t.team k).stage = .resident ∧ (t.team k).core = c ∧
      (t.coreOf c).free = (s.coreOf c).free - (s.team k).registers ∧ ∀ b, b ≠ c → t.coreOf b = s.coreOf b) ∧
  (∀ (s : State) (d v k : Nat),
    let l := s.launch k
    let has (x : Nat) : List Nat := Sparse.get [] x l.chunks
    l.live = true → l.failed = false → d ∈ s.diesOf l.part → v ∈ s.diesOf l.part → v ≠ d → has d = [] → 2 ≤ (has v).length →
      (∀ x ∈ s.diesOf l.part, x ≠ d → x ≠ v → (has x).length < (has v).length) →
      ∃ t, exec (.stealRequest d k) s = .next t ∧ t.teams = s.teams ∧ SameBytes s t ∧
        Sparse.get [] d (t.launch k).chunks = (has v).take (((has v).length + 1) / 2) ∧
        Sparse.get [] v (t.launch k).chunks = (has v).drop (((has v).length + 1) / 2) ∧
        ∀ x, x ≠ d → x ≠ v → Sparse.get [] x (t.launch k).chunks = has x) ∧
  (∀ (s : State) (k g : Nat),
    let th := s.thr (.grp k g)
    s.teamRuns k = true → (∃ d, (s.team k).preempt = some d ∧ s.clk < d) → th.ra = none → th.equinox = true → th.busy = 0 → th.ops = [] → th.ended = false → th.saved = 0 →
      ∃ t, exec (.equinoxStop (.grp k g)) s = .next t ∧ SameBytes s t ∧ (t.thr (.grp k g)).saved = 1 ∧ (t.thr (.grp k g)).pcv = th.pcv ∧
        t.standing (.grp k g) = false) ∧
  (∀ (s : State) (k d : Nat), (s.team k).preempt = some d → d ≤ s.clk → s.teamRuns k = true →
    ∃ t, exec (.solsticeSave k) s = .next t ∧ SameBytes s t ∧
      ∀ g ∈ (s.team k).groups, (∀ z ∈ (s.team k).groups, z.1 = g.1 → z = g) → g.2.ended = false → (t.thr (.grp k g.1)).saved = if g.2.saved = 0 ∧ g.2.ops = [] then 2 else g.2.saved) ∧
  (∀ (s : State) (q k : Nat),
    let x := s.quad q
    x.prog = some k → x.preempt = true → x.ctl.ended = false → x.ctl.ops = [] → x.ctl.pend = [] → x.ctl.chain = none → x.ctl.ra = none →
      x.mmaInFlight q s.clk = none →
      ∃ t th, exec (.controlCoreSave q) s = .next t ∧ SameBytes s t ∧ (t.quad q).prog = none ∧ (t.quad q).preempt = false ∧
        (t.quad q).spare = some (k, th) ∧ th.fsr = x.ctl.fsr ∧ th.wsr = x.ctl.wsr ∧ th.hs = x.ctl.hs ∧ th.segs = x.ctl.segs ∧
        th.handler = x.ctl.handler ∧ (t.quad q).queues = x.queues ∧ (t.quad q).closed = x.closed) ∧
  (∀ (s : State) (k r : Nat),
    let x := s.team k
    x.stage = .draining r → s.teamDead x = false → (∀ g ∈ x.groups, g.2.ended = true ∨ g.2.ops = []) →
      (∀ c ∈ s.cmds, ∀ j g, c.a = .grp j g → j ≠ k) →
      ∃ t, exec (.swapOut k) s = .next t ∧ SameBytes s t ∧ (t.team k).stage = .saved r ∧
        (t.coreOf x.core).free = (s.coreOf x.core).free + x.registers ∧ (t.team k).waits = x.waits ∧ (t.team k).bars = x.bars ∧
        (t.team k).uq = x.uq ∧ (t.team k).ready = x.ready ∧ (t.team k).err = x.err ∧ (t.team k).bins = x.bins ∧
        (t.team k).scratch.map (·.2) = Memory.read s.scr (x.core * 524288 + x.scrBase) x.scrLen ∧ ∀ j, j ≠ k → t.team j = s.team j) ∧
  (∀ (s : State) (core v : Nat), 64 ≤ (s.coreOf core).stuck → (s.coreOf core).busyWith = none → s.deadlocked core = true →
    (∃ y ∈ s.residents core, y.1 = v ∧ s.team v = y.2 ∧ y.2.stage = .resident ∧ ∀ z ∈ s.residents core, z ≠ y →
      z.2.cls < y.2.cls ∨ (z.2.cls = y.2.cls ∧ (z.2.order < y.2.order ∨ (z.2.order = y.2.order ∧ y.2.teamid < z.2.teamid)))) →
    ∃ t, exec (.registerDeadlock core) s = .next t ∧ SameBytes s t ∧ (t.team v).stage = .draining 2 ∧ (t.coreOf core).busyWith = some v)

/-- R305, R307, R309 to R311, R324: a fill takes a frame from the pool and publishes its page; a failed or timed-out read gives it
back; drive DMA outside a command is rejected; the Harvest engine frees a page whose accesses have ended. The pool as a queue
whose first frame is taken and whose freed frames join the end is log entry 62, the drive that bring-up has not yet brought to
answer log entry 5, and the tables a protected partition keeps under its own key (no byte of which is said here) log entry 78. -/
def Obligations.FillsPublishTheirPagesAndHarvestFreesThem : Prop :=
  (∀ (s : State) (die k : Nat) (f : Fill), (s.sqes.any fun x => x.1 == k) = false → s.nextFill die k = some f → s.evicting f.pte = false →
    ((s.part f.part).pool = [] → ∃ t, exec (.sqeFillRead die k) s = .next t ∧ SameBytes s t ∧ t.sqes = s.sqes ∧ f.pte ∈ t.poolLog) ∧
    (∀ frame rest, (s.part f.part).pool = frame :: rest → ∃ t, exec (.sqeFillRead die k) s = .next t ∧ SameBytes s t ∧
      (t.part f.part).pool = rest ∧ (t.part f.part).nextSqe = (s.part f.part).nextSqe + 1 ∧
      t.sqes = Sparse.put k ⟨die, f.pte, f.part, frame, s.clk⟩ s.sqes)) ∧
  (∀ (s : State) (k : Nat) (x : Sqe), s.sqes.find? (·.1 == k) = some (k, x) →
    let l := s.leafAt x.part x.pte
    let e := s.extentOf x.part (Leaf.xref l)
    let in_time : Prop := s.clk < x.since + 2000000 * s.power.clock
    let back (t : State) : Prop := SameBytes s t ∧ (t.sqes.any fun y => y.1 == k) = false ∧
      (t.part x.part).pool = (s.part x.part).pool ++ [x.frame] ∧ ((t.die x.die).fills.any fun f => f.pte == x.pte) = false ∧
      ∀ y ∈ t.teams, y.2.die = x.die → x.pte ∉ y.2.waits
    (in_time → Leaf.v l = true → Leaf.cls l = 2 → Leaf.res l = false → x.frame < 2 ^ 34 → s.hostLost .mem x.pte = false → s.driveUp x.part (Leaf.xref l) = true →
      ∃ t, exec (.fillComplete k) s = .next t ∧ t.scr = s.scr ∧ t.drive = s.drive ∧ (t.sqes.any fun y => y.1 == k) = false ∧
        (∀ y ∈ t.teams, y.2.die = x.die → x.pte ∉ y.2.waits) ∧
        ((s.part x.part).guarded = false → let m := t.leafAt x.part x.pte
         Leaf.res m = true ∧ Leaf.d m = false ∧ Leaf.frame m = x.frame ∧ Leaf.v m = true ∧ Leaf.cls m = 2 ∧ Leaf.key m = Leaf.key l ∧
         Leaf.fmt m = Leaf.fmt l ∧ Leaf.xref m = Leaf.xref l ∧ Leaf.pidx m = Leaf.pidx l) ∧
        ((s.part x.part).guarded = false → ∀ A, (A < x.pte ∨ x.pte + 16 ≤ A) → Memory.byte t.mem A =
          if e.skey = 0 ∧ Leaf.key l = 0 ∧ 65536 * x.frame ≤ A ∧ A < 65536 * x.frame + 65536 then
            Memory.byte s.drive (driveByte e (Leaf.pidx l) + (A - 65536 * x.frame))
          else if 65536 * x.frame ≤ A ∧ A < 65536 * x.frame + 65536 then Memory.byte t.mem A else Memory.byte s.mem A)) ∧
    (∃ t, exec (.fillReadFail k) s = .next t ∧ back t) ∧
    (¬in_time → ∃ t, exec (.nvmeReadTimeout k) s = .next t ∧ back t) ∧
    (in_time → exec (.nvmeReadTimeout k) s = .next s) ∧
    (in_time → Leaf.v l = true → Leaf.cls l = 2 → Leaf.res l = false → s.driveUp x.part (Leaf.xref l) = false → exec (.fillComplete k) s = .next s)) ∧
  (∀ (s : State) (port addr : Nat),
    ((∀ x ∈ s.sqes, x.2.frame ≠ addr / 65536 ∨ (s.extentOf x.2.part (Leaf.xref (s.leafAt x.2.part x.2.pte))).port.toNat ≠ port) →
      exec (.storageDmaReject port addr) s = .next { s with unsup := s.unsup + 1 }) ∧
    (∀ x ∈ s.sqes, x.2.frame = addr / 65536 → (s.extentOf x.2.part (Leaf.xref (s.leafAt x.2.part x.2.pte))).port.toNat = port →
      exec (.storageDmaReject port addr) s = .next s)) ∧
  (∀ (s : State) (die : Nat) (d : Drain) (l : BitVec 128) (pte m : Nat),
    d ∈ (s.die die).drains → d.done = some m →
    (∀ e ∈ (s.die die).drains, e ≠ d → ∀ k, e.done = some k → m < k ∨ (m = k ∧ d.page < e.page)) →
    (s.inFlight fun _ o => o.reaches (Leaf.frame l)) = [] → s.drainLeaf d = some (l, pte) → s.hostLost .mem pte = false →
      ∃ t, exec (.harvestFree die) s = .next t ∧
        ((s.part d.part).guarded = false → ∀ A, Memory.byte t.mem A = if A = pte then Memory.byte s.mem A &&& 0xFE else Memory.byte s.mem A) ∧
        (t.part d.part).pool = (s.part d.part).pool ++ [Leaf.frame l] ∧ d.page ∈ (t.region d.part d.region).harvested ∧
        d.page ∉ (t.region d.part d.region).draining ∧ (∀ y ∈ t.dies, ∀ e ∈ y.2.tlb, e.pa ≠ pte) ∧
        (∀ y ∈ t.cores, ∀ e ∈ y.2.tlb, e.pa ≠ pte) ∧ d ∉ (t.die die).drains)

/-! ## Chains, launches and programs -/

namespace Sys2Proof.Claims

open Sys2Proof Sys2Proof.Machine Sys2Proof.Safety

/-- An interface whose walker may go on: not in ERROR, not stopped by a kill, in RUN for a protected partition (R364,
R366, R372). -/
def Walks (s : State) (q : Nat) : Prop :=
  (s.qif q).tdi ≠ .error ∧ (s.part (s.qif q).part).stopped = false ∧
    ((s.part (s.qif q).part).guarded = true → (s.qif q).tdi = .run)

/-- An interface that takes a write of TAIL: one of the 4,096, after bring-up, in RUN for a protected partition and never in ERROR
(R364, R366, R378). -/
def TakesTail (s : State) (q : Nat) : Prop :=
  5 ≤ s.boot.stage ∧ q < 4096 ∧ (s.qif q).tdi ≠ .error ∧ ((s.part (s.qif q).part).guarded = true → (s.qif q).tdi = .run)

/-- The walker of interface q is at an entry with these bytes, and sees no order of an agent broken (R282, R328). -/
def AtEntry (s : State) (q : Nat) (bs : List Byte) : Prop :=
  (s.qif q).walking = true ∧ (s.qif q).head ≠ (s.qif q).tail ∧ (s.qif q).waitAt = none ∧ Walks s q ∧ s.shutOut .package = false ∧
    s.fetchBytes (s.walkerWho q) (s.qif q).head 64 = .ok bs

/-- `t` is `s` after the walker took the entry at its head, which it numbers, and moved its head to NEXT. -/
def Took (s t : State) (q : Nat) (bs : List Byte) : Prop :=
  (t.qif q).num = (s.qif q).num + 1 ∧ (t.qif q).head = wordBits bs 1 0 52 ∧ (t.qif q).tail = (s.qif q).tail ∧
    (t.qif q).walking = true ∧ t.teams = s.teams ∧ ∀ r, r ≠ q → t.qif r = s.qif r

/-- DONE is the largest n up to which every entry has finished, now that entry n has (Table 23.2). -/
def Done (s t : State) (q n : Nat) : Prop :=
  (s.qif q).done ≤ (t.qif q).done ∧ (t.qif q).done + 1 ∉ (s.qif q).fin ++ [n] ∧
    ∀ m, (s.qif q).done < m → m ≤ (t.qif q).done → m ∈ (s.qif q).fin ++ [n]

/-- The memory of `t` is that of `u` with the completion word of entry n at `at_`, where its address allows a write: SEQ n and
STATUS st. -/
def Written (u t : State) (q n at_ st : Nat) : Prop :=
  match u.writeVirt (u.walkerWho q) devWrite at_ (leBytes 8 (n % 2 ^ 48 + st % 256 * 2 ^ 48)) with
  | .ok v => t.mem = v.mem
  | .error _ => t.mem = u.mem

/-- The same, and the other stores are those of `u`. -/
def Word (u t : State) (q n at_ st : Nat) : Prop :=
  t.scr = u.scr ∧ t.dsp = u.dsp ∧ t.drive = u.drive ∧ Written u t q n at_ st

end Sys2Proof.Claims

/-- R25, R27, R110, R229, R231, R282 to R286, R364: the walker takes entries in order and numbers them; launches start teams or
queue a program; wait and signal entries finish when their conditions hold; a finished launch writes its word and DONE moves.
DEDUCED: a foreign quad ends in PERM, a completion word that cannot be written is lost (log entry 47), what bring-up lets through (log
entry 5). DESIGN CHOICE: the levels of launches (log entry 72). -/
def Obligations.ChainsAreWalkedAndLaunchesStartAndFinish : Prop :=
  (∀ (s : State) (q : Nat) (v : BitVec 64),
    (TakesTail s q → ∃ t, exec (.tail q v) s = .next t ∧ SameBytes s t ∧ (t.qif q).tail = v.toNat % 2 ^ 52 ∧ (t.qif q).walking = true ∧
      (t.qif q).head = (s.qif q).head ∧ (t.qif q).num = (s.qif q).num ∧ (t.qif q).done = (s.qif q).done ∧ ∀ r, r ≠ q → t.qif r = s.qif r) ∧
    (¬TakesTail s q → ∃ t, exec (.tail q v) s = .next t ∧ SameBytes s t ∧ t.qifs = s.qifs)) ∧
  (∀ (s : State) (q : Nat) (bs : List Byte), AtEntry s q bs →
    let x := s.qif q
    let n := x.num + 1
    let w := s.walkerWho q
    (wordBits bs 1 52 4 = 0 →
      let va := wordBits bs 2 0 52
      let qs (e : Entry) : List Nat := if e.kind = 1 then [e.quad] else s.quadsOf x.part
      (∀ c y, s.readEntry w va qs (fun _ => none) = .error (.cause c y) → ∃ t, exec (.chainLaunch q) s = .next t ∧ Took s t q bs ∧
        Word (s.pastHead q bs) t q n x.head c.code.toNat ∧ Done s t q n ∧ t.launches = s.launches) ∧
      (∀ e hargs, s.readEntry w va qs (fun _ => none) = .ok (e, hargs) →
        (e.kind = 0 → ∃ t, exec (.chainLaunch q) s = .next t ∧ Took s t q bs ∧ SameBytes s t ∧ t.nLaunch = s.nLaunch + 1 ∧
          (let l := t.launch s.nLaunch
           l.live = true ∧ l.part = x.part ∧ l.level = min 1 x.level ∧ l.e = e ∧ l.hargs = hargs ∧ l.src = .chain q n x.head ∧ l.failed = false ∧
           l.cause = none ∧ l.teams = [] ∧
           ∀ c d, s.quadsOf x.part ≠ [] →
             (c ∈ Sparse.get [] d l.chunks ↔ c < (e.gdx * e.gdy * e.gdz + 15) / 16 ∧ (s.diesOf x.part)[c % (s.diesOf x.part).length]? = some d))) ∧
        (e.kind = 1 → (s.part x.part).maps.quads.contains e.quad = false → ∃ t, exec (.chainLaunch q) s = .next t ∧ Took s t q bs ∧
          Word (s.pastHead q bs) t q n x.head Cause.perm.code.toNat ∧ Done s t q n ∧ t.launches = s.launches ∧ t.quads = s.quads) ∧
        (e.kind = 1 → (s.part x.part).maps.quads.contains e.quad = true → ∃ t pre post, exec (.chainLaunch q) s = .next t ∧ Took s t q bs ∧
          SameBytes s t ∧ (s.quad e.quad).queued = pre ++ post ∧ (t.quad e.quad).queued = pre ++ [s.nLaunch] ++ post ∧
          (∀ k ∈ pre, k < s.nLaunch → (s.launch k).clk < s.clk ∨ ((s.launch k).clk = s.clk ∧ (s.launch k).qif ≤ q)) ∧
          (∀ k, post.head? = some k → k < s.nLaunch → s.clk < (s.launch k).clk ∨ ((s.launch k).clk = s.clk ∧ q < (s.launch k).qif)) ∧
          (t.quad e.quad).prog = (s.quad e.quad).prog))) ∧
    (wordBits bs 1 52 4 = 1 → ∃ t, exec (.chainWait q) s = .next t ∧ SameBytes s t ∧ Took s t q bs ∧
      (t.qif q).waitAt = some (n, x.head, wordBits bs 3 0 64) ∧ (t.qif q).done = x.done) ∧
    (wordBits bs 1 52 4 = 2 → (∀ y ∈ x.signals, x.done + 1 < y.1) → ∃ t, exec (.chainSignal q) s = .next t ∧ SameBytes s t ∧ Took s t q bs ∧
      (t.qif q).signals = x.signals ++ [(n, x.head, wordBits bs 2 0 52, BitVec.ofNat 64 (wordBits bs 3 0 64))] ∧ (t.qif q).done = x.done) ∧
    (3 ≤ wordBits bs 1 52 4 → ∃ t, exec (.chainInvalidOp q) s = .next t ∧ Took s t q bs ∧ Word (s.pastHead q bs) t q n x.head Cause.illegal.code.toNat ∧
      Done s t q n ∧ t.launches = s.launches ∧ t.quads = s.quads)) ∧
  (∀ (s : State) (q n at_ arg : Nat), (s.qif q).waitAt = some (n, at_, arg) → Walks s q →
    (arg ≤ (s.qif q).done → ∃ t, exec (.waitEntryFinish q) s = .next t ∧ (t.qif q).waitAt = none ∧ Word (s.mapQif q fun x => { x with waitAt := none }) t q n at_ 0 ∧ Done s t q n) ∧
    ((s.qif q).done < arg → exec (.waitEntryFinish q) s = .next s)) ∧
  (∀ (s : State) (q n at_ va : Nat) (v : BitVec 64), Walks s q →
    (s.qif q).signals.find? (fun e => decide (e.1 ≤ (s.qif q).done + 1)) = some (n, at_, va, v) →
    (∀ u, s.writeVirt (s.walkerWho q) devWrite va (leBytes 8 v.toNat) = .ok u → ∃ t, exec (.chainSignal q) s = .next t ∧ Word (u.mapQif q fun x => { x with signals := x.signals.filter (·.1 != n) }) t q n at_ 0 ∧
      Done s t q n ∧ ∀ y ∈ (t.qif q).signals, y.1 ≠ n) ∧
    (∀ c y, s.writeVirt (s.walkerWho q) devWrite va (leBytes 8 v.toNat) = .error (.cause c, y) → ∃ t, exec (.chainSignal q) s = .next t ∧
      Word (s.mapQif q fun x => { x with signals := x.signals.filter (·.1 != n) }) t q n at_ c.code.toNat ∧ Done s t q n ∧ ∀ y ∈ (t.qif q).signals, y.1 ≠ n)) ∧
  (∀ (s : State) (k : Nat),
    let l := s.launch k
    let x := s.quad l.e.quad
    l.live = true →
    ((l.e.kind ≠ 1 ∧ (∀ y ∈ l.teams, (s.team y).stage = .retired) ∧ (l.failed = true ∨ ∀ c ∈ l.chunks, c.2 = [])) ∨
      (l.e.kind = 1 ∧ x.prog ≠ some k ∧ k ∉ x.queued ∧ ∀ y, x.spare = some y → y.1 ≠ k)) →
      ∃ t, exec (.launchFinish k) s = .next t ∧ (t.launch k).live = false ∧ t.teams = s.teams ∧ t.quads = s.quads ∧
        (∀ q n at_, l.src = .chain q n at_ → Done s t q n ∧
          (l.mute = false → Word (s.mapLaunch k fun x => { x with live := false }) t q n at_ (l.cause.getD 0).toNat) ∧ (l.mute = true → SameBytes s t)) ∧
        ((∀ q n at_, l.src ≠ .chain q n at_) → SameBytes s t)) ∧
  (∀ (s : State) (q k : Nat) (r : List Nat),
    let x := s.quad q
    x.queued = k :: r →
    (x.prog = none → x.halted = false → x.spare = none → (s.launch k).clk < s.clk → ∃ t, exec (.controlProgramStart q) s = .next t ∧ SameBytes s t ∧
      (t.quad q).prog = some k ∧ (t.quad q).queued = r ∧ (t.quad q).acc = x.acc ∧
      let th := (t.quad q).ctl
      let l := s.launch k
      th.scalar = true ∧ th.ended = false ∧ th.level = l.level ∧ th.pcv = [BitVec.ofNat 48 (l.e.code + 8 * l.e.entry)] ∧ th.handler = false ∧
      (∀ i < 64, th.sreg i = ⟨0, false⟩) ∧ th.fsr = l.e.fen.setWidth 32 <<< 8 ∧ th.seg 2 = l.e.sg2 ∧ th.seg 3 = l.e.sg3 ∧
      ∀ i < 16, (th.hreg i).v = l.hargs.getD i 0) ∧
    ((x.prog ≠ none ∨ x.halted = true ∨ x.spare ≠ none ∨ s.clk ≤ (s.launch k).clk) → exec (.controlProgramStart q) s = .next s)) ∧
  (∀ (s : State) (q : Nat),
    (∃ t, exec (.controlCoreRestart q) s = .next t ∧ SameBytes s t ∧ (t.quad q).halted = false ∧ (t.quad q).prog = (s.quad q).prog ∧
      ∀ p, p ≠ q → t.quad p = s.quad p) ∧
    (∀ k, (s.quad q).prog = some k → ∃ t, exec (.firmwareEndsProgram q) s = .next t ∧ SameBytes s t ∧ (t.quad q).queues = (s.quad q).queues ∧
      (∀ c, c ∈ (t.quad q).mq ↔ c ∈ (s.quad q).mq ∧ (c.a ≠ .ctl q ∨ (s.quad q).started s.freeCtr c = true)) ∧ (t.thr (.ctl q)).alive = 0 ∧ (t.quad q).acc = (s.quad q).acc ∧ (t.quad q).prog = (s.quad q).prog ∧
      ∀ y ∈ (s.quad q).queues, (t.team y.2).uq = (s.team y.2).uq ∧
        ((s.launch (s.team y.2).launch).src = .program q k → (t.team y.2).uqOpen = false))) ∧
  (∀ (s : State) (d : Nat), d < 4 → exec (.dieFirmwareReset d) s = .next { s with lsync := false }) ∧
  (∀ s : State, 4 ≤ s.boot.stage → exec .leaseClockResync s = .next { s with lsync := true, boot := { s.boot with diag := false } })

/-! ## Calls to firmware -/

namespace Sys2Proof.Claims

open Sys2Proof Sys2Proof.Machine Sys2Proof.Safety

/-- The calls of Table 23.3 with their codes and least call levels, and the codes that the table does not list. -/
def callOf : Instr → Option (CallHdr × Byte × Nat)
  | .map h _ => some (h, 0x01, 1)
  | .unmap h _ _ => some (h, 0x02, 1)
  | .region h _ => some (h, 0x03, 1)
  | .keynew h _ _ => if h.session = none then some (h, 0x04, 1) else none
  | .keydel h _ => some (h, 0x05, 1)
  | .preempt h _ _ => some (h, 0x06, 2)
  | .partConfig h _ => some (h, 0x07, 2)
  | .extent h _ _ _ => some (h, 0x08, 2)
  | .unknownCall h code => if code = 0 ∨ 8 < code.toNat then some (h, code, 0) else none
  | _ => none

/-- The call level of an interface and, for a protected partition, RUN admit a call (R364 to R366). -/
def Admitted (s : State) (q least : Nat) : Prop :=
  (least ≤ if q = 0 then 2 else (s.qif q).call) ∧ ((s.part (s.qif q).part).guarded = true → (s.qif q).tdi = .run)

/-- The first of the calls that have been rung is of interface q, of an earlier cycle, and has this code in byte 0 of its CALLREQ. -/
def Next (s : State) (q : Nat) (code : Byte) : Prop :=
  ∃ b rest, s.bells = b :: rest ∧ b.clk < s.clk ∧ b.qif = q ∧ b.req.headD 0 = code

/-- A call that firmware takes and that is admitted. -/
def Taken (s : State) (h : CallHdr) (code : Byte) (least : Nat) : Prop :=
  s.taken = none ∧ Next s h.qif code ∧ (s.qif h.qif).tdi ≠ .error ∧ Admitted s h.qif least

/-- The call of interface q has ended with a status. -/
def Status (t : State) (q : Nat) (st : BitVec 8) : Prop := (t.qif q).callst = st ∧ (t.qif q).busy = false ∧ t.taken = none

/-- The call that was rung first has ended with success. -/
def Served (s t : State) (q : Nat) : Prop := Status t q 0 ∧ t.bells = s.bells.tail

/-- Nothing has changed but what the call of interface q reports. -/
def Kept (s t : State) (q : Nat) : Prop :=
  SameBytes s t ∧ t.parts = s.parts ∧ t.frames = s.frames ∧ t.keys = s.keys ∧ t.teams = s.teams ∧ t.quads = s.quads ∧
    t.cores = s.cores ∧ t.dies = s.dies ∧ t.launches = s.launches ∧ (∀ r, r ≠ q → t.qif r = s.qif r) ∧
    (t.qif q).tdi = (s.qif q).tdi ∧ (t.qif q).head = (s.qif q).head ∧ (t.qif q).tail = (s.qif q).tail ∧ (t.qif q).part = (s.qif q).part

/-- The call that was rung first has ended with a status and nothing else has changed but the response. -/
def Answered (s t : State) (q : Nat) (st : BitVec 8) : Prop := Status t q st ∧ t.bells = s.bells.tail ∧ Kept s t q

/-- The checks of Table 20.5, by their order. -/
def Fails (s : State) (part : Nat) (a : MapArgs) : Nat → Prop
  | 1 => mapMalformed a = true
  | 2 => Leaf.bare a.leaf = false ∧
      ¬∃ r ∈ Config.regions, r.1 ≤ 65536 * Leaf.frame a.leaf ∧ 65536 * Leaf.frame a.leaf + 2 ^ pageBits (Leaf.ps a.leaf) ≤ r.2
  | 3 => Leaf.bare a.leaf = false ∧ ∃ f ∈ pageFrames (Leaf.ps a.leaf) (Leaf.frame a.leaf), (s.frame f).owner ≠ some part
  | 4 => Block.legal (Leaf.fmt a.leaf) (Leaf.geo a.leaf) = false
  | 5 => Leaf.cls a.leaf = 2 ∧
      let e := s.extentOf part (Leaf.xref a.leaf)
      Leaf.ps a.leaf ≠ 0 ∨ e.valid = false ∨ 65536 ≤ Leaf.xref a.leaf ∨ e.pages.toNat ≤ Leaf.pidx a.leaf ∨
        ¬(e.skey = 0 ↔ Leaf.key a.leaf = 0) ∨ (e.ro = true ∧ Leaf.w a.leaf = true)
  | 6 => Leaf.cls a.leaf = 3 ∧
      ((∃ f ∈ pageFrames (Leaf.ps a.leaf) (Leaf.xref a.leaf), (s.frame f).owner ≠ some part) ∨
        sameRegion (65536 * Leaf.frame a.leaf) (65536 * Leaf.xref a.leaf) (2 ^ pageBits (Leaf.ps a.leaf)) = false)
  | 7 => Leaf.key a.leaf ≠ 0 ∧ ¬∃ k ∈ s.keys, k.2.active = true ∧ k.2.id = Leaf.key a.leaf ∧ k.2.part = part
  | 8 => ∃ f ∈ Leaf.frames a.leaf, ∃ k, (s.frame f).key = some k ∧ k ≠ Leaf.key a.leaf
  | _ => False

/-- The accesses that firmware lets be performed before it reports a changed translation (R303). -/
def drains (s : State) (iface : Nat) : List (Agent × Nat) :=
  s.inFlight fun b o => s.qifOf b == iface && o.kind.elems.any fun e => e.sp = .mem

/-- After the entry at `pte` has changed: no TLB holds it, and the call ends, or waits for the accesses in flight. -/
def ShotDown (s t : State) (q iface pte : Nat) : Prop :=
  (∀ c ∈ t.cores, ∀ e ∈ c.2.tlb, e.pa ≠ pte) ∧ (∀ d ∈ t.dies, ∀ e ∈ d.2.tlb, e.pa ≠ pte) ∧ (drains s iface = [] → Served s t q) ∧
    (drains s iface ≠ [] → t.taken = some q ∧ t.bells = s.bells.tail ∧ (t.qif q).busy = (s.qif q).busy ∧ (t.qif q).drain = drains s iface)

/-- What REGION asks for is in order (R317). -/
def RegionOk (s : State) (a : RegionArgs) : Prop :=
  a.index < 4096 ∧ (s.region a.part a.index).live = false ∧ a.rbase % 65536 = 0 ∧ a.esh ≤ 12 ∧ a.hdie < 4 ∧ 1 ≤ a.pages ∧ a.pages ≤ 65535 ∧
    a.rbase + 65536 * a.pages ≤ 2 ^ 52 ∧ a.views.length ≤ 8 ∧ (∀ v ∈ a.views, v.1 ≤ v.2 ∧ v.2 ≤ a.pages * 65536 / 2 ^ a.esh) ∧
    ∀ j < a.pages, ∃ l pte, s.walk a.iface (a.rbase + 65536 * j) = .leaf l pte ∧ Leaf.cls l = 1 ∧ Leaf.ps l = 0 ∧ Leaf.fmt l = 0

/-- An interface's root is no node of its partition's tables before a PART_CONFIG, which makes it an empty one (R301). -/
def NewRoot (s : State) (a : PartArgs) (i : IfaceArgs) : Prop :=
  (s.part a.part).needsKey a = true ∨ ∀ n ∈ (s.part a.part).nodes, n.1 ≠ i.root

end Sys2Proof.Claims

/-- R275, R280, R301 to R303, R308, R317, R362 to R367: firmware takes one call at a time in the order of BELL, refuses below the level,
makes the checks of Table 20.5 in order, and applies a call in full or not at all. Statuses that the manual does not settle are log
entry 50's. DESIGN CHOICE: calls served whole in one step, interface 0 at call level 2, an event that carries the arguments, what
REGION, PART_CONFIG and PREEMPT check, partner frames in check 8, and KEYNEW in a session (log entry 51), the bitmaps (log entry 36) and
what PART_CONFIG brings (log entries 69, 72). The bytes of tables are said where the partition key does not encrypt them (log entry
78). -/
def Obligations.FirmwareServesTheCallsOfItsTable : Prop :=
  (∀ (s : State) (q : Nat),
    let x := s.qif q
    (5 ≤ s.boot.stage → q < 4096 → x.busy = false → x.tdi ≠ .error → ∃ t pre post, s.hostAct (.bell q) = .next t ∧ SameBytes s t ∧
      t.qif q = { x with busy := true } ∧ (∀ r, r ≠ q → t.qif r = s.qif r) ∧ s.bells = pre ++ post ∧
      t.bells = pre ++ [⟨s.clk, q, x.callreq⟩] ++ post ∧ (∀ b ∈ pre, ¬(s.clk < b.clk ∨ (s.clk = b.clk ∧ q < b.qif))) ∧
      ∀ b, post.head? = some b → s.clk < b.clk ∨ (s.clk = b.clk ∧ q < b.qif)) ∧
    ((s.boot.stage < 5 ∨ 4096 ≤ q ∨ x.busy = true ∨ x.tdi = .error) → ∃ t, s.hostAct (.bell q) = .next t ∧ SameBytes s t ∧ t.qifs = s.qifs ∧
      t.bells = s.bells) ∧
    (∀ off bs, 5 ≤ s.boot.stage → q < 4096 → off + bs.length ≤ 64 → x.callreq.length = 64 → ∃ t, s.hostAct (.callReq q off bs) = .next t ∧
      SameBytes s t ∧ t.bells = s.bells ∧ (∀ r, r ≠ q → t.qif r = s.qif r) ∧
      ∀ i < 64, (t.qif q).callreq.getD i 0 = if off ≤ i ∧ i < off + bs.length then bs.getD (i - off) 0 else x.callreq.getD i 0)) ∧
  (∀ (s : State) (i : Instr) (h : CallHdr) (code : Byte) (least : Nat), callOf i = some (h, code, least) →
    (s.taken = none → ¬Next s h.qif code → exec i s = .next s) ∧
    (s.taken = none → Next s h.qif code → (s.qif h.qif).tdi = .error →
      exec i s = .next ({ s with bells := s.bells.tail }.mapQif h.qif fun x => { x with busy := false })) ∧
    (s.taken = none → Next s h.qif code → (s.qif h.qif).tdi ≠ .error → ¬Admitted s h.qif least →
      ∃ t, exec i s = .next t ∧ Answered s t h.qif 0x0B) ∧
    (∀ q, s.taken = some q →
      ((∃ o ∈ (s.qif q).drain, ∃ y ∈ (s.thr o.1).ops, y.seq = o.2) → exec i s = .next s) ∧
      ((∀ o ∈ (s.qif q).drain, ∀ y ∈ (s.thr o.1).ops, y.seq ≠ o.2) → ∃ t, exec i s = .next t ∧ Status t q 0 ∧ t.bells = s.bells ∧ Kept s t q))) ∧
  (∀ (s : State) (h : CallHdr) (a : MapArgs), Taken s h 0x01 1 →
    let part := (s.qif a.iface).part
    let l := if Leaf.bare a.leaf then BitVec.ofNat 128 (a.leaf.toNat % 2 ^ 30 + a.leaf.toNat / 2 ^ 64 * 2 ^ 64) else a.leaf
    (s.mayChange h.qif part = false ∨ ((s.part part).guarded = true ∧ (Leaf.key a.leaf = 0 ∨ (s.part part).key = 0)) →
      ∃ t, exec (.map h a) s = .next t ∧ Answered s t h.qif 0x0B) ∧
    (s.mayChange h.qif part = true → ((s.part part).guarded = true → Leaf.key a.leaf ≠ 0 ∧ (s.part part).key ≠ 0) →
      (∀ i, Fails s part a i → (∀ j < i, ¬Fails s part a j) → ∃ t, exec (.map h a) s = .next t ∧ Answered s t h.qif (BitVec.ofNat 8 i)) ∧
      ((∀ i, ¬Fails s part a i) → ∀ u old pte, State.placeLeaf part a.va a.level l levels 0 (s.qif a.iface).root a.nodes { s with bells := s.bells.tail } = .ok u old pte →
        ∃ t, exec (.map h a) s = .next t ∧ t.mem = u.mem ∧
          ((s.part part).guarded = false → s.hostLost .mem pte = false → t.leafAt part pte = l) ∧ t.scr = s.scr ∧ t.drive = s.drive ∧
          (∀ f ∈ Leaf.frames l, (t.frame f).key = some (Leaf.key l)) ∧ t.teams = s.teams ∧ t.keys = s.keys ∧
          (Leaf.v old = true → ShotDown s t h.qif a.iface pte) ∧ (Leaf.v old = false → Served s t h.qif)))) ∧
  (∀ (s : State) (h : CallHdr) (iface va : Nat), Taken s h 0x02 1 →
    (s.mayChange h.qif (s.qif iface).part = false → ∃ t, exec (.unmap h iface va) s = .next t ∧ Answered s t h.qif 0x0B) ∧
    (s.mayChange h.qif (s.qif iface).part = true → 2 ^ 52 ≤ va → ∃ t, exec (.unmap h iface va) s = .next t ∧ Answered s t h.qif 0x01) ∧
    (s.mayChange h.qif (s.qif iface).part = true → va < 2 ^ 52 →
      (s.walk iface va = .none → ∃ t, exec (.unmap h iface va) s = .next t ∧ Answered s t h.qif 0) ∧
      (∀ l pte, s.walk iface va = .leaf l pte → ∃ t, exec (.unmap h iface va) s = .next t ∧ ShotDown s t h.qif iface pte ∧
        ((s.part (s.qif iface).part).guarded = false → s.hostLost .mem pte = false →
          ∀ A, Memory.byte t.mem A = if pte ≤ A ∧ A < pte + 16 then 0 else Memory.byte s.mem A) ∧ t.teams = s.teams ∧ t.scr = s.scr))) ∧
  (∀ (s : State) (h : CallHdr) (a : RegionArgs), Taken s h 0x03 1 →
    (s.mayChange h.qif a.part = false ∨ (s.qif a.iface).part ≠ a.part → ∃ t, exec (.region h a) s = .next t ∧ Answered s t h.qif 0x0B) ∧
    (s.mayChange h.qif a.part = true → (s.qif a.iface).part = a.part →
      (¬RegionOk s a → ∃ t, exec (.region h a) s = .next t ∧ Answered s t h.qif 0x01) ∧
      (RegionOk s a → a.views.length ≤ 1 → ∀ n, (a.views ≠ [] → s.freeSlot a.part = some n) → ∃ t, exec (.region h a) s = .next t ∧ Served s t h.qif ∧
        SameBytes s t ∧ t.region a.part a.index = ⟨true, a.rbase, a.views.length, a.hdie, a.esh, a.pages, a.ctree, a.iface, [], []⟩ ∧
        (∀ k, k ≠ a.index → t.region a.part k = s.region a.part k) ∧
        (∀ v, a.views = [v] → t.view a.part n = ⟨true, v.1, v.2, a.index, 0⟩) ∧
        ∀ m, (m ≠ n ∨ a.views = []) → t.view a.part m = s.view a.part m))) ∧
  (∀ (s : State) (h : CallHdr) (id : Nat) (key : BitVec 512),
    let slot (n : Nat) : KeySlot := Sparse.get KeySlot.free n s.keys
    let idle : Prop := ∀ k ∈ s.keys, k.2.active = true → k.2.id ≠ id
    (h.session = none → Taken s h 0x04 1 →
      let part := (s.qif h.qif).part
      ((s.part part).guarded = true → ∃ t, exec (.keynew h id key) s = .next t ∧ Answered s t h.qif 0x0B) ∧
      ((s.part part).guarded = false →
        ((id = 0 ∨ 4095 < id) → ∃ t, exec (.keynew h id key) s = .next t ∧ Answered s t h.qif 0x01) ∧
        (1 ≤ id → id ≤ 4095 →
          ((∀ n < 1024, (slot n).active = true) → ∃ t, exec (.keynew h id key) s = .next t ∧ Answered s t h.qif 0x09) ∧
          (∀ n < 1024, (slot n).active = false → (∀ m < n, (slot m).active = true) →
            (¬idle → ∃ t, exec (.keynew h id key) s = .next t ∧ Answered s t h.qif 0x0A) ∧
            (idle → ∃ t, exec (.keynew h id key) s = .next t ∧ Served s t h.qif ∧ SameBytes s t ∧ t.parts = s.parts ∧ t.frames = s.frames ∧
              Sparse.get KeySlot.free n t.keys = ⟨true, id, part, Config.unwrap 0 key⟩ ∧
              ∀ m, m ≠ n → Sparse.get KeySlot.free m t.keys = slot m))))) ∧
    (∀ n, h.session = some n →
      let reply (bs : List Byte) : State := { s with response := bs, unread := true }
      (s.doeOpen = false ∨ s.taken ≠ none → exec (.keynew h id key) s = .next s) ∧
      (s.doeOpen = true → s.taken = none →
        (s.unread = true → exec (.keynew h id key) s = .next (reply [0x7F, 0x03])) ∧
        (s.unread = false →
          ((∀ x ∈ s.sessions, x.id = n → x.ready = false) → exec (.keynew h id key) s = .next (reply [0x7F, 0x04])) ∧
          (∀ x, s.sessions.find? (fun x => x.id == n && x.ready) = some x →
            (x.part = none → exec (.keynew h id key) s = .next (reply [0x7E, 0x0B])) ∧
            (∀ p, x.part = some p →
              ((id = 0 ∨ 4095 < id) → exec (.keynew h id key) s = .next (reply [0x7E, 0x01])) ∧
              (1 ≤ id → id ≤ 4095 →
                ((∀ m < 1024, (slot m).active = true) → exec (.keynew h id key) s = .next (reply [0x7E, 0x09])) ∧
                (∀ m < 1024, (slot m).active = false → (∀ j < m, (slot j).active = true) →
                  (¬idle → exec (.keynew h id key) s = .next (reply [0x7E, 0x0A])) ∧
                  (idle → exec (.keynew h id key) s =
                    .next { reply [0x7E, 0x00] with keys := Sparse.put m ⟨true, id, p, Config.unwrap x.key key⟩ s.keys }))))))))) ∧
  (∀ (s : State) (h : CallHdr) (id : Nat), Taken s h 0x05 1 →
    ((∀ k ∈ s.keys, k.2.active = true → k.2.id = id → s.mayChange h.qif k.2.part = false) →
      ∃ t, exec (.keydel h id) s = .next t ∧ Answered s t h.qif 0x07) ∧
    (∀ n k, s.keys.find? (fun y => y.2.active && y.2.id == id && s.mayChange h.qif y.2.part) = some (n, k) →
      ((∃ f ∈ s.frames, f.2.key = some id) → ∃ t, exec (.keydel h id) s = .next t ∧ Answered s t h.qif 0x0A) ∧
      ((∀ f ∈ s.frames, f.2.key ≠ some id) → ∃ t, exec (.keydel h id) s = .next t ∧ Served s t h.qif ∧ SameBytes s t ∧
        Sparse.get KeySlot.free n t.keys = ⟨false, 0, 0, 0⟩ ∧
        ∀ m, m ≠ n → Sparse.get KeySlot.free m t.keys = Sparse.get KeySlot.free m s.keys))) ∧
  (∀ (s : State) (h : CallHdr) (cores ctls : List Nat), Taken s h 0x06 2 →
    ((∃ c ∈ cores, 640 ≤ c) ∨ (∃ q ∈ ctls, 160 ≤ q) → ∃ t, exec (.preempt h cores ctls) s = .next t ∧ Answered s t h.qif 0x01) ∧
    ((∀ c ∈ cores, c < 640) → (∀ q ∈ ctls, q < 160) → ∃ t, exec (.preempt h cores ctls) s = .next t ∧ Served s t h.qif ∧ SameBytes s t ∧
      (∀ k x, (k, x) ∈ s.teams → s.team k = x → x.stage = .resident → x.core ∈ cores →
        (t.team k).preempt = some (x.preempt.getD (s.clk + (s.part (s.launch x.launch).part).tq.toNat * s.power.clock)) ∧
        ((∀ g ∈ x.groups, g.2.ra = none) → (t.team k).groups = x.groups) ∧ (∀ g ∈ x.groups, (t.thr (.grp k g.1)).ra = none) ∧
        (t.team k).stage = .resident) ∧
      (∀ q ∈ ctls, (s.quad q).prog ≠ none → (t.quad q).preempt = true) ∧ (∀ q, q ∉ ctls → t.quad q = s.quad q) ∧
      (∀ c ∈ cores, ∀ p, s.quadOwner (c / 4) = some p → c ∈ (t.part p).vacated) ∧
      (∀ k d, (t.launch k).live = true → (∃ e < 4, t.keepsCore (t.launch k).part e = true) → t.keepsCore (t.launch k).part d = false →
        d < 4 → Sparse.get [] d (t.launch k).chunks = []))) ∧
  (∀ (s : State) (h : CallHdr) (a : PartArgs), Taken s h 0x07 2 →
    (s.partArgsOk a = false → ∃ t, exec (.partConfig h a) s = .next t ∧ Answered s t h.qif 0x01) ∧
    (s.partArgsOk a = true → (a.frames.map (·.1)).Nodup → (a.ifaces.map (·.qif)).Nodup →
      ∃ t, exec (.partConfig h a) s = .next t ∧ Served s t h.qif ∧ t.scr = s.scr ∧ t.dsp = s.dsp ∧ t.drive = s.drive ∧
      (∀ A, (∀ i ∈ a.ifaces, NewRoot s a i → A < i.root ∨ i.root + 131072 ≤ A) → Memory.byte t.mem A = Memory.byte s.mem A) ∧
      (a.guarded = false → ∀ i ∈ a.ifaces, NewRoot s a i → ∀ A, i.root ≤ A → A < i.root + 131072 → Memory.byte t.mem A = 0) ∧
      (let p := t.part a.part
       let o := s.part a.part
       p.live = true ∧ p.guarded = a.guarded ∧ p.maps = a.maps ∧ p.useShared = a.useShared ∧ p.tq = BitVec.ofNat 32 a.tq ∧ p.stopped = false ∧
       p.savePools = a.savePools ∧ ((a.members.map (·.1)).Nodup → ∀ m ∈ a.members, Sparse.get [] m.1 p.members = m.2) ∧
       p.extents = o.extents ∧ p.regions = o.regions ∧ p.views = o.views) ∧
      (∀ p, p ≠ a.part → t.part p = s.part p) ∧ ((a.quadParts.map (·.1)).Nodup → ∀ b ∈ a.quadParts, (t.quad b.1).quadPart = b.2) ∧
      (∀ r,
        let was := s.qif r
        let touched : Prop := was.part = a.part ∨ ∃ i ∈ a.ifaces, (s.qif i.qif).part = was.part
        let loose : Prop := a.guarded = false ∧ ∃ i ∈ a.ifaces, i.qif = r
        (loose → (t.qif r).tdi = .unlocked) ∧
        (touched → was.tdi = .locked ∨ was.tdi = .run → (t.qif r).walking = false ∧ (¬loose → (t.qif r).tdi = .error)) ∧
        (¬touched ∨ was.tdi = .unlocked ∨ was.tdi = .error → ¬loose → (t.qif r).tdi = was.tdi)) ∧
      (∀ i ∈ a.ifaces, (t.qif i.qif).pasid = i.pasid ∧ (t.qif i.qif).part = i.part ∧ (t.qif i.qif).call = i.call ∧
        (t.qif i.qif).level = i.level ∧ (t.qif i.qif).root = i.root ∧
        (∀ c ∈ t.cores, ∀ e ∈ c.2.tlb, e.qif ≠ i.qif) ∧ ∀ d ∈ t.dies, ∀ e ∈ d.2.tlb, e.qif ≠ i.qif) ∧
      (∀ f, (f, true) ∈ a.frames → (t.frame f).owner = some a.part) ∧
      (∀ f, (f, false) ∈ a.frames → (t.frame f).owner ≠ some a.part ∧ ((s.frame f).owner = some a.part → f ∉ (t.part a.part).pool)))) ∧
  (∀ (s : State) (h : CallHdr) (part index : Nat) (e : ExtentArgs), Taken s h 0x08 2 →
    ((64 ≤ part ∨ 65536 ≤ index) → ∃ t, exec (.extent h part index e) s = .next t ∧ Answered s t h.qif 0x01) ∧
    (part < 64 → index < 65536 → ∃ t, exec (.extent h part index e) s = .next t ∧ Served s t h.qif ∧ SameBytes s t ∧ t.frames = s.frames ∧
      t.extentOf part index = e ∧ ∀ p k, p ≠ part ∨ k ≠ index → t.extentOf p k = s.extentOf p k)) ∧
  (∀ (s : State) (h : CallHdr) (code : BitVec 8), Taken s h code 0 → code = 0 ∨ 8 < code.toNat →
    ∃ t, exec (.unknownCall h code) s = .next t ∧ Answered s t h.qif 0x0C)

/-! ## The security processor and the module -/

namespace Sys2Proof.Claims

open Sys2Proof Sys2Proof.Machine Sys2Proof.Safety

/-- A session that FINISH has completed. -/
def Secured (s : State) (r : SpdmReq) : Prop := ∃ y ∈ s.sessions, some y.id = r.session ∧ y.ready = true

/-- Outside every session, or inside one that FINISH has completed. -/
def InOrder (s : State) (r : SpdmReq) : Prop := r.session = none ∨ Secured s r

/-- The requests of Table 23.5 and of R366, and when each is allowed. -/
def requestOf (s : State) : Instr → Option (SpdmReq × Prop)
  | .getVersion r => some (r, InOrder s r)
  | .getCapabilities r => some (r, InOrder s r ∧ s.spdm = .version)
  | .negotiateAlgorithms r => some (r, InOrder s r ∧ s.spdm = .capabilities)
  | .getDigests r => some (r, InOrder s r ∧ s.spdm = .algorithms)
  | .getCertificate r => some (r, InOrder s r ∧ s.spdm = .algorithms)
  | .challenge r _ => some (r, InOrder s r ∧ s.spdm = .algorithms)
  | .getMeasurements r _ _ => some (r, InOrder s r ∧ s.spdm = .algorithms)
  | .keyExchange r _ => some (r, InOrder s r ∧ s.spdm = .algorithms)
  | .finish r => some (r, ∃ y ∈ s.sessions, some y.id = r.session ∧ y.ready = false)
  | .endSession r => some (r, Secured s r)
  | .getTdispVersion r _ => some (r, Secured s r)
  | .getTdispCapabilities r _ => some (r, Secured s r)
  | .lockInterfaceRequest r _ => some (r, Secured s r)
  | .getDeviceInterfaceReport r _ => some (r, Secured s r)
  | .getDeviceInterfaceState r _ => some (r, Secured s r)
  | .startInterfaceRequest r _ => some (r, Secured s r)
  | .stopInterfaceRequest r _ => some (r, Secured s r)
  | _ => none

/-- A request that no error of R368 answers. -/
def Heard (s : State) (i : Instr) : Prop :=
  ∃ r p, requestOf s i = some (r, p) ∧ s.doeOpen = true ∧ (s.unread = true → r.read = true) ∧ r.version = 0x13 ∧ p ∧ r.good = true

/-- The response of the mailbox, with the machine otherwise as before but for the connection, sessions and interfaces. -/
def Replied (s t : State) (bs : List Byte) : Prop :=
  t.response = bs ∧ t.unread = true ∧ SameBytes s t ∧ t.teams = s.teams ∧ t.quads = s.quads ∧ t.parts = s.parts ∧ t.keys = s.keys ∧
    t.frames = s.frames ∧ t.launches = s.launches ∧ t.measure = s.measure

/-- The same, with connection, sessions and interfaces as before too. -/
def Unmoved (s t : State) (bs : List Byte) : Prop := Replied s t bs ∧ t.spdm = s.spdm ∧ t.sessions = s.sessions ∧ t.qifs = s.qifs

/-- The bytes of a digest. -/
def digest (x : BitVec 256) : List Byte := bytes256 x

/-- The certificate chain of slot 0 and the 16 measurement registers. -/
def chainOf (s : State) : List Byte := Config.certificate (Sparse.get 0 1 s.measure) (Sparse.get 0 2 s.measure)

/-- The 16 measurement registers, each in a DMTF block: index, SHA-256 of 32 bytes, type. (PRESUMED, log entry 52.) -/
def registers (s : State) : List Byte :=
  let types : List Byte := [0, 1, 2, 5, 1, 1, 1, 1, 1, 1, 1, 1, 3, 1, 1, 4]
  (List.range 16).flatMap fun i =>
    [BitVec.ofNat 8 (i + 1), 0x01, 0x23, 0x00, types.getD i 0, 0x20, 0x00] ++ digest (Sparse.get 0 (i + 1) s.measure)

/-- What NEGOTIATE_ALGORITHMS is answered with. (PRESUMED, log entry 52.) -/
def agreed : List Byte :=
  [0x01, 0x02, 0, 0, 0, 0x10, 0, 0, 0, 0x01, 0, 0, 0, 0x02, 0x20, 0x08, 0, 0x03, 0x20, 0x02, 0, 0x05, 0x20, 0x01, 0]

/-- A signature of the device, whose leaf key is that of registers 1 and 2, and one over a nonce and data. -/
def signatureOf (s : State) (bs : List Byte) : List Byte :=
  bytes512 (Config.signature (Sparse.get 0 1 s.measure) (Sparse.get 0 2 s.measure) bs)
@[inherit_doc signatureOf]
def signedOver (s : State) (nonce : BitVec 256) (bs : List Byte) : List Byte := signatureOf s (digest nonce ++ bs)

/-- A live protected partition. -/
def Protected (s : State) (p : Nat) : Prop := ∃ x ∈ s.parts, x.1 = p ∧ x.2.live = true ∧ x.2.guarded = true

/-- No group or program of partition p is left, and none of its launches is live. -/
def Stopped (s t : State) (p : Nat) : Prop :=
  (∀ k x, (k, x) ∈ s.teams → s.team k = x → (s.launch x.launch).part = p → x.stage ≠ .absent → (t.team k).stage = .retired) ∧
    (∀ q k, (s.quad q).prog = some k → (s.launch k).part = p → (t.quad q).prog = none) ∧
    ∀ k, (s.launch k).part = p → (t.launch k).live = false ∨ s.launch k = Launch.absent

/-- Every byte of a core's scratchpad is kept but in the allotments of teams of the partitions `ps`, which leave (R27). -/
def KeepsScratch (s t : State) (ps : Nat → Prop) : Prop :=
  ∀ A, (∀ k x y, (k, x) ∈ s.teams → (k, y) ∈ s.teams → ps (s.launch y.launch).part →
      A < x.core * 524288 + x.scrBase ∨ x.core * 524288 + x.scrBase + x.scrLen ≤ A) → Memory.byte t.scr A = Memory.byte s.scr A

/-- The partition key of p is gone, and with it the tables that it encrypts. -/
def Erased (t : State) (p : Nat) : Prop :=
  (t.part p).key = 0 ∧ (t.part p).nodes = [] ∧ (t.part p).regions = [] ∧ (t.part p).views = [] ∧ (t.part p).extents = []

/-- `t` is `s` with partition p killed (R372). -/
def Killed (s t : State) (p : Nat) : Prop :=
  Stopped s t p ∧ p ∈ t.kills ∧ KeepsScratch s t (· = p) ∧ t.dsp = s.dsp ∧ t.drive = s.drive ∧
    (∀ q, (t.qif q).waitAt = (s.qif q).waitAt ∧ (t.qif q).signals = (s.qif q).signals) ∧
    ((s.part p).guarded = true → Erased t p ∧ (∀ k ∈ t.keys, k.2.active = true → k.2.part ≠ p) ∧
      ∀ x ∈ s.qifs, x.2.part = p → s.qif x.1 = x.2 → (t.qif x.1).tdi = .error ∧ (t.qif x.1).walking = false) ∧
    ((s.part p).guarded = false → (t.part p).stopped = true ∧ t.keys = s.keys) ∧
    (∀ k, (∀ y, (k, y) ∈ s.teams → (s.launch y.launch).part ≠ p) → t.team k = s.team k) ∧
    (∀ pre k l post q n at_, s.launches = pre ++ [(k, l)] ++ post → l.live = true → l.part = p → l.mute = false → l.src = .chain q n at_ →
      (∀ y ∈ pre ++ post, y.2.live = true → y.2.part = p → y.2.mute = true ∨ ∀ q n at_, y.2.src ≠ .chain q n at_) → Written s t q n at_ 0x1A)

end Sys2Proof.Claims

/-- R366, R368, R369, R375: the responder answers the requests of Table 23.5 in their order, errors as R368 lists them, and moves
interfaces through the states of Table 23.4. The order among errors, capabilities, algorithms, DMTF types and the TDISP numbers are the
model's (log entry 52), that LOCK makes a session its partition's log entry 51's, and the request for a trace log entry 73's. -/
def Obligations.TheSecurityProcessorAnswersItsRequests : Prop :=
  (∀ (s : State) (i : Instr) (r : SpdmReq) (p : Prop), requestOf s i = some (r, p) →
    (s.doeOpen = false → exec i s = .next s.hostUp) ∧
    (s.doeOpen = true → s.unread = true → r.read = false → ∃ t, exec i s = .next t ∧ Unmoved s t [0x7F, 0x03]) ∧
    (s.doeOpen = true → (s.unread = true → r.read = true) →
      (r.version ≠ 0x13 → r.version ≠ 0x10 → ∃ t, exec i s = .next t ∧ Unmoved s t [0x7F, 0x41]) ∧
      (r.version = 0x13 → ¬p → ∃ t, exec i s = .next t ∧ Unmoved s t [0x7F, 0x04]) ∧
      (r.version = 0x13 → p → r.good = false → ∃ t, exec i s = .next t ∧ Unmoved s t [0x7F, 0x01]))) ∧
  (∀ (s : State) (r : SpdmReq),
    (Heard s (.getVersion r) → ∃ t, exec (.getVersion r) s = .next t ∧ Replied s t [0x04, 0x13] ∧ t.spdm = .version ∧
      t.sessions = s.sessions ∧ t.qifs = s.qifs) ∧
    (Heard s (.getCapabilities r) → ∃ t, exec (.getCapabilities r) s = .next t ∧ Replied s t [0x61, 0xD6, 0x02, 0, 0] ∧ t.spdm = .capabilities) ∧
    (Heard s (.negotiateAlgorithms r) → ∃ t, exec (.negotiateAlgorithms r) s = .next t ∧ Replied s t (0x63 :: agreed) ∧ t.spdm = .algorithms) ∧
    (Heard s (.getDigests r) → ∃ t, exec (.getDigests r) s = .next t ∧ Unmoved s t (0x01 :: digest (Sha.sha256 (chainOf s)))) ∧
    (Heard s (.getCertificate r) → ∃ t, exec (.getCertificate r) s = .next t ∧ Unmoved s t (0x02 :: chainOf s)) ∧
    (∀ nonce, Heard s (.challenge r nonce) → ∃ t, exec (.challenge r nonce) s = .next t ∧
      Unmoved s t (0x03 :: (digest (Sha.sha256 (chainOf s)) ++ signedOver s nonce (digest (Sha.sha256 (chainOf s)))))) ∧
    (∀ sign nonce, Heard s (.getMeasurements r sign nonce) → ∃ t, exec (.getMeasurements r sign nonce) s = .next t ∧
      Unmoved s t (0x60 :: (registers s ++ if sign then signedOver s nonce (registers s) else []))) ∧
    (∀ exchange, Heard s (.keyExchange r exchange) →
      ((∀ n < 16, ∃ y ∈ s.sessions, y.id = n) → ∃ t, exec (.keyExchange r exchange) s = .next t ∧ Unmoved s t [0x7F, 0x0A]) ∧
      (∀ n < 16, (∀ y ∈ s.sessions, y.id ≠ n) → (∀ m < n, ∃ y ∈ s.sessions, y.id = m) →
        ∃ t mine, exec (.keyExchange r exchange) s = .next t ∧ t.spdm = s.spdm ∧
          Replied s t (0x64 :: (mine ++ signatureOf s (bytes512 exchange ++ mine))) ∧
          t.sessions = s.sessions ++ [⟨n, Config.sessionKey s.freeCtr exchange, false, none⟩])) ∧
    (Heard s (.finish r) → ∃ t, exec (.finish r) s = .next t ∧ Replied s t [0x65] ∧ Secured t r ∧
      ∀ y ∈ s.sessions, some y.id ≠ r.session → y ∈ t.sessions) ∧
    (Heard s (.endSession r) → ∃ t, exec (.endSession r) s = .next t ∧ Replied s t [0x6C] ∧
      ∀ y, y ∈ t.sessions ↔ y ∈ s.sessions ∧ some y.id ≠ r.session) ∧
    (∀ code : BitVec 8,
      (code ∈ ([0x84, 0xE1, 0xE3, 0x81, 0x82, 0x83, 0xE0, 0xE4, 0xE5, 0xFE, 0xEC] : List (BitVec 8)) →
        exec (.unsupportedRequest r code) s = .next s) ∧
      (code ∉ ([0x84, 0xE1, 0xE3, 0x81, 0x82, 0x83, 0xE0, 0xE4, 0xE5, 0xFE, 0xEC] : List (BitVec 8)) → s.doeOpen = true →
        (s.unread = true → r.read = true) → r.version = 0x13 →
        ∃ t, exec (.unsupportedRequest r code) s = .next t ∧ Unmoved s t [0x7F, 0x07]))) ∧
  (∀ (s : State) (r : SpdmReq) (q : Nat), q < 4096 →
    let x := s.qif q
    let sent (t : State) (bs : List Nat) : Prop := Replied s t [0x7E] ∧ t.tdiRsp = bs ∧ ∀ k, k ≠ q → t.qif k = s.qif k
    let answers (t : State) (bs : List Nat) : Prop := sent t bs ∧ t.sessions = s.sessions
    (Heard s (.getTdispVersion r q) → ∃ t, exec (.getTdispVersion r q) s = .next t ∧ answers t [0x01, 0x10] ∧ t.qifs = s.qifs) ∧
    (Heard s (.getTdispCapabilities r q) → ∃ t, exec (.getTdispCapabilities r q) s = .next t ∧ answers t [0x02] ∧ t.qifs = s.qifs) ∧
    (Heard s (.getDeviceInterfaceState r q) → ∃ t n, exec (.getDeviceInterfaceState r q) s = .next t ∧ answers t [0x05, n] ∧ t.qifs = s.qifs ∧
      (x.tdi = .unlocked → n = 0) ∧ (x.tdi = .locked → n = 1) ∧ (x.tdi = .run → n = 2) ∧ (x.tdi = .error → n = 3)) ∧
    (Heard s (.lockInterfaceRequest r q) →
      ((s.part x.part).live = true → (s.part x.part).guarded = true → x.tdi = .unlocked →
        ∃ t, exec (.lockInterfaceRequest r q) s = .next t ∧ sent t [0x03] ∧ t.qif q = { x with tdi := .locked } ∧
          t.sessions = s.sessions.map fun (y : Session) => if some y.id = r.session then { y with part := some x.part } else y) ∧
      ((s.part x.part).live = false ∨ (s.part x.part).guarded = false ∨ x.tdi ≠ .unlocked →
        ∃ t, exec (.lockInterfaceRequest r q) s = .next t ∧ answers t [0x7F, 0x04] ∧ t.qifs = s.qifs)) ∧
    (Heard s (.startInterfaceRequest r q) →
      (x.tdi = .locked → ∃ t, exec (.startInterfaceRequest r q) s = .next t ∧ answers t [0x06] ∧ t.qif q = { x with tdi := .run }) ∧
      (x.tdi ≠ .locked → ∃ t, exec (.startInterfaceRequest r q) s = .next t ∧ answers t [0x7F, 0x04] ∧ t.qifs = s.qifs)) ∧
    (Heard s (.stopInterfaceRequest r q) → ∃ t, exec (.stopInterfaceRequest r q) s = .next t ∧ answers t [0x07] ∧ (t.qif q).tdi = .unlocked ∧
      (x.tdi ≠ .unlocked → (t.qif q).walking = false)) ∧
    (Heard s (.getDeviceInterfaceReport r q) →
      (x.tdi = .locked ∨ x.tdi = .run → ∃ t bs, exec (.getDeviceInterfaceReport r q) s = .next t ∧ t.qifs = s.qifs ∧
        answers t (0x04 :: (if (s.part x.part).guarded then 1 else 0) :: bs) ∧
        (∀ n ∈ (s.part x.part).maps.quads, n ∈ bs) ∧ ∀ k ∈ s.keys, k.2.active = true → k.2.part = x.part → k.2.id ∈ bs) ∧
      (x.tdi = .unlocked ∨ x.tdi = .error →
        ∃ t, exec (.getDeviceInterfaceReport r q) s = .next t ∧ answers t [0x7F, 0x04] ∧ t.qifs = s.qifs))) ∧
  (∀ (s : State) (r : SpdmReq) (q : Nat), 4096 ≤ q →
    ∀ i ∈ [Instr.getTdispVersion r q, .getTdispCapabilities r q, .lockInterfaceRequest r q, .getDeviceInterfaceReport r q,
        .getDeviceInterfaceState r q, .startInterfaceRequest r q, .stopInterfaceRequest r q],
      Heard s i → ∃ t, exec i s = .next t ∧ Replied s t [0x7E] ∧ t.tdiRsp = [0x7F, 0x101] ∧ t.qifs = s.qifs) ∧
  (∀ (s : State) (n stream : Nat) (key : BitVec 256),
    ((∃ y ∈ s.sessions, y.id = n ∧ y.ready = true) → stream < 8 →
      exec (.ideKm n stream key) s = .next { s with ide := Sparse.put stream key s.ide }) ∧
    ((∀ y ∈ s.sessions, y.id = n → y.ready = false) ∨ 8 ≤ stream → exec (.ideKm n stream key) s = .next s)) ∧
  (∀ (s : State) (r : SpdmReq) (p : Nat) (on : Bool), s.doeOpen = true → (s.unread = true → r.read = true) → r.version = 0x13 →
    (∀ x, s.sessions.find? (fun x => some x.id == r.session && x.ready) = some x → x.part = some p → r.good = true →
      ∃ t, s.hostAct (.trace r p on) = .next t ∧ t.response = [0x7E] ∧ t.unread = true ∧ SameBytes s t ∧
        t.part p = { s.part p with traced := on } ∧ (∀ j, j ≠ p → t.part j = s.part j) ∧ t.sessions = s.sessions ∧ t.keys = s.keys) ∧
    ((∀ x, s.sessions.find? (fun x => some x.id == r.session && x.ready) = some x → x.part ≠ some p) →
      ∃ t, s.hostAct (.trace r p on) = .next t ∧ Unmoved s t [0x7F, 0x04]))

/-- R369 to R372, R376 to R378: what a link reset, ECC and tag errors, Finper flits and replays, power, heat, a package reset and the
steps of bring-up do. What a kill keeps is log entry 53's, that erased tables map nothing log entry 78's, the pace of flows and what
counts as a failed replay log entry 54's, the limits of power log entry 55's, and the digest of the debug state log entry 56's. -/
def Obligations.TheModuleMeetsItsEventsAsTheRulesSay : Prop :=
  (∀ s : State, ∃ t, exec .hostLinkReset s = .next t ∧
    (∀ A, (∀ f ∈ s.frames, ∀ p, f.2.owner = some p → Protected s p → A < 65536 * f.1 ∨ 65536 * f.1 + 65536 ≤ A) →
      Memory.byte t.mem A = Memory.byte s.mem A) ∧ t.dsp = s.dsp ∧ t.drive = s.drive ∧ KeepsScratch s t (Protected s) ∧ t.linkUp = false ∧ t.sessions = [] ∧ t.spdm = .closed ∧
    t.measure = s.measure ∧ (∀ q, (t.qif q).tdi = .unlocked ∧ (t.qif q).walking = false) ∧ (∀ x ∈ s.launches, (t.launch x.1).mute = true) ∧
    (∀ p, Protected s p → Stopped s t p ∧ Erased t p ∧ ∀ k ∈ t.keys, k.2.active = true → k.2.part ≠ p) ∧
    (∀ k, (∀ y, (k, y) ∈ s.teams → ¬Protected s (s.launch y.launch).part) → t.team k = s.team k)) ∧
  (∀ (s : State) (w : EccPlace), ∃ t k, exec (.eccCorrectable w) s = .next t ∧ t = { s with ecc := t.ecc } ∧
    Sparse.get 0 k t.ecc = Sparse.get 0 k s.ecc + 1 ∧ ∀ j, j ≠ k → Sparse.get 0 j t.ecc = Sparse.get 0 j s.ecc) ∧
  (∀ s : State,
    (∀ pa, inRegion pa 1 = true →
      let held (p : Nat × Part) : Bool := p.2.live && p.2.nodes.any fun n => decide (n.1 ≤ canon pa) && decide (canon pa < n.1 + n.2)
      ((∀ p ∈ s.parts, held p = false) →
        ∃ t, exec (.eccUncorrectable (.memory pa)) s = .next t ∧ SameBytes s t ∧ t.poisoned .mem (canon pa) 1 = true) ∧
      (∀ p x, s.parts.find? held = some (p, x) → s.part p = x → ∃ t, exec (.eccUncorrectable (.memory pa)) s = .next t ∧ Killed s t p)) ∧
    (∀ a n, n < 16 → ∃ t, exec (.eccUncorrectable (.handle a n)) s = .next t ∧ SameBytes s t ∧ ((t.thr a).hreg n).poison = true ∧
      ((t.thr a).hreg n).v = ((s.thr a).hreg n).v ∧ ∀ p, p ≠ n → (t.thr a).hreg p = (s.thr a).hreg p) ∧
    (∀ c off, c < 640 → off < 524288 → ∃ t, exec (.eccUncorrectable (.coreScratch c off)) s = .next t ∧ SameBytes s t ∧
      t.poisoned .scr (c * 524288 + off) 1 = true) ∧
    (∀ d off, d < 4 → off < 67108864 → ∃ t, exec (.eccUncorrectable (.dieScratch d off)) s = .next t ∧ SameBytes s t ∧
      t.poisoned .dsp (d * 67108864 + off) 1 = true) ∧
    (∀ a r l, (s.thr a).scalar = false → r < 256 → l < 32 → ∃ t, exec (.eccUncorrectable (.register a r l)) s = .next t ∧ SameBytes s t ∧
      ((t.thr a).vreg r).poison = ((s.thr a).vreg r).poison ||| (1#32 <<< l) ∧ ((t.thr a).vreg r).v = ((s.thr a).vreg r).v ∧
      ∀ p, p ≠ r → (t.thr a).vreg p = (s.thr a).vreg p) ∧
    (∀ a r l, (s.thr a).scalar = true → r < 64 → l < 32 → ∃ t, exec (.eccUncorrectable (.register a r l)) s = .next t ∧ SameBytes s t ∧
      (t.thr a).sreg r = ⟨((s.thr a).sreg r).v, true⟩ ∧ ∀ p, p ≠ r → (t.thr a).sreg p = (s.thr a).sreg p) ∧
    (∀ q n e, ∃ t, exec (.eccUncorrectable (.accumulator q n e)) s = .next t ∧ SameBytes s t ∧
      e ∈ (Sparse.get Acc.zero n (t.quad q).acc).poison ∧ (Sparse.get Acc.zero n (t.quad q).acc).el = (Sparse.get Acc.zero n (s.quad q).acc).el) ∧
    (∀ a pa l, s.translate (s.who a) ⟨.fetch, 0, 0, false⟩ (s.thr a).issueAddr.toNat = .ok pa l →
      ∃ t, exec (.eccUncorrectable (.code a)) s = .next t ∧ SameBytes s t ∧ t.poisoned .mem pa 1 = true) ∧
    (∀ p, (s.part p).live = true → ∃ t, exec (.eccUncorrectable (.metadata p)) s = .next t ∧ Killed s t p)) ∧
  (∀ (s : State) (bank : Nat),
    (∀ p x, s.parts.find? (fun y => y.2.live && y.2.maps.banks.contains bank) = some (p, x) → s.part p = x →
      ∃ t, exec (.sharedTagParityError bank) s = .next t ∧ Killed s t p) ∧
    ((∀ y ∈ s.parts, y.2.live = true → bank ∉ y.2.maps.banks) → bank < 256 → ∃ t, exec (.sharedTagParityError bank) s = .next t ∧
      (∀ p, (p, s.part p) ∈ s.parts → (s.part p).live = true → (s.part p).useShared = true →
        (s.part p).guarded = false → Stopped s t p ∧ (t.part p).stopped = true) ∧
      (∀ p, (s.part p).guarded = true ∨ (s.part p).useShared = false → (∀ y, (p, y) ∈ s.parts → y = s.part p) →
        ∀ k, (∀ y, (k, y) ∈ s.teams → (s.launch y.launch).part = p) → t.team k = s.team k))) ∧
  (∀ (s : State) (n seq : Nat) (good room : Bool), n < 16 → (s.port n).up = true → 3 ≤ s.boot.stage →
    let p := s.port n
    ∃ t, exec (.finperFlit n seq good room) s = .next t ∧ SameBytes s t ∧ (∀ m, m ≠ n → t.port m = s.port m) ∧
      (good = true → room = true → seq = p.expect → (t.port n).expect = p.expect + 1 ∧ (t.port n).accepted = p.accepted ++ [seq]) ∧
      (good = false ∨ room = false ∨ seq ≠ p.expect →
        (t.port n).expect = p.expect ∧ (t.port n).accepted = p.accepted ∧ (t.port n).asked = some p.expect)) ∧
  (∀ (s : State) (n seq : Nat), n < 16 → (s.port n).up = true → 3 ≤ s.boot.stage → seq ∈ (s.port n).buffer →
    let p := s.port n
    ∃ t k, exec (.finperReplay n seq) s = .next t ∧ SameBytes s t ∧ k ≤ 4096 - p.buffer.length ∧ (t.port n).next = p.next + k ∧
      (∀ rate, (s.flow n).rate = some rate → k ≤ rate * (s.clk - (s.flow n).at_)) ∧ t.flow n = { s.flow n with at_ := s.clk } ∧
      (let sent := p.buffer ++ (List.range k).map (p.next + ·)
       (t.port n).buffer = sent.filter (seq ≤ ·) ∧
       (t.port n).failed = (if (∃ x ∈ sent, x < seq) ∨ p.replayed = false then 0 else p.failed + 1) ∧ (t.port n).replayed = true) ∧
      ∀ m, m ≠ n → t.port m = s.port m) ∧
  (∀ (s : State) (pkg : BitVec 9) (rate : Nat), 3 ≤ s.boot.stage → ∃ t, s.hostAct (.congestion pkg rate) = .next t ∧ t = { s with flows := t.flows } ∧
    Sparse.get ⟨none, 0⟩ pkg.toNat t.flows = { (Sparse.get ⟨none, 0⟩ pkg.toNat s.flows : Flow) with rate := some rate } ∧
    ∀ k, k ≠ pkg.toNat → (Sparse.get ⟨none, 0⟩ k t.flows : Flow) = Sparse.get ⟨none, 0⟩ k s.flows) ∧
  (∀ (s : State) (n : Nat), n < 16 → (s.port n).up = true → 3 ≤ s.boot.stage →
    let p := s.port n
    (p.failed < 8 → exec (.linkRetrain n) s = .next s) ∧
    (8 ≤ p.failed →
      ((∀ y ∈ s.parts, y.2.live = true → n ∉ y.2.maps.finper) → ∃ t, exec (.linkRetrain n) s = .next t ∧ SameBytes s t ∧ t.port n = Port.reset) ∧
      (∀ k x, s.parts.find? (fun y => y.2.live && y.2.maps.finper.contains n) = some (k, x) → s.part k = x →
        let is_link (m : Nat) : Prop := m < 16 ∧ m ≠ n ∧ m ∈ x.maps.finper ∧ Config.finperPeer m = Config.finperPeer n ∧ (s.port m).up = true
        ((∀ m, ¬is_link m) → ∃ t u, exec (.linkRetrain n) s = .next t ∧ t.port n = Port.reset ∧ u = s.mapPort n (fun _ => Port.reset) ∧
          Killed u t k) ∧
        (∀ m, is_link m → (∀ j, is_link j → (m + 16 - n) % 16 ≤ (j + 16 - n) % 16) → ∃ t, exec (.linkRetrain n) s = .next t ∧ SameBytes s t ∧
          t.port n = Port.reset ∧ (t.port m).next = (s.port m).next + p.buffer.length ∧
          (t.port m).buffer = (s.port m).buffer ++ (List.range p.buffer.length).map ((s.port m).next + ·))))) ∧
  (∀ s : State,
    let p := s.power
    let limit : Prop := 5200000 < p.power ∨ p.cap < p.power ∨ 950 < p.junction
    (limit → 875 < p.clock → exec .clockStepDown s = .next { s with power := { p with clock := max 875 (p.clock - 125) } }) ∧
    (¬limit ∨ p.clock ≤ 875 → exec .clockStepDown s = .next s) ∧
    (¬limit → p.since + 10000 * p.clock ≤ s.clk → p.clock < 1750 → ∃ t, exec .clockStepUp s = .next t ∧ SameBytes s t ∧
      t.power.clock = min 1750 (p.clock + 125) ∧ t.teams = s.teams) ∧
    (limit ∨ s.clk < p.since + 10000 * p.clock ∨ 1750 ≤ p.clock → exec .clockStepUp s = .next s) ∧
    (∀ mw, 2600000 ≤ mw → mw ≤ 5200000 → exec (.powerCapSet mw) s = .next { s with power := { p with cap := mw } }) ∧
    (∀ mw, mw < 2600000 ∨ 5200000 < mw → exec (.powerCapSet mw) s = .next s) ∧
    (1050 ≤ p.junction ∨ (∃ c, p.hot = some c ∧ c + 100000 * p.clock ≤ s.clk) → ∃ t, exec .thermalShutdown s = .next t ∧ t.teams = [] ∧
      t.sessions = [] ∧ t.keys = [] ∧ t.drive = s.drive ∧ t.scr = [] ∧ t.parts = State.reset.parts ∧ t.qifs = State.reset.qifs ∧
      ∀ A < 2 ^ 40, Memory.byte t.mem A = 0) ∧
    (p.junction < 1050 → (∀ c, p.hot = some c → s.clk < c + 100000 * p.clock) → exec .thermalShutdown s = .next s)) ∧
  (∀ (s : State) (ds : List (BitVec 256)) (unlock : Bool), ∃ t, exec (.packageReset ds unlock) s = .next t ∧ t.teams = [] ∧ t.sessions = [] ∧
    t.keys = [] ∧ t.scr = [] ∧ t.dsp = [] ∧ t.drive = s.drive ∧ t.unlock = unlock ∧ t.parts = State.reset.parts ∧ t.qifs = State.reset.qifs ∧
    (∀ A, Memory.byte t.mem A = if A < 2 ^ 40 then 0 else Memory.byte s.mem A) ∧
    t.boot.stage = 0 ∧ t.boot.digests = ds ∧ t.lsync = false ∧ t.linkUp = false ∧ t.doeOpen = false ∧ ∀ i, Sparse.get 0 i t.measure = 0) ∧
  (∀ s : State, s.boot.stage < 5 →
    let named : List Nat := [[1, 3], [2, 4], [5, 6, 7, 8, 9, 10, 11, 12, 13, 14, 15], [], [16]].getD s.boot.stage []
    let t := s.bootStep
    t.boot.stage = s.boot.stage + 1 ∧ t.boot.digests = s.boot.digests ∧ SameBytes s t ∧
    (∀ i, i ∉ named → Sparse.get 0 i t.measure = Sparse.get 0 i s.measure) ∧
    (∀ i ∈ named, i ≠ 4 → Sparse.get 0 i t.measure =
      Sha.sha256 (digest (Sparse.get 0 i s.measure) ++ digest (s.boot.digests.getD (i - 1) 0))) ∧
    (4 ∈ named → Sparse.get 0 4 t.measure = Sha.sha256 (digest (Sparse.get 0 4 s.measure) ++
      digest (Sha.sha256 (digest (s.boot.digests.getD 3 0) ++ [if s.unlock then 1 else 0])))) ∧
    (t.lsync = if s.boot.stage = 3 then !s.boot.diag else s.lsync) ∧
    (t.linkUp = if s.boot.stage = 4 then true else s.linkUp) ∧ (t.doeOpen = if s.boot.stage = 4 then true else s.doeOpen) ∧
    (∀ n, s.boot.stage = 4 → (n ∈ t.nvme ↔ n < 8 ∧ Config.nvmeGood n = true)))
end

