-- ==== Sys2Proof/Laws/Sparse.lean ====
section
/-! SUPPORT. Laws of finite maps: read after write, the canonical form kept by every operation, and equality of two
maps in canonical form that read alike. -/

namespace Sys2Proof.Sparse

variable {α : Type}

/-! ### Reading -/

/-- Read after `put`: the value put at its own key, as before at every other. -/
theorem get_put (d : α) (j k : Nat) (v : α) : ∀ m, get d j (put k v m) = if j = k then v else get d j m
  | [] => if h : k = j then (if_pos h).trans (if_pos h.symm).symm else (if_neg h).trans (if_neg fun e => h e.symm).symm
  | (i, w) :: r => by
    rw [put, apply_ite (get d j), apply_ite (get d j)]
    simp only [get, get_put d j k v r]
    split_ifs <;> first | rfl | omega

theorem get_put_same (d : α) (k : Nat) (v : α) (m : List (Nat × α)) : get d k (put k v m) = v :=
  (get_put d k k v m).trans (if_pos rfl)

theorem get_put_other (d : α) {j k : Nat} (h : j ≠ k) (v : α) (m : List (Nat × α)) : get d j (put k v m) = get d j m :=
  (get_put d j k v m).trans (if_neg h)

/-- Read after `del`: nothing at its own key, as before at every other. -/
theorem get_del (d : α) (j k : Nat) : ∀ m, get d j (del k m) = if j = k then d else get d j m
  | [] => (ite_self d).symm
  | (i, w) :: r => by
    have tail : get d j (r.filter fun p => p.1 != k) = if j = k then d else get d j r := get_del d j k r
    simp only [del, get, List.filter_cons, apply_ite (get d j), tail, bne_iff_ne]
    split_ifs <;> first | rfl | omega

theorem get_del_same (d : α) (k : Nat) (m : List (Nat × α)) : get d k (del k m) = d := (get_del d k k m).trans (if_pos rfl)

theorem get_del_other (d : α) {j k : Nat} (h : j ≠ k) (m : List (Nat × α)) : get d j (del k m) = get d j m :=
  (get_del d j k m).trans (if_neg h)

/-- Read after write: the value written at its own key, as before at every other. -/
theorem get_write [DecidableEq α] (d : α) (j k : Nat) (v : α) (m : List (Nat × α)) :
    get d j (write d k v m) = if j = k then v else get d j m := by
  rw [write, apply_ite (get d j), get_put, get_del]
  split_ifs with e <;> simp [e]

/-! ### The canonical form -/

/-- An entry in canonical form: above the bound, not the default, and below its tail. -/
theorem wfFrom_cons [DecidableEq α] {d w : α} {lo : Option Nat} {i : Nat} {r : List (Nat × α)} :
    wfFrom d lo ((i, w) :: r) = true ↔ (∀ l ∈ lo, l < i) ∧ w ≠ d ∧ wfFrom d (some i) r = true := by
  cases lo <;> simp [wfFrom, and_assoc]

/-- A lower bound serves as well. -/
theorem wfFrom_mono [DecidableEq α] {d : α} {a b : Option Nat} (h : ∀ l ∈ b, ∃ k ∈ a, l ≤ k) :
    ∀ {m : List (Nat × α)}, wfFrom d a m = true → wfFrom d b m = true
  | [], _ => rfl
  | (_, _) :: _, w =>
    have ⟨low, rest⟩ := wfFrom_cons.mp w
    wfFrom_cons.mpr ⟨fun l hl => (h l hl).elim fun k hk => hk.2.trans_lt (low k hk.1), rest⟩

theorem wfFrom_put [DecidableEq α] {d v : α} (hv : v ≠ d) (k : Nat) :
    ∀ (m : List (Nat × α)) (lo : Option Nat), (∀ l ∈ lo, l < k) → wfFrom d lo m = true → wfFrom d lo (put k v m) = true
  | [], _, above, _ => wfFrom_cons.mpr ⟨above, hv, rfl⟩
  | (i, w) :: r, lo, above, ok => by
    obtain ⟨low, nd, rest⟩ := wfFrom_cons.mp ok
    rw [put]
    split_ifs with before here
    · exact wfFrom_cons.mpr ⟨above, hv, wfFrom_cons.mpr ⟨fun _ e => (Option.mem_some_iff.mp e) ▸ before, nd, rest⟩⟩
    · exact wfFrom_cons.mpr ⟨above, hv, here ▸ rest⟩
    · exact wfFrom_cons.mpr ⟨low, nd, wfFrom_put hv k r (some i) (fun l e => by have := Option.mem_some_iff.mp e; omega) rest⟩

theorem wfFrom_filter [DecidableEq α] {d : α} (q : Nat × α → Bool) :
    ∀ (m : List (Nat × α)) (lo : Option Nat), wfFrom d lo m = true → wfFrom d lo (m.filter q) = true
  | [], _, ok => ok
  | (i, w) :: r, lo, ok => by
    obtain ⟨low, nd, rest⟩ := wfFrom_cons.mp ok
    have kept := wfFrom_filter q r (some i) rest
    rw [List.filter_cons]
    split_ifs
    · exact wfFrom_cons.mpr ⟨low, nd, kept⟩
    · exact wfFrom_mono (fun l hl => ⟨i, rfl, (low l hl).le⟩) kept

theorem wf_filter [DecidableEq α] {d : α} (q : Nat × α → Bool) {m : List (Nat × α)} (h : wf d m = true) :
    wf d (m.filter q) = true := wfFrom_filter q m none h

theorem wf_del [DecidableEq α] {d : α} (k : Nat) {m : List (Nat × α)} (h : wf d m = true) : wf d (del k m) = true :=
  wf_filter _ h

/-- A write keeps the canonical form. -/
theorem wf_write [DecidableEq α] {d : α} (k : Nat) (v : α) {m : List (Nat × α)} (h : wf d m = true) :
    wf d (write d k v m) = true :=
  if e : v = d then (congrArg (wf d) (if_pos e)).trans (wf_del k h)
  else (congrArg (wf d) (if_neg e)).trans (wfFrom_put e k m none (fun _ no => nomatch no) h)

/-- Nothing is listed at or below the bound. -/
theorem get_below [DecidableEq α] {d : α} :
    ∀ (m : List (Nat × α)) (l j : Nat), wfFrom d (some l) m = true → j ≤ l → get d j m = d
  | [], _, _, _, _ => rfl
  | (i, _) :: r, l, j, ok, hj =>
    have ⟨low, _, rest⟩ := wfFrom_cons.mp ok
    have up : j < i := hj.trans_lt (low l rfl)
    (if_neg up.ne').trans (get_below r i j rest up.le)

/-- Two maps in canonical form that read alike are the same list. -/
theorem wf_ext [DecidableEq α] {d : α} : ∀ (m n : List (Nat × α)) (lo : Option Nat), wfFrom d lo m = true →
    wfFrom d lo n = true → (∀ j, get d j m = get d j n) → m = n
  | [], [], _, _, _, _ => rfl
  | [], (i, _) :: _, _, _, hn, same => absurd ((if_pos rfl).symm.trans (same i).symm) (wfFrom_cons.mp hn).2.1
  | (i, _) :: _, [], _, hm, _, same => absurd ((if_pos rfl).symm.trans (same i)) (wfFrom_cons.mp hm).2.1
  | (i, w) :: r, (k, x) :: t, _, hm, hn, same => by
    obtain ⟨-, ndw, restr⟩ := wfFrom_cons.mp hm
    obtain ⟨-, ndx, restt⟩ := wfFrom_cons.mp hn
    have key : i = k := by
      by_contra ne
      rcases Nat.lt_or_gt_of_ne ne with lt | gt
      · refine ndw (((if_pos rfl).symm.trans (same i)).trans ?_)
        exact (if_neg lt.ne').trans (get_below t k i restt lt.le)
      · refine ndx (((if_pos rfl).symm.trans (same k).symm).trans ?_)
        exact (if_neg gt.ne').trans (get_below r i k restr (Nat.le_of_lt gt))
    subst key
    have val : w = x := by simpa only [get, if_true] using same i
    subst val
    refine congrArg _ (wf_ext r t (some i) restr restt fun j => ?_)
    rcases Nat.lt_or_ge i j with up | low
    · simpa only [get, if_neg up.ne] using same j
    · rw [get_below r i j restr low, get_below t i j restt low]

end Sys2Proof.Sparse
end

