-- ==== Sys2Proof/Laws/State.lean ====
section
/-! SUPPORT. What each update of the state or of a thread does to each field: one lemma per field per update, so that no
proof unfolds a record update. -/

namespace Sys2Proof.Machine

open Sys2Proof

/-! ### State.setTeam -/

section

variable (s : State) (k : Nat) (t : Team)

@[simp] theorem State.setTeam_agenda : (s.setTeam k t).agenda = s.agenda := rfl
@[simp] theorem State.setTeam_freeCtr : (s.setTeam k t).freeCtr = s.freeCtr := rfl
@[simp] theorem State.setTeam_cur : (s.setTeam k t).cur = s.cur := rfl
@[simp] theorem State.setTeam_clk : (s.setTeam k t).clk = s.clk := rfl
@[simp] theorem State.setTeam_mem : (s.setTeam k t).mem = s.mem := rfl
@[simp] theorem State.setTeam_scr : (s.setTeam k t).scr = s.scr := rfl
@[simp] theorem State.setTeam_dsp : (s.setTeam k t).dsp = s.dsp := rfl
@[simp] theorem State.setTeam_drive : (s.setTeam k t).drive = s.drive := rfl
@[simp] theorem State.setTeam_poisonM : (s.setTeam k t).poisonM = s.poisonM := rfl
@[simp] theorem State.setTeam_poisonS : (s.setTeam k t).poisonS = s.poisonS := rfl
@[simp] theorem State.setTeam_poisonD : (s.setTeam k t).poisonD = s.poisonD := rfl
@[simp] theorem State.setTeam_log : (s.setTeam k t).log = s.log := rfl
@[simp] theorem State.setTeam_nTeams : (s.setTeam k t).nTeams = s.nTeams := rfl
@[simp] theorem State.setTeam_launches : (s.setTeam k t).launches = s.launches := rfl
@[simp] theorem State.setTeam_nLaunch : (s.setTeam k t).nLaunch = s.nLaunch := rfl
@[simp] theorem State.setTeam_order : (s.setTeam k t).order = s.order := rfl
@[simp] theorem State.setTeam_cores : (s.setTeam k t).cores = s.cores := rfl
@[simp] theorem State.setTeam_quads : (s.setTeam k t).quads = s.quads := rfl
@[simp] theorem State.setTeam_dies : (s.setTeam k t).dies = s.dies := rfl
@[simp] theorem State.setTeam_cmds : (s.setTeam k t).cmds = s.cmds := rfl
@[simp] theorem State.setTeam_cmdIds : (s.setTeam k t).cmdIds = s.cmdIds := rfl
@[simp] theorem State.setTeam_shadow : (s.setTeam k t).shadow = s.shadow := rfl
@[simp] theorem State.setTeam_parts : (s.setTeam k t).parts = s.parts := rfl
@[simp] theorem State.setTeam_qifs : (s.setTeam k t).qifs = s.qifs := rfl
@[simp] theorem State.setTeam_keys : (s.setTeam k t).keys = s.keys := rfl
@[simp] theorem State.setTeam_frames : (s.setTeam k t).frames = s.frames := rfl
@[simp] theorem State.setTeam_sqes : (s.setTeam k t).sqes = s.sqes := rfl
@[simp] theorem State.setTeam_spdm : (s.setTeam k t).spdm = s.spdm := rfl
@[simp] theorem State.setTeam_unread : (s.setTeam k t).unread = s.unread := rfl
@[simp] theorem State.setTeam_response : (s.setTeam k t).response = s.response := rfl
@[simp] theorem State.setTeam_sessions : (s.setTeam k t).sessions = s.sessions := rfl
@[simp] theorem State.setTeam_tdiRsp : (s.setTeam k t).tdiRsp = s.tdiRsp := rfl
@[simp] theorem State.setTeam_measure : (s.setTeam k t).measure = s.measure := rfl
@[simp] theorem State.setTeam_unlock : (s.setTeam k t).unlock = s.unlock := rfl
@[simp] theorem State.setTeam_lsync : (s.setTeam k t).lsync = s.lsync := rfl
@[simp] theorem State.setTeam_linkUp : (s.setTeam k t).linkUp = s.linkUp := rfl
@[simp] theorem State.setTeam_doeOpen : (s.setTeam k t).doeOpen = s.doeOpen := rfl
@[simp] theorem State.setTeam_boot : (s.setTeam k t).boot = s.boot := rfl
@[simp] theorem State.setTeam_nvme : (s.setTeam k t).nvme = s.nvme := rfl
@[simp] theorem State.setTeam_bells : (s.setTeam k t).bells = s.bells := rfl
@[simp] theorem State.setTeam_taken : (s.setTeam k t).taken = s.taken := rfl
@[simp] theorem State.setTeam_flows : (s.setTeam k t).flows = s.flows := rfl
@[simp] theorem State.setTeam_ide : (s.setTeam k t).ide = s.ide := rfl
@[simp] theorem State.setTeam_ports : (s.setTeam k t).ports = s.ports := rfl
@[simp] theorem State.setTeam_power : (s.setTeam k t).power = s.power := rfl
@[simp] theorem State.setTeam_ecc : (s.setTeam k t).ecc = s.ecc := rfl
@[simp] theorem State.setTeam_kills : (s.setTeam k t).kills = s.kills := rfl
@[simp] theorem State.setTeam_poolLog : (s.setTeam k t).poolLog = s.poolLog := rfl
@[simp] theorem State.setTeam_unsup : (s.setTeam k t).unsup = s.unsup := rfl
@[simp] theorem State.setTeam_sqeStats : (s.setTeam k t).sqeStats = s.sqeStats := rfl

end

/-! ### State.mapTeam -/

section

variable (s : State) (k : Nat) (f : Team → Team)

@[simp] theorem State.mapTeam_agenda : (s.mapTeam k f).agenda = s.agenda := rfl
@[simp] theorem State.mapTeam_freeCtr : (s.mapTeam k f).freeCtr = s.freeCtr := rfl
@[simp] theorem State.mapTeam_cur : (s.mapTeam k f).cur = s.cur := rfl
@[simp] theorem State.mapTeam_clk : (s.mapTeam k f).clk = s.clk := rfl
@[simp] theorem State.mapTeam_mem : (s.mapTeam k f).mem = s.mem := rfl
@[simp] theorem State.mapTeam_scr : (s.mapTeam k f).scr = s.scr := rfl
@[simp] theorem State.mapTeam_dsp : (s.mapTeam k f).dsp = s.dsp := rfl
@[simp] theorem State.mapTeam_drive : (s.mapTeam k f).drive = s.drive := rfl
@[simp] theorem State.mapTeam_poisonM : (s.mapTeam k f).poisonM = s.poisonM := rfl
@[simp] theorem State.mapTeam_poisonS : (s.mapTeam k f).poisonS = s.poisonS := rfl
@[simp] theorem State.mapTeam_poisonD : (s.mapTeam k f).poisonD = s.poisonD := rfl
@[simp] theorem State.mapTeam_log : (s.mapTeam k f).log = s.log := rfl
@[simp] theorem State.mapTeam_nTeams : (s.mapTeam k f).nTeams = s.nTeams := rfl
@[simp] theorem State.mapTeam_launches : (s.mapTeam k f).launches = s.launches := rfl
@[simp] theorem State.mapTeam_nLaunch : (s.mapTeam k f).nLaunch = s.nLaunch := rfl
@[simp] theorem State.mapTeam_order : (s.mapTeam k f).order = s.order := rfl
@[simp] theorem State.mapTeam_cores : (s.mapTeam k f).cores = s.cores := rfl
@[simp] theorem State.mapTeam_quads : (s.mapTeam k f).quads = s.quads := rfl
@[simp] theorem State.mapTeam_dies : (s.mapTeam k f).dies = s.dies := rfl
@[simp] theorem State.mapTeam_cmds : (s.mapTeam k f).cmds = s.cmds := rfl
@[simp] theorem State.mapTeam_cmdIds : (s.mapTeam k f).cmdIds = s.cmdIds := rfl
@[simp] theorem State.mapTeam_shadow : (s.mapTeam k f).shadow = s.shadow := rfl
@[simp] theorem State.mapTeam_parts : (s.mapTeam k f).parts = s.parts := rfl
@[simp] theorem State.mapTeam_qifs : (s.mapTeam k f).qifs = s.qifs := rfl
@[simp] theorem State.mapTeam_keys : (s.mapTeam k f).keys = s.keys := rfl
@[simp] theorem State.mapTeam_frames : (s.mapTeam k f).frames = s.frames := rfl
@[simp] theorem State.mapTeam_sqes : (s.mapTeam k f).sqes = s.sqes := rfl
@[simp] theorem State.mapTeam_spdm : (s.mapTeam k f).spdm = s.spdm := rfl
@[simp] theorem State.mapTeam_unread : (s.mapTeam k f).unread = s.unread := rfl
@[simp] theorem State.mapTeam_response : (s.mapTeam k f).response = s.response := rfl
@[simp] theorem State.mapTeam_sessions : (s.mapTeam k f).sessions = s.sessions := rfl
@[simp] theorem State.mapTeam_tdiRsp : (s.mapTeam k f).tdiRsp = s.tdiRsp := rfl
@[simp] theorem State.mapTeam_measure : (s.mapTeam k f).measure = s.measure := rfl
@[simp] theorem State.mapTeam_unlock : (s.mapTeam k f).unlock = s.unlock := rfl
@[simp] theorem State.mapTeam_lsync : (s.mapTeam k f).lsync = s.lsync := rfl
@[simp] theorem State.mapTeam_linkUp : (s.mapTeam k f).linkUp = s.linkUp := rfl
@[simp] theorem State.mapTeam_doeOpen : (s.mapTeam k f).doeOpen = s.doeOpen := rfl
@[simp] theorem State.mapTeam_boot : (s.mapTeam k f).boot = s.boot := rfl
@[simp] theorem State.mapTeam_nvme : (s.mapTeam k f).nvme = s.nvme := rfl
@[simp] theorem State.mapTeam_bells : (s.mapTeam k f).bells = s.bells := rfl
@[simp] theorem State.mapTeam_taken : (s.mapTeam k f).taken = s.taken := rfl
@[simp] theorem State.mapTeam_flows : (s.mapTeam k f).flows = s.flows := rfl
@[simp] theorem State.mapTeam_ide : (s.mapTeam k f).ide = s.ide := rfl
@[simp] theorem State.mapTeam_ports : (s.mapTeam k f).ports = s.ports := rfl
@[simp] theorem State.mapTeam_power : (s.mapTeam k f).power = s.power := rfl
@[simp] theorem State.mapTeam_ecc : (s.mapTeam k f).ecc = s.ecc := rfl
@[simp] theorem State.mapTeam_kills : (s.mapTeam k f).kills = s.kills := rfl
@[simp] theorem State.mapTeam_poolLog : (s.mapTeam k f).poolLog = s.poolLog := rfl
@[simp] theorem State.mapTeam_unsup : (s.mapTeam k f).unsup = s.unsup := rfl
@[simp] theorem State.mapTeam_sqeStats : (s.mapTeam k f).sqeStats = s.sqeStats := rfl

end

/-! ### State.mapLaunch -/

section

variable (s : State) (k : Nat) (f : Launch → Launch)

@[simp] theorem State.mapLaunch_agenda : (s.mapLaunch k f).agenda = s.agenda := rfl
@[simp] theorem State.mapLaunch_freeCtr : (s.mapLaunch k f).freeCtr = s.freeCtr := rfl
@[simp] theorem State.mapLaunch_cur : (s.mapLaunch k f).cur = s.cur := rfl
@[simp] theorem State.mapLaunch_clk : (s.mapLaunch k f).clk = s.clk := rfl
@[simp] theorem State.mapLaunch_mem : (s.mapLaunch k f).mem = s.mem := rfl
@[simp] theorem State.mapLaunch_scr : (s.mapLaunch k f).scr = s.scr := rfl
@[simp] theorem State.mapLaunch_dsp : (s.mapLaunch k f).dsp = s.dsp := rfl
@[simp] theorem State.mapLaunch_drive : (s.mapLaunch k f).drive = s.drive := rfl
@[simp] theorem State.mapLaunch_poisonM : (s.mapLaunch k f).poisonM = s.poisonM := rfl
@[simp] theorem State.mapLaunch_poisonS : (s.mapLaunch k f).poisonS = s.poisonS := rfl
@[simp] theorem State.mapLaunch_poisonD : (s.mapLaunch k f).poisonD = s.poisonD := rfl
@[simp] theorem State.mapLaunch_log : (s.mapLaunch k f).log = s.log := rfl
@[simp] theorem State.mapLaunch_teams : (s.mapLaunch k f).teams = s.teams := rfl
@[simp] theorem State.mapLaunch_nTeams : (s.mapLaunch k f).nTeams = s.nTeams := rfl
@[simp] theorem State.mapLaunch_nLaunch : (s.mapLaunch k f).nLaunch = s.nLaunch := rfl
@[simp] theorem State.mapLaunch_order : (s.mapLaunch k f).order = s.order := rfl
@[simp] theorem State.mapLaunch_cores : (s.mapLaunch k f).cores = s.cores := rfl
@[simp] theorem State.mapLaunch_quads : (s.mapLaunch k f).quads = s.quads := rfl
@[simp] theorem State.mapLaunch_dies : (s.mapLaunch k f).dies = s.dies := rfl
@[simp] theorem State.mapLaunch_cmds : (s.mapLaunch k f).cmds = s.cmds := rfl
@[simp] theorem State.mapLaunch_cmdIds : (s.mapLaunch k f).cmdIds = s.cmdIds := rfl
@[simp] theorem State.mapLaunch_shadow : (s.mapLaunch k f).shadow = s.shadow := rfl
@[simp] theorem State.mapLaunch_parts : (s.mapLaunch k f).parts = s.parts := rfl
@[simp] theorem State.mapLaunch_qifs : (s.mapLaunch k f).qifs = s.qifs := rfl
@[simp] theorem State.mapLaunch_keys : (s.mapLaunch k f).keys = s.keys := rfl
@[simp] theorem State.mapLaunch_frames : (s.mapLaunch k f).frames = s.frames := rfl
@[simp] theorem State.mapLaunch_sqes : (s.mapLaunch k f).sqes = s.sqes := rfl
@[simp] theorem State.mapLaunch_spdm : (s.mapLaunch k f).spdm = s.spdm := rfl
@[simp] theorem State.mapLaunch_unread : (s.mapLaunch k f).unread = s.unread := rfl
@[simp] theorem State.mapLaunch_response : (s.mapLaunch k f).response = s.response := rfl
@[simp] theorem State.mapLaunch_sessions : (s.mapLaunch k f).sessions = s.sessions := rfl
@[simp] theorem State.mapLaunch_tdiRsp : (s.mapLaunch k f).tdiRsp = s.tdiRsp := rfl
@[simp] theorem State.mapLaunch_measure : (s.mapLaunch k f).measure = s.measure := rfl
@[simp] theorem State.mapLaunch_unlock : (s.mapLaunch k f).unlock = s.unlock := rfl
@[simp] theorem State.mapLaunch_lsync : (s.mapLaunch k f).lsync = s.lsync := rfl
@[simp] theorem State.mapLaunch_linkUp : (s.mapLaunch k f).linkUp = s.linkUp := rfl
@[simp] theorem State.mapLaunch_doeOpen : (s.mapLaunch k f).doeOpen = s.doeOpen := rfl
@[simp] theorem State.mapLaunch_boot : (s.mapLaunch k f).boot = s.boot := rfl
@[simp] theorem State.mapLaunch_nvme : (s.mapLaunch k f).nvme = s.nvme := rfl
@[simp] theorem State.mapLaunch_bells : (s.mapLaunch k f).bells = s.bells := rfl
@[simp] theorem State.mapLaunch_taken : (s.mapLaunch k f).taken = s.taken := rfl
@[simp] theorem State.mapLaunch_flows : (s.mapLaunch k f).flows = s.flows := rfl
@[simp] theorem State.mapLaunch_ide : (s.mapLaunch k f).ide = s.ide := rfl
@[simp] theorem State.mapLaunch_ports : (s.mapLaunch k f).ports = s.ports := rfl
@[simp] theorem State.mapLaunch_power : (s.mapLaunch k f).power = s.power := rfl
@[simp] theorem State.mapLaunch_ecc : (s.mapLaunch k f).ecc = s.ecc := rfl
@[simp] theorem State.mapLaunch_kills : (s.mapLaunch k f).kills = s.kills := rfl
@[simp] theorem State.mapLaunch_poolLog : (s.mapLaunch k f).poolLog = s.poolLog := rfl
@[simp] theorem State.mapLaunch_unsup : (s.mapLaunch k f).unsup = s.unsup := rfl
@[simp] theorem State.mapLaunch_sqeStats : (s.mapLaunch k f).sqeStats = s.sqeStats := rfl

end

/-! ### State.mapCore -/

section

variable (s : State) (k : Nat) (f : Core → Core)

@[simp] theorem State.mapCore_agenda : (s.mapCore k f).agenda = s.agenda := rfl
@[simp] theorem State.mapCore_freeCtr : (s.mapCore k f).freeCtr = s.freeCtr := rfl
@[simp] theorem State.mapCore_cur : (s.mapCore k f).cur = s.cur := rfl
@[simp] theorem State.mapCore_clk : (s.mapCore k f).clk = s.clk := rfl
@[simp] theorem State.mapCore_mem : (s.mapCore k f).mem = s.mem := rfl
@[simp] theorem State.mapCore_scr : (s.mapCore k f).scr = s.scr := rfl
@[simp] theorem State.mapCore_dsp : (s.mapCore k f).dsp = s.dsp := rfl
@[simp] theorem State.mapCore_drive : (s.mapCore k f).drive = s.drive := rfl
@[simp] theorem State.mapCore_poisonM : (s.mapCore k f).poisonM = s.poisonM := rfl
@[simp] theorem State.mapCore_poisonS : (s.mapCore k f).poisonS = s.poisonS := rfl
@[simp] theorem State.mapCore_poisonD : (s.mapCore k f).poisonD = s.poisonD := rfl
@[simp] theorem State.mapCore_log : (s.mapCore k f).log = s.log := rfl
@[simp] theorem State.mapCore_teams : (s.mapCore k f).teams = s.teams := rfl
@[simp] theorem State.mapCore_nTeams : (s.mapCore k f).nTeams = s.nTeams := rfl
@[simp] theorem State.mapCore_launches : (s.mapCore k f).launches = s.launches := rfl
@[simp] theorem State.mapCore_nLaunch : (s.mapCore k f).nLaunch = s.nLaunch := rfl
@[simp] theorem State.mapCore_order : (s.mapCore k f).order = s.order := rfl
@[simp] theorem State.mapCore_quads : (s.mapCore k f).quads = s.quads := rfl
@[simp] theorem State.mapCore_dies : (s.mapCore k f).dies = s.dies := rfl
@[simp] theorem State.mapCore_cmds : (s.mapCore k f).cmds = s.cmds := rfl
@[simp] theorem State.mapCore_cmdIds : (s.mapCore k f).cmdIds = s.cmdIds := rfl
@[simp] theorem State.mapCore_shadow : (s.mapCore k f).shadow = s.shadow := rfl
@[simp] theorem State.mapCore_parts : (s.mapCore k f).parts = s.parts := rfl
@[simp] theorem State.mapCore_qifs : (s.mapCore k f).qifs = s.qifs := rfl
@[simp] theorem State.mapCore_keys : (s.mapCore k f).keys = s.keys := rfl
@[simp] theorem State.mapCore_frames : (s.mapCore k f).frames = s.frames := rfl
@[simp] theorem State.mapCore_sqes : (s.mapCore k f).sqes = s.sqes := rfl
@[simp] theorem State.mapCore_spdm : (s.mapCore k f).spdm = s.spdm := rfl
@[simp] theorem State.mapCore_unread : (s.mapCore k f).unread = s.unread := rfl
@[simp] theorem State.mapCore_response : (s.mapCore k f).response = s.response := rfl
@[simp] theorem State.mapCore_sessions : (s.mapCore k f).sessions = s.sessions := rfl
@[simp] theorem State.mapCore_tdiRsp : (s.mapCore k f).tdiRsp = s.tdiRsp := rfl
@[simp] theorem State.mapCore_measure : (s.mapCore k f).measure = s.measure := rfl
@[simp] theorem State.mapCore_unlock : (s.mapCore k f).unlock = s.unlock := rfl
@[simp] theorem State.mapCore_lsync : (s.mapCore k f).lsync = s.lsync := rfl
@[simp] theorem State.mapCore_linkUp : (s.mapCore k f).linkUp = s.linkUp := rfl
@[simp] theorem State.mapCore_doeOpen : (s.mapCore k f).doeOpen = s.doeOpen := rfl
@[simp] theorem State.mapCore_boot : (s.mapCore k f).boot = s.boot := rfl
@[simp] theorem State.mapCore_nvme : (s.mapCore k f).nvme = s.nvme := rfl
@[simp] theorem State.mapCore_bells : (s.mapCore k f).bells = s.bells := rfl
@[simp] theorem State.mapCore_taken : (s.mapCore k f).taken = s.taken := rfl
@[simp] theorem State.mapCore_flows : (s.mapCore k f).flows = s.flows := rfl
@[simp] theorem State.mapCore_ide : (s.mapCore k f).ide = s.ide := rfl
@[simp] theorem State.mapCore_ports : (s.mapCore k f).ports = s.ports := rfl
@[simp] theorem State.mapCore_power : (s.mapCore k f).power = s.power := rfl
@[simp] theorem State.mapCore_ecc : (s.mapCore k f).ecc = s.ecc := rfl
@[simp] theorem State.mapCore_kills : (s.mapCore k f).kills = s.kills := rfl
@[simp] theorem State.mapCore_poolLog : (s.mapCore k f).poolLog = s.poolLog := rfl
@[simp] theorem State.mapCore_unsup : (s.mapCore k f).unsup = s.unsup := rfl
@[simp] theorem State.mapCore_sqeStats : (s.mapCore k f).sqeStats = s.sqeStats := rfl

end

/-! ### State.mapQuad -/

section

variable (s : State) (k : Nat) (f : Quad → Quad)

@[simp] theorem State.mapQuad_agenda : (s.mapQuad k f).agenda = s.agenda := rfl
@[simp] theorem State.mapQuad_freeCtr : (s.mapQuad k f).freeCtr = s.freeCtr := rfl
@[simp] theorem State.mapQuad_cur : (s.mapQuad k f).cur = s.cur := rfl
@[simp] theorem State.mapQuad_clk : (s.mapQuad k f).clk = s.clk := rfl
@[simp] theorem State.mapQuad_mem : (s.mapQuad k f).mem = s.mem := rfl
@[simp] theorem State.mapQuad_scr : (s.mapQuad k f).scr = s.scr := rfl
@[simp] theorem State.mapQuad_dsp : (s.mapQuad k f).dsp = s.dsp := rfl
@[simp] theorem State.mapQuad_drive : (s.mapQuad k f).drive = s.drive := rfl
@[simp] theorem State.mapQuad_poisonM : (s.mapQuad k f).poisonM = s.poisonM := rfl
@[simp] theorem State.mapQuad_poisonS : (s.mapQuad k f).poisonS = s.poisonS := rfl
@[simp] theorem State.mapQuad_poisonD : (s.mapQuad k f).poisonD = s.poisonD := rfl
@[simp] theorem State.mapQuad_log : (s.mapQuad k f).log = s.log := rfl
@[simp] theorem State.mapQuad_teams : (s.mapQuad k f).teams = s.teams := rfl
@[simp] theorem State.mapQuad_nTeams : (s.mapQuad k f).nTeams = s.nTeams := rfl
@[simp] theorem State.mapQuad_launches : (s.mapQuad k f).launches = s.launches := rfl
@[simp] theorem State.mapQuad_nLaunch : (s.mapQuad k f).nLaunch = s.nLaunch := rfl
@[simp] theorem State.mapQuad_order : (s.mapQuad k f).order = s.order := rfl
@[simp] theorem State.mapQuad_cores : (s.mapQuad k f).cores = s.cores := rfl
@[simp] theorem State.mapQuad_dies : (s.mapQuad k f).dies = s.dies := rfl
@[simp] theorem State.mapQuad_cmds : (s.mapQuad k f).cmds = s.cmds := rfl
@[simp] theorem State.mapQuad_cmdIds : (s.mapQuad k f).cmdIds = s.cmdIds := rfl
@[simp] theorem State.mapQuad_shadow : (s.mapQuad k f).shadow = s.shadow := rfl
@[simp] theorem State.mapQuad_parts : (s.mapQuad k f).parts = s.parts := rfl
@[simp] theorem State.mapQuad_qifs : (s.mapQuad k f).qifs = s.qifs := rfl
@[simp] theorem State.mapQuad_keys : (s.mapQuad k f).keys = s.keys := rfl
@[simp] theorem State.mapQuad_frames : (s.mapQuad k f).frames = s.frames := rfl
@[simp] theorem State.mapQuad_sqes : (s.mapQuad k f).sqes = s.sqes := rfl
@[simp] theorem State.mapQuad_spdm : (s.mapQuad k f).spdm = s.spdm := rfl
@[simp] theorem State.mapQuad_unread : (s.mapQuad k f).unread = s.unread := rfl
@[simp] theorem State.mapQuad_response : (s.mapQuad k f).response = s.response := rfl
@[simp] theorem State.mapQuad_sessions : (s.mapQuad k f).sessions = s.sessions := rfl
@[simp] theorem State.mapQuad_tdiRsp : (s.mapQuad k f).tdiRsp = s.tdiRsp := rfl
@[simp] theorem State.mapQuad_measure : (s.mapQuad k f).measure = s.measure := rfl
@[simp] theorem State.mapQuad_unlock : (s.mapQuad k f).unlock = s.unlock := rfl
@[simp] theorem State.mapQuad_lsync : (s.mapQuad k f).lsync = s.lsync := rfl
@[simp] theorem State.mapQuad_linkUp : (s.mapQuad k f).linkUp = s.linkUp := rfl
@[simp] theorem State.mapQuad_doeOpen : (s.mapQuad k f).doeOpen = s.doeOpen := rfl
@[simp] theorem State.mapQuad_boot : (s.mapQuad k f).boot = s.boot := rfl
@[simp] theorem State.mapQuad_nvme : (s.mapQuad k f).nvme = s.nvme := rfl
@[simp] theorem State.mapQuad_bells : (s.mapQuad k f).bells = s.bells := rfl
@[simp] theorem State.mapQuad_taken : (s.mapQuad k f).taken = s.taken := rfl
@[simp] theorem State.mapQuad_flows : (s.mapQuad k f).flows = s.flows := rfl
@[simp] theorem State.mapQuad_ide : (s.mapQuad k f).ide = s.ide := rfl
@[simp] theorem State.mapQuad_ports : (s.mapQuad k f).ports = s.ports := rfl
@[simp] theorem State.mapQuad_power : (s.mapQuad k f).power = s.power := rfl
@[simp] theorem State.mapQuad_ecc : (s.mapQuad k f).ecc = s.ecc := rfl
@[simp] theorem State.mapQuad_kills : (s.mapQuad k f).kills = s.kills := rfl
@[simp] theorem State.mapQuad_poolLog : (s.mapQuad k f).poolLog = s.poolLog := rfl
@[simp] theorem State.mapQuad_unsup : (s.mapQuad k f).unsup = s.unsup := rfl
@[simp] theorem State.mapQuad_sqeStats : (s.mapQuad k f).sqeStats = s.sqeStats := rfl

end

/-! ### State.mapDie -/

section

variable (s : State) (k : Nat) (f : Die → Die)

@[simp] theorem State.mapDie_agenda : (s.mapDie k f).agenda = s.agenda := rfl
@[simp] theorem State.mapDie_freeCtr : (s.mapDie k f).freeCtr = s.freeCtr := rfl
@[simp] theorem State.mapDie_cur : (s.mapDie k f).cur = s.cur := rfl
@[simp] theorem State.mapDie_clk : (s.mapDie k f).clk = s.clk := rfl
@[simp] theorem State.mapDie_mem : (s.mapDie k f).mem = s.mem := rfl
@[simp] theorem State.mapDie_scr : (s.mapDie k f).scr = s.scr := rfl
@[simp] theorem State.mapDie_dsp : (s.mapDie k f).dsp = s.dsp := rfl
@[simp] theorem State.mapDie_drive : (s.mapDie k f).drive = s.drive := rfl
@[simp] theorem State.mapDie_poisonM : (s.mapDie k f).poisonM = s.poisonM := rfl
@[simp] theorem State.mapDie_poisonS : (s.mapDie k f).poisonS = s.poisonS := rfl
@[simp] theorem State.mapDie_poisonD : (s.mapDie k f).poisonD = s.poisonD := rfl
@[simp] theorem State.mapDie_log : (s.mapDie k f).log = s.log := rfl
@[simp] theorem State.mapDie_teams : (s.mapDie k f).teams = s.teams := rfl
@[simp] theorem State.mapDie_nTeams : (s.mapDie k f).nTeams = s.nTeams := rfl
@[simp] theorem State.mapDie_launches : (s.mapDie k f).launches = s.launches := rfl
@[simp] theorem State.mapDie_nLaunch : (s.mapDie k f).nLaunch = s.nLaunch := rfl
@[simp] theorem State.mapDie_order : (s.mapDie k f).order = s.order := rfl
@[simp] theorem State.mapDie_cores : (s.mapDie k f).cores = s.cores := rfl
@[simp] theorem State.mapDie_quads : (s.mapDie k f).quads = s.quads := rfl
@[simp] theorem State.mapDie_cmds : (s.mapDie k f).cmds = s.cmds := rfl
@[simp] theorem State.mapDie_cmdIds : (s.mapDie k f).cmdIds = s.cmdIds := rfl
@[simp] theorem State.mapDie_shadow : (s.mapDie k f).shadow = s.shadow := rfl
@[simp] theorem State.mapDie_parts : (s.mapDie k f).parts = s.parts := rfl
@[simp] theorem State.mapDie_qifs : (s.mapDie k f).qifs = s.qifs := rfl
@[simp] theorem State.mapDie_keys : (s.mapDie k f).keys = s.keys := rfl
@[simp] theorem State.mapDie_frames : (s.mapDie k f).frames = s.frames := rfl
@[simp] theorem State.mapDie_sqes : (s.mapDie k f).sqes = s.sqes := rfl
@[simp] theorem State.mapDie_spdm : (s.mapDie k f).spdm = s.spdm := rfl
@[simp] theorem State.mapDie_unread : (s.mapDie k f).unread = s.unread := rfl
@[simp] theorem State.mapDie_response : (s.mapDie k f).response = s.response := rfl
@[simp] theorem State.mapDie_sessions : (s.mapDie k f).sessions = s.sessions := rfl
@[simp] theorem State.mapDie_tdiRsp : (s.mapDie k f).tdiRsp = s.tdiRsp := rfl
@[simp] theorem State.mapDie_measure : (s.mapDie k f).measure = s.measure := rfl
@[simp] theorem State.mapDie_unlock : (s.mapDie k f).unlock = s.unlock := rfl
@[simp] theorem State.mapDie_lsync : (s.mapDie k f).lsync = s.lsync := rfl
@[simp] theorem State.mapDie_linkUp : (s.mapDie k f).linkUp = s.linkUp := rfl
@[simp] theorem State.mapDie_doeOpen : (s.mapDie k f).doeOpen = s.doeOpen := rfl
@[simp] theorem State.mapDie_boot : (s.mapDie k f).boot = s.boot := rfl
@[simp] theorem State.mapDie_nvme : (s.mapDie k f).nvme = s.nvme := rfl
@[simp] theorem State.mapDie_bells : (s.mapDie k f).bells = s.bells := rfl
@[simp] theorem State.mapDie_taken : (s.mapDie k f).taken = s.taken := rfl
@[simp] theorem State.mapDie_flows : (s.mapDie k f).flows = s.flows := rfl
@[simp] theorem State.mapDie_ide : (s.mapDie k f).ide = s.ide := rfl
@[simp] theorem State.mapDie_ports : (s.mapDie k f).ports = s.ports := rfl
@[simp] theorem State.mapDie_power : (s.mapDie k f).power = s.power := rfl
@[simp] theorem State.mapDie_ecc : (s.mapDie k f).ecc = s.ecc := rfl
@[simp] theorem State.mapDie_kills : (s.mapDie k f).kills = s.kills := rfl
@[simp] theorem State.mapDie_poolLog : (s.mapDie k f).poolLog = s.poolLog := rfl
@[simp] theorem State.mapDie_unsup : (s.mapDie k f).unsup = s.unsup := rfl
@[simp] theorem State.mapDie_sqeStats : (s.mapDie k f).sqeStats = s.sqeStats := rfl

end

/-! ### State.mapPart -/

section

variable (s : State) (k : Nat) (f : Part → Part)

@[simp] theorem State.mapPart_agenda : (s.mapPart k f).agenda = s.agenda := rfl
@[simp] theorem State.mapPart_freeCtr : (s.mapPart k f).freeCtr = s.freeCtr := rfl
@[simp] theorem State.mapPart_cur : (s.mapPart k f).cur = s.cur := rfl
@[simp] theorem State.mapPart_clk : (s.mapPart k f).clk = s.clk := rfl
@[simp] theorem State.mapPart_mem : (s.mapPart k f).mem = s.mem := rfl
@[simp] theorem State.mapPart_scr : (s.mapPart k f).scr = s.scr := rfl
@[simp] theorem State.mapPart_dsp : (s.mapPart k f).dsp = s.dsp := rfl
@[simp] theorem State.mapPart_drive : (s.mapPart k f).drive = s.drive := rfl
@[simp] theorem State.mapPart_poisonM : (s.mapPart k f).poisonM = s.poisonM := rfl
@[simp] theorem State.mapPart_poisonS : (s.mapPart k f).poisonS = s.poisonS := rfl
@[simp] theorem State.mapPart_poisonD : (s.mapPart k f).poisonD = s.poisonD := rfl
@[simp] theorem State.mapPart_log : (s.mapPart k f).log = s.log := rfl
@[simp] theorem State.mapPart_teams : (s.mapPart k f).teams = s.teams := rfl
@[simp] theorem State.mapPart_nTeams : (s.mapPart k f).nTeams = s.nTeams := rfl
@[simp] theorem State.mapPart_launches : (s.mapPart k f).launches = s.launches := rfl
@[simp] theorem State.mapPart_nLaunch : (s.mapPart k f).nLaunch = s.nLaunch := rfl
@[simp] theorem State.mapPart_order : (s.mapPart k f).order = s.order := rfl
@[simp] theorem State.mapPart_cores : (s.mapPart k f).cores = s.cores := rfl
@[simp] theorem State.mapPart_quads : (s.mapPart k f).quads = s.quads := rfl
@[simp] theorem State.mapPart_dies : (s.mapPart k f).dies = s.dies := rfl
@[simp] theorem State.mapPart_cmds : (s.mapPart k f).cmds = s.cmds := rfl
@[simp] theorem State.mapPart_cmdIds : (s.mapPart k f).cmdIds = s.cmdIds := rfl
@[simp] theorem State.mapPart_shadow : (s.mapPart k f).shadow = s.shadow := rfl
@[simp] theorem State.mapPart_qifs : (s.mapPart k f).qifs = s.qifs := rfl
@[simp] theorem State.mapPart_keys : (s.mapPart k f).keys = s.keys := rfl
@[simp] theorem State.mapPart_frames : (s.mapPart k f).frames = s.frames := rfl
@[simp] theorem State.mapPart_sqes : (s.mapPart k f).sqes = s.sqes := rfl
@[simp] theorem State.mapPart_spdm : (s.mapPart k f).spdm = s.spdm := rfl
@[simp] theorem State.mapPart_unread : (s.mapPart k f).unread = s.unread := rfl
@[simp] theorem State.mapPart_response : (s.mapPart k f).response = s.response := rfl
@[simp] theorem State.mapPart_sessions : (s.mapPart k f).sessions = s.sessions := rfl
@[simp] theorem State.mapPart_tdiRsp : (s.mapPart k f).tdiRsp = s.tdiRsp := rfl
@[simp] theorem State.mapPart_measure : (s.mapPart k f).measure = s.measure := rfl
@[simp] theorem State.mapPart_unlock : (s.mapPart k f).unlock = s.unlock := rfl
@[simp] theorem State.mapPart_lsync : (s.mapPart k f).lsync = s.lsync := rfl
@[simp] theorem State.mapPart_linkUp : (s.mapPart k f).linkUp = s.linkUp := rfl
@[simp] theorem State.mapPart_doeOpen : (s.mapPart k f).doeOpen = s.doeOpen := rfl
@[simp] theorem State.mapPart_boot : (s.mapPart k f).boot = s.boot := rfl
@[simp] theorem State.mapPart_nvme : (s.mapPart k f).nvme = s.nvme := rfl
@[simp] theorem State.mapPart_bells : (s.mapPart k f).bells = s.bells := rfl
@[simp] theorem State.mapPart_taken : (s.mapPart k f).taken = s.taken := rfl
@[simp] theorem State.mapPart_flows : (s.mapPart k f).flows = s.flows := rfl
@[simp] theorem State.mapPart_ide : (s.mapPart k f).ide = s.ide := rfl
@[simp] theorem State.mapPart_ports : (s.mapPart k f).ports = s.ports := rfl
@[simp] theorem State.mapPart_power : (s.mapPart k f).power = s.power := rfl
@[simp] theorem State.mapPart_ecc : (s.mapPart k f).ecc = s.ecc := rfl
@[simp] theorem State.mapPart_kills : (s.mapPart k f).kills = s.kills := rfl
@[simp] theorem State.mapPart_poolLog : (s.mapPart k f).poolLog = s.poolLog := rfl
@[simp] theorem State.mapPart_unsup : (s.mapPart k f).unsup = s.unsup := rfl
@[simp] theorem State.mapPart_sqeStats : (s.mapPart k f).sqeStats = s.sqeStats := rfl

end

/-! ### State.mapQif -/

section

variable (s : State) (k : Nat) (f : Qif → Qif)

@[simp] theorem State.mapQif_agenda : (s.mapQif k f).agenda = s.agenda := rfl
@[simp] theorem State.mapQif_freeCtr : (s.mapQif k f).freeCtr = s.freeCtr := rfl
@[simp] theorem State.mapQif_cur : (s.mapQif k f).cur = s.cur := rfl
@[simp] theorem State.mapQif_clk : (s.mapQif k f).clk = s.clk := rfl
@[simp] theorem State.mapQif_mem : (s.mapQif k f).mem = s.mem := rfl
@[simp] theorem State.mapQif_scr : (s.mapQif k f).scr = s.scr := rfl
@[simp] theorem State.mapQif_dsp : (s.mapQif k f).dsp = s.dsp := rfl
@[simp] theorem State.mapQif_drive : (s.mapQif k f).drive = s.drive := rfl
@[simp] theorem State.mapQif_poisonM : (s.mapQif k f).poisonM = s.poisonM := rfl
@[simp] theorem State.mapQif_poisonS : (s.mapQif k f).poisonS = s.poisonS := rfl
@[simp] theorem State.mapQif_poisonD : (s.mapQif k f).poisonD = s.poisonD := rfl
@[simp] theorem State.mapQif_log : (s.mapQif k f).log = s.log := rfl
@[simp] theorem State.mapQif_teams : (s.mapQif k f).teams = s.teams := rfl
@[simp] theorem State.mapQif_nTeams : (s.mapQif k f).nTeams = s.nTeams := rfl
@[simp] theorem State.mapQif_launches : (s.mapQif k f).launches = s.launches := rfl
@[simp] theorem State.mapQif_nLaunch : (s.mapQif k f).nLaunch = s.nLaunch := rfl
@[simp] theorem State.mapQif_order : (s.mapQif k f).order = s.order := rfl
@[simp] theorem State.mapQif_cores : (s.mapQif k f).cores = s.cores := rfl
@[simp] theorem State.mapQif_quads : (s.mapQif k f).quads = s.quads := rfl
@[simp] theorem State.mapQif_dies : (s.mapQif k f).dies = s.dies := rfl
@[simp] theorem State.mapQif_cmds : (s.mapQif k f).cmds = s.cmds := rfl
@[simp] theorem State.mapQif_cmdIds : (s.mapQif k f).cmdIds = s.cmdIds := rfl
@[simp] theorem State.mapQif_shadow : (s.mapQif k f).shadow = s.shadow := rfl
@[simp] theorem State.mapQif_parts : (s.mapQif k f).parts = s.parts := rfl
@[simp] theorem State.mapQif_keys : (s.mapQif k f).keys = s.keys := rfl
@[simp] theorem State.mapQif_frames : (s.mapQif k f).frames = s.frames := rfl
@[simp] theorem State.mapQif_sqes : (s.mapQif k f).sqes = s.sqes := rfl
@[simp] theorem State.mapQif_spdm : (s.mapQif k f).spdm = s.spdm := rfl
@[simp] theorem State.mapQif_unread : (s.mapQif k f).unread = s.unread := rfl
@[simp] theorem State.mapQif_response : (s.mapQif k f).response = s.response := rfl
@[simp] theorem State.mapQif_sessions : (s.mapQif k f).sessions = s.sessions := rfl
@[simp] theorem State.mapQif_tdiRsp : (s.mapQif k f).tdiRsp = s.tdiRsp := rfl
@[simp] theorem State.mapQif_measure : (s.mapQif k f).measure = s.measure := rfl
@[simp] theorem State.mapQif_unlock : (s.mapQif k f).unlock = s.unlock := rfl
@[simp] theorem State.mapQif_lsync : (s.mapQif k f).lsync = s.lsync := rfl
@[simp] theorem State.mapQif_linkUp : (s.mapQif k f).linkUp = s.linkUp := rfl
@[simp] theorem State.mapQif_doeOpen : (s.mapQif k f).doeOpen = s.doeOpen := rfl
@[simp] theorem State.mapQif_boot : (s.mapQif k f).boot = s.boot := rfl
@[simp] theorem State.mapQif_nvme : (s.mapQif k f).nvme = s.nvme := rfl
@[simp] theorem State.mapQif_bells : (s.mapQif k f).bells = s.bells := rfl
@[simp] theorem State.mapQif_taken : (s.mapQif k f).taken = s.taken := rfl
@[simp] theorem State.mapQif_flows : (s.mapQif k f).flows = s.flows := rfl
@[simp] theorem State.mapQif_ide : (s.mapQif k f).ide = s.ide := rfl
@[simp] theorem State.mapQif_ports : (s.mapQif k f).ports = s.ports := rfl
@[simp] theorem State.mapQif_power : (s.mapQif k f).power = s.power := rfl
@[simp] theorem State.mapQif_ecc : (s.mapQif k f).ecc = s.ecc := rfl
@[simp] theorem State.mapQif_kills : (s.mapQif k f).kills = s.kills := rfl
@[simp] theorem State.mapQif_poolLog : (s.mapQif k f).poolLog = s.poolLog := rfl
@[simp] theorem State.mapQif_unsup : (s.mapQif k f).unsup = s.unsup := rfl
@[simp] theorem State.mapQif_sqeStats : (s.mapQif k f).sqeStats = s.sqeStats := rfl

end

/-! ### State.mapFrame -/

section

variable (s : State) (k : Nat) (f : FrameRec → FrameRec)

@[simp] theorem State.mapFrame_agenda : (s.mapFrame k f).agenda = s.agenda := rfl
@[simp] theorem State.mapFrame_freeCtr : (s.mapFrame k f).freeCtr = s.freeCtr := rfl
@[simp] theorem State.mapFrame_cur : (s.mapFrame k f).cur = s.cur := rfl
@[simp] theorem State.mapFrame_clk : (s.mapFrame k f).clk = s.clk := rfl
@[simp] theorem State.mapFrame_mem : (s.mapFrame k f).mem = s.mem := rfl
@[simp] theorem State.mapFrame_scr : (s.mapFrame k f).scr = s.scr := rfl
@[simp] theorem State.mapFrame_dsp : (s.mapFrame k f).dsp = s.dsp := rfl
@[simp] theorem State.mapFrame_drive : (s.mapFrame k f).drive = s.drive := rfl
@[simp] theorem State.mapFrame_poisonM : (s.mapFrame k f).poisonM = s.poisonM := rfl
@[simp] theorem State.mapFrame_poisonS : (s.mapFrame k f).poisonS = s.poisonS := rfl
@[simp] theorem State.mapFrame_poisonD : (s.mapFrame k f).poisonD = s.poisonD := rfl
@[simp] theorem State.mapFrame_log : (s.mapFrame k f).log = s.log := rfl
@[simp] theorem State.mapFrame_teams : (s.mapFrame k f).teams = s.teams := rfl
@[simp] theorem State.mapFrame_nTeams : (s.mapFrame k f).nTeams = s.nTeams := rfl
@[simp] theorem State.mapFrame_launches : (s.mapFrame k f).launches = s.launches := rfl
@[simp] theorem State.mapFrame_nLaunch : (s.mapFrame k f).nLaunch = s.nLaunch := rfl
@[simp] theorem State.mapFrame_order : (s.mapFrame k f).order = s.order := rfl
@[simp] theorem State.mapFrame_cores : (s.mapFrame k f).cores = s.cores := rfl
@[simp] theorem State.mapFrame_quads : (s.mapFrame k f).quads = s.quads := rfl
@[simp] theorem State.mapFrame_dies : (s.mapFrame k f).dies = s.dies := rfl
@[simp] theorem State.mapFrame_cmds : (s.mapFrame k f).cmds = s.cmds := rfl
@[simp] theorem State.mapFrame_cmdIds : (s.mapFrame k f).cmdIds = s.cmdIds := rfl
@[simp] theorem State.mapFrame_shadow : (s.mapFrame k f).shadow = s.shadow := rfl
@[simp] theorem State.mapFrame_parts : (s.mapFrame k f).parts = s.parts := rfl
@[simp] theorem State.mapFrame_qifs : (s.mapFrame k f).qifs = s.qifs := rfl
@[simp] theorem State.mapFrame_keys : (s.mapFrame k f).keys = s.keys := rfl
@[simp] theorem State.mapFrame_sqes : (s.mapFrame k f).sqes = s.sqes := rfl
@[simp] theorem State.mapFrame_spdm : (s.mapFrame k f).spdm = s.spdm := rfl
@[simp] theorem State.mapFrame_unread : (s.mapFrame k f).unread = s.unread := rfl
@[simp] theorem State.mapFrame_response : (s.mapFrame k f).response = s.response := rfl
@[simp] theorem State.mapFrame_sessions : (s.mapFrame k f).sessions = s.sessions := rfl
@[simp] theorem State.mapFrame_tdiRsp : (s.mapFrame k f).tdiRsp = s.tdiRsp := rfl
@[simp] theorem State.mapFrame_measure : (s.mapFrame k f).measure = s.measure := rfl
@[simp] theorem State.mapFrame_unlock : (s.mapFrame k f).unlock = s.unlock := rfl
@[simp] theorem State.mapFrame_lsync : (s.mapFrame k f).lsync = s.lsync := rfl
@[simp] theorem State.mapFrame_linkUp : (s.mapFrame k f).linkUp = s.linkUp := rfl
@[simp] theorem State.mapFrame_doeOpen : (s.mapFrame k f).doeOpen = s.doeOpen := rfl
@[simp] theorem State.mapFrame_boot : (s.mapFrame k f).boot = s.boot := rfl
@[simp] theorem State.mapFrame_nvme : (s.mapFrame k f).nvme = s.nvme := rfl
@[simp] theorem State.mapFrame_bells : (s.mapFrame k f).bells = s.bells := rfl
@[simp] theorem State.mapFrame_taken : (s.mapFrame k f).taken = s.taken := rfl
@[simp] theorem State.mapFrame_flows : (s.mapFrame k f).flows = s.flows := rfl
@[simp] theorem State.mapFrame_ide : (s.mapFrame k f).ide = s.ide := rfl
@[simp] theorem State.mapFrame_ports : (s.mapFrame k f).ports = s.ports := rfl
@[simp] theorem State.mapFrame_power : (s.mapFrame k f).power = s.power := rfl
@[simp] theorem State.mapFrame_ecc : (s.mapFrame k f).ecc = s.ecc := rfl
@[simp] theorem State.mapFrame_kills : (s.mapFrame k f).kills = s.kills := rfl
@[simp] theorem State.mapFrame_poolLog : (s.mapFrame k f).poolLog = s.poolLog := rfl
@[simp] theorem State.mapFrame_unsup : (s.mapFrame k f).unsup = s.unsup := rfl
@[simp] theorem State.mapFrame_sqeStats : (s.mapFrame k f).sqeStats = s.sqeStats := rfl

end

/-! ### State.setThr -/

section

variable (s : State) (a : Agent) (th : Thr)

@[simp] theorem State.setThr_agenda : (s.setThr a th).agenda = s.agenda := by cases a <;> rfl
@[simp] theorem State.setThr_freeCtr : (s.setThr a th).freeCtr = s.freeCtr := by cases a <;> rfl
@[simp] theorem State.setThr_cur : (s.setThr a th).cur = s.cur := by cases a <;> rfl
@[simp] theorem State.setThr_clk : (s.setThr a th).clk = s.clk := by cases a <;> rfl
@[simp] theorem State.setThr_mem : (s.setThr a th).mem = s.mem := by cases a <;> rfl
@[simp] theorem State.setThr_scr : (s.setThr a th).scr = s.scr := by cases a <;> rfl
@[simp] theorem State.setThr_dsp : (s.setThr a th).dsp = s.dsp := by cases a <;> rfl
@[simp] theorem State.setThr_drive : (s.setThr a th).drive = s.drive := by cases a <;> rfl
@[simp] theorem State.setThr_poisonM : (s.setThr a th).poisonM = s.poisonM := by cases a <;> rfl
@[simp] theorem State.setThr_poisonS : (s.setThr a th).poisonS = s.poisonS := by cases a <;> rfl
@[simp] theorem State.setThr_poisonD : (s.setThr a th).poisonD = s.poisonD := by cases a <;> rfl
@[simp] theorem State.setThr_log : (s.setThr a th).log = s.log := by cases a <;> rfl
@[simp] theorem State.setThr_nTeams : (s.setThr a th).nTeams = s.nTeams := by cases a <;> rfl
@[simp] theorem State.setThr_launches : (s.setThr a th).launches = s.launches := by cases a <;> rfl
@[simp] theorem State.setThr_nLaunch : (s.setThr a th).nLaunch = s.nLaunch := by cases a <;> rfl
@[simp] theorem State.setThr_order : (s.setThr a th).order = s.order := by cases a <;> rfl
@[simp] theorem State.setThr_cores : (s.setThr a th).cores = s.cores := by cases a <;> rfl
@[simp] theorem State.setThr_dies : (s.setThr a th).dies = s.dies := by cases a <;> rfl
@[simp] theorem State.setThr_cmds : (s.setThr a th).cmds = s.cmds := by cases a <;> rfl
@[simp] theorem State.setThr_cmdIds : (s.setThr a th).cmdIds = s.cmdIds := by cases a <;> rfl
@[simp] theorem State.setThr_shadow : (s.setThr a th).shadow = s.shadow := by cases a <;> rfl
@[simp] theorem State.setThr_parts : (s.setThr a th).parts = s.parts := by cases a <;> rfl
@[simp] theorem State.setThr_qifs : (s.setThr a th).qifs = s.qifs := by cases a <;> rfl
@[simp] theorem State.setThr_keys : (s.setThr a th).keys = s.keys := by cases a <;> rfl
@[simp] theorem State.setThr_frames : (s.setThr a th).frames = s.frames := by cases a <;> rfl
@[simp] theorem State.setThr_sqes : (s.setThr a th).sqes = s.sqes := by cases a <;> rfl
@[simp] theorem State.setThr_spdm : (s.setThr a th).spdm = s.spdm := by cases a <;> rfl
@[simp] theorem State.setThr_unread : (s.setThr a th).unread = s.unread := by cases a <;> rfl
@[simp] theorem State.setThr_response : (s.setThr a th).response = s.response := by cases a <;> rfl
@[simp] theorem State.setThr_sessions : (s.setThr a th).sessions = s.sessions := by cases a <;> rfl
@[simp] theorem State.setThr_tdiRsp : (s.setThr a th).tdiRsp = s.tdiRsp := by cases a <;> rfl
@[simp] theorem State.setThr_measure : (s.setThr a th).measure = s.measure := by cases a <;> rfl
@[simp] theorem State.setThr_unlock : (s.setThr a th).unlock = s.unlock := by cases a <;> rfl
@[simp] theorem State.setThr_lsync : (s.setThr a th).lsync = s.lsync := by cases a <;> rfl
@[simp] theorem State.setThr_linkUp : (s.setThr a th).linkUp = s.linkUp := by cases a <;> rfl
@[simp] theorem State.setThr_doeOpen : (s.setThr a th).doeOpen = s.doeOpen := by cases a <;> rfl
@[simp] theorem State.setThr_boot : (s.setThr a th).boot = s.boot := by cases a <;> rfl
@[simp] theorem State.setThr_nvme : (s.setThr a th).nvme = s.nvme := by cases a <;> rfl
@[simp] theorem State.setThr_bells : (s.setThr a th).bells = s.bells := by cases a <;> rfl
@[simp] theorem State.setThr_taken : (s.setThr a th).taken = s.taken := by cases a <;> rfl
@[simp] theorem State.setThr_flows : (s.setThr a th).flows = s.flows := by cases a <;> rfl
@[simp] theorem State.setThr_ide : (s.setThr a th).ide = s.ide := by cases a <;> rfl
@[simp] theorem State.setThr_ports : (s.setThr a th).ports = s.ports := by cases a <;> rfl
@[simp] theorem State.setThr_power : (s.setThr a th).power = s.power := by cases a <;> rfl
@[simp] theorem State.setThr_ecc : (s.setThr a th).ecc = s.ecc := by cases a <;> rfl
@[simp] theorem State.setThr_kills : (s.setThr a th).kills = s.kills := by cases a <;> rfl
@[simp] theorem State.setThr_poolLog : (s.setThr a th).poolLog = s.poolLog := by cases a <;> rfl
@[simp] theorem State.setThr_unsup : (s.setThr a th).unsup = s.unsup := by cases a <;> rfl
@[simp] theorem State.setThr_sqeStats : (s.setThr a th).sqeStats = s.sqeStats := by cases a <;> rfl

end

/-! ### State.mapThr -/

section

variable (s : State) (a : Agent) (f : Thr → Thr)

@[simp] theorem State.mapThr_agenda : (s.mapThr a f).agenda = s.agenda := by cases a <;> rfl
@[simp] theorem State.mapThr_freeCtr : (s.mapThr a f).freeCtr = s.freeCtr := by cases a <;> rfl
@[simp] theorem State.mapThr_cur : (s.mapThr a f).cur = s.cur := by cases a <;> rfl
@[simp] theorem State.mapThr_clk : (s.mapThr a f).clk = s.clk := by cases a <;> rfl
@[simp] theorem State.mapThr_mem : (s.mapThr a f).mem = s.mem := by cases a <;> rfl
@[simp] theorem State.mapThr_scr : (s.mapThr a f).scr = s.scr := by cases a <;> rfl
@[simp] theorem State.mapThr_dsp : (s.mapThr a f).dsp = s.dsp := by cases a <;> rfl
@[simp] theorem State.mapThr_drive : (s.mapThr a f).drive = s.drive := by cases a <;> rfl
@[simp] theorem State.mapThr_poisonM : (s.mapThr a f).poisonM = s.poisonM := by cases a <;> rfl
@[simp] theorem State.mapThr_poisonS : (s.mapThr a f).poisonS = s.poisonS := by cases a <;> rfl
@[simp] theorem State.mapThr_poisonD : (s.mapThr a f).poisonD = s.poisonD := by cases a <;> rfl
@[simp] theorem State.mapThr_log : (s.mapThr a f).log = s.log := by cases a <;> rfl
@[simp] theorem State.mapThr_nTeams : (s.mapThr a f).nTeams = s.nTeams := by cases a <;> rfl
@[simp] theorem State.mapThr_launches : (s.mapThr a f).launches = s.launches := by cases a <;> rfl
@[simp] theorem State.mapThr_nLaunch : (s.mapThr a f).nLaunch = s.nLaunch := by cases a <;> rfl
@[simp] theorem State.mapThr_order : (s.mapThr a f).order = s.order := by cases a <;> rfl
@[simp] theorem State.mapThr_cores : (s.mapThr a f).cores = s.cores := by cases a <;> rfl
@[simp] theorem State.mapThr_dies : (s.mapThr a f).dies = s.dies := by cases a <;> rfl
@[simp] theorem State.mapThr_cmds : (s.mapThr a f).cmds = s.cmds := by cases a <;> rfl
@[simp] theorem State.mapThr_cmdIds : (s.mapThr a f).cmdIds = s.cmdIds := by cases a <;> rfl
@[simp] theorem State.mapThr_shadow : (s.mapThr a f).shadow = s.shadow := by cases a <;> rfl
@[simp] theorem State.mapThr_parts : (s.mapThr a f).parts = s.parts := by cases a <;> rfl
@[simp] theorem State.mapThr_qifs : (s.mapThr a f).qifs = s.qifs := by cases a <;> rfl
@[simp] theorem State.mapThr_keys : (s.mapThr a f).keys = s.keys := by cases a <;> rfl
@[simp] theorem State.mapThr_frames : (s.mapThr a f).frames = s.frames := by cases a <;> rfl
@[simp] theorem State.mapThr_sqes : (s.mapThr a f).sqes = s.sqes := by cases a <;> rfl
@[simp] theorem State.mapThr_spdm : (s.mapThr a f).spdm = s.spdm := by cases a <;> rfl
@[simp] theorem State.mapThr_unread : (s.mapThr a f).unread = s.unread := by cases a <;> rfl
@[simp] theorem State.mapThr_response : (s.mapThr a f).response = s.response := by cases a <;> rfl
@[simp] theorem State.mapThr_sessions : (s.mapThr a f).sessions = s.sessions := by cases a <;> rfl
@[simp] theorem State.mapThr_tdiRsp : (s.mapThr a f).tdiRsp = s.tdiRsp := by cases a <;> rfl
@[simp] theorem State.mapThr_measure : (s.mapThr a f).measure = s.measure := by cases a <;> rfl
@[simp] theorem State.mapThr_unlock : (s.mapThr a f).unlock = s.unlock := by cases a <;> rfl
@[simp] theorem State.mapThr_lsync : (s.mapThr a f).lsync = s.lsync := by cases a <;> rfl
@[simp] theorem State.mapThr_linkUp : (s.mapThr a f).linkUp = s.linkUp := by cases a <;> rfl
@[simp] theorem State.mapThr_doeOpen : (s.mapThr a f).doeOpen = s.doeOpen := by cases a <;> rfl
@[simp] theorem State.mapThr_boot : (s.mapThr a f).boot = s.boot := by cases a <;> rfl
@[simp] theorem State.mapThr_nvme : (s.mapThr a f).nvme = s.nvme := by cases a <;> rfl
@[simp] theorem State.mapThr_bells : (s.mapThr a f).bells = s.bells := by cases a <;> rfl
@[simp] theorem State.mapThr_taken : (s.mapThr a f).taken = s.taken := by cases a <;> rfl
@[simp] theorem State.mapThr_flows : (s.mapThr a f).flows = s.flows := by cases a <;> rfl
@[simp] theorem State.mapThr_ide : (s.mapThr a f).ide = s.ide := by cases a <;> rfl
@[simp] theorem State.mapThr_ports : (s.mapThr a f).ports = s.ports := by cases a <;> rfl
@[simp] theorem State.mapThr_power : (s.mapThr a f).power = s.power := by cases a <;> rfl
@[simp] theorem State.mapThr_ecc : (s.mapThr a f).ecc = s.ecc := by cases a <;> rfl
@[simp] theorem State.mapThr_kills : (s.mapThr a f).kills = s.kills := by cases a <;> rfl
@[simp] theorem State.mapThr_poolLog : (s.mapThr a f).poolLog = s.poolLog := by cases a <;> rfl
@[simp] theorem State.mapThr_unsup : (s.mapThr a f).unsup = s.unsup := by cases a <;> rfl
@[simp] theorem State.mapThr_sqeStats : (s.mapThr a f).sqeStats = s.sqeStats := by cases a <;> rfl

end

/-! ### Thr.setPc -/

section

variable (th : Thr) (m : Mask) (g : Nat → BitVec 48)

@[simp] theorem Thr.setPc_scalar : (th.setPc m g).scalar = th.scalar := rfl
@[simp] theorem Thr.setPc_regs : (th.setPc m g).regs = th.regs := rfl
@[simp] theorem Thr.setPc_sregs : (th.setPc m g).sregs = th.sregs := rfl
@[simp] theorem Thr.setPc_preds : (th.setPc m g).preds = th.preds := rfl
@[simp] theorem Thr.setPc_latches : (th.setPc m g).latches = th.latches := rfl
@[simp] theorem Thr.setPc_busy : (th.setPc m g).busy = th.busy := rfl
@[simp] theorem Thr.setPc_long : (th.setPc m g).long = th.long := rfl
@[simp] theorem Thr.setPc_hs : (th.setPc m g).hs = th.hs := rfl
@[simp] theorem Thr.setPc_segs : (th.setPc m g).segs = th.segs := rfl
@[simp] theorem Thr.setPc_fsr : (th.setPc m g).fsr = th.fsr := rfl
@[simp] theorem Thr.setPc_wsr : (th.setPc m g).wsr = th.wsr := rfl
@[simp] theorem Thr.setPc_handler : (th.setPc m g).handler = th.handler := rfl
@[simp] theorem Thr.setPc_uqPos : (th.setPc m g).uqPos = th.uqPos := rfl
@[simp] theorem Thr.setPc_cause : (th.setPc m g).cause = th.cause := rfl
@[simp] theorem Thr.setPc_pendBits : (th.setPc m g).pendBits = th.pendBits := rfl
@[simp] theorem Thr.setPc_also : (th.setPc m g).also = th.also := rfl
@[simp] theorem Thr.setPc_epc : (th.setPc m g).epc = th.epc := rfl
@[simp] theorem Thr.setPc_tval : (th.setPc m g).tval = th.tval := rfl
@[simp] theorem Thr.setPc_lmask : (th.setPc m g).lmask = th.lmask := rfl
@[simp] theorem Thr.setPc_recPcv : (th.setPc m g).recPcv = th.recPcv := rfl
@[simp] theorem Thr.setPc_pendTval : (th.setPc m g).pendTval = th.pendTval := rfl
@[simp] theorem Thr.setPc_skipCmp : (th.setPc m g).skipCmp = th.skipCmp := rfl
@[simp] theorem Thr.setPc_chunks : (th.setPc m g).chunks = th.chunks := rfl
@[simp] theorem Thr.setPc_baseChunks : (th.setPc m g).baseChunks = th.baseChunks := rfl
@[simp] theorem Thr.setPc_level : (th.setPc m g).level = th.level := rfl
@[simp] theorem Thr.setPc_chain : (th.setPc m g).chain = th.chain := rfl
@[simp] theorem Thr.setPc_pend : (th.setPc m g).pend = th.pend := rfl
@[simp] theorem Thr.setPc_ops : (th.setPc m g).ops = th.ops := rfl
@[simp] theorem Thr.setPc_wait : (th.setPc m g).wait = th.wait := rfl
@[simp] theorem Thr.setPc_lastIssue : (th.setPc m g).lastIssue = th.lastIssue := rfl
@[simp] theorem Thr.setPc_seq : (th.setPc m g).seq = th.seq := rfl
@[simp] theorem Thr.setPc_starve : (th.setPc m g).starve = th.starve := rfl
@[simp] theorem Thr.setPc_yielded : (th.setPc m g).yielded = th.yielded := rfl
@[simp] theorem Thr.setPc_pinned : (th.setPc m g).pinned = th.pinned := rfl
@[simp] theorem Thr.setPc_pinOther : (th.setPc m g).pinOther = th.pinOther := rfl
@[simp] theorem Thr.setPc_pinFree : (th.setPc m g).pinFree = th.pinFree := rfl
@[simp] theorem Thr.setPc_ra : (th.setPc m g).ra = th.ra := rfl
@[simp] theorem Thr.setPc_live : (th.setPc m g).live = th.live := rfl
@[simp] theorem Thr.setPc_blocks : (th.setPc m g).blocks = th.blocks := rfl
@[simp] theorem Thr.setPc_slot : (th.setPc m g).slot = th.slot := rfl
@[simp] theorem Thr.setPc_ended : (th.setPc m g).ended = th.ended := rfl
@[simp] theorem Thr.setPc_equinox : (th.setPc m g).equinox = th.equinox := rfl
@[simp] theorem Thr.setPc_saved : (th.setPc m g).saved = th.saved := rfl
@[simp] theorem Thr.setPc_lost : (th.setPc m g).lost = th.lost := rfl
@[simp] theorem Thr.setPc_awaits : (th.setPc m g).awaits = th.awaits := rfl
@[simp] theorem Thr.setPc_stErr : (th.setPc m g).stErr = th.stErr := rfl
@[simp] theorem Thr.setPc_faultAt : (th.setPc m g).faultAt = th.faultAt := rfl
@[simp] theorem Thr.setPc_reopen : (th.setPc m g).reopen = th.reopen := rfl
@[simp] theorem Thr.setPc_recs : (th.setPc m g).recs = th.recs := rfl
@[simp] theorem Thr.setPc_seen : (th.setPc m g).seen = th.seen := rfl
@[simp] theorem Thr.setPc_deps : (th.setPc m g).deps = th.deps := rfl
@[simp] theorem Thr.setPc_latchDeps : (th.setPc m g).latchDeps = th.latchDeps := rfl
@[simp] theorem Thr.setPc_ctlDeps : (th.setPc m g).ctlDeps = th.ctlDeps := rfl
@[simp] theorem Thr.setPc_owed : (th.setPc m g).owed = th.owed := rfl
@[simp] theorem Thr.setPc_fences : (th.setPc m g).fences = th.fences := rfl

end

/-! ### Thr.advance -/

section

variable (th : Thr) (m : Mask) (w : Nat)

@[simp] theorem Thr.advance_scalar : (th.advance m w).scalar = th.scalar := rfl
@[simp] theorem Thr.advance_regs : (th.advance m w).regs = th.regs := rfl
@[simp] theorem Thr.advance_sregs : (th.advance m w).sregs = th.sregs := rfl
@[simp] theorem Thr.advance_preds : (th.advance m w).preds = th.preds := rfl
@[simp] theorem Thr.advance_latches : (th.advance m w).latches = th.latches := rfl
@[simp] theorem Thr.advance_busy : (th.advance m w).busy = th.busy := rfl
@[simp] theorem Thr.advance_long : (th.advance m w).long = th.long := rfl
@[simp] theorem Thr.advance_hs : (th.advance m w).hs = th.hs := rfl
@[simp] theorem Thr.advance_segs : (th.advance m w).segs = th.segs := rfl
@[simp] theorem Thr.advance_fsr : (th.advance m w).fsr = th.fsr := rfl
@[simp] theorem Thr.advance_wsr : (th.advance m w).wsr = th.wsr := rfl
@[simp] theorem Thr.advance_handler : (th.advance m w).handler = th.handler := rfl
@[simp] theorem Thr.advance_uqPos : (th.advance m w).uqPos = th.uqPos := rfl
@[simp] theorem Thr.advance_cause : (th.advance m w).cause = th.cause := rfl
@[simp] theorem Thr.advance_pendBits : (th.advance m w).pendBits = th.pendBits := rfl
@[simp] theorem Thr.advance_also : (th.advance m w).also = th.also := rfl
@[simp] theorem Thr.advance_epc : (th.advance m w).epc = th.epc := rfl
@[simp] theorem Thr.advance_tval : (th.advance m w).tval = th.tval := rfl
@[simp] theorem Thr.advance_lmask : (th.advance m w).lmask = th.lmask := rfl
@[simp] theorem Thr.advance_recPcv : (th.advance m w).recPcv = th.recPcv := rfl
@[simp] theorem Thr.advance_pendTval : (th.advance m w).pendTval = th.pendTval := rfl
@[simp] theorem Thr.advance_skipCmp : (th.advance m w).skipCmp = th.skipCmp := rfl
@[simp] theorem Thr.advance_chunks : (th.advance m w).chunks = th.chunks := rfl
@[simp] theorem Thr.advance_baseChunks : (th.advance m w).baseChunks = th.baseChunks := rfl
@[simp] theorem Thr.advance_level : (th.advance m w).level = th.level := rfl
@[simp] theorem Thr.advance_chain : (th.advance m w).chain = th.chain := rfl
@[simp] theorem Thr.advance_pend : (th.advance m w).pend = th.pend := rfl
@[simp] theorem Thr.advance_ops : (th.advance m w).ops = th.ops := rfl
@[simp] theorem Thr.advance_wait : (th.advance m w).wait = th.wait := rfl
@[simp] theorem Thr.advance_lastIssue : (th.advance m w).lastIssue = th.lastIssue := rfl
@[simp] theorem Thr.advance_seq : (th.advance m w).seq = th.seq := rfl
@[simp] theorem Thr.advance_starve : (th.advance m w).starve = th.starve := rfl
@[simp] theorem Thr.advance_yielded : (th.advance m w).yielded = th.yielded := rfl
@[simp] theorem Thr.advance_pinned : (th.advance m w).pinned = th.pinned := rfl
@[simp] theorem Thr.advance_pinOther : (th.advance m w).pinOther = th.pinOther := rfl
@[simp] theorem Thr.advance_pinFree : (th.advance m w).pinFree = th.pinFree := rfl
@[simp] theorem Thr.advance_ra : (th.advance m w).ra = th.ra := rfl
@[simp] theorem Thr.advance_live : (th.advance m w).live = th.live := rfl
@[simp] theorem Thr.advance_blocks : (th.advance m w).blocks = th.blocks := rfl
@[simp] theorem Thr.advance_slot : (th.advance m w).slot = th.slot := rfl
@[simp] theorem Thr.advance_ended : (th.advance m w).ended = th.ended := rfl
@[simp] theorem Thr.advance_equinox : (th.advance m w).equinox = th.equinox := rfl
@[simp] theorem Thr.advance_saved : (th.advance m w).saved = th.saved := rfl
@[simp] theorem Thr.advance_lost : (th.advance m w).lost = th.lost := rfl
@[simp] theorem Thr.advance_awaits : (th.advance m w).awaits = th.awaits := rfl
@[simp] theorem Thr.advance_stErr : (th.advance m w).stErr = th.stErr := rfl
@[simp] theorem Thr.advance_faultAt : (th.advance m w).faultAt = th.faultAt := rfl
@[simp] theorem Thr.advance_reopen : (th.advance m w).reopen = th.reopen := rfl
@[simp] theorem Thr.advance_recs : (th.advance m w).recs = th.recs := rfl
@[simp] theorem Thr.advance_seen : (th.advance m w).seen = th.seen := rfl
@[simp] theorem Thr.advance_deps : (th.advance m w).deps = th.deps := rfl
@[simp] theorem Thr.advance_latchDeps : (th.advance m w).latchDeps = th.latchDeps := rfl
@[simp] theorem Thr.advance_ctlDeps : (th.advance m w).ctlDeps = th.ctlDeps := rfl
@[simp] theorem Thr.advance_owed : (th.advance m w).owed = th.owed := rfl
@[simp] theorem Thr.advance_fences : (th.advance m w).fences = th.fences := rfl

end

/-! ### Thr.dropLatches -/

section

variable (th : Thr)

@[simp] theorem Thr.dropLatches_scalar : (th.dropLatches ).scalar = th.scalar := rfl
@[simp] theorem Thr.dropLatches_pcv : (th.dropLatches ).pcv = th.pcv := rfl
@[simp] theorem Thr.dropLatches_regs : (th.dropLatches ).regs = th.regs := rfl
@[simp] theorem Thr.dropLatches_sregs : (th.dropLatches ).sregs = th.sregs := rfl
@[simp] theorem Thr.dropLatches_preds : (th.dropLatches ).preds = th.preds := rfl
@[simp] theorem Thr.dropLatches_busy : (th.dropLatches ).busy = th.busy := rfl
@[simp] theorem Thr.dropLatches_long : (th.dropLatches ).long = th.long := rfl
@[simp] theorem Thr.dropLatches_hs : (th.dropLatches ).hs = th.hs := rfl
@[simp] theorem Thr.dropLatches_segs : (th.dropLatches ).segs = th.segs := rfl
@[simp] theorem Thr.dropLatches_fsr : (th.dropLatches ).fsr = th.fsr := rfl
@[simp] theorem Thr.dropLatches_wsr : (th.dropLatches ).wsr = th.wsr := rfl
@[simp] theorem Thr.dropLatches_handler : (th.dropLatches ).handler = th.handler := rfl
@[simp] theorem Thr.dropLatches_uqPos : (th.dropLatches ).uqPos = th.uqPos := rfl
@[simp] theorem Thr.dropLatches_cause : (th.dropLatches ).cause = th.cause := rfl
@[simp] theorem Thr.dropLatches_pendBits : (th.dropLatches ).pendBits = th.pendBits := rfl
@[simp] theorem Thr.dropLatches_also : (th.dropLatches ).also = th.also := rfl
@[simp] theorem Thr.dropLatches_epc : (th.dropLatches ).epc = th.epc := rfl
@[simp] theorem Thr.dropLatches_tval : (th.dropLatches ).tval = th.tval := rfl
@[simp] theorem Thr.dropLatches_lmask : (th.dropLatches ).lmask = th.lmask := rfl
@[simp] theorem Thr.dropLatches_recPcv : (th.dropLatches ).recPcv = th.recPcv := rfl
@[simp] theorem Thr.dropLatches_pendTval : (th.dropLatches ).pendTval = th.pendTval := rfl
@[simp] theorem Thr.dropLatches_skipCmp : (th.dropLatches ).skipCmp = th.skipCmp := rfl
@[simp] theorem Thr.dropLatches_chunks : (th.dropLatches ).chunks = th.chunks := rfl
@[simp] theorem Thr.dropLatches_baseChunks : (th.dropLatches ).baseChunks = th.baseChunks := rfl
@[simp] theorem Thr.dropLatches_level : (th.dropLatches ).level = th.level := rfl
@[simp] theorem Thr.dropLatches_chain : (th.dropLatches ).chain = th.chain := rfl
@[simp] theorem Thr.dropLatches_pend : (th.dropLatches ).pend = th.pend := rfl
@[simp] theorem Thr.dropLatches_ops : (th.dropLatches ).ops = th.ops := rfl
@[simp] theorem Thr.dropLatches_wait : (th.dropLatches ).wait = th.wait := rfl
@[simp] theorem Thr.dropLatches_lastIssue : (th.dropLatches ).lastIssue = th.lastIssue := rfl
@[simp] theorem Thr.dropLatches_seq : (th.dropLatches ).seq = th.seq := rfl
@[simp] theorem Thr.dropLatches_starve : (th.dropLatches ).starve = th.starve := rfl
@[simp] theorem Thr.dropLatches_yielded : (th.dropLatches ).yielded = th.yielded := rfl
@[simp] theorem Thr.dropLatches_pinned : (th.dropLatches ).pinned = th.pinned := rfl
@[simp] theorem Thr.dropLatches_pinOther : (th.dropLatches ).pinOther = th.pinOther := rfl
@[simp] theorem Thr.dropLatches_pinFree : (th.dropLatches ).pinFree = th.pinFree := rfl
@[simp] theorem Thr.dropLatches_ra : (th.dropLatches ).ra = th.ra := rfl
@[simp] theorem Thr.dropLatches_live : (th.dropLatches ).live = th.live := rfl
@[simp] theorem Thr.dropLatches_blocks : (th.dropLatches ).blocks = th.blocks := rfl
@[simp] theorem Thr.dropLatches_slot : (th.dropLatches ).slot = th.slot := rfl
@[simp] theorem Thr.dropLatches_ended : (th.dropLatches ).ended = th.ended := rfl
@[simp] theorem Thr.dropLatches_equinox : (th.dropLatches ).equinox = th.equinox := rfl
@[simp] theorem Thr.dropLatches_saved : (th.dropLatches ).saved = th.saved := rfl
@[simp] theorem Thr.dropLatches_lost : (th.dropLatches ).lost = th.lost := rfl
@[simp] theorem Thr.dropLatches_awaits : (th.dropLatches ).awaits = th.awaits := rfl
@[simp] theorem Thr.dropLatches_stErr : (th.dropLatches ).stErr = th.stErr := rfl
@[simp] theorem Thr.dropLatches_faultAt : (th.dropLatches ).faultAt = th.faultAt := rfl
@[simp] theorem Thr.dropLatches_reopen : (th.dropLatches ).reopen = th.reopen := rfl
@[simp] theorem Thr.dropLatches_recs : (th.dropLatches ).recs = th.recs := rfl
@[simp] theorem Thr.dropLatches_seen : (th.dropLatches ).seen = th.seen := rfl
@[simp] theorem Thr.dropLatches_deps : (th.dropLatches ).deps = th.deps := rfl
@[simp] theorem Thr.dropLatches_latchDeps : (th.dropLatches ).latchDeps = th.latchDeps := rfl
@[simp] theorem Thr.dropLatches_ctlDeps : (th.dropLatches ).ctlDeps = th.ctlDeps := rfl
@[simp] theorem Thr.dropLatches_owed : (th.dropLatches ).owed = th.owed := rfl
@[simp] theorem Thr.dropLatches_fences : (th.dropLatches ).fences = th.fences := rfl

end

/-! ### Thr.pushLatch -/

section

variable (th : Thr) (e : Latch)

@[simp] theorem Thr.pushLatch_scalar : (th.pushLatch e).scalar = th.scalar := rfl
@[simp] theorem Thr.pushLatch_pcv : (th.pushLatch e).pcv = th.pcv := rfl
@[simp] theorem Thr.pushLatch_regs : (th.pushLatch e).regs = th.regs := rfl
@[simp] theorem Thr.pushLatch_sregs : (th.pushLatch e).sregs = th.sregs := rfl
@[simp] theorem Thr.pushLatch_preds : (th.pushLatch e).preds = th.preds := rfl
@[simp] theorem Thr.pushLatch_busy : (th.pushLatch e).busy = th.busy := rfl
@[simp] theorem Thr.pushLatch_long : (th.pushLatch e).long = th.long := rfl
@[simp] theorem Thr.pushLatch_hs : (th.pushLatch e).hs = th.hs := rfl
@[simp] theorem Thr.pushLatch_segs : (th.pushLatch e).segs = th.segs := rfl
@[simp] theorem Thr.pushLatch_fsr : (th.pushLatch e).fsr = th.fsr := rfl
@[simp] theorem Thr.pushLatch_wsr : (th.pushLatch e).wsr = th.wsr := rfl
@[simp] theorem Thr.pushLatch_handler : (th.pushLatch e).handler = th.handler := rfl
@[simp] theorem Thr.pushLatch_uqPos : (th.pushLatch e).uqPos = th.uqPos := rfl
@[simp] theorem Thr.pushLatch_cause : (th.pushLatch e).cause = th.cause := rfl
@[simp] theorem Thr.pushLatch_pendBits : (th.pushLatch e).pendBits = th.pendBits := rfl
@[simp] theorem Thr.pushLatch_also : (th.pushLatch e).also = th.also := rfl
@[simp] theorem Thr.pushLatch_epc : (th.pushLatch e).epc = th.epc := rfl
@[simp] theorem Thr.pushLatch_tval : (th.pushLatch e).tval = th.tval := rfl
@[simp] theorem Thr.pushLatch_lmask : (th.pushLatch e).lmask = th.lmask := rfl
@[simp] theorem Thr.pushLatch_recPcv : (th.pushLatch e).recPcv = th.recPcv := rfl
@[simp] theorem Thr.pushLatch_pendTval : (th.pushLatch e).pendTval = th.pendTval := rfl
@[simp] theorem Thr.pushLatch_skipCmp : (th.pushLatch e).skipCmp = th.skipCmp := rfl
@[simp] theorem Thr.pushLatch_chunks : (th.pushLatch e).chunks = th.chunks := rfl
@[simp] theorem Thr.pushLatch_baseChunks : (th.pushLatch e).baseChunks = th.baseChunks := rfl
@[simp] theorem Thr.pushLatch_level : (th.pushLatch e).level = th.level := rfl
@[simp] theorem Thr.pushLatch_chain : (th.pushLatch e).chain = th.chain := rfl
@[simp] theorem Thr.pushLatch_pend : (th.pushLatch e).pend = th.pend := rfl
@[simp] theorem Thr.pushLatch_ops : (th.pushLatch e).ops = th.ops := rfl
@[simp] theorem Thr.pushLatch_wait : (th.pushLatch e).wait = th.wait := rfl
@[simp] theorem Thr.pushLatch_lastIssue : (th.pushLatch e).lastIssue = th.lastIssue := rfl
@[simp] theorem Thr.pushLatch_seq : (th.pushLatch e).seq = th.seq := rfl
@[simp] theorem Thr.pushLatch_starve : (th.pushLatch e).starve = th.starve := rfl
@[simp] theorem Thr.pushLatch_yielded : (th.pushLatch e).yielded = th.yielded := rfl
@[simp] theorem Thr.pushLatch_pinned : (th.pushLatch e).pinned = th.pinned := rfl
@[simp] theorem Thr.pushLatch_pinOther : (th.pushLatch e).pinOther = th.pinOther := rfl
@[simp] theorem Thr.pushLatch_pinFree : (th.pushLatch e).pinFree = th.pinFree := rfl
@[simp] theorem Thr.pushLatch_ra : (th.pushLatch e).ra = th.ra := rfl
@[simp] theorem Thr.pushLatch_live : (th.pushLatch e).live = th.live := rfl
@[simp] theorem Thr.pushLatch_blocks : (th.pushLatch e).blocks = th.blocks := rfl
@[simp] theorem Thr.pushLatch_slot : (th.pushLatch e).slot = th.slot := rfl
@[simp] theorem Thr.pushLatch_ended : (th.pushLatch e).ended = th.ended := rfl
@[simp] theorem Thr.pushLatch_equinox : (th.pushLatch e).equinox = th.equinox := rfl
@[simp] theorem Thr.pushLatch_saved : (th.pushLatch e).saved = th.saved := rfl
@[simp] theorem Thr.pushLatch_lost : (th.pushLatch e).lost = th.lost := rfl
@[simp] theorem Thr.pushLatch_awaits : (th.pushLatch e).awaits = th.awaits := rfl
@[simp] theorem Thr.pushLatch_stErr : (th.pushLatch e).stErr = th.stErr := rfl
@[simp] theorem Thr.pushLatch_faultAt : (th.pushLatch e).faultAt = th.faultAt := rfl
@[simp] theorem Thr.pushLatch_reopen : (th.pushLatch e).reopen = th.reopen := rfl
@[simp] theorem Thr.pushLatch_recs : (th.pushLatch e).recs = th.recs := rfl
@[simp] theorem Thr.pushLatch_seen : (th.pushLatch e).seen = th.seen := rfl
@[simp] theorem Thr.pushLatch_deps : (th.pushLatch e).deps = th.deps := rfl
@[simp] theorem Thr.pushLatch_ctlDeps : (th.pushLatch e).ctlDeps = th.ctlDeps := rfl
@[simp] theorem Thr.pushLatch_owed : (th.pushLatch e).owed = th.owed := rfl
@[simp] theorem Thr.pushLatch_fences : (th.pushLatch e).fences = th.fences := rfl

end

/-! ### Thr.setH -/

section

variable (th : Thr) (n : Nat) (v : BitVec 128)

@[simp] theorem Thr.setH_scalar : (th.setH n v).scalar = th.scalar := rfl
@[simp] theorem Thr.setH_pcv : (th.setH n v).pcv = th.pcv := rfl
@[simp] theorem Thr.setH_regs : (th.setH n v).regs = th.regs := rfl
@[simp] theorem Thr.setH_sregs : (th.setH n v).sregs = th.sregs := rfl
@[simp] theorem Thr.setH_preds : (th.setH n v).preds = th.preds := rfl
@[simp] theorem Thr.setH_latches : (th.setH n v).latches = th.latches := rfl
@[simp] theorem Thr.setH_busy : (th.setH n v).busy = th.busy := rfl
@[simp] theorem Thr.setH_long : (th.setH n v).long = th.long := rfl
@[simp] theorem Thr.setH_segs : (th.setH n v).segs = th.segs := rfl
@[simp] theorem Thr.setH_fsr : (th.setH n v).fsr = th.fsr := rfl
@[simp] theorem Thr.setH_wsr : (th.setH n v).wsr = th.wsr := rfl
@[simp] theorem Thr.setH_handler : (th.setH n v).handler = th.handler := rfl
@[simp] theorem Thr.setH_uqPos : (th.setH n v).uqPos = th.uqPos := rfl
@[simp] theorem Thr.setH_cause : (th.setH n v).cause = th.cause := rfl
@[simp] theorem Thr.setH_pendBits : (th.setH n v).pendBits = th.pendBits := rfl
@[simp] theorem Thr.setH_also : (th.setH n v).also = th.also := rfl
@[simp] theorem Thr.setH_epc : (th.setH n v).epc = th.epc := rfl
@[simp] theorem Thr.setH_tval : (th.setH n v).tval = th.tval := rfl
@[simp] theorem Thr.setH_lmask : (th.setH n v).lmask = th.lmask := rfl
@[simp] theorem Thr.setH_recPcv : (th.setH n v).recPcv = th.recPcv := rfl
@[simp] theorem Thr.setH_pendTval : (th.setH n v).pendTval = th.pendTval := rfl
@[simp] theorem Thr.setH_skipCmp : (th.setH n v).skipCmp = th.skipCmp := rfl
@[simp] theorem Thr.setH_chunks : (th.setH n v).chunks = th.chunks := rfl
@[simp] theorem Thr.setH_baseChunks : (th.setH n v).baseChunks = th.baseChunks := rfl
@[simp] theorem Thr.setH_level : (th.setH n v).level = th.level := rfl
@[simp] theorem Thr.setH_chain : (th.setH n v).chain = th.chain := rfl
@[simp] theorem Thr.setH_pend : (th.setH n v).pend = th.pend := rfl
@[simp] theorem Thr.setH_ops : (th.setH n v).ops = th.ops := rfl
@[simp] theorem Thr.setH_wait : (th.setH n v).wait = th.wait := rfl
@[simp] theorem Thr.setH_lastIssue : (th.setH n v).lastIssue = th.lastIssue := rfl
@[simp] theorem Thr.setH_seq : (th.setH n v).seq = th.seq := rfl
@[simp] theorem Thr.setH_starve : (th.setH n v).starve = th.starve := rfl
@[simp] theorem Thr.setH_yielded : (th.setH n v).yielded = th.yielded := rfl
@[simp] theorem Thr.setH_pinned : (th.setH n v).pinned = th.pinned := rfl
@[simp] theorem Thr.setH_pinOther : (th.setH n v).pinOther = th.pinOther := rfl
@[simp] theorem Thr.setH_pinFree : (th.setH n v).pinFree = th.pinFree := rfl
@[simp] theorem Thr.setH_ra : (th.setH n v).ra = th.ra := rfl
@[simp] theorem Thr.setH_live : (th.setH n v).live = th.live := rfl
@[simp] theorem Thr.setH_blocks : (th.setH n v).blocks = th.blocks := rfl
@[simp] theorem Thr.setH_slot : (th.setH n v).slot = th.slot := rfl
@[simp] theorem Thr.setH_ended : (th.setH n v).ended = th.ended := rfl
@[simp] theorem Thr.setH_equinox : (th.setH n v).equinox = th.equinox := rfl
@[simp] theorem Thr.setH_saved : (th.setH n v).saved = th.saved := rfl
@[simp] theorem Thr.setH_lost : (th.setH n v).lost = th.lost := rfl
@[simp] theorem Thr.setH_awaits : (th.setH n v).awaits = th.awaits := rfl
@[simp] theorem Thr.setH_stErr : (th.setH n v).stErr = th.stErr := rfl
@[simp] theorem Thr.setH_faultAt : (th.setH n v).faultAt = th.faultAt := rfl
@[simp] theorem Thr.setH_reopen : (th.setH n v).reopen = th.reopen := rfl
@[simp] theorem Thr.setH_recs : (th.setH n v).recs = th.recs := rfl
@[simp] theorem Thr.setH_seen : (th.setH n v).seen = th.seen := rfl
@[simp] theorem Thr.setH_deps : (th.setH n v).deps = th.deps := rfl
@[simp] theorem Thr.setH_latchDeps : (th.setH n v).latchDeps = th.latchDeps := rfl
@[simp] theorem Thr.setH_ctlDeps : (th.setH n v).ctlDeps = th.ctlDeps := rfl
@[simp] theorem Thr.setH_owed : (th.setH n v).owed = th.owed := rfl
@[simp] theorem Thr.setH_fences : (th.setH n v).fences = th.fences := rfl

end

/-! ### Thr.setFlag -/

section

variable (th : Thr) (o : Option Nat)

@[simp] theorem Thr.setFlag_scalar : (th.setFlag o).scalar = th.scalar := by cases o <;> rfl
@[simp] theorem Thr.setFlag_pcv : (th.setFlag o).pcv = th.pcv := by cases o <;> rfl
@[simp] theorem Thr.setFlag_regs : (th.setFlag o).regs = th.regs := by cases o <;> rfl
@[simp] theorem Thr.setFlag_sregs : (th.setFlag o).sregs = th.sregs := by cases o <;> rfl
@[simp] theorem Thr.setFlag_preds : (th.setFlag o).preds = th.preds := by cases o <;> rfl
@[simp] theorem Thr.setFlag_latches : (th.setFlag o).latches = th.latches := by cases o <;> rfl
@[simp] theorem Thr.setFlag_long : (th.setFlag o).long = th.long := by cases o <;> rfl
@[simp] theorem Thr.setFlag_hs : (th.setFlag o).hs = th.hs := by cases o <;> rfl
@[simp] theorem Thr.setFlag_segs : (th.setFlag o).segs = th.segs := by cases o <;> rfl
@[simp] theorem Thr.setFlag_fsr : (th.setFlag o).fsr = th.fsr := by cases o <;> rfl
@[simp] theorem Thr.setFlag_wsr : (th.setFlag o).wsr = th.wsr := by cases o <;> rfl
@[simp] theorem Thr.setFlag_handler : (th.setFlag o).handler = th.handler := by cases o <;> rfl
@[simp] theorem Thr.setFlag_uqPos : (th.setFlag o).uqPos = th.uqPos := by cases o <;> rfl
@[simp] theorem Thr.setFlag_cause : (th.setFlag o).cause = th.cause := by cases o <;> rfl
@[simp] theorem Thr.setFlag_pendBits : (th.setFlag o).pendBits = th.pendBits := by cases o <;> rfl
@[simp] theorem Thr.setFlag_also : (th.setFlag o).also = th.also := by cases o <;> rfl
@[simp] theorem Thr.setFlag_epc : (th.setFlag o).epc = th.epc := by cases o <;> rfl
@[simp] theorem Thr.setFlag_tval : (th.setFlag o).tval = th.tval := by cases o <;> rfl
@[simp] theorem Thr.setFlag_lmask : (th.setFlag o).lmask = th.lmask := by cases o <;> rfl
@[simp] theorem Thr.setFlag_recPcv : (th.setFlag o).recPcv = th.recPcv := by cases o <;> rfl
@[simp] theorem Thr.setFlag_pendTval : (th.setFlag o).pendTval = th.pendTval := by cases o <;> rfl
@[simp] theorem Thr.setFlag_skipCmp : (th.setFlag o).skipCmp = th.skipCmp := by cases o <;> rfl
@[simp] theorem Thr.setFlag_chunks : (th.setFlag o).chunks = th.chunks := by cases o <;> rfl
@[simp] theorem Thr.setFlag_baseChunks : (th.setFlag o).baseChunks = th.baseChunks := by cases o <;> rfl
@[simp] theorem Thr.setFlag_level : (th.setFlag o).level = th.level := by cases o <;> rfl
@[simp] theorem Thr.setFlag_chain : (th.setFlag o).chain = th.chain := by cases o <;> rfl
@[simp] theorem Thr.setFlag_pend : (th.setFlag o).pend = th.pend := by cases o <;> rfl
@[simp] theorem Thr.setFlag_ops : (th.setFlag o).ops = th.ops := by cases o <;> rfl
@[simp] theorem Thr.setFlag_wait : (th.setFlag o).wait = th.wait := by cases o <;> rfl
@[simp] theorem Thr.setFlag_lastIssue : (th.setFlag o).lastIssue = th.lastIssue := by cases o <;> rfl
@[simp] theorem Thr.setFlag_seq : (th.setFlag o).seq = th.seq := by cases o <;> rfl
@[simp] theorem Thr.setFlag_starve : (th.setFlag o).starve = th.starve := by cases o <;> rfl
@[simp] theorem Thr.setFlag_yielded : (th.setFlag o).yielded = th.yielded := by cases o <;> rfl
@[simp] theorem Thr.setFlag_pinned : (th.setFlag o).pinned = th.pinned := by cases o <;> rfl
@[simp] theorem Thr.setFlag_pinOther : (th.setFlag o).pinOther = th.pinOther := by cases o <;> rfl
@[simp] theorem Thr.setFlag_pinFree : (th.setFlag o).pinFree = th.pinFree := by cases o <;> rfl
@[simp] theorem Thr.setFlag_ra : (th.setFlag o).ra = th.ra := by cases o <;> rfl
@[simp] theorem Thr.setFlag_live : (th.setFlag o).live = th.live := by cases o <;> rfl
@[simp] theorem Thr.setFlag_blocks : (th.setFlag o).blocks = th.blocks := by cases o <;> rfl
@[simp] theorem Thr.setFlag_slot : (th.setFlag o).slot = th.slot := by cases o <;> rfl
@[simp] theorem Thr.setFlag_ended : (th.setFlag o).ended = th.ended := by cases o <;> rfl
@[simp] theorem Thr.setFlag_equinox : (th.setFlag o).equinox = th.equinox := by cases o <;> rfl
@[simp] theorem Thr.setFlag_saved : (th.setFlag o).saved = th.saved := by cases o <;> rfl
@[simp] theorem Thr.setFlag_lost : (th.setFlag o).lost = th.lost := by cases o <;> rfl
@[simp] theorem Thr.setFlag_awaits : (th.setFlag o).awaits = th.awaits := by cases o <;> rfl
@[simp] theorem Thr.setFlag_stErr : (th.setFlag o).stErr = th.stErr := by cases o <;> rfl
@[simp] theorem Thr.setFlag_faultAt : (th.setFlag o).faultAt = th.faultAt := by cases o <;> rfl
@[simp] theorem Thr.setFlag_reopen : (th.setFlag o).reopen = th.reopen := by cases o <;> rfl
@[simp] theorem Thr.setFlag_recs : (th.setFlag o).recs = th.recs := by cases o <;> rfl
@[simp] theorem Thr.setFlag_seen : (th.setFlag o).seen = th.seen := by cases o <;> rfl
@[simp] theorem Thr.setFlag_deps : (th.setFlag o).deps = th.deps := by cases o <;> rfl
@[simp] theorem Thr.setFlag_latchDeps : (th.setFlag o).latchDeps = th.latchDeps := by cases o <;> rfl
@[simp] theorem Thr.setFlag_ctlDeps : (th.setFlag o).ctlDeps = th.ctlDeps := by cases o <;> rfl
@[simp] theorem Thr.setFlag_owed : (th.setFlag o).owed = th.owed := by cases o <;> rfl
@[simp] theorem Thr.setFlag_fences : (th.setFlag o).fences = th.fences := by cases o <;> rfl

end

/-! ### Thr.clearFlag -/

section

variable (th : Thr) (o : Option Nat)

@[simp] theorem Thr.clearFlag_scalar : (th.clearFlag o).scalar = th.scalar := by cases o <;> rfl
@[simp] theorem Thr.clearFlag_pcv : (th.clearFlag o).pcv = th.pcv := by cases o <;> rfl
@[simp] theorem Thr.clearFlag_regs : (th.clearFlag o).regs = th.regs := by cases o <;> rfl
@[simp] theorem Thr.clearFlag_sregs : (th.clearFlag o).sregs = th.sregs := by cases o <;> rfl
@[simp] theorem Thr.clearFlag_preds : (th.clearFlag o).preds = th.preds := by cases o <;> rfl
@[simp] theorem Thr.clearFlag_latches : (th.clearFlag o).latches = th.latches := by cases o <;> rfl
@[simp] theorem Thr.clearFlag_hs : (th.clearFlag o).hs = th.hs := by cases o <;> rfl
@[simp] theorem Thr.clearFlag_segs : (th.clearFlag o).segs = th.segs := by cases o <;> rfl
@[simp] theorem Thr.clearFlag_fsr : (th.clearFlag o).fsr = th.fsr := by cases o <;> rfl
@[simp] theorem Thr.clearFlag_wsr : (th.clearFlag o).wsr = th.wsr := by cases o <;> rfl
@[simp] theorem Thr.clearFlag_handler : (th.clearFlag o).handler = th.handler := by cases o <;> rfl
@[simp] theorem Thr.clearFlag_uqPos : (th.clearFlag o).uqPos = th.uqPos := by cases o <;> rfl
@[simp] theorem Thr.clearFlag_cause : (th.clearFlag o).cause = th.cause := by cases o <;> rfl
@[simp] theorem Thr.clearFlag_pendBits : (th.clearFlag o).pendBits = th.pendBits := by cases o <;> rfl
@[simp] theorem Thr.clearFlag_also : (th.clearFlag o).also = th.also := by cases o <;> rfl
@[simp] theorem Thr.clearFlag_epc : (th.clearFlag o).epc = th.epc := by cases o <;> rfl
@[simp] theorem Thr.clearFlag_tval : (th.clearFlag o).tval = th.tval := by cases o <;> rfl
@[simp] theorem Thr.clearFlag_lmask : (th.clearFlag o).lmask = th.lmask := by cases o <;> rfl
@[simp] theorem Thr.clearFlag_recPcv : (th.clearFlag o).recPcv = th.recPcv := by cases o <;> rfl
@[simp] theorem Thr.clearFlag_pendTval : (th.clearFlag o).pendTval = th.pendTval := by cases o <;> rfl
@[simp] theorem Thr.clearFlag_skipCmp : (th.clearFlag o).skipCmp = th.skipCmp := by cases o <;> rfl
@[simp] theorem Thr.clearFlag_chunks : (th.clearFlag o).chunks = th.chunks := by cases o <;> rfl
@[simp] theorem Thr.clearFlag_baseChunks : (th.clearFlag o).baseChunks = th.baseChunks := by cases o <;> rfl
@[simp] theorem Thr.clearFlag_level : (th.clearFlag o).level = th.level := by cases o <;> rfl
@[simp] theorem Thr.clearFlag_chain : (th.clearFlag o).chain = th.chain := by cases o <;> rfl
@[simp] theorem Thr.clearFlag_pend : (th.clearFlag o).pend = th.pend := by cases o <;> rfl
@[simp] theorem Thr.clearFlag_ops : (th.clearFlag o).ops = th.ops := by cases o <;> rfl
@[simp] theorem Thr.clearFlag_wait : (th.clearFlag o).wait = th.wait := by cases o <;> rfl
@[simp] theorem Thr.clearFlag_lastIssue : (th.clearFlag o).lastIssue = th.lastIssue := by cases o <;> rfl
@[simp] theorem Thr.clearFlag_seq : (th.clearFlag o).seq = th.seq := by cases o <;> rfl
@[simp] theorem Thr.clearFlag_starve : (th.clearFlag o).starve = th.starve := by cases o <;> rfl
@[simp] theorem Thr.clearFlag_yielded : (th.clearFlag o).yielded = th.yielded := by cases o <;> rfl
@[simp] theorem Thr.clearFlag_pinned : (th.clearFlag o).pinned = th.pinned := by cases o <;> rfl
@[simp] theorem Thr.clearFlag_pinOther : (th.clearFlag o).pinOther = th.pinOther := by cases o <;> rfl
@[simp] theorem Thr.clearFlag_pinFree : (th.clearFlag o).pinFree = th.pinFree := by cases o <;> rfl
@[simp] theorem Thr.clearFlag_ra : (th.clearFlag o).ra = th.ra := by cases o <;> rfl
@[simp] theorem Thr.clearFlag_live : (th.clearFlag o).live = th.live := by cases o <;> rfl
@[simp] theorem Thr.clearFlag_blocks : (th.clearFlag o).blocks = th.blocks := by cases o <;> rfl
@[simp] theorem Thr.clearFlag_slot : (th.clearFlag o).slot = th.slot := by cases o <;> rfl
@[simp] theorem Thr.clearFlag_ended : (th.clearFlag o).ended = th.ended := by cases o <;> rfl
@[simp] theorem Thr.clearFlag_equinox : (th.clearFlag o).equinox = th.equinox := by cases o <;> rfl
@[simp] theorem Thr.clearFlag_saved : (th.clearFlag o).saved = th.saved := by cases o <;> rfl
@[simp] theorem Thr.clearFlag_lost : (th.clearFlag o).lost = th.lost := by cases o <;> rfl
@[simp] theorem Thr.clearFlag_awaits : (th.clearFlag o).awaits = th.awaits := by cases o <;> rfl
@[simp] theorem Thr.clearFlag_stErr : (th.clearFlag o).stErr = th.stErr := by cases o <;> rfl
@[simp] theorem Thr.clearFlag_faultAt : (th.clearFlag o).faultAt = th.faultAt := by cases o <;> rfl
@[simp] theorem Thr.clearFlag_reopen : (th.clearFlag o).reopen = th.reopen := by cases o <;> rfl
@[simp] theorem Thr.clearFlag_recs : (th.clearFlag o).recs = th.recs := by cases o <;> rfl
@[simp] theorem Thr.clearFlag_seen : (th.clearFlag o).seen = th.seen := by cases o <;> rfl
@[simp] theorem Thr.clearFlag_deps : (th.clearFlag o).deps = th.deps := by cases o <;> rfl
@[simp] theorem Thr.clearFlag_latchDeps : (th.clearFlag o).latchDeps = th.latchDeps := by cases o <;> rfl
@[simp] theorem Thr.clearFlag_ctlDeps : (th.clearFlag o).ctlDeps = th.ctlDeps := by cases o <;> rfl
@[simp] theorem Thr.clearFlag_owed : (th.clearFlag o).owed = th.owed := by cases o <;> rfl
@[simp] theorem Thr.clearFlag_fences : (th.clearFlag o).fences = th.fences := by cases o <;> rfl

end

/-! ### Thr.sendFixed -/

section

variable (th : Thr) (clk lat : Nat) (o : Option Nat) (ws : List RegW)

@[simp] theorem Thr.sendFixed_scalar : (th.sendFixed clk lat o ws).scalar = th.scalar := by cases o <;> rfl
@[simp] theorem Thr.sendFixed_pcv : (th.sendFixed clk lat o ws).pcv = th.pcv := by cases o <;> rfl
@[simp] theorem Thr.sendFixed_regs : (th.sendFixed clk lat o ws).regs = th.regs := by cases o <;> rfl
@[simp] theorem Thr.sendFixed_sregs : (th.sendFixed clk lat o ws).sregs = th.sregs := by cases o <;> rfl
@[simp] theorem Thr.sendFixed_preds : (th.sendFixed clk lat o ws).preds = th.preds := by cases o <;> rfl
@[simp] theorem Thr.sendFixed_latches : (th.sendFixed clk lat o ws).latches = th.latches := by cases o <;> rfl
@[simp] theorem Thr.sendFixed_long : (th.sendFixed clk lat o ws).long = th.long := by cases o <;> rfl
@[simp] theorem Thr.sendFixed_hs : (th.sendFixed clk lat o ws).hs = th.hs := by cases o <;> rfl
@[simp] theorem Thr.sendFixed_segs : (th.sendFixed clk lat o ws).segs = th.segs := by cases o <;> rfl
@[simp] theorem Thr.sendFixed_fsr : (th.sendFixed clk lat o ws).fsr = th.fsr := by cases o <;> rfl
@[simp] theorem Thr.sendFixed_wsr : (th.sendFixed clk lat o ws).wsr = th.wsr := by cases o <;> rfl
@[simp] theorem Thr.sendFixed_handler : (th.sendFixed clk lat o ws).handler = th.handler := by cases o <;> rfl
@[simp] theorem Thr.sendFixed_uqPos : (th.sendFixed clk lat o ws).uqPos = th.uqPos := by cases o <;> rfl
@[simp] theorem Thr.sendFixed_cause : (th.sendFixed clk lat o ws).cause = th.cause := by cases o <;> rfl
@[simp] theorem Thr.sendFixed_pendBits : (th.sendFixed clk lat o ws).pendBits = th.pendBits := by cases o <;> rfl
@[simp] theorem Thr.sendFixed_also : (th.sendFixed clk lat o ws).also = th.also := by cases o <;> rfl
@[simp] theorem Thr.sendFixed_epc : (th.sendFixed clk lat o ws).epc = th.epc := by cases o <;> rfl
@[simp] theorem Thr.sendFixed_tval : (th.sendFixed clk lat o ws).tval = th.tval := by cases o <;> rfl
@[simp] theorem Thr.sendFixed_lmask : (th.sendFixed clk lat o ws).lmask = th.lmask := by cases o <;> rfl
@[simp] theorem Thr.sendFixed_recPcv : (th.sendFixed clk lat o ws).recPcv = th.recPcv := by cases o <;> rfl
@[simp] theorem Thr.sendFixed_pendTval : (th.sendFixed clk lat o ws).pendTval = th.pendTval := by cases o <;> rfl
@[simp] theorem Thr.sendFixed_skipCmp : (th.sendFixed clk lat o ws).skipCmp = th.skipCmp := by cases o <;> rfl
@[simp] theorem Thr.sendFixed_chunks : (th.sendFixed clk lat o ws).chunks = th.chunks := by cases o <;> rfl
@[simp] theorem Thr.sendFixed_baseChunks : (th.sendFixed clk lat o ws).baseChunks = th.baseChunks := by cases o <;> rfl
@[simp] theorem Thr.sendFixed_level : (th.sendFixed clk lat o ws).level = th.level := by cases o <;> rfl
@[simp] theorem Thr.sendFixed_chain : (th.sendFixed clk lat o ws).chain = th.chain := by cases o <;> rfl
@[simp] theorem Thr.sendFixed_ops : (th.sendFixed clk lat o ws).ops = th.ops := by cases o <;> rfl
@[simp] theorem Thr.sendFixed_wait : (th.sendFixed clk lat o ws).wait = th.wait := by cases o <;> rfl
@[simp] theorem Thr.sendFixed_lastIssue : (th.sendFixed clk lat o ws).lastIssue = th.lastIssue := by cases o <;> rfl
@[simp] theorem Thr.sendFixed_seq : (th.sendFixed clk lat o ws).seq = th.seq := by cases o <;> rfl
@[simp] theorem Thr.sendFixed_starve : (th.sendFixed clk lat o ws).starve = th.starve := by cases o <;> rfl
@[simp] theorem Thr.sendFixed_yielded : (th.sendFixed clk lat o ws).yielded = th.yielded := by cases o <;> rfl
@[simp] theorem Thr.sendFixed_pinned : (th.sendFixed clk lat o ws).pinned = th.pinned := by cases o <;> rfl
@[simp] theorem Thr.sendFixed_pinOther : (th.sendFixed clk lat o ws).pinOther = th.pinOther := by cases o <;> rfl
@[simp] theorem Thr.sendFixed_pinFree : (th.sendFixed clk lat o ws).pinFree = th.pinFree := by cases o <;> rfl
@[simp] theorem Thr.sendFixed_ra : (th.sendFixed clk lat o ws).ra = th.ra := by cases o <;> rfl
@[simp] theorem Thr.sendFixed_live : (th.sendFixed clk lat o ws).live = th.live := by cases o <;> rfl
@[simp] theorem Thr.sendFixed_slot : (th.sendFixed clk lat o ws).slot = th.slot := by cases o <;> rfl
@[simp] theorem Thr.sendFixed_ended : (th.sendFixed clk lat o ws).ended = th.ended := by cases o <;> rfl
@[simp] theorem Thr.sendFixed_equinox : (th.sendFixed clk lat o ws).equinox = th.equinox := by cases o <;> rfl
@[simp] theorem Thr.sendFixed_saved : (th.sendFixed clk lat o ws).saved = th.saved := by cases o <;> rfl
@[simp] theorem Thr.sendFixed_lost : (th.sendFixed clk lat o ws).lost = th.lost := by cases o <;> rfl
@[simp] theorem Thr.sendFixed_awaits : (th.sendFixed clk lat o ws).awaits = th.awaits := by cases o <;> rfl
@[simp] theorem Thr.sendFixed_stErr : (th.sendFixed clk lat o ws).stErr = th.stErr := by cases o <;> rfl
@[simp] theorem Thr.sendFixed_faultAt : (th.sendFixed clk lat o ws).faultAt = th.faultAt := by cases o <;> rfl
@[simp] theorem Thr.sendFixed_reopen : (th.sendFixed clk lat o ws).reopen = th.reopen := by cases o <;> rfl
@[simp] theorem Thr.sendFixed_recs : (th.sendFixed clk lat o ws).recs = th.recs := by cases o <;> rfl
@[simp] theorem Thr.sendFixed_seen : (th.sendFixed clk lat o ws).seen = th.seen := by cases o <;> rfl
@[simp] theorem Thr.sendFixed_deps : (th.sendFixed clk lat o ws).deps = th.deps := by cases o <;> rfl
@[simp] theorem Thr.sendFixed_latchDeps : (th.sendFixed clk lat o ws).latchDeps = th.latchDeps := by cases o <;> rfl
@[simp] theorem Thr.sendFixed_ctlDeps : (th.sendFixed clk lat o ws).ctlDeps = th.ctlDeps := by cases o <;> rfl
@[simp] theorem Thr.sendFixed_owed : (th.sendFixed clk lat o ws).owed = th.owed := by cases o <;> rfl
@[simp] theorem Thr.sendFixed_fences : (th.sendFixed clk lat o ws).fences = th.fences := by cases o <;> rfl

end

/-! ### Thr.killOlder -/

section

variable (th : Thr) (q : Nat) (w : RegW)

@[simp] theorem Thr.killOlder_scalar : (th.killOlder q w).scalar = th.scalar := rfl
@[simp] theorem Thr.killOlder_pcv : (th.killOlder q w).pcv = th.pcv := rfl
@[simp] theorem Thr.killOlder_regs : (th.killOlder q w).regs = th.regs := rfl
@[simp] theorem Thr.killOlder_sregs : (th.killOlder q w).sregs = th.sregs := rfl
@[simp] theorem Thr.killOlder_preds : (th.killOlder q w).preds = th.preds := rfl
@[simp] theorem Thr.killOlder_latches : (th.killOlder q w).latches = th.latches := rfl
@[simp] theorem Thr.killOlder_busy : (th.killOlder q w).busy = th.busy := rfl
@[simp] theorem Thr.killOlder_long : (th.killOlder q w).long = th.long := rfl
@[simp] theorem Thr.killOlder_hs : (th.killOlder q w).hs = th.hs := rfl
@[simp] theorem Thr.killOlder_segs : (th.killOlder q w).segs = th.segs := rfl
@[simp] theorem Thr.killOlder_fsr : (th.killOlder q w).fsr = th.fsr := rfl
@[simp] theorem Thr.killOlder_wsr : (th.killOlder q w).wsr = th.wsr := rfl
@[simp] theorem Thr.killOlder_handler : (th.killOlder q w).handler = th.handler := rfl
@[simp] theorem Thr.killOlder_uqPos : (th.killOlder q w).uqPos = th.uqPos := rfl
@[simp] theorem Thr.killOlder_cause : (th.killOlder q w).cause = th.cause := rfl
@[simp] theorem Thr.killOlder_pendBits : (th.killOlder q w).pendBits = th.pendBits := rfl
@[simp] theorem Thr.killOlder_also : (th.killOlder q w).also = th.also := rfl
@[simp] theorem Thr.killOlder_epc : (th.killOlder q w).epc = th.epc := rfl
@[simp] theorem Thr.killOlder_tval : (th.killOlder q w).tval = th.tval := rfl
@[simp] theorem Thr.killOlder_lmask : (th.killOlder q w).lmask = th.lmask := rfl
@[simp] theorem Thr.killOlder_recPcv : (th.killOlder q w).recPcv = th.recPcv := rfl
@[simp] theorem Thr.killOlder_pendTval : (th.killOlder q w).pendTval = th.pendTval := rfl
@[simp] theorem Thr.killOlder_skipCmp : (th.killOlder q w).skipCmp = th.skipCmp := rfl
@[simp] theorem Thr.killOlder_chunks : (th.killOlder q w).chunks = th.chunks := rfl
@[simp] theorem Thr.killOlder_baseChunks : (th.killOlder q w).baseChunks = th.baseChunks := rfl
@[simp] theorem Thr.killOlder_level : (th.killOlder q w).level = th.level := rfl
@[simp] theorem Thr.killOlder_chain : (th.killOlder q w).chain = th.chain := rfl
@[simp] theorem Thr.killOlder_wait : (th.killOlder q w).wait = th.wait := rfl
@[simp] theorem Thr.killOlder_lastIssue : (th.killOlder q w).lastIssue = th.lastIssue := rfl
@[simp] theorem Thr.killOlder_seq : (th.killOlder q w).seq = th.seq := rfl
@[simp] theorem Thr.killOlder_starve : (th.killOlder q w).starve = th.starve := rfl
@[simp] theorem Thr.killOlder_yielded : (th.killOlder q w).yielded = th.yielded := rfl
@[simp] theorem Thr.killOlder_pinned : (th.killOlder q w).pinned = th.pinned := rfl
@[simp] theorem Thr.killOlder_pinOther : (th.killOlder q w).pinOther = th.pinOther := rfl
@[simp] theorem Thr.killOlder_pinFree : (th.killOlder q w).pinFree = th.pinFree := rfl
@[simp] theorem Thr.killOlder_ra : (th.killOlder q w).ra = th.ra := rfl
@[simp] theorem Thr.killOlder_live : (th.killOlder q w).live = th.live := rfl
@[simp] theorem Thr.killOlder_blocks : (th.killOlder q w).blocks = th.blocks := rfl
@[simp] theorem Thr.killOlder_slot : (th.killOlder q w).slot = th.slot := rfl
@[simp] theorem Thr.killOlder_ended : (th.killOlder q w).ended = th.ended := rfl
@[simp] theorem Thr.killOlder_equinox : (th.killOlder q w).equinox = th.equinox := rfl
@[simp] theorem Thr.killOlder_saved : (th.killOlder q w).saved = th.saved := rfl
@[simp] theorem Thr.killOlder_lost : (th.killOlder q w).lost = th.lost := rfl
@[simp] theorem Thr.killOlder_awaits : (th.killOlder q w).awaits = th.awaits := rfl
@[simp] theorem Thr.killOlder_stErr : (th.killOlder q w).stErr = th.stErr := rfl
@[simp] theorem Thr.killOlder_faultAt : (th.killOlder q w).faultAt = th.faultAt := rfl
@[simp] theorem Thr.killOlder_reopen : (th.killOlder q w).reopen = th.reopen := rfl
@[simp] theorem Thr.killOlder_recs : (th.killOlder q w).recs = th.recs := rfl
@[simp] theorem Thr.killOlder_seen : (th.killOlder q w).seen = th.seen := rfl
@[simp] theorem Thr.killOlder_deps : (th.killOlder q w).deps = th.deps := rfl
@[simp] theorem Thr.killOlder_latchDeps : (th.killOlder q w).latchDeps = th.latchDeps := rfl
@[simp] theorem Thr.killOlder_ctlDeps : (th.killOlder q w).ctlDeps = th.ctlDeps := rfl
@[simp] theorem Thr.killOlder_owed : (th.killOlder q w).owed = th.owed := rfl
@[simp] theorem Thr.killOlder_fences : (th.killOlder q w).fences = th.fences := rfl

end

/-! ### Thr.enterHandler -/

section

variable (th : Thr) (e h : BitVec 48) (t : Trap)

@[simp] theorem Thr.enterHandler_scalar : (th.enterHandler e h t).scalar = th.scalar := rfl
@[simp] theorem Thr.enterHandler_regs : (th.enterHandler e h t).regs = th.regs := rfl
@[simp] theorem Thr.enterHandler_sregs : (th.enterHandler e h t).sregs = th.sregs := rfl
@[simp] theorem Thr.enterHandler_preds : (th.enterHandler e h t).preds = th.preds := rfl
@[simp] theorem Thr.enterHandler_busy : (th.enterHandler e h t).busy = th.busy := rfl
@[simp] theorem Thr.enterHandler_long : (th.enterHandler e h t).long = th.long := rfl
@[simp] theorem Thr.enterHandler_hs : (th.enterHandler e h t).hs = th.hs := rfl
@[simp] theorem Thr.enterHandler_segs : (th.enterHandler e h t).segs = th.segs := rfl
@[simp] theorem Thr.enterHandler_fsr : (th.enterHandler e h t).fsr = th.fsr := rfl
@[simp] theorem Thr.enterHandler_wsr : (th.enterHandler e h t).wsr = th.wsr := rfl
@[simp] theorem Thr.enterHandler_uqPos : (th.enterHandler e h t).uqPos = th.uqPos := rfl
@[simp] theorem Thr.enterHandler_skipCmp : (th.enterHandler e h t).skipCmp = th.skipCmp := rfl
@[simp] theorem Thr.enterHandler_chunks : (th.enterHandler e h t).chunks = th.chunks := rfl
@[simp] theorem Thr.enterHandler_baseChunks : (th.enterHandler e h t).baseChunks = th.baseChunks := rfl
@[simp] theorem Thr.enterHandler_level : (th.enterHandler e h t).level = th.level := rfl
@[simp] theorem Thr.enterHandler_pend : (th.enterHandler e h t).pend = th.pend := rfl
@[simp] theorem Thr.enterHandler_ops : (th.enterHandler e h t).ops = th.ops := rfl
@[simp] theorem Thr.enterHandler_seq : (th.enterHandler e h t).seq = th.seq := rfl
@[simp] theorem Thr.enterHandler_starve : (th.enterHandler e h t).starve = th.starve := rfl
@[simp] theorem Thr.enterHandler_yielded : (th.enterHandler e h t).yielded = th.yielded := rfl
@[simp] theorem Thr.enterHandler_pinned : (th.enterHandler e h t).pinned = th.pinned := rfl
@[simp] theorem Thr.enterHandler_pinOther : (th.enterHandler e h t).pinOther = th.pinOther := rfl
@[simp] theorem Thr.enterHandler_pinFree : (th.enterHandler e h t).pinFree = th.pinFree := rfl
@[simp] theorem Thr.enterHandler_ra : (th.enterHandler e h t).ra = th.ra := rfl
@[simp] theorem Thr.enterHandler_live : (th.enterHandler e h t).live = th.live := rfl
@[simp] theorem Thr.enterHandler_blocks : (th.enterHandler e h t).blocks = th.blocks := rfl
@[simp] theorem Thr.enterHandler_slot : (th.enterHandler e h t).slot = th.slot := rfl
@[simp] theorem Thr.enterHandler_ended : (th.enterHandler e h t).ended = th.ended := rfl
@[simp] theorem Thr.enterHandler_equinox : (th.enterHandler e h t).equinox = th.equinox := rfl
@[simp] theorem Thr.enterHandler_saved : (th.enterHandler e h t).saved = th.saved := rfl
@[simp] theorem Thr.enterHandler_lost : (th.enterHandler e h t).lost = th.lost := rfl
@[simp] theorem Thr.enterHandler_awaits : (th.enterHandler e h t).awaits = th.awaits := rfl
@[simp] theorem Thr.enterHandler_stErr : (th.enterHandler e h t).stErr = th.stErr := rfl
@[simp] theorem Thr.enterHandler_faultAt : (th.enterHandler e h t).faultAt = th.faultAt := rfl
@[simp] theorem Thr.enterHandler_recs : (th.enterHandler e h t).recs = th.recs := rfl
@[simp] theorem Thr.enterHandler_seen : (th.enterHandler e h t).seen = th.seen := rfl
@[simp] theorem Thr.enterHandler_deps : (th.enterHandler e h t).deps = th.deps := rfl
@[simp] theorem Thr.enterHandler_latchDeps : (th.enterHandler e h t).latchDeps = th.latchDeps := rfl
@[simp] theorem Thr.enterHandler_ctlDeps : (th.enterHandler e h t).ctlDeps = th.ctlDeps := rfl
@[simp] theorem Thr.enterHandler_owed : (th.enterHandler e h t).owed = th.owed := rfl
@[simp] theorem Thr.enterHandler_fences : (th.enterHandler e h t).fences = th.fences := rfl

end

/-! ### What an update writes -/

@[simp] theorem State.team_setTeam_same (s : State) (k : Nat) (t : Team) : (s.setTeam k t).team k = t := Sparse.get_put_same _ _ _ _
theorem State.team_setTeam_other (s : State) {j k : Nat} (h : j ≠ k) (t : Team) : (s.setTeam k t).team j = s.team j := Sparse.get_put_other _ h _ _
@[simp] theorem State.team_mapTeam_same (s : State) (k : Nat) (f : Team → Team) : (s.mapTeam k f).team k = f (s.team k) := Sparse.get_put_same _ _ _ _
theorem State.team_mapTeam_other (s : State) {j k : Nat} (h : j ≠ k) (f : Team → Team) : (s.mapTeam k f).team j = s.team j := Sparse.get_put_other _ h _ _

@[simp] theorem State.launch_mapLaunch_same (s : State) (k : Nat) (f : Launch → Launch) : (s.mapLaunch k f).launch k = f (s.launch k) := Sparse.get_put_same _ _ _ _
theorem State.launch_mapLaunch_other (s : State) {j k : Nat} (h : j ≠ k) (f : Launch → Launch) : (s.mapLaunch k f).launch j = s.launch j := Sparse.get_put_other _ h _ _
@[simp] theorem State.coreOf_mapCore_same (s : State) (k : Nat) (f : Core → Core) : (s.mapCore k f).coreOf k = f (s.coreOf k) := Sparse.get_put_same _ _ _ _
theorem State.coreOf_mapCore_other (s : State) {j k : Nat} (h : j ≠ k) (f : Core → Core) : (s.mapCore k f).coreOf j = s.coreOf j := Sparse.get_put_other _ h _ _
@[simp] theorem State.quad_mapQuad_same (s : State) (k : Nat) (f : Quad → Quad) : (s.mapQuad k f).quad k = f (s.quad k) := Sparse.get_put_same _ _ _ _
theorem State.quad_mapQuad_other (s : State) {j k : Nat} (h : j ≠ k) (f : Quad → Quad) : (s.mapQuad k f).quad j = s.quad j := Sparse.get_put_other _ h _ _
@[simp] theorem State.die_mapDie_same (s : State) (k : Nat) (f : Die → Die) : (s.mapDie k f).die k = f (s.die k) := Sparse.get_put_same _ _ _ _
theorem State.die_mapDie_other (s : State) {j k : Nat} (h : j ≠ k) (f : Die → Die) : (s.mapDie k f).die j = s.die j := Sparse.get_put_other _ h _ _
@[simp] theorem State.part_mapPart_same (s : State) (k : Nat) (f : Part → Part) : (s.mapPart k f).part k = f (s.part k) := Sparse.get_put_same _ _ _ _
theorem State.part_mapPart_other (s : State) {j k : Nat} (h : j ≠ k) (f : Part → Part) : (s.mapPart k f).part j = s.part j := Sparse.get_put_other _ h _ _
@[simp] theorem State.qif_mapQif_same (s : State) (k : Nat) (f : Qif → Qif) : (s.mapQif k f).qif k = f (s.qif k) := Sparse.get_put_same _ _ _ _
theorem State.qif_mapQif_other (s : State) {j k : Nat} (h : j ≠ k) (f : Qif → Qif) : (s.mapQif k f).qif j = s.qif j := Sparse.get_put_other _ h _ _
@[simp] theorem State.frame_mapFrame_same (s : State) (k : Nat) (f : FrameRec → FrameRec) : (s.mapFrame k f).frame k = f (s.frame k) := Sparse.get_put_same _ _ _ _
theorem State.frame_mapFrame_other (s : State) {j k : Nat} (h : j ≠ k) (f : FrameRec → FrameRec) : (s.mapFrame k f).frame j = s.frame j := Sparse.get_put_other _ h _ _

/-! ### Tables that an update does not touch -/

@[simp] theorem State.launch_setTeam (s : State) (k : Nat) (t : Team) (j : Nat) : (s.setTeam k t).launch j = s.launch j := rfl
@[simp] theorem State.coreOf_setTeam (s : State) (k : Nat) (t : Team) (j : Nat) : (s.setTeam k t).coreOf j = s.coreOf j := rfl
@[simp] theorem State.quad_setTeam (s : State) (k : Nat) (t : Team) (j : Nat) : (s.setTeam k t).quad j = s.quad j := rfl
@[simp] theorem State.die_setTeam (s : State) (k : Nat) (t : Team) (j : Nat) : (s.setTeam k t).die j = s.die j := rfl
@[simp] theorem State.part_setTeam (s : State) (k : Nat) (t : Team) (j : Nat) : (s.setTeam k t).part j = s.part j := rfl
@[simp] theorem State.qif_setTeam (s : State) (k : Nat) (t : Team) (j : Nat) : (s.setTeam k t).qif j = s.qif j := rfl
@[simp] theorem State.frame_setTeam (s : State) (k : Nat) (t : Team) (j : Nat) : (s.setTeam k t).frame j = s.frame j := rfl
@[simp] theorem State.launch_mapTeam (s : State) (k : Nat) (f : Team → Team) (j : Nat) : (s.mapTeam k f).launch j = s.launch j := rfl
@[simp] theorem State.coreOf_mapTeam (s : State) (k : Nat) (f : Team → Team) (j : Nat) : (s.mapTeam k f).coreOf j = s.coreOf j := rfl
@[simp] theorem State.quad_mapTeam (s : State) (k : Nat) (f : Team → Team) (j : Nat) : (s.mapTeam k f).quad j = s.quad j := rfl
@[simp] theorem State.die_mapTeam (s : State) (k : Nat) (f : Team → Team) (j : Nat) : (s.mapTeam k f).die j = s.die j := rfl
@[simp] theorem State.part_mapTeam (s : State) (k : Nat) (f : Team → Team) (j : Nat) : (s.mapTeam k f).part j = s.part j := rfl
@[simp] theorem State.qif_mapTeam (s : State) (k : Nat) (f : Team → Team) (j : Nat) : (s.mapTeam k f).qif j = s.qif j := rfl
@[simp] theorem State.frame_mapTeam (s : State) (k : Nat) (f : Team → Team) (j : Nat) : (s.mapTeam k f).frame j = s.frame j := rfl
@[simp] theorem State.team_mapLaunch (s : State) (k : Nat) (f : Launch → Launch) (j : Nat) : (s.mapLaunch k f).team j = s.team j := rfl
@[simp] theorem State.coreOf_mapLaunch (s : State) (k : Nat) (f : Launch → Launch) (j : Nat) : (s.mapLaunch k f).coreOf j = s.coreOf j := rfl
@[simp] theorem State.quad_mapLaunch (s : State) (k : Nat) (f : Launch → Launch) (j : Nat) : (s.mapLaunch k f).quad j = s.quad j := rfl
@[simp] theorem State.die_mapLaunch (s : State) (k : Nat) (f : Launch → Launch) (j : Nat) : (s.mapLaunch k f).die j = s.die j := rfl
@[simp] theorem State.part_mapLaunch (s : State) (k : Nat) (f : Launch → Launch) (j : Nat) : (s.mapLaunch k f).part j = s.part j := rfl
@[simp] theorem State.qif_mapLaunch (s : State) (k : Nat) (f : Launch → Launch) (j : Nat) : (s.mapLaunch k f).qif j = s.qif j := rfl
@[simp] theorem State.frame_mapLaunch (s : State) (k : Nat) (f : Launch → Launch) (j : Nat) : (s.mapLaunch k f).frame j = s.frame j := rfl
@[simp] theorem State.team_mapCore (s : State) (k : Nat) (f : Core → Core) (j : Nat) : (s.mapCore k f).team j = s.team j := rfl
@[simp] theorem State.launch_mapCore (s : State) (k : Nat) (f : Core → Core) (j : Nat) : (s.mapCore k f).launch j = s.launch j := rfl
@[simp] theorem State.quad_mapCore (s : State) (k : Nat) (f : Core → Core) (j : Nat) : (s.mapCore k f).quad j = s.quad j := rfl
@[simp] theorem State.die_mapCore (s : State) (k : Nat) (f : Core → Core) (j : Nat) : (s.mapCore k f).die j = s.die j := rfl
@[simp] theorem State.part_mapCore (s : State) (k : Nat) (f : Core → Core) (j : Nat) : (s.mapCore k f).part j = s.part j := rfl
@[simp] theorem State.qif_mapCore (s : State) (k : Nat) (f : Core → Core) (j : Nat) : (s.mapCore k f).qif j = s.qif j := rfl
@[simp] theorem State.frame_mapCore (s : State) (k : Nat) (f : Core → Core) (j : Nat) : (s.mapCore k f).frame j = s.frame j := rfl
@[simp] theorem State.team_mapQuad (s : State) (k : Nat) (f : Quad → Quad) (j : Nat) : (s.mapQuad k f).team j = s.team j := rfl
@[simp] theorem State.launch_mapQuad (s : State) (k : Nat) (f : Quad → Quad) (j : Nat) : (s.mapQuad k f).launch j = s.launch j := rfl
@[simp] theorem State.coreOf_mapQuad (s : State) (k : Nat) (f : Quad → Quad) (j : Nat) : (s.mapQuad k f).coreOf j = s.coreOf j := rfl
@[simp] theorem State.die_mapQuad (s : State) (k : Nat) (f : Quad → Quad) (j : Nat) : (s.mapQuad k f).die j = s.die j := rfl
@[simp] theorem State.part_mapQuad (s : State) (k : Nat) (f : Quad → Quad) (j : Nat) : (s.mapQuad k f).part j = s.part j := rfl
@[simp] theorem State.qif_mapQuad (s : State) (k : Nat) (f : Quad → Quad) (j : Nat) : (s.mapQuad k f).qif j = s.qif j := rfl
@[simp] theorem State.frame_mapQuad (s : State) (k : Nat) (f : Quad → Quad) (j : Nat) : (s.mapQuad k f).frame j = s.frame j := rfl
@[simp] theorem State.team_mapDie (s : State) (k : Nat) (f : Die → Die) (j : Nat) : (s.mapDie k f).team j = s.team j := rfl
@[simp] theorem State.launch_mapDie (s : State) (k : Nat) (f : Die → Die) (j : Nat) : (s.mapDie k f).launch j = s.launch j := rfl
@[simp] theorem State.coreOf_mapDie (s : State) (k : Nat) (f : Die → Die) (j : Nat) : (s.mapDie k f).coreOf j = s.coreOf j := rfl
@[simp] theorem State.quad_mapDie (s : State) (k : Nat) (f : Die → Die) (j : Nat) : (s.mapDie k f).quad j = s.quad j := rfl
@[simp] theorem State.part_mapDie (s : State) (k : Nat) (f : Die → Die) (j : Nat) : (s.mapDie k f).part j = s.part j := rfl
@[simp] theorem State.qif_mapDie (s : State) (k : Nat) (f : Die → Die) (j : Nat) : (s.mapDie k f).qif j = s.qif j := rfl
@[simp] theorem State.frame_mapDie (s : State) (k : Nat) (f : Die → Die) (j : Nat) : (s.mapDie k f).frame j = s.frame j := rfl
@[simp] theorem State.team_mapPart (s : State) (k : Nat) (f : Part → Part) (j : Nat) : (s.mapPart k f).team j = s.team j := rfl
@[simp] theorem State.launch_mapPart (s : State) (k : Nat) (f : Part → Part) (j : Nat) : (s.mapPart k f).launch j = s.launch j := rfl
@[simp] theorem State.coreOf_mapPart (s : State) (k : Nat) (f : Part → Part) (j : Nat) : (s.mapPart k f).coreOf j = s.coreOf j := rfl
@[simp] theorem State.quad_mapPart (s : State) (k : Nat) (f : Part → Part) (j : Nat) : (s.mapPart k f).quad j = s.quad j := rfl
@[simp] theorem State.die_mapPart (s : State) (k : Nat) (f : Part → Part) (j : Nat) : (s.mapPart k f).die j = s.die j := rfl
@[simp] theorem State.qif_mapPart (s : State) (k : Nat) (f : Part → Part) (j : Nat) : (s.mapPart k f).qif j = s.qif j := rfl
@[simp] theorem State.frame_mapPart (s : State) (k : Nat) (f : Part → Part) (j : Nat) : (s.mapPart k f).frame j = s.frame j := rfl
@[simp] theorem State.team_mapQif (s : State) (k : Nat) (f : Qif → Qif) (j : Nat) : (s.mapQif k f).team j = s.team j := rfl
@[simp] theorem State.launch_mapQif (s : State) (k : Nat) (f : Qif → Qif) (j : Nat) : (s.mapQif k f).launch j = s.launch j := rfl
@[simp] theorem State.coreOf_mapQif (s : State) (k : Nat) (f : Qif → Qif) (j : Nat) : (s.mapQif k f).coreOf j = s.coreOf j := rfl
@[simp] theorem State.quad_mapQif (s : State) (k : Nat) (f : Qif → Qif) (j : Nat) : (s.mapQif k f).quad j = s.quad j := rfl
@[simp] theorem State.die_mapQif (s : State) (k : Nat) (f : Qif → Qif) (j : Nat) : (s.mapQif k f).die j = s.die j := rfl
@[simp] theorem State.part_mapQif (s : State) (k : Nat) (f : Qif → Qif) (j : Nat) : (s.mapQif k f).part j = s.part j := rfl
@[simp] theorem State.frame_mapQif (s : State) (k : Nat) (f : Qif → Qif) (j : Nat) : (s.mapQif k f).frame j = s.frame j := rfl
@[simp] theorem State.team_mapFrame (s : State) (k : Nat) (f : FrameRec → FrameRec) (j : Nat) : (s.mapFrame k f).team j = s.team j := rfl
@[simp] theorem State.launch_mapFrame (s : State) (k : Nat) (f : FrameRec → FrameRec) (j : Nat) : (s.mapFrame k f).launch j = s.launch j := rfl
@[simp] theorem State.coreOf_mapFrame (s : State) (k : Nat) (f : FrameRec → FrameRec) (j : Nat) : (s.mapFrame k f).coreOf j = s.coreOf j := rfl
@[simp] theorem State.quad_mapFrame (s : State) (k : Nat) (f : FrameRec → FrameRec) (j : Nat) : (s.mapFrame k f).quad j = s.quad j := rfl
@[simp] theorem State.die_mapFrame (s : State) (k : Nat) (f : FrameRec → FrameRec) (j : Nat) : (s.mapFrame k f).die j = s.die j := rfl
@[simp] theorem State.part_mapFrame (s : State) (k : Nat) (f : FrameRec → FrameRec) (j : Nat) : (s.mapFrame k f).part j = s.part j := rfl
@[simp] theorem State.qif_mapFrame (s : State) (k : Nat) (f : FrameRec → FrameRec) (j : Nat) : (s.mapFrame k f).qif j = s.qif j := rfl
@[simp] theorem State.launch_setThr (s : State) (a : Agent) (th : Thr) (j : Nat) : (s.setThr a th).launch j = s.launch j := by cases a <;> rfl
@[simp] theorem State.coreOf_setThr (s : State) (a : Agent) (th : Thr) (j : Nat) : (s.setThr a th).coreOf j = s.coreOf j := by cases a <;> rfl
@[simp] theorem State.die_setThr (s : State) (a : Agent) (th : Thr) (j : Nat) : (s.setThr a th).die j = s.die j := by cases a <;> rfl
@[simp] theorem State.part_setThr (s : State) (a : Agent) (th : Thr) (j : Nat) : (s.setThr a th).part j = s.part j := by cases a <;> rfl
@[simp] theorem State.qif_setThr (s : State) (a : Agent) (th : Thr) (j : Nat) : (s.setThr a th).qif j = s.qif j := by cases a <;> rfl
@[simp] theorem State.frame_setThr (s : State) (a : Agent) (th : Thr) (j : Nat) : (s.setThr a th).frame j = s.frame j := by cases a <;> rfl
@[simp] theorem State.launch_mapThr (s : State) (a : Agent) (f : Thr → Thr) (j : Nat) : (s.mapThr a f).launch j = s.launch j := by cases a <;> rfl
@[simp] theorem State.coreOf_mapThr (s : State) (a : Agent) (f : Thr → Thr) (j : Nat) : (s.mapThr a f).coreOf j = s.coreOf j := by cases a <;> rfl
@[simp] theorem State.die_mapThr (s : State) (a : Agent) (f : Thr → Thr) (j : Nat) : (s.mapThr a f).die j = s.die j := by cases a <;> rfl
@[simp] theorem State.part_mapThr (s : State) (a : Agent) (f : Thr → Thr) (j : Nat) : (s.mapThr a f).part j = s.part j := by cases a <;> rfl
@[simp] theorem State.qif_mapThr (s : State) (a : Agent) (f : Thr → Thr) (j : Nat) : (s.mapThr a f).qif j = s.qif j := by cases a <;> rfl
@[simp] theorem State.frame_mapThr (s : State) (a : Agent) (f : Thr → Thr) (j : Nat) : (s.mapThr a f).frame j = s.frame j := by cases a <;> rfl

/-! ### Threads -/

/-- The thread just written is the thread read. -/
@[simp] theorem State.thr_setThr_same (s : State) (a : Agent) (th : Thr) : (s.setThr a th).thr a = th := by
  cases a with
  | grp t g => simp [State.setThr, State.thr, Sparse.get_put_same]
  | ctl q => simp [State.setThr, State.thr]

@[simp] theorem State.thr_mapThr_same (s : State) (a : Agent) (f : Thr → Thr) : (s.mapThr a f).thr a = f (s.thr a) := by
  simp [State.mapThr]

/-- Writing one thread leaves every other thread alone. -/
theorem State.thr_setThr_other (s : State) {a b : Agent} (h : b ≠ a) (th : Thr) : (s.setThr a th).thr b = s.thr b := by
  cases a with
  | grp t g =>
    cases b with
    | ctl q => rfl
    | grp t' g' =>
      by_cases e : t' = t
      · subst e
        have hg : g' ≠ g := fun e => h (by rw [e])
        simp [State.setThr, State.thr, Sparse.get_put_other _ hg]
      · simp [State.setThr, State.thr, State.team_mapTeam_other _ e]
  | ctl q =>
    cases b with
    | grp t g => rfl
    | ctl q' =>
      have hq : q' ≠ q := fun e => h (by rw [e])
      simp [State.setThr, State.thr, State.quad_mapQuad_other _ hq]

theorem State.thr_mapThr_other (s : State) {a b : Agent} (h : b ≠ a) (f : Thr → Thr) : (s.mapThr a f).thr b = s.thr b :=
  State.thr_setThr_other s h _

/-- Writing a thread changes no field of its team but the table of groups. -/
theorem State.team_setThr (s : State) (a : Agent) (th : Thr) (k : Nat) :
    (s.setThr a th).team k = { s.team k with groups := ((s.setThr a th).team k).groups } := by
  cases a with
  | ctl q => rfl
  | grp t g =>
    by_cases e : k = t
    · subst e; simp [State.setThr]
    · simp [State.setThr, State.team_mapTeam_other _ e]

theorem State.launchOf_setThr (s : State) (a b : Agent) (th : Thr) : (s.setThr a th).launchOf b = s.launchOf b := by
  cases b with
  | grp t g => simp only [State.launchOf]; rw [State.team_setThr]
  | ctl q =>
    cases a with
    | grp t g => rfl
    | ctl q' =>
      by_cases e : q = q'
      · subst e; simp [State.setThr, State.launchOf]
      · simp [State.setThr, State.launchOf, State.quad_mapQuad_other _ e]

@[simp] theorem State.launchOf_mapThr (s : State) (a b : Agent) (f : Thr → Thr) : (s.mapThr a f).launchOf b = s.launchOf b :=
  State.launchOf_setThr s a b _

end Sys2Proof.Machine
end

