-- ==== Sys2Proof/Laws/Issue.lean ====
section
/-! SUPPORT. What the shared issue path does (R65): once for an instruction that issues without a cause, once for each check
that stops it, once for an instruction with no active lane. -/

namespace Sys2Proof.Laws

open Sys2Proof Sys2Proof.Machine Sys2Proof.Safety

theorem cur_landed (s : State) : (landed s).cur = s.cur := by simp [landed]
theorem clk_landed (s : State) : (landed s).clk = s.clk := by simp [landed]
theorem cur_noted (n : Ins) (x : BitVec 32) (s : State) : (noted n x s).cur = s.cur := by simp [noted, landed]
theorem clk_noted (n : Ins) (x : BitVec 32) (s : State) : (noted n x s).clk = s.clk := by simp [noted, landed]

/-- The shared path in the terms of `Clear`. -/
theorem issue_eq (n : Ins) (x : Extra) (body : Body) (s : State) (fl : Go → BitVec 5) :
    issue n x body s fl =
      if ((landed s).thr s.cur).ra.isSome then issueRa n x body (landed s)
      else match earlyTrap n x ((landed s).thr s.cur) with
        | some t => deliver n (landed s) [t]
        | none =>
          match lateTrap n x ((landed s).thr s.cur) with
          | some t => deliver n (noted n x.warn s) [t]
          | none =>
            if (sight n x.warn s).full = 0 then skip n (sight n x.warn s) (noted n x.warn s)
            else match body (sight n x.warn s) (noted n x.warn s) with
              | .error ts => deliver n (noted n x.warn s) ((sight n x.warn s).faults ++ (sight n x.warn s).others ts) (fl (sight n x.warn s))
              | .ok f =>
                if (sight n x.warn s).faults.isEmpty then finish n (sight n x.warn s) ((noted n x.warn s).thr s.cur) f
                else deliver n (noted n x.warn s) (sight n x.warn s).faults := by
  unfold issue
  simp only [noted, sight]
  rfl

/-- An instruction that issues without a cause does what its own effect does, or takes that effect's causes. -/
theorem issue_clear {n : Ins} {x : Extra} {s : State} (h : Clear n x s) (body : Body) (fl : Go → BitVec 5) :
    issue n x body s fl =
      match body (sight n x.warn s) (noted n x.warn s) with
      | .error ts => deliver n (noted n x.warn s) ts (fl (sight n x.warn s))
      | .ok f => finish n (sight n x.warn s) ((noted n x.warn s).thr s.cur) f := by
  rw [issue_eq, h.awake, h.early, h.late]
  simp only [Option.isSome_none, Bool.false_eq_true, if_false, h.some, h.sound, Go.others, List.isEmpty_nil, if_true, List.nil_append]

/-- A check that comes before any operand is read stops the instruction with its trap (R65). -/
theorem issue_early {n : Ins} {x : Extra} {s : State} {t : Trap} (ha : ((landed s).thr s.cur).ra = none)
    (h : earlyTrap n x ((landed s).thr s.cur) = some t) (body : Body) (fl : Go → BitVec 5) :
    issue n x body s fl = deliver n (landed s) [t] := by
  rw [issue_eq, ha, h]; rfl

/-- A late ILLEGAL stops it after the fallbacks have been noted (R65). -/
theorem issue_late {n : Ins} {x : Extra} {s : State} {t : Trap} (ha : ((landed s).thr s.cur).ra = none)
    (e : earlyTrap n x ((landed s).thr s.cur) = none)
    (h : lateTrap n x ((landed s).thr s.cur) = some t) (body : Body) (fl : Go → BitVec 5) :
    issue n x body s fl = deliver n (noted n x.warn s) [t] := by
  rw [issue_eq, ha, e, h]; rfl

/-- An instruction with no active lane only passes (R33, R43). -/
theorem issue_skip {n : Ins} {x : Extra} {s : State} (ha : ((landed s).thr s.cur).ra = none)
    (e : earlyTrap n x ((landed s).thr s.cur) = none) (l : lateTrap n x ((landed s).thr s.cur) = none)
    (f : (sight n x.warn s).full = 0) (body : Body) (fl : Go → BitVec 5) :
    issue n x body s fl = skip n (sight n x.warn s) (noted n x.warn s) := by
  rw [issue_eq, ha, e, l]
  simp only [Option.isSome_none, Bool.false_eq_true, if_false, f, if_true]

/-- The active lanes of an instruction without operand causes are all the active lanes. -/
theorem act_full {n : Ins} {a : Agent} {s : State} (h : (readOperands n a s).faults = []) :
    (readOperands n a s).act = (readOperands n a s).full := by
  simp only [readOperands] at h ⊢
  rw [h]; rfl

theorem sends_eq (n : Ins) (clk lat : Nat) (ws : List RegW) (th : Thr) :
    th.sendFixed clk lat n.flag ws = sends n clk lat ws th := by
  simp only [Thr.sendFixed, sends, flagged]
  cases n.flag <;> rfl

theorem opens_eq (n : Ins) (strong : Bool) (scope : Nat) (long : Bool) (k : VKind) (view : Option (Nat × Nat)) (deps : List Dep)
    (th : Thr) : th.sendVar n strong scope long k view deps = opens n strong scope long k view deps th := by
  simp only [Thr.sendVar, opens, flagged]
  cases n.flag <;> rfl

/-- Meeting values, passing a fence and consuming a queue entry take no time. -/
@[simp] theorem clk_note (s : State) (a : Agent) (ks : List Know) : (s.note a ks).clk = s.clk := by
  simp only [State.note]
  split <;> simp

@[simp] theorem clk_acquire (s : State) (a : Agent) (scope : Nat) : (s.acquire a scope).clk = s.clk := by simp [State.acquire]

theorem clk_consumeUq (s : State) (a : Agent) : (s.consumeUq a).clk = s.clk := by
  cases a <;> simp [State.consumeUq, State.join]

/-- What the shared path does after an effect that neither holds the instruction back nor moves the PCs. -/
theorem finish_plain {n : Ins} {g : Go} {before : Thr} {f : Fin} (hc : f.cancel = false) (hh : f.hold = false)
    (hp : f.pcs = none) (hn : g.n = n) (ht : n.row.opc ≠ 0x6A) (hr : before.ra = none)
    (hs : (f.s.thr f.s.cur).scalar = g.scal) :
    finish n g before f = (consumed n f.s).mapThr f.s.cur fun th => goesOn g (stepped n g before f.s.clk f.latch th) := by
  subst hn
  have hclk : (consumed g.n f.s).clk = f.s.clk := by
    unfold consumed; split
    · exact clk_consumeUq _ _
    · rfl
  have hu : (if (g.n.readsUq g.scal && before.ra.isNone) = true then f.s.consumeUq f.s.cur else f.s) = consumed g.n f.s := by
    rw [hr, consumed, hs]; simp
  unfold finish
  rw [hc, hh, hp]
  simp only [Bool.false_eq_true, if_false, hu, ht, hclk]
  congr 1
  funext th
  simp only [stepped, goesOn, Thr.advance, Thr.setPc, Thr.pushLatch, Thr.dropLatches]
  split <;> rfl

/-- A fixed-latency result that raises no cause: what `fixedNext` says. -/
theorem issueFixed_clear {n : Ins} {x : Extra} {s : State} (h : Clear n x s) (f : Go → Res) (ht : n.row.opc ≠ 0x6A)
    (hr : (f (sight n x.warn s)).traps = [])
    (hf : fpTrap ((noted n x.warn s).thr s.cur).fsr (sight n x.warn s).act (f (sight n x.warn s)).flags = []) :
    issueFixed n x f s = fixedNext n x.warn (f (sight n x.warn s)) s := by
  have hcur : (noted n x.warn s).cur = s.cur := cur_noted n x.warn s
  have hclk : (noted n x.warn s).clk = s.clk := clk_noted n x.warn s
  have hra : ((noted n x.warn s).thr s.cur).ra = none := by
    have := h.awake
    simp only [noted, State.thr_mapThr_same] at this ⊢
    exact this
  unfold issueFixed
  rw [issue_clear h]
  have e : fixedBody f (sight n x.warn s) (noted n x.warn s) = .ok
      { s := (noted n x.warn s).mapThr s.cur fun th => raises (unionFlags (sight n x.warn s).act (f (sight n x.warn s)).flags)
          (sends n s.clk (latency n.row.cls (sight n x.warn s).scal)
            (regWrites n ((noted n x.warn s).thr s.cur) ((f (sight n x.warn s)).mask.getD (sight n x.warn s).act)
              (sight n x.warn s).alive (f (sight n x.warn s)) 0) th)
        latch := resLatch (sight n x.warn s) (wideResult n (sight n x.warn s)) (f (sight n x.warn s)) 0 } := by
    have hgn : (sight n x.warn s).n = n := rfl
    simp only [fixedBody, commitFixed, hcur, hclk, hra, hr, hgn, sends_eq]
    have z : (sight n x.warn s).act &&& ~~~(0 : Mask) = (sight n x.warn s).act := by
      have : ~~~(0 : Mask) = BitVec.allOnes 32 := by decide
      rw [this, BitVec.and_allOnes]
    rw [z, hf]
    rfl
  rw [e]
  simp only
  rw [finish_plain (n := n) rfl rfl rfl rfl ht hra]
  · simp only [fixedNext, sentNext, State.mapThr_cur, hcur, State.mapThr_clk, hclk]
  · simp only [State.mapThr_cur, hcur, State.thr_mapThr_same]
    rfl

end Sys2Proof.Laws
end

