-- ==== Sys2Proof/Laws/Memory.lean ====
section
/-! SUPPORT. Laws of memory: a byte read after a write, what a write leaves alone, and the canonical form kept. -/

namespace Sys2Proof.Machine

open Sys2Proof

/-- What one byte of memory reads as after a write: the byte written there, else as before. -/
theorem Memory.byte_write (m : List Host.Cell) (a : Nat) (bs : List Byte) (j : Nat) :
    Memory.byte (Memory.write m a bs) j = if a ≤ j ∧ j < a + bs.length then bs.getD (j - a) 0 else Memory.byte m j := by
  induction bs generalizing m a with
  | nil => simp only [Memory.write, List.length_nil]; rw [if_neg (by omega)]
  | cons b r ih =>
    simp only [Memory.write]
    rw [ih]
    simp only [List.length_cons]
    by_cases h1 : a + 1 ≤ j ∧ j < a + 1 + r.length
    · have h2 : a ≤ j ∧ j < a + (r.length + 1) := by omega
      rw [if_pos h1, if_pos h2]
      obtain ⟨k, hk⟩ : ∃ k, j - a = k + 1 := ⟨j - a - 1, by omega⟩
      have : j - (a + 1) = k := by omega
      simp [hk, this]
    · rw [if_neg h1]
      by_cases e : j = a
      · subst e
        rw [if_pos (by omega)]
        simp [Memory.byte, Sparse.get_write]
      · rw [if_neg (by omega)]
        simp [Memory.byte, Sparse.get_write, e]

theorem Memory.byte_write_outside (m : List Host.Cell) (a : Nat) (bs : List Byte) (j : Nat)
    (h : j < a ∨ a + bs.length ≤ j) : Memory.byte (Memory.write m a bs) j = Memory.byte m j := by
  rw [Memory.byte_write, if_neg (by omega)]

/-- Every write keeps the canonical form. -/
theorem Memory.wf_write (m : List Host.Cell) (a : Nat) (bs : List Byte) (h : Memory.wf m = true) :
    Memory.wf (Memory.write m a bs) = true := by
  induction bs generalizing m a with
  | nil => exact h
  | cons b r ih => exact ih _ _ (Sparse.wf_write a b h)

theorem Memory.wf_filter (m : List Host.Cell) (q : Host.Cell → Bool) (h : Memory.wf m = true) :
    Memory.wf (m.filter q) = true := Sparse.wf_filter q h

/-- Memories in canonical form that read alike are equal data. -/
theorem Memory.ext (m n : List Host.Cell) (hm : Memory.wf m = true) (hn : Memory.wf n = true)
    (h : ∀ j, Memory.byte m j = Memory.byte n j) : m = n := Sparse.wf_ext m n none hm hn h

theorem Memory.read_length (m : List Host.Cell) (a n : Nat) : (Memory.read m a n).length = n := by simp [Memory.read]

theorem Memory.read_write_same (m : List Host.Cell) (a : Nat) (bs : List Byte) :
    Memory.read (Memory.write m a bs) a bs.length = bs := by
  apply List.ext_getElem
  · simp [Memory.read]
  · intro i h1 h2
    simp only [Memory.read, List.getElem_map, List.getElem_range]
    rw [Memory.byte_write, if_pos (by omega)]
    simp [h2]

end Sys2Proof.Machine
end

