-- ==== Sys2Proof/Laws/PerInstr.lean ====
section
/-! SUPPORT. The shape of every instruction as syntax: the row that its opcode finds in the opcode table is its own, the
opcode stands in bits [39:32] of its first word (R45), it has two words exactly where it carries a second one (R40), and a
step of the device has no words. -/

namespace Sys2Proof.Laws

open Sys2Proof

/-- What the words of an instruction hold, whatever its fields. -/
def Shape.Statement (i : Instr) : Prop :=
  match insOf i with
  | some n => Rows.ofOpc n.row.opc = some n.row ∧ ((encode i).headD 0).extractLsb' 32 8 = n.row.opc ∧
      (encode i).length = if n.w1.isSome then 2 else 1
  | none => encode i = []

/-- The opcode stands in bits [39:32] of the first word. -/
theorem word0_opcode (n : Ins) : n.word0.extractLsb' 32 8 = n.row.opc := by
  ext k hk
  simp only [Ins.word0, BitVec.getElem_extractLsb', BitVec.getLsbD_append]
  have h1 : ¬ (32 + k < 32) := by omega
  have h2 : 32 + k - 32 = k := by omega
  simp [h1, h2, hk]

theorem shape_words {i : Instr} {n : Ins} (h : insOf i = some n) (hr : Rows.ofOpc n.row.opc = some n.row) :
    Shape.Statement i := by
  have e : encode i = n.words := by simp only [encode, h]
  simp only [Shape.Statement, h, e]
  refine ⟨hr, word0_opcode n, ?_⟩
  cases hw : n.w1 with
  | none => simp [Ins.words, hw]
  | some w => simp [Ins.words, hw]

theorem shape_event {i : Instr} (h : insOf i = none) : Shape.Statement i := by
  simp [Shape.Statement, h, encode]

theorem Shape.nop : ∀ c p, Shape.Statement (.nop c p) := fun _ _ => shape_words rfl rfl
theorem Shape.add : ∀ c p, Shape.Statement (.add c p) := fun _ _ => shape_words rfl rfl
theorem Shape.sub : ∀ c p, Shape.Statement (.sub c p) := fun _ _ => shape_words rfl rfl
theorem Shape.mul : ∀ c p, Shape.Statement (.mul c p) := fun _ _ => shape_words rfl rfl
theorem Shape.mulhi : ∀ c p, Shape.Statement (.mulhi c p) := fun _ _ => shape_words rfl rfl
theorem Shape.mad : ∀ c p, Shape.Statement (.mad c p) := fun _ _ => shape_words rfl rfl
theorem Shape.min : ∀ c p, Shape.Statement (.min c p) := fun _ _ => shape_words rfl rfl
theorem Shape.max : ∀ c p, Shape.Statement (.max c p) := fun _ _ => shape_words rfl rfl
theorem Shape.abs : ∀ c p, Shape.Statement (.abs c p) := fun _ _ => shape_words rfl rfl
theorem Shape.neg : ∀ c p, Shape.Statement (.neg c p) := fun _ _ => shape_words rfl rfl
theorem Shape.and : ∀ c p, Shape.Statement (.and c p) := fun _ _ => shape_words rfl rfl
theorem Shape.or : ∀ c p, Shape.Statement (.or c p) := fun _ _ => shape_words rfl rfl
theorem Shape.xor : ∀ c p, Shape.Statement (.xor c p) := fun _ _ => shape_words rfl rfl
theorem Shape.not : ∀ c p, Shape.Statement (.not c p) := fun _ _ => shape_words rfl rfl
theorem Shape.shl : ∀ c p, Shape.Statement (.shl c p) := fun _ _ => shape_words rfl rfl
theorem Shape.shr : ∀ c p, Shape.Statement (.shr c p) := fun _ _ => shape_words rfl rfl
theorem Shape.sar : ∀ c p, Shape.Statement (.sar c p) := fun _ _ => shape_words rfl rfl
theorem Shape.rot : ∀ c p, Shape.Statement (.rot c p) := fun _ _ => shape_words rfl rfl
theorem Shape.popc : ∀ c p, Shape.Statement (.popc c p) := fun _ _ => shape_words rfl rfl
theorem Shape.clz : ∀ c p, Shape.Statement (.clz c p) := fun _ _ => shape_words rfl rfl
theorem Shape.bfe : ∀ c p, Shape.Statement (.bfe c p) := fun _ _ => shape_words rfl rfl
theorem Shape.bfi : ∀ c p, Shape.Statement (.bfi c p) := fun _ _ => shape_words rfl rfl
theorem Shape.sel : ∀ c p, Shape.Statement (.sel c p) := fun _ _ => shape_words rfl rfl
theorem Shape.cmp : ∀ c p, Shape.Statement (.cmp c p) := fun _ _ => shape_words rfl rfl
theorem Shape.addi : ∀ c p, Shape.Statement (.addi c p) := fun _ _ => shape_words rfl rfl
theorem Shape.li : ∀ c p, Shape.Statement (.li c p) := fun _ _ => shape_words rfl rfl
theorem Shape.lih : ∀ c p, Shape.Statement (.lih c p) := fun _ _ => shape_words rfl rfl
theorem Shape.mov : ∀ c p, Shape.Statement (.mov c p) := fun _ _ => shape_words rfl rfl
theorem Shape.lea : ∀ c p, Shape.Statement (.lea c p) := fun _ _ => shape_words rfl rfl
theorem Shape.cvt : ∀ c p, Shape.Statement (.cvt c p) := fun _ _ => shape_words rfl rfl
theorem Shape.div : ∀ c p, Shape.Statement (.div c p) := fun _ _ => shape_words rfl rfl
theorem Shape.rem : ∀ c p, Shape.Statement (.rem c p) := fun _ _ => shape_words rfl rfl
theorem Shape.fadd : ∀ c p, Shape.Statement (.fadd c p) := fun _ _ => shape_words rfl rfl
theorem Shape.fsub : ∀ c p, Shape.Statement (.fsub c p) := fun _ _ => shape_words rfl rfl
theorem Shape.fmul : ∀ c p, Shape.Statement (.fmul c p) := fun _ _ => shape_words rfl rfl
theorem Shape.fma : ∀ c p, Shape.Statement (.fma c p) := fun _ _ => shape_words rfl rfl
theorem Shape.fmin : ∀ c p, Shape.Statement (.fmin c p) := fun _ _ => shape_words rfl rfl
theorem Shape.fmax : ∀ c p, Shape.Statement (.fmax c p) := fun _ _ => shape_words rfl rfl
theorem Shape.fabs : ∀ c p, Shape.Statement (.fabs c p) := fun _ _ => shape_words rfl rfl
theorem Shape.fneg : ∀ c p, Shape.Statement (.fneg c p) := fun _ _ => shape_words rfl rfl
theorem Shape.fcmp : ∀ c p, Shape.Statement (.fcmp c p) := fun _ _ => shape_words rfl rfl
theorem Shape.fcvt : ∀ c p, Shape.Statement (.fcvt c p) := fun _ _ => shape_words rfl rfl
theorem Shape.fround : ∀ c p, Shape.Statement (.fround c p) := fun _ _ => shape_words rfl rfl
theorem Shape.fclass : ∀ c p, Shape.Statement (.fclass c p) := fun _ _ => shape_words rfl rfl
theorem Shape.fscl : ∀ c p, Shape.Statement (.fscl c p) := fun _ _ => shape_words rfl rfl
theorem Shape.fgetx : ∀ c p, Shape.Statement (.fgetx c p) := fun _ _ => shape_words rfl rfl
theorem Shape.rcps : ∀ c p, Shape.Statement (.rcps c p) := fun _ _ => shape_words rfl rfl
theorem Shape.rsqs : ∀ c p, Shape.Statement (.rsqs c p) := fun _ _ => shape_words rfl rfl
theorem Shape.exs : ∀ c p, Shape.Statement (.exs c p) := fun _ _ => shape_words rfl rfl
theorem Shape.lgs : ∀ c p, Shape.Statement (.lgs c p) := fun _ _ => shape_words rfl rfl
theorem Shape.sns : ∀ c p, Shape.Statement (.sns c p) := fun _ _ => shape_words rfl rfl
theorem Shape.css : ∀ c p, Shape.Statement (.css c p) := fun _ _ => shape_words rfl rfl
theorem Shape.fdiv : ∀ c p, Shape.Statement (.fdiv c p) := fun _ _ => shape_words rfl rfl
theorem Shape.fsqrt : ∀ c p, Shape.Statement (.fsqrt c p) := fun _ _ => shape_words rfl rfl
theorem Shape.dot2 : ∀ c p, Shape.Statement (.dot2 c p) := fun _ _ => shape_words rfl rfl
theorem Shape.dot4 : ∀ c p, Shape.Statement (.dot4 c p) := fun _ _ => shape_words rfl rfl
theorem Shape.pk2 : ∀ c p, Shape.Statement (.pk2 c p) := fun _ _ => shape_words rfl rfl
theorem Shape.upk2 : ∀ c p, Shape.Statement (.upk2 c p) := fun _ _ => shape_words rfl rfl
theorem Shape.pk4 : ∀ c p, Shape.Statement (.pk4 c p) := fun _ _ => shape_words rfl rfl
theorem Shape.upk4 : ∀ c p, Shape.Statement (.upk4 c p) := fun _ _ => shape_words rfl rfl
theorem Shape.hadd2 : ∀ c p, Shape.Statement (.hadd2 c p) := fun _ _ => shape_words rfl rfl
theorem Shape.hmul2 : ∀ c p, Shape.Statement (.hmul2 c p) := fun _ _ => shape_words rfl rfl
theorem Shape.hfma2 : ∀ c p, Shape.Statement (.hfma2 c p) := fun _ _ => shape_words rfl rfl
theorem Shape.shfl : ∀ c p, Shape.Statement (.shfl c p) := fun _ _ => shape_words rfl rfl
theorem Shape.vote : ∀ c p, Shape.Statement (.vote c p) := fun _ _ => shape_words rfl rfl
theorem Shape.match_ : ∀ c p, Shape.Statement (.match_ c p) := fun _ _ => shape_words rfl rfl
theorem Shape.cmpct : ∀ c p, Shape.Statement (.cmpct c p) := fun _ _ => shape_words rfl rfl
theorem Shape.scan : ∀ c p, Shape.Statement (.scan c p) := fun _ _ => shape_words rfl rfl
theorem Shape.red : ∀ c p, Shape.Statement (.red c p) := fun _ _ => shape_words rfl rfl
theorem Shape.segred : ∀ c p, Shape.Statement (.segred c p) := fun _ _ => shape_words rfl rfl
theorem Shape.srt : ∀ c p, Shape.Statement (.srt c p) := fun _ _ => shape_words rfl rfl
theorem Shape.topk : ∀ c p, Shape.Statement (.topk c p) := fun _ _ => shape_words rfl rfl
theorem Shape.kmerge : ∀ c p, Shape.Statement (.kmerge c p) := fun _ _ => shape_words rfl rfl
theorem Shape.rgput : ∀ c p, Shape.Statement (.rgput c p) := fun _ _ => shape_words rfl rfl
theorem Shape.rgget : ∀ c p, Shape.Statement (.rgget c p) := fun _ _ => shape_words rfl rfl
theorem Shape.lperm : ∀ c p, Shape.Statement (.lperm c p) := fun _ _ => shape_words rfl rfl
theorem Shape.bcast : ∀ c p, Shape.Statement (.bcast c p) := fun _ _ => shape_words rfl rfl
theorem Shape.ffs : ∀ c p, Shape.Statement (.ffs c p) := fun _ _ => shape_words rfl rfl
theorem Shape.br : ∀ c p, Shape.Statement (.br c p) := fun _ _ => shape_words rfl rfl
theorem Shape.brc : ∀ c p, Shape.Statement (.brc c p) := fun _ _ => shape_words rfl rfl
theorem Shape.brl : ∀ c p, Shape.Statement (.brl c p) := fun _ _ => shape_words rfl rfl
theorem Shape.brx : ∀ c p, Shape.Statement (.brx c p) := fun _ _ => shape_words rfl rfl
theorem Shape.call : ∀ c p, Shape.Statement (.call c p) := fun _ _ => shape_words rfl rfl
theorem Shape.ret : ∀ c p, Shape.Statement (.ret c p) := fun _ _ => shape_words rfl rfl
theorem Shape.exit : ∀ c p, Shape.Statement (.exit c p) := fun _ _ => shape_words rfl rfl
theorem Shape.yield : ∀ c p, Shape.Statement (.yield c p) := fun _ _ => shape_words rfl rfl
theorem Shape.halt : ∀ c p, Shape.Statement (.halt c p) := fun _ _ => shape_words rfl rfl
theorem Shape.trap : ∀ c p, Shape.Statement (.trap c p) := fun _ _ => shape_words rfl rfl
theorem Shape.tret : ∀ c p, Shape.Statement (.tret c p) := fun _ _ => shape_words rfl rfl
theorem Shape.brk : ∀ c p, Shape.Statement (.brk c p) := fun _ _ => shape_words rfl rfl
theorem Shape.bar : ∀ c p, Shape.Statement (.bar c p) := fun _ _ => shape_words rfl rfl
theorem Shape.barv : ∀ c p, Shape.Statement (.barv c p) := fun _ _ => shape_words rfl rfl
theorem Shape.barw : ∀ c p, Shape.Statement (.barw c p) := fun _ _ => shape_words rfl rfl
theorem Shape.fenceFull : ∀ c p, Shape.Statement (.fenceFull c p) := fun _ _ => shape_words rfl rfl
theorem Shape.fenceAcq : ∀ c p, Shape.Statement (.fenceAcq c p) := fun _ _ => shape_words rfl rfl
theorem Shape.fenceRel : ∀ c p, Shape.Statement (.fenceRel c p) := fun _ _ => shape_words rfl rfl
theorem Shape.twany : ∀ c p, Shape.Statement (.twany c p) := fun _ _ => shape_words rfl rfl
theorem Shape.twall : ∀ c p, Shape.Statement (.twall c p) := fun _ _ => shape_words rfl rfl
theorem Shape.tffs : ∀ c p, Shape.Statement (.tffs c p) := fun _ _ => shape_words rfl rfl
theorem Shape.tclr : ∀ c p, Shape.Statement (.tclr c p) := fun _ _ => shape_words rfl rfl
theorem Shape.racq : ∀ c p, Shape.Statement (.racq c p) := fun _ _ => shape_words rfl rfl
theorem Shape.rrel : ∀ c p, Shape.Statement (.rrel c p) := fun _ _ => shape_words rfl rfl
theorem Shape.tgrow : ∀ c p, Shape.Statement (.tgrow c p) := fun _ _ => shape_words rfl rfl
theorem Shape.tshrink : ∀ c p, Shape.Statement (.tshrink c p) := fun _ _ => shape_words rfl rfl
theorem Shape.tag : ∀ c p, Shape.Statement (.tag c p) := fun _ _ => shape_words rfl rfl
theorem Shape.tagset : ∀ c p, Shape.Statement (.tagset c p) := fun _ _ => shape_words rfl rfl
theorem Shape.ld : ∀ c p, Shape.Statement (.ld c p) := fun _ _ => shape_words rfl rfl
theorem Shape.st : ∀ c p, Shape.Statement (.st c p) := fun _ _ => shape_words rfl rfl
theorem Shape.lds : ∀ c p, Shape.Statement (.lds c p) := fun _ _ => shape_words rfl rfl
theorem Shape.sts : ∀ c p, Shape.Statement (.sts c p) := fun _ _ => shape_words rfl rfl
theorem Shape.pf : ∀ c p, Shape.Statement (.pf c p) := fun _ _ => shape_words rfl rfl
theorem Shape.atom : ∀ c p, Shape.Statement (.atom c p) := fun _ _ => shape_words rfl rfl
theorem Shape.cas : ∀ c p, Shape.Statement (.cas c p) := fun _ _ => shape_words rfl rfl
theorem Shape.atoms : ∀ c p, Shape.Statement (.atoms c p) := fun _ _ => shape_words rfl rfl
theorem Shape.hld : ∀ c p, Shape.Statement (.hld c p) := fun _ _ => shape_words rfl rfl
theorem Shape.hst : ∀ c p, Shape.Statement (.hst c p) := fun _ _ => shape_words rfl rfl
theorem Shape.hmk : ∀ c p, Shape.Statement (.hmk c p) := fun _ _ => shape_words rfl rfl
theorem Shape.hget : ∀ c p, Shape.Statement (.hget c p) := fun _ _ => shape_words rfl rfl
theorem Shape.vopen : ∀ c p, Shape.Statement (.vopen c p) := fun _ _ => shape_words rfl rfl
theorem Shape.vnar : ∀ c p, Shape.Statement (.vnar c p) := fun _ _ => shape_words rfl rfl
theorem Shape.vsplit : ∀ c p, Shape.Statement (.vsplit c p) := fun _ _ => shape_words rfl rfl
theorem Shape.vclose : ∀ c p, Shape.Statement (.vclose c p) := fun _ _ => shape_words rfl rfl
theorem Shape.vinfo : ∀ c p, Shape.Statement (.vinfo c p) := fun _ _ => shape_words rfl rfl
theorem Shape.hpub : ∀ c p, Shape.Statement (.hpub c p) := fun _ _ => shape_words rfl rfl
theorem Shape.cpy : ∀ c p, Shape.Statement (.cpy c p) := fun _ _ => shape_words rfl rfl
theorem Shape.cpy2 : ∀ c p, Shape.Statement (.cpy2 c p) := fun _ _ => shape_words rfl rfl
theorem Shape.gth : ∀ c p, Shape.Statement (.gth c p) := fun _ _ => shape_words rfl rfl
theorem Shape.sct : ∀ c p, Shape.Statement (.sct c p) := fun _ _ => shape_words rfl rfl
theorem Shape.coll : ∀ c p, Shape.Statement (.coll c p) := fun _ _ => shape_words rfl rfl
theorem Shape.fill : ∀ c p, Shape.Statement (.fill c p) := fun _ _ => shape_words rfl rfl
theorem Shape.fbset : ∀ c p, Shape.Statement (.fbset c p) := fun _ _ => shape_words rfl rfl
theorem Shape.fbclr : ∀ c p, Shape.Statement (.fbclr c p) := fun _ _ => shape_words rfl rfl
theorem Shape.sfpre : ∀ c p, Shape.Statement (.sfpre c p) := fun _ _ => shape_words rfl rfl
theorem Shape.mma : ∀ c p, Shape.Statement (.mma c p) := fun _ _ => shape_words rfl rfl
theorem Shape.mmz : ∀ c p, Shape.Statement (.mmz c p) := fun _ _ => shape_words rfl rfl
theorem Shape.mst : ∀ c p, Shape.Statement (.mst c p) := fun _ _ => shape_words rfl rfl
theorem Shape.mld : ∀ c p, Shape.Statement (.mld c p) := fun _ _ => shape_words rfl rfl
theorem Shape.mscl : ∀ c p, Shape.Statement (.mscl c p) := fun _ _ => shape_words rfl rfl
theorem Shape.mfeed : ∀ c p, Shape.Statement (.mfeed c p) := fun _ _ => shape_words rfl rfl
theorem Shape.mdrain : ∀ c p, Shape.Statement (.mdrain c p) := fun _ _ => shape_words rfl rfl
theorem Shape.tap : ∀ c p, Shape.Statement (.tap c p) := fun _ _ => shape_words rfl rfl
theorem Shape.rowsel : ∀ c p, Shape.Statement (.rowsel c p) := fun _ _ => shape_words rfl rfl
theorem Shape.rset : ∀ c p, Shape.Statement (.rset c p) := fun _ _ => shape_words rfl rfl
theorem Shape.tapget : ∀ c p, Shape.Statement (.tapget c p) := fun _ _ => shape_words rfl rfl
theorem Shape.wret : ∀ c p, Shape.Statement (.wret c p) := fun _ _ => shape_words rfl rfl
theorem Shape.wrd : ∀ c p, Shape.Statement (.wrd c p) := fun _ _ => shape_words rfl rfl
theorem Shape.tlaunch : ∀ c p, Shape.Statement (.tlaunch c p) := fun _ _ => shape_words rfl rfl
theorem Shape.qpush : ∀ c p, Shape.Statement (.qpush c p) := fun _ _ => shape_words rfl rfl
theorem Shape.qclose : ∀ c p, Shape.Statement (.qclose c p) := fun _ _ => shape_words rfl rfl
theorem Shape.srd : ∀ c p, Shape.Statement (.srd c p) := fun _ _ => shape_words rfl rfl
theorem Shape.swr : ∀ c p, Shape.Statement (.swr c p) := fun _ _ => shape_words rfl rfl
theorem Shape.segset : ∀ c p, Shape.Statement (.segset c p) := fun _ _ => shape_words rfl rfl
theorem Shape.fpadd : ∀ c p, Shape.Statement (.fpadd c p) := fun _ _ => shape_words rfl rfl
theorem Shape.pgev : ∀ c p, Shape.Statement (.pgev c p) := fun _ _ => shape_words rfl rfl
theorem Shape.tlbiPage : ∀ c p, Shape.Statement (.tlbiPage c p) := fun _ _ => shape_words rfl rfl
theorem Shape.tlbiInterface : ∀ c p, Shape.Statement (.tlbiInterface c p) := fun _ _ => shape_words rfl rfl
theorem Shape.tlbiAll : ∀ c p, Shape.Statement (.tlbiAll c p) := fun _ _ => shape_words rfl rfl
theorem Shape.dbgset : ∀ c p, Shape.Statement (.dbgset c p) := fun _ _ => shape_words rfl rfl
theorem Shape.mrst : ∀ c p, Shape.Statement (.mrst c p) := fun _ _ => shape_words rfl rfl
theorem Shape.headerPass : Shape.Statement (.headerPass) := shape_event rfl
theorem Shape.fixedResultLand : ∀ a, Shape.Statement (.fixedResultLand a) := fun _ => shape_event rfl
theorem Shape.variableOpComplete : ∀ a k, Shape.Statement (.variableOpComplete a k) := fun _ _ => shape_event rfl
theorem Shape.blockingOpComplete : ∀ a, Shape.Statement (.blockingOpComplete a) := fun _ => shape_event rfl
theorem Shape.groupEnd : ∀ a, Shape.Statement (.groupEnd a) := fun _ => shape_event rfl
theorem Shape.teamRetire : ∀ team, Shape.Statement (.teamRetire team) := fun _ => shape_event rfl
theorem Shape.latchPinRelease : ∀ a, Shape.Statement (.latchPinRelease a) := fun _ => shape_event rfl
theorem Shape.runaheadEntry : ∀ a, Shape.Statement (.runaheadEntry a) := fun _ => shape_event rfl
theorem Shape.runaheadLimit : ∀ a, Shape.Statement (.runaheadLimit a) := fun _ => shape_event rfl
theorem Shape.thaw : ∀ a, Shape.Statement (.thaw a) := fun _ => shape_event rfl
theorem Shape.cacheCopyExpiry : ∀ core, Shape.Statement (.cacheCopyExpiry core) := fun _ => shape_event rfl
theorem Shape.fibreScanner : ∀ quad, Shape.Statement (.fibreScanner quad) := fun _ => shape_event rfl
theorem Shape.distributorPlace : ∀ die, Shape.Statement (.distributorPlace die) := fun _ => shape_event rfl
theorem Shape.stealRequest : ∀ die launch, Shape.Statement (.stealRequest die launch) := fun _ _ => shape_event rfl
theorem Shape.equinoxStop : ∀ a, Shape.Statement (.equinoxStop a) := fun _ => shape_event rfl
theorem Shape.solsticeSave : ∀ team, Shape.Statement (.solsticeSave team) := fun _ => shape_event rfl
theorem Shape.controlCoreSave : ∀ quad, Shape.Statement (.controlCoreSave quad) := fun _ => shape_event rfl
theorem Shape.swapOut : ∀ team, Shape.Statement (.swapOut team) := fun _ => shape_event rfl
theorem Shape.sqeFillRead : ∀ die sqe, Shape.Statement (.sqeFillRead die sqe) := fun _ _ => shape_event rfl
theorem Shape.fillComplete : ∀ sqe, Shape.Statement (.fillComplete sqe) := fun _ => shape_event rfl
theorem Shape.fillReadFail : ∀ sqe, Shape.Statement (.fillReadFail sqe) := fun _ => shape_event rfl
theorem Shape.nvmeReadTimeout : ∀ sqe, Shape.Statement (.nvmeReadTimeout sqe) := fun _ => shape_event rfl
theorem Shape.storageDmaReject : ∀ port addr, Shape.Statement (.storageDmaReject port addr) := fun _ _ => shape_event rfl
theorem Shape.harvestFree : ∀ die, Shape.Statement (.harvestFree die) := fun _ => shape_event rfl
theorem Shape.registerDeadlock : ∀ core, Shape.Statement (.registerDeadlock core) := fun _ => shape_event rfl
theorem Shape.matrixEngineTurn : ∀ quad, Shape.Statement (.matrixEngineTurn quad) := fun _ => shape_event rfl
theorem Shape.engineCommandComplete : ∀ k, Shape.Statement (.engineCommandComplete k) := fun _ => shape_event rfl
theorem Shape.tapCommandServe : ∀ die, Shape.Statement (.tapCommandServe die) := fun _ => shape_event rfl
theorem Shape.backgroundEncode : ∀ die, Shape.Statement (.backgroundEncode die) := fun _ => shape_event rfl
theorem Shape.rowFate : ∀ die, Shape.Statement (.rowFate die) := fun _ => shape_event rfl
theorem Shape.tail : ∀ qif v, Shape.Statement (.tail qif v) := fun _ _ => shape_event rfl
theorem Shape.chainLaunch : ∀ qif, Shape.Statement (.chainLaunch qif) := fun _ => shape_event rfl
theorem Shape.chainWait : ∀ qif, Shape.Statement (.chainWait qif) := fun _ => shape_event rfl
theorem Shape.waitEntryFinish : ∀ qif, Shape.Statement (.waitEntryFinish qif) := fun _ => shape_event rfl
theorem Shape.chainSignal : ∀ qif, Shape.Statement (.chainSignal qif) := fun _ => shape_event rfl
theorem Shape.chainInvalidOp : ∀ qif, Shape.Statement (.chainInvalidOp qif) := fun _ => shape_event rfl
theorem Shape.launchFinish : ∀ launch, Shape.Statement (.launchFinish launch) := fun _ => shape_event rfl
theorem Shape.controlProgramStart : ∀ quad, Shape.Statement (.controlProgramStart quad) := fun _ => shape_event rfl
theorem Shape.map : ∀ call a, Shape.Statement (.map call a) := fun _ _ => shape_event rfl
theorem Shape.unmap : ∀ call iface va, Shape.Statement (.unmap call iface va) := fun _ _ _ => shape_event rfl
theorem Shape.region : ∀ call a, Shape.Statement (.region call a) := fun _ _ => shape_event rfl
theorem Shape.keynew : ∀ call keyId key, Shape.Statement (.keynew call keyId key) := fun _ _ _ => shape_event rfl
theorem Shape.keydel : ∀ call keyId, Shape.Statement (.keydel call keyId) := fun _ _ => shape_event rfl
theorem Shape.preempt : ∀ call cores ctls, Shape.Statement (.preempt call cores ctls) := fun _ _ _ => shape_event rfl
theorem Shape.partConfig : ∀ call a, Shape.Statement (.partConfig call a) := fun _ _ => shape_event rfl
theorem Shape.extent : ∀ call part index e, Shape.Statement (.extent call part index e) := fun _ _ _ _ => shape_event rfl
theorem Shape.unknownCall : ∀ call code, Shape.Statement (.unknownCall call code) := fun _ _ => shape_event rfl
theorem Shape.getTdispVersion : ∀ r qif, Shape.Statement (.getTdispVersion r qif) := fun _ _ => shape_event rfl
theorem Shape.getTdispCapabilities : ∀ r qif, Shape.Statement (.getTdispCapabilities r qif) := fun _ _ => shape_event rfl
theorem Shape.lockInterfaceRequest : ∀ r qif, Shape.Statement (.lockInterfaceRequest r qif) := fun _ _ => shape_event rfl
theorem Shape.getDeviceInterfaceReport : ∀ r qif, Shape.Statement (.getDeviceInterfaceReport r qif) := fun _ _ => shape_event rfl
theorem Shape.getDeviceInterfaceState : ∀ r qif, Shape.Statement (.getDeviceInterfaceState r qif) := fun _ _ => shape_event rfl
theorem Shape.startInterfaceRequest : ∀ r qif, Shape.Statement (.startInterfaceRequest r qif) := fun _ _ => shape_event rfl
theorem Shape.stopInterfaceRequest : ∀ r qif, Shape.Statement (.stopInterfaceRequest r qif) := fun _ _ => shape_event rfl
theorem Shape.getVersion : ∀ r, Shape.Statement (.getVersion r) := fun _ => shape_event rfl
theorem Shape.getCapabilities : ∀ r, Shape.Statement (.getCapabilities r) := fun _ => shape_event rfl
theorem Shape.negotiateAlgorithms : ∀ r, Shape.Statement (.negotiateAlgorithms r) := fun _ => shape_event rfl
theorem Shape.getDigests : ∀ r, Shape.Statement (.getDigests r) := fun _ => shape_event rfl
theorem Shape.getCertificate : ∀ r, Shape.Statement (.getCertificate r) := fun _ => shape_event rfl
theorem Shape.challenge : ∀ r nonce, Shape.Statement (.challenge r nonce) := fun _ _ => shape_event rfl
theorem Shape.getMeasurements : ∀ r signed nonce, Shape.Statement (.getMeasurements r signed nonce) := fun _ _ _ => shape_event rfl
theorem Shape.keyExchange : ∀ r exchange, Shape.Statement (.keyExchange r exchange) := fun _ _ => shape_event rfl
theorem Shape.finish : ∀ r, Shape.Statement (.finish r) := fun _ => shape_event rfl
theorem Shape.endSession : ∀ r, Shape.Statement (.endSession r) := fun _ => shape_event rfl
theorem Shape.unsupportedRequest : ∀ r code, Shape.Statement (.unsupportedRequest r code) := fun _ _ => shape_event rfl
theorem Shape.hostLinkReset : Shape.Statement (.hostLinkReset) := shape_event rfl
theorem Shape.eccCorrectable : ∀ w, Shape.Statement (.eccCorrectable w) := fun _ => shape_event rfl
theorem Shape.eccUncorrectable : ∀ w, Shape.Statement (.eccUncorrectable w) := fun _ => shape_event rfl
theorem Shape.sharedTagParityError : ∀ bank, Shape.Statement (.sharedTagParityError bank) := fun _ => shape_event rfl
theorem Shape.finperFlit : ∀ port seq crcGood room, Shape.Statement (.finperFlit port seq crcGood room) := fun _ _ _ _ => shape_event rfl
theorem Shape.finperReplay : ∀ port seq, Shape.Statement (.finperReplay port seq) := fun _ _ => shape_event rfl
theorem Shape.linkRetrain : ∀ port, Shape.Statement (.linkRetrain port) := fun _ => shape_event rfl
theorem Shape.clockStepDown : Shape.Statement (.clockStepDown) := shape_event rfl
theorem Shape.clockStepUp : Shape.Statement (.clockStepUp) := shape_event rfl
theorem Shape.thermalShutdown : Shape.Statement (.thermalShutdown) := shape_event rfl
theorem Shape.powerCapSet : ∀ milliwatts, Shape.Statement (.powerCapSet milliwatts) := fun _ => shape_event rfl
theorem Shape.packageReset : ∀ digests unlock, Shape.Statement (.packageReset digests unlock) := fun _ _ => shape_event rfl
theorem Shape.controlCoreRestart : ∀ quad, Shape.Statement (.controlCoreRestart quad) := fun _ => shape_event rfl
theorem Shape.firmwareEndsProgram : ∀ quad, Shape.Statement (.firmwareEndsProgram quad) := fun _ => shape_event rfl
theorem Shape.dieFirmwareReset : ∀ die, Shape.Statement (.dieFirmwareReset die) := fun _ => shape_event rfl
theorem Shape.leaseClockResync : Shape.Statement (.leaseClockResync) := shape_event rfl
theorem Shape.ideKm : ∀ session stream key, Shape.Statement (.ideKm session stream key) := fun _ _ _ => shape_event rfl

end Sys2Proof.Laws
end

