-- ==== Sys2Proof/Tests/Slice0.lean ====
section
/-! SUPPORT. Tests: ill-formed terms that the check refuses, words of the manual's tables that decode to their instructions,
states that meet the hypotheses of every obligation, and single steps on small states. -/

/- One theorem after another: the threads of many small kernel evaluations at once would not fit the check's memory. -/
set_option Elab.async false

namespace Sys2Proof.Tests

open Sys2Proof Sys2Proof.Machine Sys2Proof.Safety Sys2Proof.Claims

/-! ### Small states -/

/-- The conditions of `Clear` as one Bool. -/
def clearB (n : Ins) (x : Extra) (s : State) : Bool :=
  decide (((landed s).thr s.cur).ra = none) && decide (earlyTrap n x ((landed s).thr s.cur) = none)
    && decide (lateTrap n x ((landed s).thr s.cur) = none) && (sight n x.warn s).full != 0 && decide ((sight n x.warn s).faults = [])

theorem clear_of {n : Ins} {x : Extra} {s : State} (h : clearB n x s = true) : Clear n x s := by
  simp only [clearB, Bool.and_eq_true, decide_eq_true_eq, bne_iff_ne, ne_eq] at h
  exact ⟨h.1.1.1.1, h.1.1.1.2, h.1.1.2, h.1.2, h.2⟩

theorem clear_all {ns : List Ins} {s : State} (h : (ns.all fun n => clearB n {} s) = true) : ∀ n ∈ ns, Clear n {} s := by
  intro n hn
  exact clear_of (List.all_eq_true.mp h n hn)

/-- A lane group on core 0 and a program on the control core of quad 0, as an instruction of theirs is judged. -/
def lanes : State := { State.reset.withFetchWord 64 0 with cur := .grp 0 0 }
@[inherit_doc lanes]
def ctl0 : State := { State.reset.placed true (leBytes 8 0) with cur := .ctl 0 }

/-- The same with a register, or with other changes of the thread. -/
def withReg (s : State) (p : Nat) (f : Nat → Nat) : State :=
  s.mapThr s.cur fun th => { th with regs := Sparse.put p { VReg.zero with v := perLane fun l => BitVec.ofNat 32 (f l), tag := .G } th.regs }
@[inherit_doc withReg]
def withS (s : State) (p v : Nat) : State :=
  s.mapThr s.cur fun th => { th with sregs := Sparse.put p ⟨BitVec.ofNat 64 v, false⟩ th.sregs }

/-- Lane 3 of v5 is 7, all else zero; every lane of v6 is 2. -/
def regs : State := withReg (withReg lanes 5 fun l => if l = 3 then 7 else 0) 6 fun _ => 2

/-- The control field of an instruction that waits for nothing and names no flag, and one that names flag 0. -/
def k0 : Ctl := ⟨0, 0, 15, 0, 0, 0⟩
@[inherit_doc k0]
def k1 : Ctl := ⟨0, 0, 0, 0, 0, 0⟩
/-- Operands v9, v5, v6, v7 with a modifier byte. -/
def pa (m : BitVec 8) : PayA := ⟨9, 5, 6, m, none⟩
@[inherit_doc pa]
def pa1 (m : BitVec 8) : PayA := ⟨9, 5, 0, m, none⟩
@[inherit_doc pa]
def pb : PayB := ⟨9, 5, 6, 7, none⟩
@[inherit_doc pa]
def pbx (w : BitVec 64) : PayB := ⟨9, 5, 6, 7, some w⟩

/-! ### States that meet the hypotheses of the obligations -/

/-- IntegerArithmetic…, BitOperations…, FieldsImmediatesAndMoves…: the instructions issue at the entry of a group. -/
theorem test_hypotheses_integer :
    ∀ n ∈ [(pa 0).ins Rows.rowAdd k0, (pa 0).ins Rows.rowSub k0, (pa 0).ins Rows.rowMul k0, (pa 0).ins Rows.rowMulhi k0,
      (pbx 0).ins Rows.rowMad k0, (pa 0).ins Rows.rowMin k0, (pa 0).ins Rows.rowMax k0, (pa 0).ins Rows.rowAnd k0, (pa 0).ins Rows.rowOr k0,
      (pa 0).ins Rows.rowXor k0, (pa 0).ins Rows.rowShl k0, (pa 0).ins Rows.rowShr k0, (pa 0).ins Rows.rowSar k0, (pa 0).ins Rows.rowRot k0,
      pb.ins Rows.rowBfi k0, (⟨8, 4, 6, 0, none⟩ : PayA).ins Rows.rowLea k0, (⟨9, 5, 7, none⟩ : PayI).ins Rows.rowAddi k0,
      (⟨9, 5, 7, none⟩ : PayI).ins Rows.rowLih k0], Clear n {} regs :=
  clear_all (by decide +kernel)

theorem test_hypotheses_one_operand :
    ∀ n ∈ [(pa1 0).ins Rows.rowNeg k0, (pa1 0).ins Rows.rowAbs k0, (pa1 0).ins Rows.rowNot k0, (pa1 0).ins Rows.rowPopc k0,
      (pa1 0).ins Rows.rowClz k0, (pa1 0).ins Rows.rowMov k0, (⟨0, 0, 0, 0, none⟩ : PayA).ins Rows.rowNop k0,
      (⟨9, 5, 6, 0, none⟩ : PayB).ins Rows.rowBfe k0, (⟨9, 0, 7, none⟩ : PayI).ins Rows.rowLi k0,
      (⟨9, 5, 1, 0, 0, 0, 0, none⟩ : PayC).ins Rows.rowCvt k0], Clear n {} regs :=
  clear_all (by decide +kernel)

/-- SelectCompareAndConvert…: sel by k1, and each of the six comparisons. -/
theorem test_hypotheses_select_compare :
    Clear ((⟨9, 5, 6, 1, none⟩ : PayB).ins Rows.rowSel k0) {} regs ∧
    ∀ n ∈ [(⟨1, 5, 6, 0, none⟩ : PayA).ins Rows.rowCmp k0, (⟨1, 5, 6, 2, none⟩ : PayA).ins Rows.rowCmp k0,
      (⟨1, 5, 6, 4, none⟩ : PayA).ins Rows.rowCmp k0, (⟨1, 5, 6, 6, none⟩ : PayA).ins Rows.rowCmp k0,
      (⟨1, 5, 6, 8, none⟩ : PayA).ins Rows.rowCmp k0, (⟨1, 5, 6, 10, none⟩ : PayA).ins Rows.rowCmp k0], Clear n {} regs :=
  ⟨clear_of (by decide +kernel), clear_all (by decide +kernel)⟩

/-- DivisionRounds…: v6 holds no zero divisor, v5 holds 31 of them. -/
theorem test_hypotheses_division :
    Clear ((pa 0).ins Rows.rowDiv k1) {} regs ∧ Clear ((pa 0).ins Rows.rowRem k1) {} regs ∧
    (∀ l < 32, (sight ((pa 0).ins Rows.rowDiv k1) 0 regs).int 1 l ≠ 0) ∧
    Clear ((⟨9, 6, 5, 0, none⟩ : PayA).ins Rows.rowDiv k1) {} regs ∧ Clear ((⟨9, 6, 5, 0, none⟩ : PayA).ins Rows.rowRem k1) {} regs ∧
    (∃ l < 32, (sight ((⟨9, 6, 5, 0, none⟩ : PayA).ins Rows.rowDiv k1) 0 regs).act.getLsbD l = true ∧
      (sight ((⟨9, 6, 5, 0, none⟩ : PayA).ins Rows.rowDiv k1) 0 regs).int 1 l = 0) :=
  ⟨clear_of (by decide +kernel), clear_of (by decide +kernel), by decide +kernel, clear_of (by decide +kernel),
    clear_of (by decide +kernel), 0, by decide, by decide +kernel⟩

/-- The float instructions in binary32, without enables: the hypotheses of FloatArithmetic…, FloatSelection…, Conversions… -/
theorem test_hypotheses_float :
    ∀ n ∈ [(pa 0x40).ins Rows.rowFadd k0, (pa 0x40).ins Rows.rowFsub k0, (pa 0x40).ins Rows.rowFmul k0, (pbx 0x40).ins Rows.rowFma k0,
      (pa1 0x40).ins Rows.rowFround k0, (pa 0x40).ins Rows.rowFscl k0, (pbx 0x70).ins Rows.rowDot2 k0, (pa 0x70).ins Rows.rowHadd2 k0,
      (pa 0x70).ins Rows.rowHmul2 k0, (pbx 0x70).ins Rows.rowHfma2 k0, (pa 0x40).ins Rows.rowFmin k0, (pa 0x40).ins Rows.rowFmax k0,
      (pa1 0x40).ins Rows.rowFabs k0, (pa1 0x40).ins Rows.rowFneg k0, (⟨1, 5, 6, 0x44, none⟩ : PayA).ins Rows.rowFcmp k0,
      (pa1 0x40).ins Rows.rowFclass k0, (pa1 0x40).ins Rows.rowFgetx k0, (pbx 0xD0).ins Rows.rowDot4 k0, (pa 0x70).ins Rows.rowPk2 k0,
      (pa1 0x70).ins Rows.rowUpk2 k0, (pa 0xD0).ins Rows.rowUpk4 k0], Clear n {} regs :=
  clear_all (by decide +kernel)

theorem test_hypotheses_seeds :
    (∀ n ∈ [(pa1 0x40).ins Rows.rowRcps k0, (pa1 0x40).ins Rows.rowRsqs k0, (pa1 0x40).ins Rows.rowExs k0, (pa1 0x40).ins Rows.rowLgs k0,
      (pa1 0x40).ins Rows.rowSns k0, (pa1 0x40).ins Rows.rowCss k0], Clear n {} regs) ∧
    Clear ((⟨9, 5, 4, 0, 0, 0, 0, none⟩ : PayC).ins Rows.rowFcvt k0) { warn := fcvtWarn ((⟨9, 5, 4, 0, 0, 0, 0, none⟩ : PayC).ins Rows.rowFcvt k0) false } regs ∧
    Clear ((pa 0xD0).ins Rows.rowPk4 k0) { warn := warnBit 5 (isInt (((pa 0xD0).ins Rows.rowPk4 k0).ty false) && ((pa 0xD0).ins Rows.rowPk4 k0).rnd != 0) } regs :=
  ⟨clear_all (by decide +kernel), clear_of (by decide +kernel), clear_of (by decide +kernel)⟩

/-- v5 holds a signaling NaN in lane 0 and 1.0 elsewhere, and every enable of fsr is set. -/
def trapping : State := (withReg lanes 5 fun l => if l = 0 then 0x7F800001 else 0x3F800000).mapThr lanes.cur fun th => { th with fsr := 0x1F00 }

/-- FPTRAP: an active lane raises an enabled flag; fdiv and fsqrt with enables and without. -/
theorem test_hypotheses_fptrap :
    Clear ((pa 0x40).ins Rows.rowFadd k0) {} trapping ∧
    (∃ l < 32, (sight ((pa 0x40).ins Rows.rowFadd k0) 0 trapping).act.getLsbD l = true ∧
      (let g := sight ((pa 0x40).ins Rows.rowFadd k0) 0 trapping
       (Fp.add (Fp.ofTy g.ty) g.rm (g.val 0 l) (g.val 1 l)).2 &&& enabled ((pa 0x40).ins Rows.rowFadd k0) 0 trapping ≠ 0)) ∧
    Clear ((pa 0x40).ins Rows.rowFdiv k1) {} trapping ∧ enabled ((pa 0x40).ins Rows.rowFdiv k1) 0 trapping ≠ 0 ∧
    Clear ((pa1 0x40).ins Rows.rowFsqrt k1) {} trapping ∧ enabled ((pa1 0x40).ins Rows.rowFsqrt k1) 0 trapping ≠ 0 ∧
    Clear ((pa 0x40).ins Rows.rowFdiv k1) {} regs ∧ enabled ((pa 0x40).ins Rows.rowFdiv k1) 0 regs = 0 ∧
    Clear ((pa1 0x40).ins Rows.rowFsqrt k1) {} regs ∧ enabled ((pa1 0x40).ins Rows.rowFsqrt k1) 0 regs = 0 :=
  ⟨clear_of (by decide +kernel), ⟨0, by decide +kernel⟩, by
    refine ⟨clear_of ?_, ?_, clear_of ?_, ?_, clear_of ?_, ?_, clear_of ?_, ?_⟩ <;> decide +kernel⟩

/-- RoundingAndInvalid…: 2^24 + 1 in binary32 lies halfway between two values; 3 is one. -/
theorem test_hypotheses_rounding :
    Fp.decode Fp.f32 (Fp.roundNum Fp.f32 0 false false 16777217 0 false).1 = .num false 8388608 1 ∧
    Fp.decode Fp.f32 (Fp.roundNum Fp.f32 3 false true 16777217 0 false).1 = .num true 8388608 1 ∧
    Fp.decode Fp.f32 (Fp.roundNum Fp.f32 2 false true 16777217 0 false).1 = .num true 8388609 1 ∧
    Fp.decode Fp.f32 (Fp.roundNum Fp.f32 1 false false 16777219 0 false).1 = .num false 8388609 1 := by decide +kernel

/-- ConversionsAndTheSpecial…: the bounds of integers, and floats of each kind beside those of `test_hypotheses_invalid`. -/
theorem test_hypotheses_conversions :
    Fp.decode Fp.f32 0x43000000 = .num false 8388608 (-16) ∧ Fp.decode Fp.f32 0xBF800000 = .num true 8388608 (-23) ∧
    Fp.decode Fp.f32 0x80000000 = .num true 0 (-149) ∧
    (least 2 ≤ (2 : Int) ^ 53 ∧ (2 : Int) ^ 53 ≤ greatest 2 ∧ ((2 : Int) ^ 53).natAbs ≤ 2 ^ 53) ∧
    (least 13 ≤ (-128 : Int) ∧ (-128 : Int) ≤ greatest 13 ∧ (-128 : Int) ≠ 0) := by decide +kernel

/-- The same for seeds: 128, the integer 1, which is 2 to the 0 and half of 2, and a negative number. -/
theorem test_hypotheses_seed_values :
    128 ≤ ratOf false 8388608 (-16) ∧ ratOf false 8388608 (-23) = ((1 : Int) : ℚ) ∧ ratOf false 8388608 (-23) = (2 : ℚ) ^ (0 : Int) ∧
    2 * ratOf false 8388608 (-23) = ((2 : Int) : ℚ) := by
  norm_num [ratOf]

/-- RoundingAndInvalid…: each kind of operand that its clauses name, in binary32. -/
theorem test_hypotheses_invalid :
    Fp.Val.isNan (Fp.decode Fp.f32 0x7FC00000) = true ∧ Fp.decode Fp.f32 0x7F800001 = .nan true ∧
    Fp.decode Fp.f32 0x7F800000 = .inf false ∧ Fp.decode Fp.f32 0xFF800000 = .inf (!false) ∧
    (∃ e, Fp.decode Fp.f32 0 = .num false 0 e) ∧ (∃ e, Fp.decode Fp.f32 0x3F800000 = .num false 8388608 e) :=
  ⟨by decide +kernel, by decide +kernel, by decide +kernel, by decide +kernel, ⟨-149, by decide +kernel⟩, ⟨-23, by decide +kernel⟩⟩

/-- LaneMoves…, VotesAndMatches…, ReductionsCombine…: lane 3 of v5 differs from the rest. -/
theorem test_hypotheses_lanes :
    (∀ n ∈ [(pa 0).ins Rows.rowShfl k0, (pa1 0).ins Rows.rowBcast k0, (pa1 0).ins Rows.rowFfs k0, (pa 0).ins Rows.rowLperm k0,
      (pa1 0).ins Rows.rowMatch k0, (pa1 0).ins Rows.rowCmpct k0, (pa1 0).ins Rows.rowVote k0, (pa1 0).ins Rows.rowRed k0,
      (pa1 0).ins Rows.rowScan k0, (pa 0).ins Rows.rowSegred k0, (pa1 8).ins Rows.rowVote k0, (pa1 10).ins Rows.rowRed k0], Clear n {} regs) ∧
    (let g := sight ((pa 0).ins Rows.rowLperm k0) 0 regs
     ((lanesOf g.act).filter fun j => (low g 1 j).toNat % 32 == 2).getLast? = some 31 ∧
     ((lanesOf g.act).filter fun j => (low g 1 j).toNat % 32 == 0).getLast? = none) :=
  ⟨clear_all (by decide +kernel), by decide +kernel⟩

/-- IntegerReductions…: operands of a reduction in i32. -/
theorem test_hypotheses_folds : (sight ((pa1 0).ins Rows.rowRed k0) 0 regs).ty = 0 := by decide +kernel

/-- SortsRank…: the sorts issue, and lists that are in rank order to begin with. -/
theorem test_hypotheses_sorts :
    Clear ((⟨8, 4, 6, 0x10, none⟩ : PayA).ins Rows.rowSrt k1) {} lanes ∧ Clear ((⟨8, 4, 6, 0x10, none⟩ : PayA).ins Rows.rowTopk k1) {} lanes ∧
    Clear ((⟨8, 4, 6, 0, none⟩ : PayA).ins Rows.rowKmerge k1) {} lanes ∧
    (∀ l < 31, ∀ i ∈ [0, 2],
      ¬pairAbove false False (pairOf (sight ((⟨8, 4, 6, 0, none⟩ : PayA).ins Rows.rowKmerge k1) 0 lanes) false i (i + 1) (l + 1))
        (pairOf (sight ((⟨8, 4, 6, 0, none⟩ : PayA).ins Rows.rowKmerge k1) 0 lanes) false i (i + 1) l)) := by
  refine ⟨clear_of (by decide +kernel), clear_of (by decide +kernel), clear_of (by decide +kernel), fun l hl i hi => ?_⟩
  have h : ∀ l < 32, ∀ i ∈ [0, 2],
      pairOf (sight ((⟨8, 4, 6, 0, none⟩ : PayA).ins Rows.rowKmerge k1) 0 lanes) false i (i + 1) l = (0, 0) := by decide +kernel
  have d : Fp.decode Fp.f32 0#64 = .num false 0 (-149) := by decide +kernel
  rw [h l (by omega) i hi, h (l + 1) (by omega) i hi]
  simp [pairAbove, keyAbove, d]

/-- A team with 32 regrouping slots, and one with none. -/
def regroup (n : Nat) : State := regs.mapTeam 0 fun t => { t with rgq := n }

/-- The same with an entry of an earlier cycle in bin 0. -/
def binned : State := (regroup 33).mapTeam 0 fun t => { t with bins := [(0, [{ vals := [7], tag := 3, poison := 16 }])] }

theorem test_hypotheses_regrouping :
    Clear ((⟨1, 5, 6, 0, none⟩ : PayA).ins Rows.rowRgput k1) { bad := rgBad ((⟨1, 5, 6, 0, none⟩ : PayA).ins Rows.rowRgput k1) (regroup 32) } (regroup 32) ∧
    Clear ((⟨1, 5, 6, 0, none⟩ : PayA).ins Rows.rowRgput k1) { bad := rgBad ((⟨1, 5, 6, 0, none⟩ : PayA).ins Rows.rowRgput k1) (regroup 31) } (regroup 31) ∧
    Clear ((⟨9, 0, 0, 0, none⟩ : PayA).ins Rows.rowRgget k1) { bad := rgBad ((⟨9, 0, 0, 0, none⟩ : PayA).ins Rows.rowRgget k1) (regroup 32) } (regroup 32) ∧
    (let c : Ctl := { k1 with wb := 1 }
     let n := (⟨9, 10, 0, 0, none⟩ : PayA).ins Rows.rowRgget c
     Clear n { bad := rgBad n binned } binned ∧ ((binned.team 0).bin 0)[0]? = some { vals := [7], tag := 3, poison := 16 }) :=
  ⟨clear_of (by decide +kernel), clear_of (by decide +kernel), clear_of (by decide +kernel), clear_of (by decide +kernel), by decide +kernel⟩

/-- Branches…: a branch by one word back reaches the header of placed code; one by five words reaches no header. -/
theorem test_hypotheses_branches :
    (∀ n ∈ [(⟨0, 0xFFFFFF⟩ : PayJ).ins Rows.rowBr k0, (⟨0xFD, 0xFFFFFF⟩ : PayJ).ins Rows.rowBrc k0, (⟨5, 0xFFFFFF⟩ : PayJ).ins Rows.rowBrl k0,
      (⟨8, 0xFFFFFF⟩ : PayJ).ins Rows.rowCall k0, (⟨0, 5, 0, 0, none⟩ : PayA).ins Rows.rowBrx k0, (⟨0, 4, 0, 0, none⟩ : PayA).ins Rows.rowRet k0],
      Clear n {} regs) ∧
    (noted ((⟨0, 0xFFFFFF⟩ : PayJ).ins Rows.rowBr k0) 0 regs).targetOk regs.cur
      ((sight ((⟨0, 0xFFFFFF⟩ : PayJ).ins Rows.rowBr k0) 0 regs).addr.toNat + 8 * (0xFFFFFF : BitVec 24).toInt) = true ∧
    (noted ((⟨0, 5⟩ : PayJ).ins Rows.rowBr k0) 0 regs).targetOk regs.cur 48 = false ∧
    (sight ((⟨0, 5⟩ : PayJ).ins Rows.rowBr k0) 0 regs).pres.getLsbD 0 = true :=
  ⟨clear_all (by decide +kernel), by decide +kernel⟩

/-- Placed code in its handler, with k1 true in lane 0 alone. -/
def inHandler : State := regs.mapThr regs.cur fun th => { th with handler := true, lmask := 1, epc := 8, recPcv := th.pcv, preds := [(1, ⟨1, 0⟩)] }

theorem test_hypotheses_exit_halt_yield :
    Clear ((⟨0, 0, 0, 0, none⟩ : PayA).ins Rows.rowExit k0) {} regs ∧ (regs.thr regs.cur).handler = false ∧
    Clear ((⟨0, 0, 0, 0, none⟩ : PayA).ins Rows.rowExit ⟨0, 0, 15, 0, 1, 0⟩) {} inHandler ∧
    ((noted ((⟨0, 0, 0, 0, none⟩ : PayA).ins Rows.rowExit k0) 0 inHandler).thr inHandler.cur).handler = true ∧
    (sight ((⟨0, 0, 0, 0, none⟩ : PayA).ins Rows.rowExit ⟨0, 0, 15, 0, 1, 0⟩) 0 inHandler).alive &&&
      ~~~(sight ((⟨0, 0, 0, 0, none⟩ : PayA).ins Rows.rowExit ⟨0, 0, 15, 0, 1, 0⟩) 0 inHandler).act ≠ 0 ∧
    Clear ((⟨0, 0, 0, 0, none⟩ : PayA).ins Rows.rowHalt k0) {} ctl0 ∧ Clear ((⟨0, 0, 0, 0, none⟩ : PayA).ins Rows.rowYield k0) {} regs :=
  ⟨clear_of (by decide +kernel), by decide +kernel, clear_of (by decide +kernel), by decide +kernel, by decide +kernel,
    clear_of (by decide +kernel), clear_of (by decide +kernel)⟩

/-- Placed code whose launch names a trap entry, 16 words on. -/
def trapped (s : State) : State := s.mapLaunch 0 fun l => { l with e := { l.e with trap := 16 } }

theorem test_hypotheses_software_traps :
    Clear ((⟨0, 6, 0, 0, none⟩ : PayA).ins Rows.rowTrap k0) {} (trapped regs) ∧ Clear ((⟨0, 0, 1, 2, none⟩ : PayA).ins Rows.rowBrk k0) {} (trapped regs) ∧
    ((noted ((⟨0, 6, 0, 0, none⟩ : PayA).ins Rows.rowTrap k0) 0 (trapped regs)).thr regs.cur).handler = false ∧
    (noted ((⟨0, 6, 0, 0, none⟩ : PayA).ins Rows.rowTrap k0) 0 (trapped regs)).trapEntry regs.cur = 128 :=
  ⟨clear_of (by decide +kernel), clear_of (by decide +kernel), by decide +kernel, by decide +kernel⟩

/-- The handler with two causes held: ranks 3 and 5. -/
def holding : State := inHandler.mapThr inHandler.cur fun th => { th with pendBits := 0x28 }

theorem test_hypotheses_tret :
    Clear ((⟨0, 0, 0, 0, none⟩ : PayA).ins Rows.rowTret k0) {} inHandler ∧ (∀ r < 24, (inHandler.thr inHandler.cur).pendBits.getLsbD r = false) ∧
    Clear ((⟨0, 0, 0, 0, none⟩ : PayA).ins Rows.rowTret k0) {} holding ∧ (holding.thr holding.cur).pendBits.getLsbD 3 = true ∧
    (∀ q < 3, (holding.thr holding.cur).pendBits.getLsbD q = false) ∧
    (!(holding.thr holding.cur).handler || k0.pred != 0 || k0.pn == 1) = false :=
  ⟨clear_of (by decide +kernel), by decide +kernel, clear_of (by decide +kernel), by decide +kernel⟩

/-- CausesAreHeld…, TrapsEnter…, TheHighestRanked…: a handler with a rank held and one not; launches of each kind without a trap entry; a chain. -/
theorem test_hypotheses_causes :
    (holding.thr holding.cur).handler = true ∧ (holding.thr holding.cur).pendBits.getLsbD 3 = true ∧ (holding.thr holding.cur).pendBits.getLsbD 4 = false ∧
    regs.trapEntry (.grp 0 0) = 0 ∧ (regs.launch (regs.launchOf (.grp 0 0))).src = .chain 1 1 0 ∧ ctl0.trapEntry (.ctl 0) = 0 ∧
    (ctl0.quad 0).prog.isSome = true ∧ (let ls := trapped regs
     (ls.thr ls.cur).handler = false ∧ ls.trapEntry ls.cur ≠ 0 ∧ BitVec.ofNat 48 (ls.trapEntry ls.cur) ≠ exitedPc) ∧
    ((regs.mapLaunch 0 fun l => { l with src := .program 0 0 }).launch 0).src = .program 0 0 ∧
    ((regs.mapLaunch 0 fun l => { l with src := .tap 0 0 0 }).launch 0).src = .tap 0 0 0 ∧
    (trapped regs).trapEntry (.grp 0 0) ≠ 0 ∧
    ((trapped (regs.mapThr regs.cur fun th => { th with chain := some ⟨8, 1, false, 1, [], [], []⟩ })).thr (.grp 0 0)).landAll.chain = some ⟨8, 1, false, 1, [], [], []⟩ ∧
    (∀ t ∈ [({ cause := .divzero, lmask := 1, tval := 0 } : Trap), { cause := .bounds, lmask := 2, tval := 5 }],
      t.lmask ≠ 0 ∧ t.also = 0 ∧ t.cause ≠ .swtrap ∧ t.cause ≠ .brk) := by
  decide +kernel

/-- A team whose uniform queue holds an entry that its group has not read. -/
def uqHeld : State := regs.mapTeam 0 fun t => { t with uq := [5], uqView := [[]], uqOpen := true }

/-- ChecksComeInOrder…: a lane row in a program, a scalar row in a group, a level too low, a variable-latency word without a flag,
a chain that is full, and a predicate that no lane passes, with and without a queue entry to step over. -/
theorem test_hypotheses_checks :
    ((landed ctl0).thr ctl0.cur).ra = none ∧ ((landed ctl0).thr ctl0.cur).scalar = true ∧ ((pa 0).ins Rows.rowShfl k0).row.mode = .lane ∧
    ((landed regs).thr regs.cur).ra = none ∧ ((landed regs).thr regs.cur).scalar = false ∧
    ((⟨0, 0, 0, 0, none⟩ : PayA).ins Rows.rowHalt k0).row.mode = .scalar ∧
    (let low_ := regs.mapThr regs.cur fun th => { th with level := 0 }
     modeBad ((⟨0, 0, 0, 2, none⟩ : PayA).ins Rows.rowTlbi k0) {} false = false ∧
     ((landed low_).thr low_.cur).level < ((⟨0, 0, 0, 2, none⟩ : PayA).ins Rows.rowTlbi k0).row.lvl) ∧
    (modeBad ((pa 0).ins Rows.rowDiv k0) {} false = false ∧ ((pa 0).ins Rows.rowDiv k0).row.cls = .var ∧ ((pa 0).ins Rows.rowDiv k0).flag = none) ∧
    (let full := regs.mapThr regs.cur fun th => { th with chain := some ⟨8, 8, false, 8, [], [], []⟩ }
     ((⟨9, 0xF8, 6, 0, none⟩ : PayA).ins Rows.rowAdd k0).readsLatch false = true ∧
     ∃ k, ((landed full).thr full.cur).chain = some k ∧ 8 ≤ k.n) ∧
    (let n := (pa 0).ins Rows.rowAdd ⟨0, 0, 15, 0, 1, 0⟩
     earlyTrap n {} ((landed regs).thr regs.cur) = none ∧ lateTrap n {} ((landed regs).thr regs.cur) = none ∧
     ∀ l < 32, n.row.noPred = false ∧
       ((((noted n 0 regs).thr regs.cur).readP regs.freeCtr n.c.pred.toNat).v.getLsbD l ^^ (n.c.pn == 1 && n.c.pred != 0)) = false) ∧
    (let n := (⟨9, 0xFC, 6, 0, none⟩ : PayA).ins Rows.rowAdd ⟨0, 0, 15, 0, 1, 0⟩
     earlyTrap n {} ((landed uqHeld).thr uqHeld.cur) = none ∧ lateTrap n {} ((landed uqHeld).thr uqHeld.cur) = none ∧
     n.readsUq false = true ∧ ((noted n 0 uqHeld).uqNext uqHeld.cur).isSome = true) := by
  iterate 8 refine ⟨by decide +kernel, ?_⟩
  exact ⟨⟨by decide +kernel, ⟨8, 8, false, 8, [], [], []⟩, by decide +kernel⟩, by decide +kernel, by decide +kernel⟩

/-- SourceCodes…: nothing on its way, in a group and in a program, and a latch with a 32-bit result. -/
theorem test_hypotheses_sources :
    (regs.thr regs.cur).pend = [] ∧ (regs.thr regs.cur).ops = [] ∧ (regs.thr regs.cur).scalar = false ∧
    (ctl0.thr ctl0.cur).pend = [] ∧ (ctl0.thr ctl0.cur).ops = [] ∧ (ctl0.thr ctl0.cur).scalar = true ∧
    ((regs.thr regs.cur).pushLatch ⟨List.replicate 32 7, BitVec.allOnes 32, false, .G, 0, 0⟩).latches.getD 0 Latch.invalid =
      ⟨List.replicate 32 7, BitVec.allOnes 32, false, .G, 0, 0⟩ := by decide +kernel

/-- A result on its way to v9 that is due in cycle 4. -/
def onItsWay (clk : Nat) : State :=
  { (regs.mapThr regs.cur fun th => { th with pend :=
      [⟨4, 0, some 2, [{ tgt := .v 9, mask := 1, v := [7], tag := .U, poison := 0, frost := 0, dead := 0 }]⟩] }) with clk := clk }

/-- FixedLatencyResults…: before, and in, the cycle in which the result is due. -/
theorem test_hypotheses_fixed_latency :
    ((onItsWay 3).thr regs.cur).ra = none ∧ ((onItsWay 3).thr regs.cur).ops = [] ∧ (onItsWay 3).clk < 4 ∧ 4 ≤ (onItsWay 4).clk ∧
    ((onItsWay 4).thr regs.cur).pend = [⟨4, 0, some 2, [{ tgt := .v 9, mask := 1, v := [7], tag := .U, poison := 0, frost := 0, dead := 0 }]⟩] := by
  decide +kernel

/-- add v9, v5, v6 placed for a group, and li s9, 7 placed for a program. -/
def addI : Instr := .add k0 (pa 0)
@[inherit_doc addI]
def liI : Instr := .li k0 ⟨9, 0, 7, none⟩
@[inherit_doc addI]
def placedAdd : State := { State.reset.placed false (encodeBytes addI) with freeCtr := 1, agenda := [] }
@[inherit_doc addI]
def placedLi : State := { State.reset.placed true (encodeBytes liI) with freeCtr := 1, agenda := [] }

/-- AStepRunsTheDecodedInstruction: all of its hypotheses hold where the instruction has been placed. -/
theorem test_hypotheses_step_quarter :
    (∃ n, insOf addI = some n) ∧ addI.wellFormed = true ∧ (State.reset.placed false (encodeBytes addI)).agenda = .quarter 0 0 :: [] ∧
    placedAdd.quarterGroups 0 0 = [(0, .grp 0 0)] ∧ InBlock placedAdd (.grp 0 0) ∧ Fetches placedAdd (.grp 0 0) addI ∧
    placedAdd.agentWhy (.grp 0 0) = none ∧ (placedAdd.thr (.grp 0 0)).lost = none ∧
    placedAdd.comparator (.grp 0 0) = none ∧ (placedAdd.coreOf 0).issued.any (fun x => x.1 == 0 && x.2 == placedAdd.clk + 1) = false ∧
    (placedAdd.thr (.grp 0 0)).pinned < Config.pinLimit ∧ placedAdd.pickClass (.grp 0 0) ≤ 4 ∧
    (let v := pickNoted 0 0 0 (.grp 0 0) [(0, .grp 0 0)] (if placedAdd.pins (.grp 0 0) then some (.grp 0 0) else none) placedAdd
     v.comparator (.grp 0 0) = none ∧ (v.thr (.grp 0 0)).lost = none) :=
  ⟨⟨_, rfl⟩, by decide +kernel, by decide +kernel, by decide +kernel,
    ⟨by decide +kernel, by decide +kernel, by decide +kernel, 0, 0x0020000000000000, by decide +kernel⟩,
    Or.inl ⟨0x0001E00109050600, by decide +kernel, by decide +kernel⟩, by decide +kernel⟩

theorem test_hypotheses_step_control :
    (∃ n, insOf liI = some n ∧ placedLi.why (.ctl 0) n = none) ∧ liI.wellFormed = true ∧
    (State.reset.placed true (encodeBytes liI)).agenda = .control 0 :: [] ∧ InBlock placedLi (.ctl 0) ∧ Fetches placedLi (.ctl 0) liI ∧
    (placedLi.thr (.ctl 0)).lost = none ∧ placedLi.comparator (.ctl 0) = none ∧ (placedLi.quad 0).issued ≠ placedLi.clk + 1 :=
  ⟨⟨_, rfl, by decide +kernel⟩, by decide +kernel, by decide +kernel,
    ⟨by decide +kernel, by decide +kernel, by decide +kernel, 0, 0x0020000000000000, by decide +kernel⟩,
    Or.inl ⟨0x0001E01909000007, by decide +kernel, by decide +kernel⟩, by decide +kernel, by decide +kernel, by decide +kernel⟩

/-- The agents of placed code have no upkeep due. -/
theorem test_hypotheses_no_upkeep : (placedAdd.upkeep (.grp 0 0)).isNone = true ∧ (placedLi.upkeep (.ctl 0)).isNone = true := by decide +kernel

/-- EveryStepKeeps…, AStepRunsTheNextTurn…: a tick of the clock is a step from a state in the canonical form. -/
theorem test_hypotheses_turns :
    Form ({ State.reset with agenda := [.tick] } : State) ∧ (∃ t, Steps { State.reset with agenda := [.tick] } t) ∧
    insOf (.hostLinkReset : Instr) = none ∧ (insOf addI).isSome = true ∧ State.reset.agenda = [] :=
  ⟨⟨rfl, rfl, rfl, rfl⟩, ⟨_, rfl⟩, rfl, rfl, rfl⟩

/-- DecodingAndEncodingAgree: a well-formed instruction, and bytes that decode. -/
theorem test_hypotheses_decode : addI.wellFormed = true ∧ ∃ i, decode (encodeBytes addI ++ [1]) = .ok (i, [1]) := ⟨by decide, addI, by decide⟩

/-- With an operation in flight: a load, or a store. -/
def withOp (s : State) (k : VKind) : State := s.mapThr s.cur fun th => { th with ops := [⟨0, none, true, 8, 8, k, 0, none, []⟩] }
@[inherit_doc withOp]
def loading : State := withOp regs (.load [⟨0, .mem, 4096, 4, 0, 0, 0, 0, 0, false, none⟩] 0 0 [] 0)
@[inherit_doc withOp]
def storing : State := withOp regs (.store [⟨0, .mem, 4096, 4, 0, 0, 0, 0, 0, false, none⟩] 0 0)

/-- fence.full, .acq and .rel at .sys. -/
def fences : List Ins := [0x80, 0x84, 0x88].map fun m => (⟨0, 0, 0, m, none⟩ : PayA).ins Rows.rowFence k0

theorem test_hypotheses_fences :
    (∀ n ∈ fences, Clear n {} regs) ∧ (∀ n ∈ fences, Clear n {} loading) ∧ (∀ n ∈ fences, Clear n {} storing) ∧
    (∀ n ∈ fences, loadsLeft n regs = false ∧ storesLeft n regs = false ∧ loadsLeft n loading = true ∧ storesLeft n loading = false ∧
      loadsLeft n storing = false ∧ storesLeft n storing = true) :=
  ⟨clear_all (by decide +kernel), clear_all (by decide +kernel), clear_all (by decide +kernel), by decide +kernel⟩

/-- A fence within a scope that holds nobody else. -/
theorem test_hypotheses_fence_alone :
    let n := (⟨0, 0, 0, 8, none⟩ : PayA).ins Rows.rowFence k0
    Clear n {} storing ∧ Ins.scope n < 2 ∧ storing.cur = .grp 0 0 := ⟨clear_of (by decide +kernel), by decide +kernel, by decide +kernel⟩

/-- barv and bar of team barrier 0, and barw for its phase 0. -/
def barv0 : Ins := (⟨9, 0xFD, 0xFD, 0x20, none⟩ : PayA).ins Rows.rowBarv k0
@[inherit_doc barv0]
def bar0 : Ins := (⟨0, 0xFD, 0xFD, 0x20, none⟩ : PayA).ins Rows.rowBar k0
@[inherit_doc barv0]
def barw0 : Ins := (⟨0, 0xFD, 0xFD, 0x20, none⟩ : PayA).ins Rows.rowBarw k0

/-- BarrierArrivals…, BarrierInstructions…: a group alone in its team passes; beside a second one it waits; a group that has arrived,
an id out of range, and a wrong scope, are refused. -/
theorem test_hypotheses_barriers :
    (∀ n ∈ [barv0, bar0, barw0], Clear n {} regs ∧ Clear n {} storing) ∧
    uni32 bar0 regs 0 < (noted bar0 0 regs).barIds regs.cur (Ins.scope bar0) ∧ (noted bar0 0 regs).hasArrived regs.cur 2 0 = false ∧
    0 < (((noted bar0 0 regs).arrive regs.cur 2 0 1).phase regs.cur 2 0 0 - (noted bar0 0 regs).phase regs.cur 2 0 0).toInt ∧
    (noted bar0 0 regs).barIds regs.cur 2 ≤ 64 ∧
    (let two := regs.mapTeam 0 fun t => { t with groups := t.groups ++ [(1, placeThread false)], n := 2 }
     Clear bar0 {} two ∧ ¬0 < ((two.arrive two.cur 2 0 1).phase two.cur 2 0 0 - two.phase two.cur 2 0 0).toInt) ∧
    ¬0 < ((noted barw0 0 regs).phase regs.cur 2 0 0 - 0).toInt ∧
    (let twice := regs.mapTeam 0 fun t => { t with bars := [(0, (0, [0]))] }
     Clear bar0 {} twice ∧ (noted bar0 0 twice).hasArrived twice.cur 2 0 = true) ∧
    (let later := regs.mapTeam 0 fun t => { t with bars := [(0, (1, []))] }
     Clear barw0 {} later ∧ 0 < ((noted barw0 0 later).phase later.cur 2 0 0 - 0).toInt) ∧ (5 : Nat) ≠ 2 :=
  ⟨fun n hn => ⟨clear_all (by decide +kernel) n hn, clear_all (by decide +kernel) n hn⟩, by decide +kernel, by decide +kernel, by decide +kernel,
    by decide +kernel, ⟨clear_of (by decide +kernel), by decide +kernel⟩, by decide +kernel, ⟨clear_of (by decide +kernel), by decide +kernel⟩,
    ⟨clear_of (by decide +kernel), by decide +kernel⟩, by decide⟩

/-- A barrier at scope .core, which has none; the same of scope .quad, where nothing is refused early. -/
theorem test_hypotheses_barrier_scope :
    (∀ r ∈ [Rows.rowBarv, Rows.rowBar, Rows.rowBarw],
      let n := (⟨0, 0xFD, 0xFD, 0x30, none⟩ : PayA).ins r k0
      Ins.scope n = 3 ∧ ((landed regs).thr regs.cur).ra = none ∧ earlyTrap n { bad := true } ((landed regs).thr regs.cur) = none) ∧
    (let n := (⟨0, 0xFD, 0xFF, 0x40, some 1⟩ : PayA).ins Rows.rowBar k0
     Clear n {} regs ∧ uni32 n regs 1 = 1) := ⟨by decide +kernel, clear_of (by decide +kernel), by decide +kernel⟩

/-- Tags 0 and 1 of the team: tag 0 is ready, tag 1 has failed with NOMAP. -/
def tagged : State := regs.setTags regs.cur 3 2 [(1, 0x10)]
/-- Tag instructions whose mask is a literal. -/
def tagIns (m : BitVec 64) : List Ins :=
  [(⟨0, 0xFF, 0, 0, some m⟩ : PayA).ins Rows.rowTwany k0, (⟨0, 0xFF, 0, 0, some m⟩ : PayA).ins Rows.rowTwall k0,
   (⟨9, 0xFF, 0, 0, some m⟩ : PayA).ins Rows.rowTffs k0, (⟨0, 0xFF, 0, 0, some m⟩ : PayA).ins Rows.rowTclr k0]

theorem test_hypotheses_tags :
    (∀ n ∈ tagIns 1, Clear n {} tagged ∧ ((noted n 0 tagged).tagBits tagged.cur).2.2.1 ≤ 64) ∧ (∀ n ∈ tagIns 2, Clear n {} tagged) ∧
    (∀ n ∈ tagIns 4, Clear n {} tagged) ∧
    (∀ n ∈ tagIns 1, (sight n 0 tagged).uni 0 = 1 ∧ ((noted n 0 tagged).tagBits tagged.cur).1.getLsbD 0 = true ∧
      ((noted n 0 tagged).tagBits tagged.cur).2.1.getLsbD 0 = false) ∧
    (∀ n ∈ tagIns 2, ((noted n 0 tagged).tagBits tagged.cur).2.1.getLsbD 1 = true) ∧
    (∀ n ∈ tagIns 4, ((noted n 0 tagged).tagBits tagged.cur).1.getLsbD 2 = false) :=
  ⟨fun n hn => ⟨clear_all (by decide +kernel) n hn, by revert n; decide +kernel⟩, clear_all (by decide +kernel), clear_all (by decide +kernel),
    by decide +kernel⟩

/-- A team with a pool of some extended registers on a core with some more free ones; and one whose group holds a chunk of them. -/
def pooled (pool free : Nat) : State :=
  (regs.mapTeam 0 fun t => { t with pool := pool }).mapCore 0 fun c => { c with free := free }
@[inherit_doc pooled]
def grown : State := (pooled 32 16).mapThr regs.cur fun th => { th with chunks := th.chunks + 1 }
/-- Register pool instructions whose count is uniform. -/
def poolIns (r : Row) (m : Nat) : Ins := (⟨0, 0xFF, 0, 0, some (BitVec.ofNat 64 m)⟩ : PayA).ins r k0

theorem clear_pools {s : State} {m : List Nat}
    (h : ([Rows.rowRacq, Rows.rowRrel, Rows.rowTgrow, Rows.rowTshrink].all fun r => m.all fun k => clearB (poolIns r k) {} s) = true) :
    ∀ r ∈ [Rows.rowRacq, Rows.rowRrel, Rows.rowTgrow, Rows.rowTshrink], ∀ k ∈ m, Clear (poolIns r k) {} s :=
  fun r hr k hk => clear_of (List.all_eq_true.mp (List.all_eq_true.mp h r hr) k hk)

/-- RegisterPools…: nobody waits and there is room; there is none; a count is beyond what can be. -/
theorem test_hypotheses_pools :
    (∀ r ∈ [Rows.rowRacq, Rows.rowRrel, Rows.rowTgrow, Rows.rowTshrink], ∀ m ∈ [0, 1, 9, 193], Clear (poolIns r m) {} (pooled 16 16)) ∧
    (∀ m ∈ [0, 1, 9, 193], uni32 (poolIns Rows.rowRacq m) (pooled 16 16) 0 = m) ∧
    served (noted (poolIns Rows.rowRacq 1) 0 (pooled 16 16)) regs.cur ((noted (poolIns Rows.rowRacq 1) 0 (pooled 16 16)).team 0).poolReqs ∧
    served (noted (poolIns Rows.rowTgrow 1) 0 (pooled 16 16)) regs.cur ((noted (poolIns Rows.rowTgrow 1) 0 (pooled 16 16)).coreOf 0).reqs ∧
    (((pooled 16 16).thr regs.cur).chunks = 8 ∧ chunkRegs 8 1 = 16 ∧ poolFree ((pooled 16 16).team 0) = 16 ∧ teamRegs ((pooled 16 16).team 0) = 152 ∧
      ((pooled 16 16).coreOf 0).free = 16) ∧
    ((∀ r ∈ [Rows.rowRacq, Rows.rowRrel, Rows.rowTgrow, Rows.rowTshrink], ∀ m ∈ [1], Clear (poolIns r m) {} grown) ∧
      (grown.thr regs.cur).chunks - (grown.thr regs.cur).baseChunks = 1 ∧ poolFree (grown.team 0) = 16) ∧
    poolFree ((pooled 0 0).team 0) = 0 ∧ ((pooled 0 0).coreOf 0).free = 0 :=
  ⟨clear_pools (by decide +kernel), by decide +kernel, Or.inr ⟨by decide +kernel, by decide +kernel⟩, Or.inr ⟨by decide +kernel, by decide +kernel⟩,
    by decide +kernel, ⟨clear_pools (by decide +kernel), by decide +kernel⟩, by decide +kernel, by decide +kernel⟩

/-- ShapeTags…: tag of v5, and tagset of v5 (one lane differs), v6 (all lanes equal) and v7 (v7 counts by threes). -/
def shaped : State := withReg regs 7 fun l => 3 * l + 1
@[inherit_doc shaped]
def tagsetIns (d : BitVec 8) (k : Nat) : Ins := (⟨d, 0xFF, 0, 0, some (BitVec.ofNat 64 k)⟩ : PayA).ins Rows.rowTagset k0

theorem test_hypotheses_shape_tags :
    Clear ((⟨9, 5, 0, 0, none⟩ : PayA).ins Rows.rowTag k0) {} shaped ∧
    (∀ d ∈ ([5, 6, 7] : List (BitVec 8)), ∀ k ∈ [0, 1, 2, 3, 4], Clear (tagsetIns d k) {} shaped) ∧
    (∀ l < 32, lane32 ((shaped.thr regs.cur).vreg 7).v l = 1 + BitVec.ofNat 32 l * 3) ∧
    (∀ l < 32, lane32 ((shaped.thr regs.cur).vreg 6).v l = 2) ∧
    lane32 ((shaped.thr regs.cur).vreg 5).v 3 ≠ lane32 ((shaped.thr regs.cur).vreg 5).v 4 := by
  refine ⟨clear_of (by decide +kernel), ?_, by decide +kernel⟩
  have h : ∀ d ∈ ([5, 6, 7] : List (BitVec 8)), ∀ k ∈ [0, 1, 2, 3, 4], clearB (tagsetIns d k) {} shaped = true := by decide +kernel
  exact fun d hd k hk => clear_of (h d hd k hk)

/-- BlockingInstructions…: a group waits in a fence, with and without an access in flight, before an arrival, in a barrier, for
tags that are ready or have failed, in its handler too, for registers, and for operations; a program waits in a qpush. -/
def waiting (s : State) (h : Hold) : State := s.mapThr s.cur fun th => { th with wait := some ⟨h, 1, some 2⟩ }

theorem test_hypotheses_blocking :
    (∀ s ∈ [waiting regs (.fence 0 8), waiting storing (.fence 0 8), waiting regs (.arrive 2 0 1 false []), waiting regs (.barrier 2 0 0 [0]),
        waiting tagged (.tags false 1), waiting tagged (.tags true 2),
        waiting (tagged.mapThr tagged.cur fun th => { th with handler := true }) (.tags true 2), waiting regs (.drain []),
        waiting loading (.drain [(loading.cur, 0)]), waiting ctl0 (.qpush 1 5), waiting (pooled 16 16) (.racq 1), waiting (pooled 16 16) (.tgrow 1), waiting (pooled 16 16) (.tshrink 1)],
      (s.mapThr s.cur (Thr.landDue s.clk)).standing s.cur = true) ∧
    (tagged.tagBits regs.cur).1.getLsbD 1 = true ∧ (tagged.tagBits regs.cur).2.1.getLsbD 1 = true ∧
    (∃ o ∈ (loading.thr loading.cur).ops, o.seq = 0) ∧ ((ctl0.quad 0).queues.filter fun y => (1 : BitVec 64).getLsbD y.1) = [] ∧
    (regs.thr regs.cur).ops.any (fun o => o.kind.reads) = false ∧ (regs.thr regs.cur).ops.any (fun o => o.kind.writes) = false ∧
    (loading.thr regs.cur).ops.any (fun o => o.kind.reads) = true ∧ (storing.thr regs.cur).ops.any (fun o => o.kind.writes) = true ∧
    0 < ((waiting regs (.fence 0 8)).phase regs.cur 2 0 0 - (-1)).toInt ∧ ¬0 < ((waiting regs (.fence 0 8)).phase regs.cur 2 0 0 - 0).toInt ∧
    ((tagged.tagBits regs.cur).2.2.1 ≤ 64 ∧ 0 < (tagged.tagBits regs.cur).2.2.1 ∧ (tagged.tagBits regs.cur).1.getLsbD 0 = true ∧
      (tagged.tagBits regs.cur).2.1.getLsbD 0 = false) := by decide +kernel

/-- The pools of the last three have room, and nobody waits before the group. -/
theorem test_hypotheses_granted :
    served ((pooled 16 16).mapThr regs.cur (Thr.landDue regs.clk)) regs.cur ((pooled 16 16).team 0).poolReqs ∧
    served ((pooled 16 16).mapThr regs.cur (Thr.landDue regs.clk)) regs.cur ((pooled 16 16).coreOf 0).reqs :=
  ⟨Or.inr ⟨by decide +kernel, by decide +kernel⟩, Or.inr ⟨by decide +kernel, by decide +kernel⟩⟩

/-- Placed code with a second page that is not resident (class 2) and a third whose frame lies in no region; h0 spans 64 elements
of the first page from 0x1000, h1 two, h2 lies on the second page, h3 on the third, h4 is of KIND 5. Lanes 0 to 3 have not
exited. -/
def handled : State :=
  let hd (base kind ext : Nat) : HReg := ⟨BitVec.ofNat 128 (base + kind * 2 ^ 52 + ext * 2 ^ 64), false, false⟩
  { (regs.mapThr regs.cur fun th => { th with
      pcv := perLane fun l => if l < 4 then 8 else exitedPc
      hs := [(0, hd 0x1000 0 64), (1, hd 0x1000 0 2), (2, hd 0x10000 0 64), (3, hd 0x20000 0 64), (4, hd 0x1000 5 64)]
      segs := [(0, 64 * 2 ^ 32), (1, 64 * 2 ^ 32), (2, 0), (3, 0)] }) with
    frames := Sparse.put (2 ^ 24) ⟨some 0, some 0, 1, false⟩ regs.frames
    mem := Memory.write (Memory.write regs.mem 0x24010 (leBytes 16 0x27)) 0x24020 (leBytes 16 (0x47 + 2 ^ 54)) }

/-- ld.i32.sys, st.i32.sys and pf at laneid through a handle; atom.add and cas; the local ones. -/
def ldIns (h : BitVec 4) : Ins := (⟨9, 0xFE, h, 0, 8, 0, 0, 0, none⟩ : PayM).ins Rows.rowLd k1
@[inherit_doc ldIns]
def stIns (h : BitVec 4) : Ins := (⟨6, 0xFE, h, 0, 8, 0, 0, 0, none⟩ : PayM).ins Rows.rowSt k1
@[inherit_doc ldIns]
def otherIns : List Ins :=
  [(⟨0, 0xFE, 0, 0, 8, 1, 0, 0, none⟩ : PayM).ins Rows.rowPf k1, (⟨9, 0xFE, 0, 0, 8, 0, 0, 0, 0x06000000⟩ : PayEM).ins Rows.rowAtom k1,
   (⟨9, 0xFE, 0, 0, 8, 0, 0, 0, 0x06060000⟩ : PayEM).ins Rows.rowCas k1, (⟨9, 0xFD, 0, 0, 0, none⟩ : PayML).ins Rows.rowLds k1,
   (⟨6, 0xFD, 0, 0, 0, none⟩ : PayML).ins Rows.rowSts k1, (⟨9, 0xFD, 0, 0, 0, 0x06000000⟩ : PayEML).ins Rows.rowAtoms k1]

/-- AccessesTrap…: elements in flight, lanes out of range, a page that is not resident, a hole; local elements. -/
theorem test_hypotheses_accesses :
    (∀ n ∈ [ldIns 0, ldIns 1, ldIns 2, ldIns 3, stIns 0, stIns 1, stIns 2, stIns 3], Clear n {} handled) ∧ (∀ n ∈ otherIns, Clear n {} handled) ∧
    (let P (h : BitVec 4) := globalPlan (ldIns h) handled .read
     ((P 0).traps = [] ∧ (P 0).hole = false ∧ (P 0).absent = [] ∧ (P 0).els.length = 4) ∧ ((P 1).traps.length = 2) ∧
     ((P 2).traps = [] ∧ (P 2).hole = false ∧ (P 2).absent ≠ []) ∧ ((P 3).traps = [] ∧ (P 3).hole = true)) ∧
    (let P (h : BitVec 4) := globalPlan (stIns h) handled .write
     (P 0).traps = [] ∧ (P 0).absent = [] ∧ (P 1).traps.length = 2 ∧ (P 2).traps = [] ∧ (P 2).absent ≠ []) ∧
    fmtPart (sight (stIns 0) 0 handled) (noted (stIns 0) 0 handled) = [] ∧
    (∀ n ∈ otherIns.drop 3, (localPlan n handled).traps = [] ∧ (localPlan n handled).els.length = 4) ∧ (handled.thr handled.cur).stErr = [] :=
  ⟨clear_all (by decide +kernel), clear_all (by decide +kernel), by decide +kernel⟩

/-- NoStepIsRefused: what ends in noSuchMemory: a load through h3, the fetch from its page, a table where the manual has no memory. -/
theorem test_hypotheses_no_memory :
    (match exec (.ld k1 ⟨9, 0xFE, 3, 0, 8, 0, 0, 0, none⟩) handled with | .fault .noSuchMemory => true | _ => false) = true ∧
    handled.translate (handled.who handled.cur) ⟨.read, 0, 0, false⟩ 0x20000 = .hole ∧ handled.walkFrom 0 0 levels (2 ^ 41) = .hole ∧
    (let u := ({ handled with mem := Memory.write (Memory.write handled.mem 0x38800 [1]) 0x24020 [0x4F] } : State).mapThr handled.cur fun th =>
       { th with pcv := perLane fun _ => 0x20008 }
     (match u.atIssue u.cur with | .hole => true | _ => false) = true) := by decide +kernel

/-- The same with a page of format kb5 at 0x30000, on which h5 spans 64 elements and h6 two. -/
def blocked : State :=
  { handled.mapThr handled.cur (fun th => { th with
      hs := th.hs ++ [(5, ⟨BitVec.ofNat 128 (0x30000 + 64 * 2 ^ 64), false, false⟩), (6, ⟨BitVec.ofNat 128 (0x30000 + 2 * 2 ^ 64), false, false⟩)] }) with
    mem := Memory.write handled.mem 0x24030 (leBytes 16 (0x87 + 11 * 2 ^ 20 + 3 * 2 ^ 30)) }

/-- AccessesTrap…: a store of four lanes into a block of 16 elements, with every lane in range and with two out of it. -/
theorem test_hypotheses_part_of_a_block :
    let n (h : BitVec 4) : Ins := (⟨6, 0xFE, h, 4, 8, 0, 0, 0, none⟩ : PayM).ins (pageRow Rows.rowSt 11) k1
    (∀ h ∈ [(5 : BitVec 4), 6], Clear (n h) {} blocked ∧ blocked.pageFmt h = 11) ∧
    (globalPlan (n 5) blocked .write).traps = [] ∧ (globalPlan (n 6) blocked .write).traps.length = 2 ∧
    (∀ h ∈ [(5 : BitVec 4), 6], (fmtPart (sight (n h) 0 blocked) (noted (n h) 0 blocked)).map (fun t => (t.cause, t.lmask, t.tval)) =
      [(.fmtpart, 0xF, 0x30000)]) := by
  refine ⟨?_, by decide +kernel⟩
  intro h hh
  simp only [List.mem_cons, List.not_mem_nil, or_false] at hh
  obtain rfl | rfl := hh <;> exact ⟨clear_of (by decide +kernel), by decide +kernel⟩

/-- The same after the read of the page of h2 has failed. -/
def failedRead : State :=
  handled.mapThr handled.cur fun th => { th with stErr := ((globalPlan (ldIns 2) handled .read).absent.map (·.1)).take 1 }

/-- AccessesTrap…: lanes whose page could not be read. -/
theorem test_hypotheses_failed_read :
    (∀ n ∈ [ldIns 2, stIns 2], Clear n {} failedRead) ∧
    (let P := globalPlan (ldIns 2) failedRead .read
     P.traps = [] ∧ P.hole = false ∧ (P.absent.filter fun y => ((noted (ldIns 2) 0 failedRead).thr failedRead.cur).stErr.contains y.1) ≠ []) :=
  ⟨clear_all (by decide +kernel), by decide +kernel⟩

/-- The translation of placed code, and a plain handle: base, KIND and EXTENT, with SWIZ and SLOT 5. -/
def who0 : Who := handled.who handled.cur
@[inherit_doc who0]
def plainH (base kind ext : Nat) : BitVec 128 := BitVec.ofNat 128 (base + kind * 2 ^ 52 + ext * 2 ^ 64)
@[inherit_doc who0]
def fullH (base kind swiz ext : Nat) : BitVec 128 := BitVec.ofNat 128 (base + kind * 2 ^ 52 + swiz * 2 ^ 56 + ext * 2 ^ 64 + 5 * 2 ^ 112)

/-- The same with region 9 over the first page, whose view slot 5 spans 16 elements. -/
def ranged : State :=
  { handled with parts := handled.parts.map fun x => (x.1, { x.2 with
      regions := [(9, ⟨true, 0x1000, 1, 0, 2, 1, 0, 1, [], []⟩)], views := [(5, ⟨true, 0, 16, 9, 0⟩)] }) }

/-- LanesAreChecked…: a handle of KIND 5, an index at EXTENT, an address at 2^52, a page without a leaf, an element. -/
theorem test_hypotheses_lanes_checked :
    handled.baseFormat who0 (plainH 0x1000 0 64) = (0, 0) ∧ handled.baseFormat who0 (plainH 0x1000 5 64) = (0, 0) ∧
    handled.baseFormat who0 (plainH 0xFFFFFFFFFFFF0 0 64) = (0, 0) ∧ handled.baseFormat who0 (plainH 0x30000 0 64) = (0, 0) ∧
    handled.laneCheck who0 .read (plainH 0x1000 5 64) 4 0 0 = .trap .perm 0 ∧ handled.laneCheck who0 .read (plainH 0x1000 0 64) 4 0 64 = .trap .bounds 64 ∧
    handled.laneCheck who0 .read (plainH 0xFFFFFFFFFFFF0 0 64) 4 0 4 = .trap .nomap 0x10000000000000 ∧
    handled.translate who0 ⟨.read, 0, 0, false⟩ 0x30000 = .cause .nomap ∧
    handled.laneCheck who0 .read (plainH 0x1000 0 64) 4 0 63 = .el ⟨0, .mem, 200956, 4, 0, 0, 15, 0, 0, false, none⟩ 4348 := by decide +kernel

/-- LanesAreChecked…: an element that is misaligned, on a resident page and on one that is not; a view handle with a swizzle, with an
element in its range and with one outside it. -/
theorem test_hypotheses_lanes_aligned :
    ([plainH 0x1002 0 64, plainH 0x10002 0 64, fullH 0x1000 1 0 64, fullH 0x1000 1 64 64].all fun h => ranged.baseFormat who0 h == (0, 0)) = true ∧
    ranged.laneCheck who0 .read (plainH 0x1002 0 64) 4 0 1 = .trap .align 0x1006 ∧
    ranged.laneCheck who0 .read (plainH 0x10002 0 64) 4 0 1 = .trap .align 0x10006 ∧
    (match ranged.translate who0 ⟨.read, 0, 0, false⟩ 0x10006 with | .absent _ lf => Leaf.fmt lf == 0 && Leaf.geo lf == 0 | _ => false) = true ∧
    (match ranged.translate who0 ⟨.read, 0, 0, false⟩ 0x1006 with | .ok _ lf => Leaf.fmt lf == 0 && Leaf.geo lf == 0 | _ => false) = true ∧
    ranged.laneCheck who0 .read (fullH 0x1000 1 64 64) 4 0 1 = .trap .perm 0 ∧
    ranged.laneCheck who0 .read (fullH 0x1000 1 0 64) 4 0 15 = .el ⟨0, .mem, 200764, 4, 0, 0, 15, 0, 0, false, none⟩ 4156 ∧
    ranged.laneCheck who0 .read (fullH 0x1000 1 0 64) 4 0 16 = .trap .viewclosed 16 := by decide +kernel

/-- The same for local spaces: a byte past the end of each kind of segment, and one inside. -/
theorem test_hypotheses_lanes_local :
    handled.laneLocal handled.cur 0 4 0 61 = .trap .bounds 61 ∧
    handled.laneLocal handled.cur 0 4 0 60 = .el ⟨0, .scr, 60, 4, 0, 0, 0, 0, 0, false, none⟩ 60 ∧
    handled.laneLocal handled.cur 2 4 0 0 = .trap .bounds 0 ∧ handled.laneLocal handled.cur 3 4 0 0 = .trap .bounds 0 := by decide +kernel

/-- An element of 4 bytes in lane l of a space. -/
def elem (sp : Sp) (a l : Nat) : Elem := { lane := l, sp := sp, a := a, w := 4, key := 0, fmt := 0, pos := 0, data := 7, data2 := 9, poison := false }
/-- A prepared result in v9. -/
def into9 : RegW := { tgt := .v 9, mask := 0xFFFFFFFF, v := [], tag := .G, poison := 0, frost := 0, dead := 0 }

/-- PerformedAccesses…: a store, a load and each atomic of one element, ready to be performed. -/
theorem test_hypotheses_performed :
    (∀ k ∈ [VKind.store [elem .mem 0x31000 0, elem .scr 16 1] 0 0, .load [elem .mem 0x31000 0] 0 0 [into9] 0, .atomic [elem .dsp 64 3] 0 0 [into9],
        .atomic [elem .mem 0x31000 3] 7 1 [into9], .publish 2, .atomic [elem .mem 0x31000 0, elem .mem 0x31000 3, elem .scr 16 4] 0 0 [into9],
        .atomic [{ elem .mem 0x31000 0 with w := 8 }] 1 2 [into9, { into9 with tgt := .v 10 }], .atomic [elem .mem 0x31000 0] 2 4 [into9],
        .load [{ elem .mem 0x31000 0 with w := 8 }, { elem .mem 0x31008 1 with w := 8 }] 5 0 [into9, { into9 with tgt := .v 10 }] 0,
        .load [{ elem .mem 0x31000 0 with w := 1 }] 13 0 [into9] 3, .hld { elem .mem 0x31000 0 with w := 16 } 3 0 32,
        .hst { elem .mem 0x31000 0 with w := 16 } 5],
      Completing (withOp handled k) handled.cur 0 ⟨0, none, true, 8, 8, k, 0, none, []⟩) ∧
    OwnResults [into9] ∧ OwnResults [into9, { into9 with tgt := .v 10 }] ∧
    (∀ e ∈ [elem .mem 0x31000 0, elem .scr 16 1, elem .dsp 64 3], e.key = 0 ∧ e.fmt = 0 ∧ e.w = 4 ∧ handled.hostLost e.sp e.a = false ∧
      handled.poisoned e.sp e.a 4 = false) ∧ handled.cmds = [] := by
  refine ⟨?_, ⟨by decide, by decide, ?_⟩, ⟨by decide, by decide, ?_⟩, by decide +kernel, by decide +kernel⟩
  · unfold Completing
    decide +kernel
  all_goals
    intro w hw
    simp only [List.mem_cons, List.not_mem_nil, or_false] at hw
    rcases hw with rfl | rfl <;> exact ⟨rfl, .inl ⟨_, rfl⟩⟩

/-- The same on a page under key 9, whose slot is active: a store, a load and an atomic of its first element. -/
def keyedPage : State := { handled with keys := [(1, ⟨true, 9, 0, 5⟩)] }

theorem test_hypotheses_keyed :
    (∀ k ∈ [VKind.store [{ elem .mem 0x31000 0 with key := 9 }] 0 0, .load [{ elem .mem 0x31000 0 with key := 9 }] 0 0 [into9] 0,
        .atomic [{ elem .mem 0x31000 0 with key := 9 }] 0 0 [into9]],
      Completing (withOp keyedPage k) keyedPage.cur 0 ⟨0, none, true, 8, 8, k, 0, none, []⟩ ∧ (withOp keyedPage k).keyOf 9 = some 5 ∧
        (withOp keyedPage k).poisoned .mem 0x31000 4 = false ∧ (withOp keyedPage k).hostLost .mem 0x31000 = false) := by
  unfold Completing
  decide +kernel

/-- HandleInstructions…: hld and hst through h0 and through a handle of KIND 5, hmk in and out of its parent's range, hget. -/
theorem test_hypotheses_handles :
    (∀ n ∈ [(⟨0x05, 0xFD, 0, 0x80, none⟩ : PayA).ins Rows.rowHld k1, (⟨0x05, 0xFD, 0, 0x80, none⟩ : PayA).ins Rows.rowHst k1,
        (⟨0x45, 0xFD, 0, 0x80, none⟩ : PayA).ins Rows.rowHld k1, (⟨0x05, 0xFD, 6, 0, none⟩ : PayA).ins Rows.rowHmk k0,
        (⟨0x05, 6, 6, 0, none⟩ : PayA).ins Rows.rowHmk k0, (⟨0x45, 0xFD, 6, 0, none⟩ : PayA).ins Rows.rowHmk k0,
        (⟨0x15, 6, 6, 0, none⟩ : PayA).ins Rows.rowHmk k0, (⟨9, 0, 0, 3, none⟩ : PayA).ins Rows.rowHget k0], Clear n {} handled) ∧
    (let n := (⟨0x05, 6, 6, 0, none⟩ : PayA).ins Rows.rowHmk k0
     uni32 n handled 0 = 2 ∧ uni32 n handled 1 = 2 ∧ (((noted n 0 handled).thr handled.cur).hreg 0).v.extractLsb' 96 16 = (0 : BitVec 16)) ∧
    (let n := (⟨0x05, 0xFD, 6, 0, none⟩ : PayA).ins Rows.rowHmk k0
     uni32 n handled 0 = 0 ∧ uni32 n handled 1 = 2) ∧
    (handled.baseFormat (handled.who handled.cur) ((handled.thr handled.cur).hreg 0).v).1 = 0 ∧
    (∃ el va, handled.laneCheck (handled.who handled.cur) .read ((handled.thr handled.cur).hreg 0).v 16 0 0 = .el el va) ∧
    handled.laneCheck (handled.who handled.cur) .read ((handled.thr handled.cur).hreg 4).v 16 0 0 = .trap .perm 0 :=
  ⟨clear_all (by decide +kernel), by decide +kernel, by decide +kernel, by decide +kernel, ⟨⟨0, .mem, 200704, 16, 0, 0, 0, 0, 0, false, none⟩, 4096, by decide +kernel⟩, by decide +kernel⟩

/-- Two stores to the same bytes in flight; a load that a later one has overtaken at .sys, beside another group's store; an old
copy of the line of 0x31000. -/
def crowdedOps : State := regs.mapThr regs.cur fun th => { th with
  ops := [⟨0, none, false, 0, 8, .store [elem .mem 0x31000 0] 0 0, 0, none, []⟩, ⟨1, none, false, 0, 8, .store [elem .mem 0x31002 1] 0 0, 0, none, []⟩] }
@[inherit_doc crowdedOps]
def overtaken : State :=
  let two := regs.mapTeam 0 fun t => { t with groups := t.groups ++ [(1, placeThread false)], n := 2 }
  (two.mapThr (.grp 0 0) fun th => { th with ops := [⟨0, none, true, 8, 8, .load [elem .mem 0x31000 0] 0 0 [] 0, 7, none, []⟩] }).mapThr (.grp 0 1)
    fun th => { th with ops := [⟨0, none, true, 8, 8, .store [elem .mem 0x32000 0] 0 0, 0, none, []⟩] }
@[inherit_doc crowdedOps]
def oldLine : State := regs.mapCore 0 fun c => { c with copies := [⟨0x31000 / 128, List.replicate 128 0, regs.clk, 3⟩] }

/-- An access of word `a` of a space, and a weak load in flight that an old copy may serve. -/
def access (q sc a : Nat) (sp : Sp) (strong : Bool) (w : Bool) : VOp :=
  ⟨q, none, strong, sc, 8, if w then .store [elem sp a 0] 0 0 else .load [elem sp a 0] 0 0 [into9] 0, 0, none, []⟩
@[inherit_doc access]
def oldLoad : VOp := access 0 0 0x31000 .mem false false

/-- AccessesAreOrdered…: a later access of the same bytes, another group's access meanwhile, and a copy that may serve. -/
theorem test_hypotheses_ordering :
    (∃ o, ((crowdedOps.mapThr regs.cur (Thr.landDue crowdedOps.clk)).thr regs.cur).ops.find? (·.seq == 1) = some o ∧ o.kind.elems = [elem .mem 0x31002 1]) ∧
    (let u := overtaken.mapThr (.grp 0 1) (Thr.landDue overtaken.clk)
     .grp 0 0 ∈ u.agents ∧ (∃ e ∈ (u.thr (.grp 0 0)).ops, e.passed = 6 + 1) ∧ u.contains 6 (.grp 0 0) (.agent (.grp 0 1)) = true ∧
      ∃ o, ((u.thr (.grp 0 1)).ops.find? (·.seq == 0)) = some o ∧ o.kind.elems ≠ []) ∧
    (∃ c, oldLine.oldCopy regs.cur oldLoad 0 (elem .mem 0x31000 0) = some c) :=
  ⟨⟨_, by rfl, by decide +kernel⟩, ⟨by decide +kernel, ⟨_, by exact List.mem_singleton.mpr rfl, by decide +kernel⟩, by decide +kernel, ⟨_, by rfl, by decide +kernel⟩⟩,
    ⟨_, by rfl⟩⟩

/-- The same: accesses of one space apart, with a fence of each kind between them, and of a local and a global one; a load served from
its old copy; what two agents of one team, core, quad and die are for each other. -/
theorem test_hypotheses_follows :
    (∀ sc ∈ [0, 2, 8], ∀ w ∈ [true, false], (access 4 sc 0x31000 .mem true w).seq > (access 1 8 0x32000 .mem true false).seq ∧
      (access 4 sc 0x31000 .mem true w).kind.elems ≠ [] ∧ (access 1 8 0x32000 .mem true w).kind.reads = !w ∧
      (access 4 sc 0x31000 .mem true w).kind.writes = w) ∧
    (∀ x ∈ (access 4 8 16 .scr true true).kind.elems, x.sp ≠ .mem) ∧
    (let u := (withOp oldLine oldLoad.kind).mapThr regs.cur fun th => { th with ops := [oldLoad] }
     Completing u regs.cur 0 oldLoad ∧ ∃ c, (u.mapThr regs.cur (Thr.landDue u.clk)).oldCopy regs.cur oldLoad 0 (elem .mem 0x31000 0) = some c) := by
  refine ⟨by decide +kernel, by decide +kernel, ?_, Option.isSome_iff_exists.mp (by decide +kernel)⟩
  unfold Completing
  decide +kernel

/-- Something that a thread has met through a weak load, and a store performed by another team beside it. -/
def met : Know := ⟨⟨.mem, 0x31000, 4, 2, 0, 0⟩, 0, 0, (0x31000, 4), 0, true, true, false, 9⟩
@[inherit_doc met]
def metOld : State :=
  let u := oldLine.mapTeam 0 fun t => { t with groups := t.groups ++ [(1, placeThread false)], n := 2 }
  { (u.mapThr u.cur fun th => { th with seen := [met, { met with via := true, strong := 9, weak := false }] }) with
    log := [⟨.mem, 0x31000, 4, 3, 0, some (.grp 0 1, 5), 9, [], none⟩] }

/-- AccessesAreOrdered…: a copy that may still serve a strong load when both have been met, and what a fence passes. -/
theorem test_hypotheses_met :
    (∃ c, metOld.oldCopy metOld.cur (access 6 8 0x31000 .mem true false) 0 (elem .mem 0x31000 0) = some c) ∧
    0 < (access 6 8 0x31000 .mem true false).strength ∧ metOld.contains 8 (.grp 0 1) (.agent metOld.cur) = true ∧
    (∀ x ∈ (metOld.thr metOld.cur).seen, x.c.sp = .mem ∧ x.c.a < 0x31004 ∧ 0x31000 < x.c.a + x.c.n) ∧
    ({ met with via := false, rel := 9 } : Know) ∈ (({ placeThread false with seen := [met] } : Thr).passFence 1 8).seen :=
  ⟨Option.isSome_iff_exists.mp (by decide +kernel), by decide +kernel, by decide +kernel, by decide +kernel, by decide +kernel⟩

/-- The frame of the first page holds data under key 9, which its leaf does not name. -/
def aliased : State := { handled with frames := Sparse.put 3 ⟨some 0, some 9, 1, false⟩ handled.frames }

theorem test_hypotheses_keyalias :
    aliased.baseFormat who0 (plainH 0x1000 0 64) = (0, 0) ∧ aliased.translate who0 ⟨.read, 0, 0, false⟩ 0x1000 = .cause .keyalias ∧
    (match aliased.leafOf who0 .read 0x1000 with | (.leaf l _, _) => (Leaf.fmt l, Leaf.geo l) == (0, 0) | _ => false) = true := by decide +kernel

/-- A region of two pages at 0x1000000 of 4-byte elements with one open view, elements 0 to 99, in slot 0; h0 is its handle, h1 the
region's root, h2 names the closed slot 1, h3 is of KIND 2, h4 a root of no region. -/
def viewed : State :=
  let hd (kind slot base : Nat) : HReg := ⟨BitVec.ofNat 128 (base + kind * 2 ^ 52 + 32768 * 2 ^ 64 + 4 * 2 ^ 96 + slot * 2 ^ 112), false, false⟩
  let s := regs.mapThr regs.cur fun th => { th with
    hs := [(0, hd 1 0 0x1000000), (1, hd 3 0 0x1000000), (2, hd 1 1 0x1000000), (3, hd 2 7 0), (4, hd 3 0 0x2000000)] }
  s.mapPart 0 fun p => { p with
    regions := [(0, ⟨true, 0x1000000, 1, 0, 2, 2, 0, 1, [], []⟩)], views := [(0, ⟨true, 0, 100, 0, 0⟩)] }
/-- The same with as many views of the region open as its count can hold. -/
def crowded : State := viewed.mapPart 0 fun p => { p with regions := [(0, ⟨true, 0x1000000, 65535, 0, 2, 2, 0, 1, [], []⟩)] }

/-- vopen [0, hi) of a parent, vnar, vsplit at m, vclose of a handle. -/
def vopenIns (h : BitVec 4) (hi : Nat) : Ins := (⟨h ++ 5#4, 0xFD, 0xFF, 0, some (BitVec.ofNat 64 hi)⟩ : PayA).ins Rows.rowVopen k1
@[inherit_doc vopenIns]
def vnarIns (h : BitVec 4) (hi : Nat) : Ins := (⟨0#4 ++ h, 0xFD, 0xFF, 0, some (BitVec.ofNat 64 hi)⟩ : PayA).ins Rows.rowVnar k1
@[inherit_doc vopenIns]
def vsplitIns (h : BitVec 4) (m : Nat) : Ins := (⟨h ++ 5#4, 0xFF, 0, 0, some (BitVec.ofNat 64 m)⟩ : PayA).ins Rows.rowVsplit k1
@[inherit_doc vopenIns]
def vcloseIns (h : BitVec 4) : Ins := (⟨0#4 ++ h, 0, 0, 0, none⟩ : PayA).ins Rows.rowVclose k1

/-- ViewInstructions…: views inside their parent's range, past it and to its end, a closed slot, a root of no region, a full one. -/
theorem test_hypotheses_views :
    (∀ n ∈ [vopenIns 0 100, vopenIns 0 101, vopenIns 1 100, vopenIns 1 32769, vopenIns 2 1, vopenIns 3 1, vopenIns 4 1, vnarIns 0 100,
      vnarIns 0 101, vnarIns 2 1, vnarIns 3 1, vsplitIns 0 100, vsplitIns 0 101, vsplitIns 2 1, vsplitIns 3 1, vcloseIns 0, vcloseIns 2, vcloseIns 3,
      (⟨8, 0, 0, 0, none⟩ : PayA).ins Rows.rowVinfo ⟨0, 0, 0, 1, 0, 0⟩, (⟨8, 0, 0, 0, none⟩ : PayA).ins Rows.rowVinfo ⟨0, 0, 0, 0, 0, 0⟩, (⟨3, 0, 0, 0, none⟩ : PayA).ins Rows.rowHpub k1,
      (⟨0, 0, 0, 0, none⟩ : PayA).ins Rows.rowHpub k1], Clear n {} viewed) ∧
    Clear (vopenIns 0 100) {} crowded ∧ Clear (vsplitIns 0 100) {} crowded ∧ crowded.slotFor 0 0 = none :=
  ⟨clear_all (by decide +kernel), clear_of (by decide +kernel), clear_of (by decide +kernel), by decide +kernel⟩

/-- vinfo of a control core, into s8 and s9 and with a code that is no register, which falls back. -/
theorem test_hypotheses_vinfo_scalar :
    let n (d : BitVec 8) : Ins := (⟨d, 0, 0, 0, none⟩ : PayA).ins Rows.rowVinfo ⟨0, 0, 0, 1, 0, 0⟩
    Clear (n 8) {} ctl0 ∧ Clear (n 0xF9) {} ctl0 ∧ (n 8).wb true = true ∧ (n 0xF9).wb true = false :=
  ⟨clear_of (by decide +kernel), clear_of (by decide +kernel), by decide +kernel, by decide +kernel⟩

theorem test_hypotheses_view_slots :
    uni32 (vopenIns 0 100) viewed 1 = 100 ∧ (viewed.view 0 0).isOpen = true ∧ (viewed.view 0 1).isOpen = false ∧
    viewed.slotFor 0 0 = some 1 ∧ viewed.rootRegion 0 ((viewed.thr viewed.cur).hreg 1).v = some 0 ∧
    viewed.rootRegion 0 ((viewed.thr viewed.cur).hreg 4).v = none ∧ 0 < viewed.cov 0 0 0 ∧ viewed.cov 0 0 1 = 0 ∧
    (viewed.region 0 0).elems = 32768 := by decide +kernel

/-- Engine instructions on tag 1 of h0 (64 elements of 4 bytes) and h0 again; the counts lie in v6, all 2, or are zero. -/
def engIns : List Ins :=
  [(⟨0x00, 0x20, 6, 0x06, none⟩ : PayA).ins Rows.rowCpy k1, (⟨0x00, 0x20, 0, 0x06, none⟩ : PayA).ins Rows.rowCpy2 k1,
   (⟨0x00, 0x20, 0, 0x06, none⟩ : PayA).ins Rows.rowGth k1, (⟨0x00, 0x20, 0, 0x06, none⟩ : PayA).ins Rows.rowSct k1,
   (⟨0x00, 0x20, 6, 0x06, none⟩ : PayA).ins Rows.rowFill k1]
/-- The same on h4, of KIND 5, and on tag 1 with a command pending. -/
def engBad : Ins := (⟨0x44, 0x20, 6, 0x06, none⟩ : PayA).ins Rows.rowCpy k1
@[inherit_doc engBad]
def pending : State :=
  { handled with cmds := [⟨handled.cur, 0, 1, .fill 0 7 2, BitVec.ofNat 128 (0x1000 + 64 * 2 ^ 64), 0, 4, 0, 1, 0, 0, 0, [], none⟩] }
/-- With what partition 0 owns besides its quad: engines of die 0, banks and channels of its memory, one unit of the die. -/
def owning (s : State) : State :=
  s.mapPart 0 fun p => { p with maps := { p.maps with copy := [0], taps := [0], banks := List.range 24, channels := List.range 16, sqes := [0], dieUnits := [0] } }
/-- The die's TLB of the engines holds the first page with its D bit set. -/
def cached : State :=
  (owning pending).mapDie 0 fun d => { d with tlb := [⟨1, 0, 0, 0xCF + 3 * 2 ^ 30, 0x24000⟩] }

/-- EngineAndFibreInstructions…: accepted, refused, out of range, and waiting for the tag; a member list for coll; the scanner. -/
theorem test_hypotheses_engine_issue :
    (∀ n ∈ engIns, Clear n { bad := decide (handled.tagCount handled.cur ≤ 1) } handled) ∧
    Clear engBad { bad := decide (handled.tagCount handled.cur ≤ 1) } handled ∧
    (∀ n ∈ engIns, Clear n { bad := decide (pending.tagCount pending.cur ≤ 1) } pending) ∧ pending.tagPending pending.cur 1 = true ∧
    handled.tagPending handled.cur 1 = false ∧ (sideOf engBad handled 0 4).ok = true ∧ (sideOf engBad handled 0 4).fmt = 0 ∧
    (sideOf engBad handled 4 4).ok = false := by
  have h : (engIns.all fun n => clearB n { bad := decide (handled.tagCount handled.cur ≤ 1) } handled &&
    clearB n { bad := decide (pending.tagCount pending.cur ≤ 1) } pending) = true := by decide +kernel
  refine ⟨fun n hn => ?_, clear_of (by decide +kernel), fun n hn => ?_, by decide +kernel⟩
  · exact clear_of ((Bool.and_eq_true _ _).mp (List.all_eq_true.mp h n hn)).1
  · exact clear_of ((Bool.and_eq_true _ _).mp (List.all_eq_true.mp h n hn)).2

theorem test_hypotheses_ranges :
    Ranged handled 0 (sideOf engBad handled 0 4) 62 2 ∧ ¬Ranged handled 0 (sideOf engBad handled 0 4) 63 2 ∧
    Ranged handled 0 (sideOf engBad handled 0 4) 64 0 := by
  unfold Ranged
  decide +kernel

/-- A member list with id 0; coll.gather of i32 elements by a literal-free word. -/
def members : State := handled.mapPart 0 fun p => { p with members := [(0, [handled.cur])] }

theorem test_hypotheses_coll_and_scanner :
    Clear ((⟨0x00, 0x20, 6, 0x04, none⟩ : PayA).ins Rows.rowColl k1) { bad := decide (members.tagCount members.cur ≤ 1) } members ∧
    members.cur ∈ members.members 0 0 ∧
    (∀ n ∈ [(⟨0x00, 0x20, 0, 0x08, none⟩ : PayA).ins Rows.rowFbset k1, (⟨0x44, 0x20, 0, 0x08, none⟩ : PayA).ins Rows.rowFbset k1,
      (⟨0, 0, 0, 0, none⟩ : PayA).ins Rows.rowFbclr k1, (⟨0x00, 0xFD, 6, 0, none⟩ : PayA).ins Rows.rowSfpre k1], Clear n {} handled) :=
  ⟨clear_of (by decide +kernel), by decide +kernel, clear_all (by decide +kernel)⟩

/-- The scanner of quad 0 over row 0 of the pointers at 0x1000: row pointers 0 and 2, columns 7 and 9 in the same page. -/
def scanning : State :=
  let h (base : Nat) : BitVec 128 := BitVec.ofNat 128 (base + 64 * 2 ^ 64)
  { (cached.mapQuad 0 fun x => { x with scan := some { hx := h 0x1000, hr := h 0x1000, hc := h 0x1100, r := 0, q := 1, w := 4, pos := 0, cols := [], done := false, qif := 1 } }) with
    mem := Memory.write (Memory.write cached.mem 0x31004 (leBytes 4 2)) 0x31100 (leBytes 8 (7 + 9 * 2 ^ 32)) }

theorem test_hypotheses_scanner :
    (scanning.runFmt ⟨1, 0, 0, none⟩ (scanning.side ⟨1, 0, 0, none⟩ (plainH 0x1000 0 64) 4) 0x1000 4 = true ∧
      (scanning.side ⟨1, 0, 0, none⟩ (plainH 0x1000 0 64) 4).fmt = 0) ∧
    let wh : Who := ⟨1, 0, 0, none⟩
    (∃ sc, (scanning.quad 0).scan = some sc ∧ sc.done = false) ∧
    scanning.readVirt wh ⟨.read, 0, 0, false⟩ 0x1000 4 = .ok (leBytes 4 0) false ∧ scanning.readVirt wh ⟨.read, 0, 0, false⟩ 0x1004 4 = .ok (leBytes 4 2) false ∧
    scanning.readVirt wh ⟨.read, 0, 0, false⟩ 0x1104 4 = .ok (leBytes 4 9) false :=
  ⟨by decide +kernel, ⟨_, rfl, rfl⟩, by decide +kernel⟩

/-- The command of `pending`. -/
def fillCmd : EngCmd := ⟨handled.cur, 0, 1, .fill 0 7 2, BitVec.ofNat 128 (0x1000 + 64 * 2 ^ 64), 0, 4, 0, 1, 0, 0, 0, [], none⟩

/-- What `RunAt` says, as one Bool, for a run in the page that the engines' TLB of die 0 holds. -/
def runAtB (s : State) (wh : Who) (acc : Access) (va n pa : Nat) : Bool :=
  decide (va / 65536 = (va + n - 1) / 65536) && decide (s.held wh va = some ⟨1, 0, 0, 0xCF + 3 * 2 ^ 30, 0x24000⟩) &&
    (List.range n).all fun j => s.hostLost .mem (pa + j) == false && decide (s.translate wh acc (va + j) = .ok (pa + j) (0xCF + 3 * 2 ^ 30))

theorem runAt_of {s : State} {wh : Who} {acc : Access} {va n pa : Nat} (h : runAtB s wh acc va n pa = true) : RunAt s wh acc va n pa := by
  simp only [runAtB, Bool.and_eq_true, decide_eq_true_eq] at h
  refine ⟨h.1.1, ⟨_, h.1.2, by decide⟩, fun j hj => ?_⟩
  have := List.all_eq_true.mp h.2 j (List.mem_range.mpr hj)
  simp only [Bool.and_eq_true, beq_iff_eq, decide_eq_true_eq] at this
  exact ⟨this.1, _, this.2, by decide, by decide, by decide⟩

/-- A side on the first page, for elements of 4 bytes. -/
def sideAt (base : Nat) : Side := cached.side fillCmd.who (plainH base 0 64) 4

/-- EngineCommandsMove…: a fill whose run lies in a cached page, a copy between two runs of it, a page without a leaf. -/
theorem test_hypotheses_engine_commands :
    cached.cmds[0]? = some fillCmd ∧ cached.heldBack fillCmd = false ∧ Claims.Plain (sideAt 0x1000) ∧ writesBy (sideAt 0x1000) = ⟨.write, 0, 0, true⟩ ∧
    readsBy (sideAt 0x1080) = ⟨.read, 0, 0, false⟩ ∧ baseOf (sideAt 0x1000) = 0x1000 ∧
    RunAt cached fillCmd.who ⟨.write, 0, 0, true⟩ 0x1000 16 0x31000 ∧ RunAt cached fillCmd.who ⟨.read, 0, 0, false⟩ 0x1080 16 0x31080 ∧
    (∀ b < 16, cached.poisoned .mem (0x31080 + b) 1 = false) ∧ cached.translate fillCmd.who ⟨.write, 0, 0, true⟩ 0x30000 = .cause .nomap ∧
    (∀ l pte, (cached.leafOf fillCmd.who .read 0x30000).1 = .leaf l pte → Leaf.fmt l = 0 ∧ Leaf.geo l = 0) := by
  have none_ : (match (cached.leafOf fillCmd.who .read 0x30000).1 with | .leaf .. => false | _ => true) = true := by decide +kernel
  refine ⟨by decide +kernel, by decide +kernel, by unfold Claims.Plain; decide +kernel, by decide +kernel, by decide +kernel, by decide +kernel,
    runAt_of (by decide +kernel), runAt_of (by decide +kernel), by decide +kernel, by decide +kernel, fun l pte h => ?_⟩
  rw [h] at none_
  exact absurd none_ (by simp)

/-- The same for a copy of two rows, a gather and a scatter by the indexes 0 and 1 at 0x1100, and a round of coll between two groups. -/
def moving (op : EngOp) (hd hs : BitVec 128) : State :=
  { cached with cmds := [{ fillCmd with op := op, hd := hd, hs := hs }], mem := Memory.write cached.mem 0x31104 (leBytes 4 1) }
@[inherit_doc moving]
def collecting : State :=
  { (cached.mapPart 0 fun p => { p with members := [(3, [.grp 0 0, .grp 0 1])] }) with cmds :=
      [{ fillCmd with op := .coll 0 0 3 0 1, hs := plainH 0x1080 0 64 },
       { fillCmd with a := .grp 0 1, op := .coll 0 0 3 0 1, hd := plainH 0x1040 0 64, hs := plainH 0x1180 0 64 }] }

theorem test_hypotheses_engine_moves :
    (let s := moving (.cpy2 0 0 4 4 2 2) (plainH 0x1000 0 64) (plainH 0x1080 0 64)
     (∃ c, s.cmds[0]? = some c ∧ s.heldBack c = false) ∧ RunAt s fillCmd.who ⟨.write, 0, 0, true⟩ 0x1000 24 0x31000 ∧
      RunAt s fillCmd.who ⟨.read, 0, 0, false⟩ 0x1080 24 0x31080) ∧
    (∀ op ∈ [EngOp.gth 64 0 2 2, .sct 64 0 2 2],
     let s := moving op (plainH 0x1100 0 64) (plainH 0x1000 0 64)
     (∃ c, s.cmds[0]? = some c ∧ s.heldBack c = false) ∧ RunAt s fillCmd.who ⟨.read, 0, 0, false⟩ 0x1100 8 0x31100 ∧
      (∀ k < 2, leNat (Memory.read s.mem (0x31100 + 4 * k) 4) = k ∧ (∀ b < 4, s.poisoned .mem (0x31100 + 4 * k + b) 1 = false) ∧
        Ranged s 0 (sideAt 0x1000) (k * 2) 2 ∧ (∀ i < 2, Ranged s 0 (sideAt 0x1000) (k * 2 + i) 1) ∧
        RunAt s fillCmd.who ⟨.read, 0, 0, false⟩ (0x1000 + k * 2 * 4) 8 (0x31000 + k * 8) ∧
        RunAt s fillCmd.who ⟨.write, 0, 0, true⟩ (0x1000 + k * 2 * 4) 8 (0x31000 + k * 8))) ∧
    (∃ c cs, collecting.cmds[0]? = some c ∧ collecting.heldBack c = false ∧ collecting.round c = some cs ∧ (∀ m ∈ cs, collecting.heldBack m = false) ∧
      cs.length = 2 ∧ ∀ r < 2, RunAt collecting fillCmd.who ⟨.write, 0, 0, true⟩ (0x1000 + 0x40 * r) 4 (0x31000 + 0x40 * r) ∧
        RunAt collecting fillCmd.who ⟨.read, 0, 0, false⟩ (0x1080 + 0x100 * r) 4 (0x31080 + 0x100 * r)) := by
  refine ⟨⟨⟨_, rfl, by decide +kernel⟩, runAt_of (by decide +kernel), runAt_of (by decide +kernel)⟩, fun op hop => ⟨⟨_, rfl, ?_⟩, runAt_of ?_, fun k hk => ?_⟩,
    _, _, rfl, by decide +kernel, rfl, by decide +kernel, by decide +kernel, fun r hr => ⟨runAt_of ?_, runAt_of ?_⟩⟩
  · revert op; decide +kernel
  · revert op; decide +kernel
  · refine ⟨?_, ?_, ?_, ?_, runAt_of ?_, runAt_of ?_⟩
    · revert op k; decide +kernel
    · revert op k; decide +kernel
    · unfold Ranged; revert op k; decide +kernel
    · unfold Ranged; revert op k; decide +kernel
    · revert op k; decide +kernel
    · revert op k; decide +kernel
  · revert r; decide +kernel
  · revert r; decide +kernel

/-- A program on quad 0 with a matrix descriptor in s20, s21 (128 rows of 512 bytes from offset 256), a legal control word for i8
elements in s22, one without rows in s24, one that reaches past quad space in s26; accumulator 1 is in mode I. -/
def described : State :=
  let d (base rows : Nat) (p : Nat) (s : State) : State := withS (withS s p (base + 512 * 2 ^ 32)) (p + 1) (rows * 2 ^ 32)
  (d 0x7FFFF000 8 26 (d 256 0 24 (d 256 128 20 (withS ctl0 22 (0x000003DD))))).mapQuad 0 fun x => { x with modes := [(1, true)] }
/-- mst, mld and mma on the descriptor in s p; mmz; mscl from offset s p with the word of s21. -/
def descIns (p : BitVec 8) : List Ins :=
  [(⟨0, p, 0x10, 0x00, none⟩ : PayA).ins Rows.rowMst k1, (⟨0, p, 0, 0x00, none⟩ : PayA).ins Rows.rowMld k1]
@[inherit_doc descIns]
def mmaIns (p : BitVec 8) : Ins := (⟨1, p, p, 22, none⟩ : PayA).ins Rows.rowMma k1
@[inherit_doc descIns]
def mmz1 : Ins := (⟨1, 0, 0, 1, none⟩ : PayA).ins Rows.rowMmz k1
@[inherit_doc descIns]
def msclIns (p : BitVec 8) : Ins := (⟨1, p, 21, 0, none⟩ : PayA).ins Rows.rowMscl k1
/-- mfeed of v5 at chunk k, mdrain of what v6 selects. -/
def mfeedIns (k : Nat) : Ins := (⟨5, 0xFF, 0, 2, some (BitVec.ofNat 64 k)⟩ : PayA).ins Rows.rowMfeed k1
@[inherit_doc mfeedIns]
def mdrainIns : Ins := (⟨9, 6, 0, 0, none⟩ : PayA).ins Rows.rowMdrain k1
/-- A queue that is full. -/
def crowdedQueue : State :=
  described.mapQuad 0 fun x => { x with mq := List.replicate 16 ⟨0, .ctl 0, .mmz 0 false, 0, 0⟩ }

theorem test_hypotheses_matrix_issue :
    (∀ n ∈ [mmz1, mmaIns 20, mmaIns 24, msclIns 20, msclIns 26] ++ descIns 20 ++ descIns 24 ++ descIns 26, Clear n {} described) ∧
    (∀ n ∈ [mfeedIns 0, mfeedIns 255, mfeedIns 256, mdrainIns], Clear n {} regs) ∧ Clear mmz1 {} crowdedQueue ∧
    ((crowdedQueue.quad 0).mq.filter fun x => x.op.feeds.isNone).length = 16 ∧
    (let d (k : Nat) : BitVec 128 := (sight (mmaIns (BitVec.ofNat 8 k)) 0 described).uni 1 ++ (sight (mmaIns (BitVec.ofNat 8 k)) 0 described).uni 0
     Desc.rows (d 20) = 128 ∧ Desc.rot (d 20) = 0 ∧ Desc.rows (d 24) = 0 ∧ Desc.rows (d 26) = 8 ∧ Desc.base (d 26) = 0x7FFFF000) ∧
    uni32 (mfeedIns 256) regs 0 = 0 ∧ uni32 (mfeedIns 256) regs 1 = 256 ∧ uni32 (mfeedIns 255) regs 1 = 255 ∧
    (noted (mmaIns 20) 0 described).trackedMode 1 = true ∧ ((sight (mmaIns 20) 0 described).uni 4).extractLsb' 0 8 = (0xDD : BitVec 8) :=
  ⟨clear_all (by decide +kernel), clear_all (by decide +kernel), clear_of (by decide +kernel), by decide +kernel⟩

/-- A command of the program that is alone in its queue, and the operation that it answers. -/
def oneCmd (op : MOp) : State :=
  withOp (({ described with clk := 1 } : State).mapQuad 0 fun x => { x with mq := [⟨0, .ctl 0, op, 0, 0⟩] }) (.engine 0 [])
/-- Such commands: the descriptor is 128 rows of 512 bytes. -/
def someOps : List MOp :=
  let d : BitVec 128 := BitVec.ofNat 128 (256 + 512 * 2 ^ 32 + 128 * 2 ^ 96)
  [.mmz 1 true, .mld 0 d 4, .mst 0 d 4 false, .mscl true 0 0 0, .mfeed true 0 true 1 [7], .mma 0 d d 0x000003DD 0 0,
   .mma 0 d d 0x0000C3DD 0 0, .mma 0 d d 0x0000C088 0 0, .mma 0 d d 0x040000C7 1 0]

theorem test_hypotheses_matrix_turn :
    (∀ op ∈ someOps, Turning (oneCmd op) 0 ⟨0, .ctl 0, op, 0, 0⟩ ⟨0, none, true, 8, 8, .engine 0 [], 0, none, []⟩) ∧
    (∀ op ∈ someOps, (((oneCmd op).quad 0).quadPart = 131072 ∧ ((oneCmd op).thr (.ctl 0)).handler = false)) := by
  unfold Turning
  decide +kernel

theorem test_hypotheses_mrst :
    Clear ((⟨0, 0xFF, 0, 0, some 39⟩ : PayA).ins Rows.rowMrst k0) {} ctl0 ∧ Clear ((⟨0, 0xFF, 0, 0, some 40⟩ : PayA).ins Rows.rowMrst k0) {} ctl0 ∧
    uni32 ((⟨0, 0xFF, 0, 0, some 39⟩ : PayA).ins Rows.rowMrst k0) ctl0 0 = 39 ∧ uni32 ((⟨0, 0xFF, 0, 0, some 40⟩ : PayA).ins Rows.rowMrst k0) ctl0 0 = 40 :=
  ⟨clear_of (by decide +kernel), clear_of (by decide +kernel), by decide +kernel, by decide +kernel⟩

/-- A tap descriptor at 0x2000 with one row of 16 elements, one feature and tables in the first page; W_enc lies in a sixth page of format 0x0B, and the second page is
not mapped. -/
def tdesc (d : Nat) : List Byte :=
  [0x50000, 0x3000, 0x50000, 0x3400, 0x4000, 0x3800, 0x3900, 0x6000, 0x7000, 0, 0, d + 0x10000 + 2 ^ 37 + 7 * 2 ^ 48,
    1 + 16 * 2 ^ 16 + 4 * 2 ^ 48, 4, 0, 0x8000].flatMap (leBytes 8)
/-- A program with that descriptor in h0, one off 128 bytes in h1, one of KIND 1 in h2. -/
def tapping : State :=
  let hd (base kind : Nat) : HReg := ⟨BitVec.ofNat 128 (base + kind * 2 ^ 52), false, false⟩
  let s := withS (withS ctl0 20 1) 30 5
  { (s.mapThr s.cur fun th => { th with hs := [(0, hd 0x2000 0), (1, hd 0x2008 0), (2, hd 0x2000 1)] }) with
    mem := Memory.write (Memory.write s.mem 0x24050 (leBytes 16 (0xCF + 0x0B * 2 ^ 20 + 3 * 2 ^ 30))) 0x32000 (tdesc 16) }

/-- tap, rowsel, rset and tapget on h k. -/
def tapIns (h : BitVec 8) : List Ins :=
  [(⟨h, 20, 0, 0, none⟩ : PayA).ins Rows.rowTap k1, (⟨10, 30, 16 * h, 0, none⟩ : PayA).ins Rows.rowRowsel k1,
   (⟨h, 20, 30, 0, none⟩ : PayA).ins Rows.rowRset k1]
@[inherit_doc tapIns]
def tapgetIns (h f : BitVec 8) : Ins := (⟨9, 30, 16 * h, f, none⟩ : PayA).ins Rows.rowTapget k1

theorem test_hypotheses_tap_issue :
    (∀ n ∈ tapIns 0 ++ tapIns 1 ++ tapIns 2 ++ [(⟨10, 30, 0, 0, none⟩ : PayA).ins Rows.rowRowsel ⟨0, 0, 0, 1, 0, 0⟩], Clear n {} tapping) ∧
    (∀ n ∈ [tapgetIns 0 0, tapgetIns 1 2, (⟨9, 30, 0, 0, none⟩ : PayA).ins Rows.rowTapget ⟨0, 0, 0, 1, 0, 0⟩], Clear n { bad := false } tapping) ∧
    (let h (k : Nat) : BitVec 128 := (tapping.thr tapping.cur).hreg k |>.v
     (h 0).extractLsb' 52 4 = 0 ∧ ((h 0).extractLsb' 0 52).toNat % 128 = 0 ∧ ((h 1).extractLsb' 0 52).toNat % 128 ≠ 0 ∧
       ((h 2).extractLsb' 52 4).toNat ≠ 0) := by
  refine ⟨clear_all (by decide +kernel), fun n hn => ?_, by decide +kernel⟩
  have h : ([tapgetIns 0 0, tapgetIns 1 2, (⟨9, 30, 0, 0, none⟩ : PayA).ins Rows.rowTapget ⟨0, 0, 0, 1, 0, 0⟩].all fun n => clearB n { bad := false } tapping) = true := by decide +kernel
  exact clear_of (List.all_eq_true.mp h n hn)

/-- A record of command 3, row 0. -/
def aRecord : Rec := ⟨3, 0, 0, 7, 0, 0, 0, 0, 0x30⟩
/-- A handler team of the command 3 of die 0, whose group has read a record or not. -/
def handlerTeam (r : List Rec) : State :=
  { (regs.mapThr regs.cur fun th => { th with recs := r }) with
    launches := Sparse.put 0 { (regs.launch 0) with src := .tap 0 3 2 } regs.launches }
/-- wrd into v16 to v23, and wret with a literal mode. -/
def wrdIns : Ins := (⟨16, 0, 0, 0, none⟩ : PayA).ins Rows.rowWrd ⟨0, 0, 0, 1, 0, 0⟩
@[inherit_doc wrdIns]
def wretIns (m : BitVec 64) : Ins := (⟨0, 0xFF, 0, 0, some m⟩ : PayA).ins Rows.rowWret k0

/-- The states in which a wret is judged: without a record, with one, and with a store or a load of the group in flight. -/
def returning : List State :=
  [handlerTeam [], handlerTeam [aRecord], withOp (handlerTeam [aRecord]) (.store [elem .mem 0x31000 0] 0 0),
    withOp (handlerTeam [aRecord]) (.load [elem .mem 0x31000 0] 0 0 [into9] 0)]

theorem test_hypotheses_records :
    Clear wrdIns { bad := ((handlerTeam []).handlerOf regs.cur).isNone } (handlerTeam []) ∧
    (∀ m ∈ [0, 2, 3], ∀ s ∈ returning,
      Clear (wretIns (BitVec.ofNat 64 m)) { bad := (s.handlerOf s.cur).isNone } s) ∧
    uni32 (wretIns 3) (handlerTeam []) 0 = 3 ∧ uni32 (wretIns 2) (handlerTeam []) 0 = 2 ∧
    ((noted (wretIns 2) 0 (handlerTeam [])).thr regs.cur).recs = [] ∧
    ((noted (wretIns 2) 0 (handlerTeam [aRecord])).thr regs.cur).recs = [aRecord] ∧
    returning.map (storesLeft (wretIns 2)) = [false, false, true, false] ∧ returning.map (loadsLeft (wretIns 2)) = [false, false, false, true] ∧
    (handlerTeam []).handlerOf regs.cur = some (0, 3, 2) := by
  refine ⟨clear_of (by decide +kernel), ?_, by decide +kernel⟩
  have h : ∀ m ∈ [0, 2, 3], ∀ s ∈ returning,
    clearB (wretIns (BitVec.ofNat 64 m)) { bad := (s.handlerOf s.cur).isNone } s = true := by decide +kernel
  exact fun m hm s hs => clear_of (h m hm s hs)

/-- A program with a launch entry of one group at 0x5000; the second page is not resident and the third has no leaf. -/
def launching : State :=
  let s := withS (withS (withS ctl0 20 0x5000) 21 0x10000) 22 0x20000
  { s with
    mem := Memory.write (Memory.write s.mem 0x24010 (leBytes 16 0x27)) 0x35000
      ([2 ^ 56, 0x8000, 0, 0, 1 + 2 ^ 16 + 2 ^ 32, 0, 0, 0].flatMap (leBytes 8)) }
/-- tlaunch of the entry that s k names, and what it reads. -/
def tlaunchIns (k : BitVec 8) : Ins := (⟨9, k, 0, 0, none⟩ : PayA).ins Rows.rowTlaunch k1
@[inherit_doc tlaunchIns]
def tlaunchRead (k : BitVec 8) : Except Stop (Entry × List (BitVec 128)) :=
  (noted (tlaunchIns k) 0 launching).readEntry { (launching.who launching.cur) with core := none }
    (((sight (tlaunchIns k) 0 launching).uni 0).toNat % 2 ^ 52) (fun _ => [launching.quadOf launching.cur])
    fun e => if e.kind ≠ 0 ∨ 16 < e.gdx * e.gdy * e.gdz then some (tlaunchIns k).word0.toNat else none

theorem test_hypotheses_tlaunch :
    (∀ n ∈ [tlaunchIns 20, tlaunchIns 21, tlaunchIns 22], Clear n {} launching) ∧ ((tlaunchRead 20).toOption.map (·.1.gdx)) = some 1 ∧
    (match tlaunchRead 21 with | .error (.absent pte) => pte == 0x24010 | _ => false) = true ∧
    (match tlaunchRead 22 with | .error (.cause .nomap v) => v == 0x20000 | _ => false) = true ∧
    ((noted (tlaunchIns 21) 0 launching).thr launching.cur).stErr = [] :=
  ⟨clear_all (by decide +kernel), by decide +kernel⟩

/-- The program has queue 0, which team 0 consumes; s20 names it, s21 names nothing, s22 is a value. -/
def producing (n : Nat) (shut : List Nat) : State :=
  let s := withS (withS (withS ctl0 20 1) 21 2) 22 9
  { (s.mapQuad 0 fun x => { x with queues := [(0, 0)], closed := shut }) with
    teams := [(0, { Team.absent with stage := .resident, uqOpen := true, uq := List.replicate n 7 })] }
/-- qpush and qclose on what s k names. -/
def queueIns (k : BitVec 8) : List Ins :=
  [(⟨0, k, 22, 0, none⟩ : PayA).ins Rows.rowQpush k0, (⟨0, k, 0, 0, none⟩ : PayA).ins Rows.rowQclose k0]

theorem test_hypotheses_queues :
    (∀ s ∈ [producing 3 [], producing 64 [], producing 3 [0], withOp (producing 3 []) (.store [] 0 0)], ∀ n ∈ queueIns 20 ++ queueIns 21, Clear n {} s) ∧
    (∀ n ∈ queueIns 20, (((sight n 0 (producing 3 [])).uni 0).setWidth 16 : BitVec 16).getLsbD 0 = true ∧ storesLeft n (producing 3 []) = false ∧
      storesLeft n (withOp (producing 3 []) (.store [] 0 0)) = true) ∧
    ((producing 3 []).team 0).uq.length = 3 ∧ ((producing 64 []).team 0).uq.length = 64 ∧ 0 ∈ ((producing 3 [0]).quad 0).closed := by
  refine ⟨?_, by decide +kernel⟩
  have h : ∀ s ∈ [producing 3 [], producing 64 [], producing 3 [0], withOp (producing 3 []) (.store [] 0 0)], ∀ n ∈ queueIns 20 ++ queueIns 21, clearB n {} s = true := by
    decide +kernel
  exact fun s hs n hn => clear_of (h s hs n hn)

/-- BlockingInstructions…: groups that wait in a wret, programs that wait in a qpush on a queue with room and on a full one, groups that
wait to arrive at a bar, alone in their team, beside another, and with a load in flight. -/
def twoGroups : State := regs.mapTeam 0 fun t => { t with groups := t.groups ++ [(1, placeThread false)], n := 2 }

theorem test_hypotheses_waits :
    (∀ s ∈ (returning.drop 1).map (waiting · (.wret 2)), (s.mapThr s.cur (Thr.landDue s.clk)).standing s.cur = true ∧ s.handlerOf s.cur = some (0, 3, 2) ∧
      ((s.mapThr s.cur (Thr.landDue s.clk)).thr s.cur).recs.getLast? = some aRecord) ∧
    (∀ n ∈ [3, 64], let s := waiting (producing n []) (.qpush 2 9)
      (s.mapThr s.cur (Thr.landDue s.clk)).standing s.cur = true ∧ (s.team 0).uqOpen = true ∧ (s.team 0).uq.length = n) ∧
    (∀ s ∈ [regs, twoGroups, loading], ((waiting s (.arrive 2 0 1 true [])).mapThr s.cur (Thr.landDue s.clk)).standing s.cur = true) ∧
    0 < (((regs.mapThr regs.cur (Thr.passFence 2 2)).arrive regs.cur 2 0 1).phase regs.cur 2 0 (regs.barInst regs.cur 2) - regs.phase regs.cur 2 0 (regs.barInst regs.cur 2)).toInt ∧
    ¬0 < (((twoGroups.mapThr regs.cur (Thr.passFence 2 2)).arrive regs.cur 2 0 1).phase regs.cur 2 0 (twoGroups.barInst regs.cur 2) -
      twoGroups.phase regs.cur 2 0 (twoGroups.barInst regs.cur 2)).toInt := by decide +kernel

/-- A tap command of the program of `tapping`, numbered 3, with its descriptor read; the die's TLB holds the first page for writes. -/
def tapCmd3 (copy : Option (List (BitVec 16))) (teams : List (Nat × Nat)) (held : List Encode) : TapCmd :=
  { id := 3, a := .ctl 0, launch := 0, desc := tdesc 16, sg2 := 0, sg3 := 0, level := 2, rows := [⟨0, 0, copy⟩], teams := teams, held := held }
@[inherit_doc tapCmd3]
def served (item : TapItem) (c : TapCmd) : State :=
  (owning (withOp tapping (.engine 3 []))).mapDie 0 fun d =>
    { d with items := [item], cmds := [c], tlb := [⟨1, 0, 0, 0xCF + 3 * 2 ^ 30, 0x24000⟩] }
/-- The command not yet accepted, on the descriptor at 0x2000, with row 0 selected or not; its row watched or not. -/
def offered (desc : Nat) (mask : BitVec 128) (v d : Nat) : State :=
  let s := served (.command (tapCmd3 none [] []) desc mask 0) (tapCmd3 none [] [])
  { s with mem := Memory.write (Memory.write s.mem 0x33800 (leBytes 2 v)) 0x32000 (tdesc d) }
/-- The engine's way to memory. -/
def tapW : Who := tapping.tapWho 0 0

/-- TheTapEngineServes…: a command on a page without a leaf, with a bad D, without rows, with a row, watched or not. -/
theorem test_hypotheses_tap_commands :
    AtHead (offered 0x2000 1 0 16) 0 (.command (tapCmd3 none [] []) 0x2000 1 0) [] ∧
    Tapping (offered 0x2000 1 0 16) (tapCmd3 none [] []) ⟨0, none, true, 8, 8, .engine 3 [], 0, none, []⟩ ∧ ((offered 0x2000 1 0 16).thr (.ctl 0)).tapWaits 0 = false ∧
    (match (offered 0x20000 1 0 16).tapRead tapW 0x20000 128 with | .error (.cause .nomap v) => v == 0x20000 | _ => false) = true ∧
    ((offered 0x2000 1 0 17).tapRead tapW 0x2000 128).toOption = some (tdesc 17) ∧
    ((offered 0x2000 1 0 17).tapCheck tapW (tdesc 17)).toOption = some (some 0x58) ∧
    (∀ s ∈ [offered 0x2000 0 0 16, offered 0x2000 1 0 16, offered 0x2000 1 1 16],
      (s.tapRead tapW 0x2000 128).toOption = some (tdesc 16) ∧ (s.tapCheck tapW (tdesc 16)).toOption = some none ∧
      (s.tapNat tapW (Td.stateVa (tdesc 16) 0) 4).toOption = some 0 ∧ ((s.tapHalves tapW (Td.rowVa (tdesc 16) 0) (Td.d (tdesc 16))).toOption.map (·.length)) = some 16 ∧
      (s.tapWrite tapW (Td.stateVa (tdesc 16) 0) (leBytes 4 7)).toOption.isSome = true) ∧
    ((offered 0x2000 1 1 16).tapNat tapW (Td.rset (tdesc 16)) 2).toOption = some 1 ∧
    ((offered 0x2000 1 0 16).tapNat tapW (Td.rset (tdesc 16)) 2).toOption = some 0 := by
  unfold AtHead Tapping
  decide +kernel

/-- The largest of three values, and a tie: what TOPK has to choose from. -/
theorem test_hypotheses_topk :
    (∀ x ∈ [(0x3F800000 : BitVec 64), 0x40000000, 0xBF800000], (Fp.decode Fp.f32 x).isNan = false ∧ x.toNat < 2 ^ 32) ∧
    topK 1 [0x3F800000, 0x40000000, 0xBF800000, 0x40000000] = [(1, 0x40000000)] := by
  refine ⟨?_, by decide +kernel⟩
  intro x hx
  simp only [List.mem_cons, List.not_mem_nil, or_false] at hx
  obtain rfl | rfl | rfl := hx <;> decide +kernel

/-- A record to queue: with a handler team that has room, with one that is full, without one; fates of a row held or not; an encode. -/
def queueing (n : Nat) : State :=
  (served (.push 3 [(2, aRecord)] false) (tapCmd3 none [(2, 0)] [])).mapTeam 0 fun _ => { Team.absent with stage := .resident, cls := 2, recs := List.replicate n aRecord }
@[inherit_doc queueing]
def fated (held : List Encode) : State := served (.fate 3 0 2) (tapCmd3 none [] held)
@[inherit_doc queueing]
def encoding : State := served (.encode 3 0) (tapCmd3 (some (List.replicate 16 0)) [] [])

theorem test_hypotheses_tap_items :
    (∀ n ∈ [0, 256], AtHead (queueing n) 0 (.push 3 [(2, aRecord)] false) [] ∧ ((queueing n).team 0).recs.length = n ∧
      (queueing n).tapCmd 0 3 = some (tapCmd3 none [(2, 0)] []) ∧
      (((tapCmd3 none [(2, 0)] []).teams.find? fun t => t.1 == 2 && ((queueing n).team t.2).stage != .retired) = some (2, 0))) ∧
    (((tapCmd3 none [] []).teams.find? fun t => t.1 == 2 && ((queueing 0).team t.2).stage != .retired) = none ∧ Td.hoff (tdesc 16) % 8 = 0) ∧
    (∀ e ∈ [[], [(⟨0, 1, 0, [2]⟩ : Encode)]], AtHead (fated e) 0 (.fate 3 0 2) [] ∧ (fated e).tapCmd 0 3 = some (tapCmd3 none [] e) ∧
      ((fated e).tapNat tapW (Td.stateVa (tdesc 16) 0) 4).toOption = some 0 ∧
      ((fated e).tapWrite tapW (Td.stateVa (tdesc 16) 0) (leBytes 4 196608)).toOption.isSome = true) := by
  unfold AtHead
  decide +kernel

/-- A row to be encoded again: without a rule set, and with one whose ALWAYS list watches feature 0 for a value below 1, where no
feature is kept and nothing is logged. -/
def againCmd (rs : BitVec 16) : TapCmd := { tapCmd3 none [] [⟨0, 1, 0, [2]⟩] with rows := [⟨0, rs.toNat, none⟩] }
@[inherit_doc againCmd]
def again (rs : BitVec 16) : State :=
  let s := served (.fate 3 0 1) (againCmd rs)
  let head := leBytes 16 (1 + 7 * 2 ^ 36 + (Rt.hash 1 0 4 + 2) * 2 ^ 96)
  let watch := leBytes 16 (1 + 5 * 2 ^ 36 + 2 ^ 43 + 7 * 2 ^ 48 + 0x3F800000 * 2 ^ 64)
  { s with mem := Memory.write s.mem (0x30000 + Td.rtab (tdesc 16) + 16 * Rt.hash 1 0 4) (head ++ watch) }

theorem test_hypotheses_tap_again :
    (AtHead (again 0) 0 (.fate 3 0 1) [] ∧ (again 0).tapCmd 0 3 = some (againCmd 0)) ∧
    (AtHead (again 1) 0 (.fate 3 0 1) [] ∧ (again 1).tapCmd 0 3 = some (againCmd 1)) := by
  unfold AtHead
  exact ⟨by decide +kernel, by decide +kernel⟩

theorem test_hypotheses_tap_again_row :
    ((again 0).tapHalves tapW (Td.rowVa (tdesc 16) 0) (Td.d (tdesc 16))).toOption = some (List.replicate 16 0) ∧
    ((again 1).tapHalves tapW (Td.rowVa (tdesc 16) 0) (Td.d (tdesc 16))).toOption = some (List.replicate 16 0) ∧
    ((again 0).tapNat tapW (Td.stateVa (tdesc 16) 0) 4).toOption = some 0 ∧
    ((again 0).tapWrite tapW (Td.stateVa (tdesc 16) 0) (leBytes 4 (65536 * 2))).toOption.isSome = true := by decide +kernel

theorem test_hypotheses_tap_again_encode :
    ((again 0).encodeRow tapW 3 (tdesc 16) 0 0 (List.replicate 16 0)).toOption.map (fun e => (e.row, e.logs, e.recs.length)) = some (none, [], 0) ∧
    ((again 1).encodeRow tapW 3 (tdesc 16) 0 1 (List.replicate 16 0)).toOption.map (fun e => (e.row, e.logs, e.recs.length)) = some (none, [], 1) := by
  decide +kernel

/-- Nothing is logged where no feature is. -/
theorem test_hypotheses_tap_again_log (s : State) : s.appendLog tapW (tdesc 16) [] = .ok s := by
  unfold State.appendLog
  exact if_pos (.inr rfl)

theorem test_hypotheses_tap_encode :
    AtHead encoding 0 (.encode 3 0) [] ∧ (((tapCmd3 (some (List.replicate 16 0)) [] []).rowOf 0).copy = some (List.replicate 16 0)) ∧
    (match encoding.encodeRow tapW 3 (tdesc 16) 0 0 (List.replicate 16 0) with
      | .ok e => e.row == none && (encoding.appendLog tapW (tdesc 16) e.logs).toOption.isSome
      | _ => false) = true := by
  unfold AtHead
  decide +kernel

/-- The log of `encoding` lies in a cached page without key or format; it has room for 4 entries. -/
theorem test_hypotheses_tap_log :
    0 < Td.logcap (tdesc 16) ∧ tapW.core = none ∧ RunAt encoding tapW devWrite (Td.log (tdesc 16)) (16 + 16 * Td.logcap (tdesc 16)) 0x37000 ∧
    (encoding.tapNat tapW (Td.log (tdesc 16)) 8).toOption = some 0 := by
  refine ⟨by decide +kernel, by decide +kernel, ⟨by decide +kernel, ⟨⟨1, 0, 0, 0xCF + 3 * 2 ^ 30, 0x24000⟩, by decide +kernel, by decide +kernel⟩, ?_⟩, by decide +kernel⟩
  have h : ((List.range (16 + 16 * Td.logcap (tdesc 16))).all fun j => encoding.hostLost .mem (0x37000 + j) == false &&
      decide (encoding.translate tapW devWrite (Td.log (tdesc 16) + j) = .ok (0x37000 + j) (0xCF + 3 * 2 ^ 30))) = true := by decide +kernel
  intro j hj
  have := List.all_eq_true.mp h j (List.mem_range.mpr hj)
  simp only [Bool.and_eq_true, beq_iff_eq, decide_eq_true_eq] at this
  exact ⟨this.1, _, this.2, by decide, by decide⟩

/-- srd of register k, and swr to it of s20 (which holds 5). -/
def srdIns (k : BitVec 8) : Ins := (⟨9, k, 0, 0, none⟩ : PayA).ins Rows.rowSrd k1
@[inherit_doc srdIns]
def swrIns (k : BitVec 8) : Ins := (⟨0, k, 20, 0, none⟩ : PayA).ins Rows.rowSwr k0
/-- The program with 5 in s20; the same at level 0; the same in a handler. -/
def five : State := withS ctl0 20 5
@[inherit_doc five]
def fiveAt0 : State := five.mapThr five.cur fun th => { th with level := 0 }
@[inherit_doc five]
def fiveIn : State := five.mapThr five.cur fun th => { th with handler := true }

theorem test_hypotheses_special_registers :
    (∀ k ∈ List.range 256, ∀ L, readLevel k = some L → Clear (srdIns (BitVec.ofNat 8 k)) { lvl := some L } five) ∧
    (∀ k ∈ [0x0B, 0x0C, 0x0F, 0x43, 0x44], ∃ L, writeLevel k = some L ∧ Clear (swrIns (BitVec.ofNat 8 k)) { lvl := some L } five ∧
      (k = 0x0F → Clear (swrIns (BitVec.ofNat 8 k)) { lvl := some L } fiveIn)) ∧
    ((landed fiveAt0).thr fiveAt0.cur).level < 2 ∧ readLevel 0x42 = some 2 ∧ readLevel 0 = none ∧ writeLevel 0x42 = none ∧
    writeLevel 0x43 = some 2 ∧ (∀ n ∈ [srdIns 0x42, srdIns 0, swrIns 0x42, swrIns 0x43], modeBad n {} ((landed five).thr five.cur).scalar = false) := by
  have h : (List.range 256).all (fun k => match readLevel k with
      | some L => clearB (srdIns (BitVec.ofNat 8 k)) { lvl := some L } five | none => true) = true := by decide +kernel
  refine ⟨fun k hk L hL => ?_, ?_, by decide +kernel, by decide, by decide, by decide, by decide, by decide +kernel⟩
  · have := List.all_eq_true.mp h k hk
    rw [hL] at this
    exact clear_of this
  · have h2 : (([0x0B, 0x0C, 0x0F, 0x43, 0x44] : List Nat).all fun k => (writeLevel k).any fun L =>
        clearB (swrIns (BitVec.ofNat 8 k)) { lvl := some L } five && (k != 0x0F || clearB (swrIns (BitVec.ofNat 8 k)) { lvl := some L } fiveIn)) = true := by
      decide +kernel
    intro k hk
    have := List.all_eq_true.mp h2 k hk
    obtain ⟨L, hL, this⟩ := (Option.any_eq_true _ _).mp this
    simp only [Bool.and_eq_true, Bool.or_eq_true, bne_iff_ne] at this
    exact ⟨L, hL, clear_of this.1, fun hk => clear_of (this.2.resolve_left (fun h => h hk))⟩

/-- segset of segment k to 16 bytes (16 words) from 0, or from 2^31. -/
def segsetIns (k : BitVec 8) : Ins := (⟨k, 20, 0, 0, none⟩ : PayA).ins Rows.rowSegset k0
/-- A team with 1024 bytes of scratchpad, in a partition that holds the first MiB of die 0. -/
def segmented (base : Nat) : State :=
  ((withReg (withReg lanes 20 fun _ => base) 21 fun _ => 16).mapTeam 0 fun t => { t with scrLen := 1024 }).mapPart 0 fun p => { p with maps := { p.maps with dieUnits := [0] } }

theorem test_hypotheses_segset :
    (∀ k ∈ [0, 1, 2, 3], ∀ base ∈ [0, 2 ^ 31], Clear (segsetIns (BitVec.ofNat 8 k)) {} (segmented base)) ∧
    (sight (segsetIns 0) 0 (segmented 0)).uni 0 = 16 * 2 ^ 32 ∧
    (segmented 0).dieSpaceOk 0 0 (16 * 2 ^ 32) = true ∧ (segmented 0).dieSpaceOk 0 0 (2 ^ 31 + 16 * 2 ^ 32) = false ∧ ((segmented 0).team 0).scrLen = 1024 := by
  have h : ∀ k ∈ [0, 1, 2, 3], ∀ base ∈ [0, 2 ^ 31], clearB (segsetIns (BitVec.ofNat 8 k)) {} (segmented base) = true := by decide +kernel
  exact ⟨fun k hk b hb => clear_of (h k hk b hb), by decide +kernel⟩

/-- fpadd of s22 frames from the address in s20, in a program of level 2: frames 16 and 17 are free frames of partition 0. -/
def fpaddIns : Ins := (⟨0, 20, 22, 0, none⟩ : PayA).ins Rows.rowFpadd k0
@[inherit_doc fpaddIns]
def freeFrames (m : Nat) : State :=
  { (withS (withS ctl0 20 (16 * 65536)) 22 m) with frames := [(16, ⟨some 0, none, 0, false⟩), (17, ⟨some 0, none, 0, false⟩)] }

theorem test_hypotheses_fpadd :
    (∀ m ∈ [0, 1, 2, 3, 65537], Clear fpaddIns {} (freeFrames m) ∧ uni32 fpaddIns (freeFrames m) 1 = m) ∧
    ((sight fpaddIns 0 (freeFrames 3)).uni 0).toNat = 16 * 65536 ∧
    (∀ f ∈ [16, 17], ((freeFrames 3).frame f).owner = some 0 ∧ ((freeFrames 3).frame f).maps = 0 ∧ ((freeFrames 3).frame f).pooled = false) ∧
    ((freeFrames 3).frame 18).owner ≠ some 0 ∧
    (∀ x ∈ [16 * 65536 + 1, 18 * 65536], Clear fpaddIns {} (withS (freeFrames 3) 20 x) ∧
      (x % 65536 ≠ 0 ∨ ((freeFrames 3).frame (x / 65536)).owner = none)) := by
  refine ⟨fun m hm => ⟨?_, ?_⟩, by decide +kernel, by decide +kernel, by decide +kernel, fun x hx => ⟨?_, ?_⟩⟩
  rotate_left 2
  · have h : (([16 * 65536 + 1, 18 * 65536] : List Nat).all fun x => clearB fpaddIns {} (withS (freeFrames 3) 20 x)) = true := by decide +kernel
    exact clear_of (List.all_eq_true.mp h x hx)
  · revert x
    decide +kernel
  · have h : (([0, 1, 2, 3, 65537] : List Nat).all fun m => clearB fpaddIns {} (freeFrames m)) = true := by decide +kernel
    exact clear_of (List.all_eq_true.mp h m hm)
  · revert m
    decide +kernel

/-- pgev of the address in v20, v21: beyond the address space, a hole, a page of class 0, a resident and a nonresident page of class 2. -/
def pgevIns : Ins := (⟨9, 20, 0, 0, none⟩ : PayA).ins Rows.rowPgev ⟨0, 0, 15, 1, 0, 0⟩
@[inherit_doc pgevIns]
def evictable (va : Nat) : State :=
  let s := withReg (withReg lanes 20 fun _ => va % 2 ^ 32) 21 fun _ => va / 2 ^ 32
  { s with mem := Memory.write s.mem 0x24010 (leBytes 16 (0xEF + 7 * 2 ^ 30 + 5 * 2 ^ 64)) }

theorem test_hypotheses_pgev :
    (∀ va ∈ [2 ^ 52, 0x20000, 0, 0x10000], Clear pgevIns {} (evictable va) ∧ ((sight pgevIns 0 (evictable va)).uni 0).toNat = va) ∧
    pgevIns.wb false = true ∧ (evictable 0).walk 1 0x20000 = .none ∧
    (evictable 0).walk 1 0 = .leaf (0x4F + 3 * 2 ^ 30) 0x24000 ∧ (evictable 0).walk 1 0x10000 = .leaf (0xEF + 7 * 2 ^ 30 + 5 * 2 ^ 64) 0x24010 ∧
    Leaf.cls (0x4F + 3 * 2 ^ 30) = 0 ∧ Leaf.cls (0xEF + 7 * 2 ^ 30 + 5 * 2 ^ 64) = 2 ∧ Leaf.res (0xEF + 7 * 2 ^ 30 + 5 * 2 ^ 64) = true ∧
    (evictable 0).leafAt 0 0x24010 = 0xEF + 7 * 2 ^ 30 + 5 * 2 ^ 64 ∧ (evictable 0).hostLost .mem 0x24010 = false ∧
    ((evictable 0).dies.any fun d => d.2.fills.any fun f => f.pte == 0x24010) = false ∧ ((evictable 0).part 0).guarded = false := by
  refine ⟨fun m hm => ⟨?_, ?_⟩, by decide +kernel⟩
  · have h : (([2 ^ 52, 0x20000, 0, 0x10000] : List Nat).all fun m => clearB pgevIns {} (evictable m)) = true := by decide +kernel
    exact clear_of (List.all_eq_true.mp h m hm)
  · revert m
    decide +kernel

/-- The wait of pgev for the accesses to its frame, with none left and with one left, on a clean and on a dirty page whose leaf it has
found; the dirty one's leaf as it stands, and changed meanwhile. -/
def leaf2 (dirty : Bool) : BitVec 128 := (if dirty then 0xEF else 0x6F) + 7 * 2 ^ 30 + 5 * 2 ^ 64
@[inherit_doc leaf2]
def evicting (dirty : Bool) (ops : List (Agent × Nat)) : State :=
  let s := evictable 0x10000
  { (s.mapThr s.cur fun th => { th with wait := some ⟨.evict 0x10000 0x24010 (some (leaf2 dirty)) ops [], 1, none⟩, ops := [⟨0, none, true, 8, 8, .store [] 0 0, 0, none, []⟩] }) with
    mem := Memory.write s.mem 0x24010 [if dirty then 0xAF else 0x2F] }
@[inherit_doc evicting]
def remapped : State := { evicting true [] with mem := Memory.write (evicting true []).mem 0x24010 [0] }

theorem test_hypotheses_evict :
    (∀ d ∈ [true, false], ∀ o ∈ [[], [(Agent.grp 0 0, 0)]], ((evicting d o).mapThr (.grp 0 0) (Thr.landDue (evicting d o).clk)).standing (.grp 0 0) = true ∧
      (evicting d o).hostLost .mem 0x24010 = false ∧ Leaf.d (leaf2 d) = d ∧ (evicting d o).leafAt 0 0x24010 = leaf2 d &&& ~~~(0x40 : BitVec 128) ∧ (evicting d o).landed o = o.isEmpty) ∧
    (evicting true []).extentOf 0 5 = (evicting false []).extentOf 0 5 ∧ ((evicting true []).extentOf 0 5).ro = false ∧
    remapped.leafAt 0 0x24010 ≠ leaf2 true &&& ~~~(0x40 : BitVec 128) := by decide +kernel

/-- tlbi of the interface in s22 with an access in flight and without; dbgset of comparator s20 with the PC of s21 and the word of s22. -/
def tlbiIns (m : BitVec 8) : Ins := (⟨0, 20, 22, m, none⟩ : PayA).ins Rows.rowTlbi k0
@[inherit_doc tlbiIns]
def dbgIns : Ins := (⟨0, 20, 22, 0, none⟩ : PayA).ins Rows.rowDbgset k0
@[inherit_doc tlbiIns]
def debugging (k w level : Nat) : State :=
  let s := withS (withS (withS ctl0 20 k) 22 16) 23 w
  s.mapThr s.cur fun th => { th with level := level }

theorem test_hypotheses_tlbi_without_meaning :
    (match Decode.instr (tlbiIns 3).word0 none with | .error (.tlbiKind c p) => c == k0 && p == ⟨0, 20, 22, 3, none⟩ | _ => false) = true ∧
    (let th := (landed ctl0).thr ctl0.cur
     th.ra = none ∧ modeBad (tlbiIns 3) {} th.scalar = false ∧ 2 ≤ th.level) := by decide +kernel

theorem test_hypotheses_tlbi_dbgset :
    (∀ m ∈ [0, 1, 2], Clear (tlbiIns (BitVec.ofNat 8 m)) {} (withS (withS ctl0 20 0) 22 1)) ∧
    (∀ x ∈ [((7, 1, 1) : Nat × Nat × Nat), (8, 1, 1), (7, 2, 1), (7, 4097, 1), (7, 4097, 2)], Clear dbgIns {} (debugging x.1 x.2.1 x.2.2)) ∧
    (debugging 7 1 0).qifOf (.ctl 0) = 1 := by
  have h : ∀ m ∈ [0, 1, 2], clearB (tlbiIns (BitVec.ofNat 8 m)) {} (withS (withS ctl0 20 0) 22 1) = true := by decide +kernel
  have h2 : ([((7, 1, 1) : Nat × Nat × Nat), (8, 1, 1), (7, 2, 1), (7, 4097, 1), (7, 4097, 2)].all fun x => clearB dbgIns {} (debugging x.1 x.2.1 x.2.2)) = true := by
    decide +kernel
  exact ⟨fun m hm => clear_of (h m hm), fun x hx => clear_of (List.all_eq_true.mp h2 x hx), by decide +kernel⟩

/-- Placed code at its header: a good one, or one of length 0 that has a trap entry. -/
def atHeader : State := lanes.mapThr lanes.cur fun th => { th with pcv := perLane fun _ => 0 }
@[inherit_doc atHeader]
def atBadHeader : State := trapped { atHeader with mem := Memory.write atHeader.mem 0x30000 (leBytes 8 0) }

theorem test_hypotheses_headers :
    (∀ s ∈ [atHeader, atBadHeader], s.standing s.cur = true ∧ (s.thr s.cur).wait = none ∧ (s.thr s.cur).ra = none ∧ (s.thr s.cur).issueAddr = 0 ∧
      s.headerBit s.cur 0 = true) ∧
    atHeader.fetchNat atHeader.cur 0 8 = .ok 0x0020000000000000 ∧ atHeader.headerBad atHeader.cur 0 0x0020000000000000 = false ∧
    atBadHeader.fetchNat atHeader.cur 0 8 = .ok 0 ∧ (atBadHeader.thr atBadHeader.cur).handler = false ∧ atBadHeader.trapEntry atBadHeader.cur ≠ 0 := by
  decide +kernel

/-- A group, and a program, whose lanes have all exited; then its team with every group ended. -/
def exited (s : State) : State := s.mapThr s.cur fun th => { th with pcv := th.pcv.map fun _ => exitedPc }
@[inherit_doc exited]
def endedTeam : State := lanes.mapThr lanes.cur fun th => { th with ended := true }

theorem test_hypotheses_ends :
    ((exited lanes).team 0).groups.any (·.1 == 0) = true ∧
    (∀ s ∈ [exited lanes, exited ctl0], (s.thr s.cur).ended = false ∧ (s.thr s.cur).alive = 0 ∧ (s.thr s.cur).ops = []) ∧
    ((exited ctl0).quad 0).prog = some 0 ∧ (endedTeam.team 0).stage = .resident ∧ (∀ g ∈ (endedTeam.team 0).groups, g.2.ended = true) ∧
    endedTeam.cmds = [] ∧ endedTeam.dies = [] ∧ (endedTeam.launch (endedTeam.team 0).launch).src = .chain 1 1 0 := by decide +kernel

/-- A group whose chain has been pinned for n cycles, with a result of the chain to take back. -/
def pinnedFor (n : Nat) : State :=
  regs.mapThr regs.cur fun th => { th with
    pinned := n, pinOther := true, chain := some ⟨8, 1, false, 1, [], [], [{ tgt := .v 9, mask := 1, v := [7], tag := .U, poison := 0, frost := 0, dead := 0 }]⟩ }
/-- A group that waits for flag 0, which a load holds long, behind a header that allows runahead; then in runahead. -/
def held0 : State :=
  let s := State.reset.placed false (encodeBytes (.add ⟨0, 1, 15, 1, 0, 0⟩ (pa 0)))
  { (s.mapThr (.grp 0 0) fun th => { th with
      busy := 1, long := 1, live := 1, blocks := [⟨0, 2, 1, 0, true, []⟩]
      ops := [⟨0, some 0, false, 0, 8, .load [] 0 0 [{ tgt := .v 5, mask := 1, v := [7], tag := .U, poison := 0, frost := 0, dead := 0 }] 0, 0, none, []⟩] }) with cur := .grp 0 0 }
@[inherit_doc held0]
def ahead (count : Nat) (busy : BitVec 12) : State :=
  held0.mapThr (.grp 0 0) fun th => { th with busy := busy, ra := some ⟨th.pcv, [], [], [], 1, 1, count, false, []⟩ }

theorem test_hypotheses_runahead :
    64 ≤ ((pinnedFor 64).thr (.grp 0 0)).pinned ∧ ((pinnedFor 64).thr (.grp 0 0)).pinOther = true ∧ ((pinnedFor 64).thr (.grp 0 0)).chain.isSome = true ∧
    ((pinnedFor 63).thr (.grp 0 0)).pinned < 64 ∧
    (match (held0.mapThr (.grp 0 0) (Thr.landDue held0.clk)).insAt (.grp 0 0) with
      | some (n, _) => (held0.mapThr (.grp 0 0) (Thr.landDue held0.clk)).entersRunahead (.grp 0 0) n
      | none => false) = true ∧
    (∀ n ∈ [0, 511, 512], (((ahead n 1).thr (.grp 0 0)).ra.map Ckpt.count) = some n) ∧ ((ahead 0 2).thr (.grp 0 0)).busy &&& 1 = 0 := by decide +kernel

/-- A team of the placed launch that waits for its placement on quad 0, with another waiting on another die. -/
def waitingTeam : State :=
  (lanes.mapTeam 0 fun t => { t with stage := .waiting }).mapPart 0 fun p => { p with savePools := [(0, 2 ^ 24)] }

theorem test_hypotheses_placement :
    waitingTeam.candidates 0 = [0] ∧ (waitingTeam.team 0).stage = .waiting ∧ 0 < waitingTeam.nTeams ∧ (waitingTeam.die 0).placed ≠ waitingTeam.clk + 1 := by decide +kernel

/-- The team has a free core of its quad to go to. -/
theorem test_hypotheses_best_core : waitingTeam.bestCore (waitingTeam.team 0) = some 1 := by decide +kernel

/-- A partition of one quad on each of dies 0 and 1, with three chunks of the launch on die 1. -/
def chunked : State :=
  (lanes.mapPart 0 fun p => { p with maps := { p.maps with quads := [0, 40] } }).mapLaunch 0 fun l => { l with chunks := [(1, [4, 5, 6])] }

theorem test_hypotheses_steal :
    (chunked.launch 0).live = true ∧ (chunked.launch 0).failed = false ∧ chunked.diesOf 0 = [0, 1] ∧
    Sparse.get [] 0 (chunked.launch 0).chunks = [] ∧ 2 ≤ (Sparse.get [] 1 (chunked.launch 0).chunks).length := by decide +kernel

/-- A team under pre-emption, at an Equinox point, and past Tq; a program under pre-emption; a team that drains. -/
def preempted (d : Nat) : State :=
  (lanes.mapTeam 0 fun t => { t with preempt := some d }).mapThr (.grp 0 0) fun th => { th with equinox := true }
@[inherit_doc preempted]
def leaving : State := ctl0.mapQuad 0 fun x => { x with preempt := true }
@[inherit_doc preempted]
def drainingTeam : State := lanes.mapTeam 0 fun t => { t with stage := .draining 2 }
/-- Two teams on core 0 that both wait for registers, 64 cycles long. -/
def deadlock : State :=
  let th := { placeThread false with wait := some ⟨.racq 1, 1, none⟩ }
  let t (k : Nat) : Team := { (lanes.team 0) with groups := [(0, th)], teamid := k, order := k }
  { lanes with teams := [(0, t 0), (1, t 1)], nTeams := 2, cores := [(0, { (lanes.coreOf 0) with stuck := 64 })] }

theorem test_hypotheses_swap :
    (preempted 5).teamRuns 0 = true ∧ ((preempted 5).team 0).preempt = some 5 ∧ 0 ≤ (preempted 0).clk ∧ (preempted 5).clk < 5 ∧ ((preempted 5).thr (.grp 0 0)).equinox = true ∧
    ((preempted 5).thr (.grp 0 0)).busy = 0 ∧ ((preempted 5).thr (.grp 0 0)).ops = [] ∧ ((preempted 5).thr (.grp 0 0)).ended = false ∧
    ((preempted 5).thr (.grp 0 0)).saved = 0 ∧
    ((leaving.quad 0).prog = some 0 ∧ (leaving.quad 0).preempt = true ∧ (leaving.quad 0).ctl.ended = false ∧ (leaving.quad 0).ctl.ops = [] ∧
      (leaving.quad 0).ctl.pend = [] ∧ (leaving.quad 0).ctl.chain = none ∧ (leaving.quad 0).ctl.ra = none ∧ (leaving.quad 0).mmaInFlight 0 leaving.clk = none) ∧
    ((drainingTeam.team 0).stage = .draining 2 ∧ drainingTeam.teamDead (drainingTeam.team 0) = false ∧
      (∀ g ∈ (drainingTeam.team 0).groups, g.2.ops = []) ∧ drainingTeam.cmds = []) ∧
    (64 ≤ (deadlock.coreOf 0).stuck ∧ (deadlock.coreOf 0).busyWith = none ∧ deadlock.deadlocked 0 = true ∧
      (deadlock.residents 0).map (·.1) = [0, 1] ∧ (deadlock.team 1).order = 1) := by decide +kernel

/-- A fill of the second page, which is class 2 and not resident, with a frame in the pool or without; then a read that SQE 0 has
begun, in time or too late. -/
def filling (pool : List Nat) : State :=
  ({ lanes with mem := Memory.write lanes.mem 0x24010 (leBytes 16 0x27) }.mapPart 0 fun p =>
    { p with pool := pool, maps := { p.maps with sqes := [0] } }).mapDie 0 fun d => { d with fills := [⟨0x24010, 0, [0], [], false⟩] }
@[inherit_doc filling]
def reading (late : Bool) : State :=
  { (filling []) with sqes := [(0, ⟨0, 0x24010, 0, 9, 0⟩)], clk := if late then 2000000 * (filling []).power.clock else 0 }

theorem test_hypotheses_fills :
    (∀ p ∈ [[], [9, 8]], (filling p).sqes = [] ∧ (filling p).nextFill 0 0 = some ⟨0x24010, 0, [0], [], false⟩ ∧ (filling p).evicting 0x24010 = false ∧
      ((filling p).part 0).pool = p) ∧
    (reading false).sqes.find? (·.1 == 0) = some (0, ⟨0, 0x24010, 0, 9, 0⟩) ∧
    (reading false).clk < 0 + 2000000 * (reading false).power.clock ∧ ¬(reading true).clk < 0 + 2000000 * (reading true).power.clock ∧
    (Leaf.v ((reading false).leafAt 0 0x24010) = true ∧ Leaf.cls ((reading false).leafAt 0 0x24010) = 2 ∧ Leaf.res ((reading false).leafAt 0 0x24010) = false ∧
      (reading false).driveUp 0 0 = false ∧ ({ reading false with nvme := [0] } : State).driveUp 0 0 = true ∧ (reading false).hostLost .mem 0x24010 = false) := by decide +kernel

/-- A write of a drive into the frame that it reads, and into another. -/
theorem test_hypotheses_dma :
    (∀ x ∈ (reading false).sqes, x.2.frame = 9 * 65536 / 65536 ∧
      ((reading false).extentOf x.2.part (Leaf.xref ((reading false).leafAt 0 x.2.pte))).port.toNat = 0) ∧
    (∀ x ∈ (reading false).sqes, x.2.frame ≠ 5 * 65536 / 65536) := by decide +kernel

/-- A page of a region that the Harvest engine drains. -/
def harvesting : State :=
  (lanes.mapDie 0 fun d => { d with drains := [⟨0, 0, 0, [], 1, some 4⟩, ⟨0, 0, 1, [], 2, some 4⟩, ⟨0, 0, 2, [], 3, none⟩] }).mapPart 0 fun p =>
    { p with regions := [(0, { live := true, rbase := 0, views := 1, hdie := 0, esh := 2, pages := 3, ctree := 0, qif := 1, harvested := [], draining := [0, 1, 2] })] }

theorem test_hypotheses_harvest :
    ⟨0, 0, 0, [], 1, some 4⟩ ∈ (harvesting.die 0).drains ∧ (∀ e ∈ (harvesting.die 0).drains, e ≠ ⟨0, 0, 0, [], 1, some 4⟩ → ∀ k, e.done = some k → 4 < k ∨ (4 = k ∧ 0 < e.page)) ∧
    (harvesting.inFlight fun _ o => o.reaches 3) = [] ∧
    harvesting.drainLeaf ⟨0, 0, 0, [], 1, some 4⟩ = some (0x4F + 3 * 2 ^ 30, 0x24000) ∧ harvesting.hostLost .mem 0x24000 = false := by decide +kernel

/-- Interface 1 with a chain of one entry at 0x6000, whose words are given; a launch entry of KIND k stands at 0x5000. -/
def chained (ws : List Nat) (k : Nat) : State :=
  { (lanes.mapQif 1 fun x => { x with walking := true, head := 0x6000, tail := 0x6040 }) with
    mem := Memory.write (Memory.write lanes.mem 0x36000 ((ws ++ List.replicate (8 - ws.length) 0).flatMap (leBytes 8))) 0x35000
      ([2 ^ 56 + k * 2 ^ 52, 0x8000, 0, 0, 1 + 2 ^ 16 + 2 ^ 32, 0, 0, 0].flatMap (leBytes 8)) }
/-- The bytes of such an entry. -/
def chainBytes (ws : List Nat) : List Byte := (ws ++ List.replicate (8 - ws.length) 0).flatMap (leBytes 8)
/-- A launch of the entry at 0x5000 and of one on a page without a leaf, a wait, a signal, an entry of no kind. -/
def chainEntries : List (List Nat) :=
  [[0, 0x6040, 0x5000], [0, 0x6040, 0x20000], [0, 0x6040 + 2 ^ 52, 0, 3], [0, 0x6040 + 2 * 2 ^ 52, 0x7000, 9], [0, 0x6040 + 3 * 2 ^ 52]]

theorem test_hypotheses_chain_entries :
    ∀ ws ∈ chainEntries, AtEntry (chained ws 0) 1 (chainBytes ws) := by
  unfold AtEntry Walks
  decide +kernel

theorem test_hypotheses_chain_launch :
    (∀ k ∈ [0, 1], ((chained [] k).readEntry ((chained [] k).walkerWho 1) 0x5000 (fun e => if e.kind = 1 then [e.quad] else (chained [] k).quadsOf 0)
      fun _ => none).toOption.map (·.1.kind) = some k) ∧
    (match (chained [] 0).readEntry ((chained [] 0).walkerWho 1) 0x20000 (fun _ => []) fun _ => none with
      | .error (.cause .nomap v) => v == 0x20000 | _ => false) = true ∧
    ((chained [] 0).part 0).maps.quads = [0] ∧
    (((chained [] 0).mapPart 0 fun p => { p with maps := { p.maps with quads := [1] } }).part 0).maps.quads.contains 0 = false := by decide +kernel

/-- Interface 1 with a wait entry for entry 3 in hand and a signal entry, of which `d` entries are done; the signal's address. -/
def waits (d va : Nat) : State :=
  lanes.mapQif 1 fun x => { x with waitAt := some (5, 0x6000, 3), done := d, signals := [(4, 0x6040, va, 9)] }

theorem test_hypotheses_chain_conditions :
    (∀ d ∈ [2, 3], Walks (waits d 0x7000) 1 ∧ ((waits d 0x7000).qif 1).waitAt = some (5, 0x6000, 3)) ∧
    ((waits 2 0x7000).qif 1).done < 3 ∧ 3 ≤ ((waits 3 0x7000).qif 1).done ∧
    (∀ va ∈ [0x7000, 0x20000], ((waits 3 va).qif 1).signals.find? (fun e => decide (e.1 ≤ ((waits 3 va).qif 1).done + 1)) = some (4, 0x6040, va, 9)) ∧
    ((waits 3 0).writeVirt ((waits 3 0).walkerWho 1) devWrite 0x7000 (leBytes 8 9)).toOption.isSome = true ∧
    (match (waits 3 0).writeVirt ((waits 3 0).walkerWho 1) devWrite 0x20000 (leBytes 8 9) with | .error (.cause .nomap, _) => true | _ => false) = true ∧
    ¬Walks (lanes.mapQif 1 fun x => { x with tdi := .error }) 1 := by
  unfold Walks
  decide +kernel

/-- A finished launch: its team has retired; a program that waits on quad 0, and one that runs. -/
def finished : State := (lanes.mapTeam 0 fun t => { t with stage := .retired }).mapLaunch 0 fun l => { l with src := .chain 1 1 0x6000 }
@[inherit_doc finished]
def queuedProgram : State := ctl0.mapQuad 0 fun x => { x with prog := none, queued := [0] }

theorem test_hypotheses_launches :
    (finished.launch 0).live = true ∧ (finished.launch 0).e.kind ≠ 1 ∧ (∀ y ∈ (finished.launch 0).teams, (finished.team y).stage = .retired) ∧
    (∀ c ∈ (finished.launch 0).chunks, c.2 = []) ∧ (queuedProgram.quad 0).queued = [0] ∧ (queuedProgram.quad 0).prog = none ∧
    (queuedProgram.quad 0).halted = false ∧ (queuedProgram.quad 0).spare = none ∧ (ctl0.quad 0).prog ≠ none ∧
    (queuedProgram.launch 0).clk = queuedProgram.clk ∧ (({ queuedProgram with clk := 1 } : State).launch 0).clk < 1 := by decide +kernel

/-- The machine after bring-up, with its host link up, its mailbox open and its lease clocks agreed. -/
def up (s : State) : State := { s with boot := { s.boot with stage := 5 }, lsync := true, linkUp := true, doeOpen := true, nvme := [0] }

/-- ChainsAreWalked…: writes of TAIL that an interface takes, and does not, and what a resynchronisation needs. -/
theorem test_hypotheses_tails :
    TakesTail (up lanes) 1 ∧ ¬TakesTail lanes 1 ∧ ¬TakesTail (up lanes) 4096 ∧ ¬TakesTail ((up lanes).mapQif 1 fun x => { x with tdi := .error }) 1 ∧
    ¬TakesTail (((up lanes).mapPart 0 fun p => { p with guarded := true }).mapQif 1 fun x => { x with tdi := .locked }) 1 ∧ 4 ≤ (up lanes).boot.stage := by
  unfold TakesTail
  decide +kernel

/-- Calls of interface 1, of each kind. -/
def callHdr : CallHdr := ⟨1, none⟩
@[inherit_doc callHdr]
def calls (h : CallHdr) : List Instr :=
  [.map h ⟨1, 0x30000, 0, 3, []⟩, .unmap h 1 0, .region h ⟨0, 0, 1, 0, 2, 0, 1, 0, []⟩, .keynew h 1 0, .keydel h 1, .preempt h [0] [0],
   .partConfig h ⟨0, false, Bitmaps.empty, false, 1, [], [], [], [], []⟩, .extent h 0 0 ExtentArgs.unused, .unknownCall h 9]
/-- The placed machine with interface 1 at call level n, whose call with this code was rung a cycle ago; a call of it in progress,
which waits for an access or for nothing. -/
def calling (code : Byte) (n : Nat) : State :=
  { (lanes.mapQif 1 fun x => { x with call := n, busy := true }) with clk := 1, bells := [⟨0, 1, [code]⟩] }
@[inherit_doc calling]
def inProgress (o : List (Agent × Nat)) : State := { (calling 1 2).mapQif 1 fun x => { x with drain := o } with taken := some 1, bells := [] }

theorem test_hypotheses_calls :
    (∀ i ∈ calls callHdr, (callOf i).isSome = true) ∧ Taken (calling 6 2) callHdr 6 2 ∧ Next (calling 1 0) 1 1 ∧ ¬Admitted (calling 1 0) 1 1 ∧
    Next ((calling 1 1).mapQif 1 Qif.toError) 1 1 ∧ (((calling 1 1).mapQif 1 Qif.toError).qif 1).tdi = .error ∧ ¬Next (calling 1 1) 1 2 ∧
    (∀ o ∈ [[], [(Agent.grp 0 0, 0)]], (inProgress o).taken = some 1 ∧ ((inProgress o).qif 1).drain = o) ∧
    (∃ y ∈ ((withOp (inProgress [(Agent.grp 0 0, 0)]) (.store [] 0 0)).thr (.grp 0 0)).ops, y.seq = 0) := by
  have rung (c : Byte) (n : Nat) : Next (calling c n) 1 c := ⟨⟨0, 1, [c]⟩, [], rfl, Nat.zero_lt_one, rfl, rfl⟩
  refine ⟨by decide +kernel, ⟨rfl, rung 6 2, by decide +kernel, by unfold Admitted; decide +kernel⟩, rung 1 0, by unfold Admitted; decide +kernel,
    ⟨⟨0, 1, [1]⟩, [], rfl, by decide +kernel, rfl, rfl⟩, by decide +kernel, ?_, by decide +kernel, ⟨0, none, true, 8, 8, .store [] 0 0, 0, none, []⟩, by decide +kernel, rfl⟩
  rintro ⟨b, rest, h, -, -, h2⟩
  obtain ⟨rfl, -⟩ := List.cons.inj h
  exact absurd h2 (by decide)

/-- A call that interface 1 has rung with its code is one that firmware takes. -/
theorem taken_of {s : State} {c : Byte} {n : Nat}
    (h : (s.taken.isNone && (match s.bells with | b :: _ => decide (b.clk < s.clk) && b.qif == 1 && b.req.headD 0 == c | [] => false) &&
      decide ((s.qif 1).tdi ≠ .error) && decide (n ≤ (s.qif 1).call) && !(s.part (s.qif 1).part).guarded) = true) : Taken s callHdr c n := by
  simp only [Bool.and_eq_true, decide_eq_true_eq, Bool.not_eq_true', Option.isNone_iff_eq_none] at h
  obtain ⟨⟨⟨⟨h1, h2⟩, h3⟩, h4⟩, h5⟩ := h
  refine ⟨h1, ?_, h3, by simpa [callHdr] using h4, fun h6 => absurd h6 (by simp [callHdr, h5])⟩
  match hb : s.bells with
  | [] => rw [hb] at h2; exact absurd h2 (by simp)
  | b :: r =>
    rw [hb] at h2
    simp only [Bool.and_eq_true, decide_eq_true_eq, beq_iff_eq] at h2
    exact ⟨b, r, hb, h2.1.1, h2.1.2, h2.2⟩

/-- FirmwareServes…: BELL of an interface during bring-up and after it, before and after another call. -/
theorem test_hypotheses_bells :
    5 ≤ (up lanes).boot.stage ∧ ((up lanes).qif 1).busy = false ∧ ((up lanes).qif 1).tdi ≠ .error ∧ ((up lanes).qif 1).callreq.length = 64 ∧
    lanes.boot.stage < 5 ∧ ((calling 1 1).qif 1).busy = true := by decide +kernel

/-- MAP of a leaf at 0x30000 of interface 1; the frame 9 is the partition's, the frame 10 is not. -/
def mapTo (l : Nat) : MapArgs := ⟨1, 0x30000, BitVec.ofNat 128 l, 3, []⟩
@[inherit_doc mapTo]
def mappable : State :=
  { (calling 1 1) with
    frames := Sparse.put 9 ⟨some 0, none, 0, false⟩ (calling 1 1).frames
    parts := Sparse.put 0 { ((calling 1 1).part 0) with extents := [(5, { ExtentArgs.unused with valid := true, pages := 8 })] } (calling 1 1).parts }
@[inherit_doc mapTo]
def guardedCall : State := mappable.mapPart 0 fun p => { p with guarded := true, key := 3 }

/-- Leaves that fail checks 1 to 7 of Table 20.5, and one that fails none of them. -/
theorem test_hypotheses_map :
    Taken mappable callHdr 1 1 ∧ (guardedCall.part 0).guarded = true ∧ (guardedCall.part 0).key ≠ 0 ∧ Leaf.key (mapTo 0).leaf = 0 ∧ mappable.mayChange 1 0 = true ∧ mappable.mayChange 1 1 = false ∧ (mappable.part 0).guarded = false ∧
    Fails mappable 0 (mapTo 0) 1 ∧ Fails mappable 0 (mapTo (0x4F + 2 ^ 24 * 2 ^ 30)) 2 ∧ Fails mappable 0 (mapTo (0x4F + 10 * 2 ^ 30)) 3 ∧
    Fails mappable 0 (mapTo (0x4F + 3 * 2 ^ 26 + 9 * 2 ^ 30)) 4 ∧ Fails mappable 0 (mapTo (0x27 + 5 * 2 ^ 64 + 8 * 2 ^ 96)) 5 ∧
    Fails mappable 0 (mapTo (0x7F + 9 * 2 ^ 30 + 10 * 2 ^ 64)) 6 ∧ Fails mappable 0 (mapTo (0x14F + 9 * 2 ^ 30)) 7 ∧
    ¬Fails mappable 0 (mapTo (0x27 + 5 * 2 ^ 64 + 7 * 2 ^ 96)) 5 := by
  refine ⟨taken_of (by decide +kernel), by decide +kernel, by decide +kernel, by decide +kernel, by decide +kernel, by decide +kernel, by decide +kernel, ?_,
    ⟨by decide +kernel, by decide +kernel⟩, ⟨by decide +kernel, 10, by decide +kernel, by decide +kernel⟩, ?_,
    ⟨by decide +kernel, Or.inr (Or.inr (Or.inr (Or.inl (by decide +kernel))))⟩, ⟨by decide +kernel, Or.inl ⟨10, by decide +kernel, by decide +kernel⟩⟩,
    ⟨by decide +kernel, by decide +kernel⟩, ?_⟩
  · show mapMalformed _ = true
    decide +kernel
  · show Block.legal _ _ = false
    decide +kernel
  · rintro ⟨-, h | h | h | h | h | h⟩ <;> revert h <;> decide +kernel

/-- A leaf that every check lets pass, at a place that holds none. -/
theorem test_hypotheses_map_passes :
    (mappable.leafChecks 0 (mapTo (0x4F + 9 * 2 ^ 30))).any (·) = false ∧
    (match State.placeLeaf 0 0x30000 3 (BitVec.ofNat 128 (0x4F + 9 * 2 ^ 30)) levels 0 (mappable.qif 1).root [] { mappable with bells := [] } with
      | .ok _ old pte => Leaf.v old == false && pte == 0x24030 | _ => false) = true ∧
    mappable.walk 1 0 = .leaf (0x4F + 3 * 2 ^ 30) 0x24000 ∧ mappable.walk 1 0x20000 = .none ∧ drains mappable 1 = [] ∧
    drains (withOp mappable (.store [elem .mem 0x31000 0] 0 0)) 1 ≠ [] ∧ mappable.hostLost .mem 0x24030 = false ∧
    Taken ({ mappable with bells := [⟨0, 1, [2]⟩] } : State) callHdr 2 1 := by
  iterate 7 refine ⟨by decide +kernel, ?_⟩
  exact taken_of (by decide +kernel)

/-- A region of one page of class 1 at 0x30000. -/
def regional : State := { mappable with bells := [⟨0, 1, [3]⟩], mem := Memory.write mappable.mem 0x24030 (leBytes 16 (0x5F + 9 * 2 ^ 30)) }

theorem test_hypotheses_region :
    RegionOk regional ⟨0, 4, 1, 0x30000, 12, 3, 1, 0, [(0, 16)]⟩ ∧ ¬RegionOk regional ⟨0, 4, 1, 0x30000, 13, 3, 1, 0, []⟩ ∧ regional.freeSlot 0 = some 0 ∧
    Taken regional callHdr 3 1 ∧ regional.mayChange 1 0 = true ∧ (regional.qif 1).part = 0 := by
  refine ⟨⟨by decide, by decide +kernel, by decide, by decide, by decide, by decide, by decide, by decide, by decide, by decide, fun j hj => ?_⟩,
    fun h => ?_, by decide +kernel, taken_of (by decide +kernel), by decide +kernel, by decide +kernel⟩
  · have : j = 0 := Nat.lt_one_iff.mp hj
    subst this
    exact ⟨0x5F + 9 * 2 ^ 30, 0x24030, by decide +kernel⟩
  · exact absurd h.2.2.2.1 (by decide)

/-- Keys: n slots in use, the first with key 5 of partition 0, of which a frame is mapped with key k; and every slot in use. -/
def slots (code : Byte) (k n : Nat) : State :=
  { (calling code 1) with keys := (List.range n).map fun i => (i, ⟨true, 5 + i, 0, 0⟩), frames := [(9, ⟨some 0, some k, 1, false⟩)] }

theorem test_hypotheses_keys :
    (∀ k ∈ [5, 6], Taken (slots 5 k 1) callHdr 5 1 ∧ Taken (slots 4 k 1) callHdr 4 1 ∧
      (slots 5 k 1).keys.find? (fun y => y.2.active && y.2.id == 5 && (slots 5 k 1).mayChange 1 y.2.part) = some (0, ⟨true, 5, 0, 0⟩)) ∧
    (∃ f ∈ (slots 5 5 1).frames, f.2.key = some 5) ∧ (∀ f ∈ (slots 5 6 1).frames, f.2.key ≠ some 5) ∧
    (Sparse.get KeySlot.free 1 (slots 4 5 1).keys).active = false ∧ (Sparse.get KeySlot.free 0 (slots 4 5 1).keys).active = true ∧
    (∃ k ∈ (slots 4 5 1).keys, k.2.active = true ∧ k.2.id = 5) ∧ (∀ k ∈ (slots 4 5 1).keys, k.2.active = true → k.2.id ≠ 6) := by
  refine ⟨fun k hk => ?_, by decide +kernel⟩
  refine ⟨?_, ?_, ?_⟩
  · simp only [List.mem_cons, List.not_mem_nil, or_false] at hk
    obtain rfl | rfl := hk <;> exact taken_of (by decide +kernel)
  · simp only [List.mem_cons, List.not_mem_nil, or_false] at hk
    obtain rfl | rfl := hk <;> exact taken_of (by decide +kernel)
  · revert k
    decide +kernel

/-- What a map holds that is listed from a function. -/
theorem get_listed {α : Type} (d : α) (f : Nat → α) (m n a : Nat) (h : a ≤ n) (h' : n < a + m) :
    Sparse.get d n ((List.range' a m).map fun i => (i, f i)) = f n := by
  induction m generalizing a with
  | zero => omega
  | succ m ih =>
    simp only [List.range'_succ, List.map_cons, Sparse.get]
    split
    · rename_i e; rw [e]
    · exact ih (a + 1) (by omega) (by omega)

theorem test_hypotheses_no_key_slot : ∀ n < 1024, (Sparse.get KeySlot.free n (slots 4 5 1024).keys).active = true := by
  intro n hn
  simp only [slots, List.range_eq_range']
  rw [get_listed KeySlot.free (fun i => ⟨true, 5 + i, 0, 0⟩) 1024 n 0 (by omega) (by omega)]

/-- KEYNEW in a session: session 0 of partition 0, one of no partition, one that is not ready, the last response unread or read. -/
def inSession (p : Option Nat) (ready unread : Bool) : State :=
  { up (slots 4 5 1) with taken := none, sessions := [⟨0, 7, ready, p⟩], unread := unread }

theorem test_hypotheses_session_keys :
    (∀ u ∈ [true, false], ∀ p ∈ [none, some 0], (inSession p true u).doeOpen = true ∧ (inSession p true u).taken = none ∧
      (inSession p true u).sessions.find? (fun x => x.id == 0 && x.ready) = some ⟨0, 7, true, p⟩) ∧
    (∀ x ∈ (inSession none false false).sessions, x.id = 0 → x.ready = false) ∧ (slots 4 5 1).doeOpen = false := by decide +kernel

/-- PREEMPT of core 0 and of control core 0, and out of their ranges; PART_CONFIG that moves nothing, and one with Tq 0. -/
def partArgs (tq : Nat) : PartArgs :=
  ⟨0, false, { Bitmaps.empty with quads := [0, 1], banks := [0], channels := [0] }, false, tq, [(9, true), (10, false)], [⟨1, 7, 0, 1, 2, 0⟩], [(5, [.grp 0 0])],
    [(1, 65536), (0, 131072)], [(0, 4096)]⟩

theorem test_hypotheses_hypervisor :
    (∀ c ∈ [(6 : Byte), 7, 8], Taken (calling c 2) callHdr c 2) ∧ ((calling 6 2).team 0).stage = .resident ∧ ((calling 6 2).team 0).core ∈ [0] ∧
    (ctl0.quad 0).prog ≠ none ∧ (calling 6 2).quadOwner 0 = some 0 ∧ (calling 7 2).partArgsOk (partArgs 1) = true ∧
    (calling 7 2).partArgsOk (partArgs 0) = false ∧ ((partArgs 1).frames.map (·.1)).Nodup ∧ ((partArgs 1).ifaces.map (·.qif)).Nodup ∧
    Taken (calling 9 0) callHdr 9 0 ∧ Taken (calling 0 0) callHdr 0 0 ∧
    (calling 7 2).partArgsOk { partArgs 1 with maps := { Bitmaps.empty with quads := [1], banks := [0], channels := [0] }, quadParts := [] } = false := by
  refine ⟨fun c hc => taken_of ?_, ?_, ?_, ?_, ?_, ?_, ?_, ?_, ?_, taken_of ?_, taken_of ?_, ?_⟩
  · revert c
    decide +kernel
  all_goals decide +kernel

/-- PART_CONFIG: an interface of the partition that a tenant has locked, and a partition with a key whose root is in place. -/
theorem test_hypotheses_part_config :
    NewRoot (calling 7 2) (partArgs 1) ⟨1, 7, 0, 1, 2, 0⟩ ∧ (partArgs 1).guarded = false ∧
    (((calling 7 2).mapQif 1 fun x => { x with tdi := .locked }).qif 1).tdi = .locked ∧ ((calling 7 2).qif 1).part = (partArgs 1).part ∧
    (((calling 7 2).mapPart 0 fun p => { p with guarded := true, key := 3 }).part 0).needsKey { partArgs 1 with guarded := true } = false ∧
    Part.needsKey Part.absent { partArgs 1 with guarded := true } = true :=
  ⟨.inr (by decide +kernel), by decide +kernel⟩

/-- The connection after algorithms are agreed, with session 0 ready and session 1 not yet. -/
def talking (p : Spdm) (unread : Bool) : State :=
  { State.reset with doeOpen := true, spdm := p, unread := unread, sessions := [⟨0, 7, true, some 0⟩, ⟨1, 8, false, none⟩] }
/-- A request in a session or outside one. -/
def req (n : Option Nat) : SpdmReq := ⟨0x13, n, true, false⟩
/-- Requests that are heard once algorithms are agreed: outside a session, in session 0. -/
def requests : List Instr :=
  [.getDigests (req none), .getCertificate (req none), .challenge (req none) 5, .getMeasurements (req none) true 5, .keyExchange (req none) 6,
   .getVersion (req (some 0)), .endSession (req (some 0)), .getTdispVersion (req (some 0)) 1, .getTdispCapabilities (req (some 0)) 4096,
   .lockInterfaceRequest (req (some 0)) 1, .getDeviceInterfaceReport (req (some 0)) 1, .getDeviceInterfaceState (req (some 0)) 1,
   .startInterfaceRequest (req (some 0)) 1, .stopInterfaceRequest (req (some 0)) 1]

theorem test_hypotheses_requests :
    (∀ i ∈ requests, Heard (talking .algorithms false) i) ∧ Heard (talking .version false) (.getCapabilities (req none)) ∧
    Heard (talking .capabilities false) (.negotiateAlgorithms (req none)) ∧ Heard (talking .algorithms false) (.finish (req (some 1))) ∧
    ((talking .algorithms true).unread = true ∧ (req none).read = false ∧ State.reset.doeOpen = false) ∧ ¬Secured (talking .algorithms false) (req (some 1)) := by
  have h (p : Spdm) : Secured (talking p false) (req (some 0)) := ⟨⟨0, 7, true, some 0⟩, List.mem_cons_self, rfl, rfl⟩
  have hr (n : Option Nat) : (talking .algorithms false).unread = true → (req n).read = true := fun h => by cases h
  refine ⟨fun i hi => ?_, ⟨req none, _, rfl, rfl, (by intro h; cases h), rfl, ⟨Or.inl rfl, rfl⟩, rfl⟩,
    ⟨req none, _, rfl, rfl, (by intro h; cases h), rfl, ⟨Or.inl rfl, rfl⟩, rfl⟩,
    ⟨req (some 1), _, rfl, rfl, (by intro h; cases h), rfl, ⟨⟨1, 8, false, none⟩, List.mem_cons_of_mem _ List.mem_cons_self, rfl, rfl⟩, rfl⟩,
    ⟨rfl, rfl, rfl⟩, ?_⟩
  · simp only [requests, List.mem_cons, List.not_mem_nil, or_false] at hi
    obtain rfl | rfl | rfl | rfl | rfl | rfl | rfl | rfl | rfl | rfl | rfl | rfl | rfl | rfl := hi
    all_goals first
      | exact ⟨req none, _, rfl, rfl, hr _, rfl, ⟨Or.inl rfl, rfl⟩, rfl⟩
      | exact ⟨req (some 0), _, rfl, rfl, hr _, rfl, h _, rfl⟩
      | exact ⟨req (some 0), _, rfl, rfl, hr _, rfl, Or.inr (h _), rfl⟩
  · rintro ⟨y, hy, h1, h2⟩
    simp only [talking, List.mem_cons, List.not_mem_nil, or_false] at hy
    obtain rfl | rfl := hy
    · simp [req] at h1
    · simp at h2

/-- Interface 1 of a protected partition in each state; sessions 0 and 1 in use. -/
theorem test_hypotheses_interfaces :
    (∀ d ∈ [Tdi.unlocked, .locked, .run, .error],
      let s := ((calling 0 0).mapPart 0 fun p => { p with guarded := true }).mapQif 1 fun x => { x with tdi := d }
      (s.qif 1).tdi = d ∧ (s.part (s.qif 1).part).live = true ∧ (s.part (s.qif 1).part).guarded = true) ∧
    (∀ n < 2, ∃ y ∈ (talking .algorithms false).sessions, y.id = n) ∧ (∀ y ∈ (talking .algorithms false).sessions, y.id ≠ 2) := by
  refine ⟨by decide +kernel, ?_, by decide +kernel⟩
  intro n hn
  obtain rfl | rfl : n = 0 ∨ n = 1 := by omega
  · exact ⟨⟨0, 7, true, some 0⟩, by decide, rfl⟩
  · exact ⟨⟨1, 8, false, none⟩, by decide, rfl⟩

/-- TheSecurityProcessor…: the request that turns a trace on: in the session of the partition, in one of another, in none. -/
theorem test_hypotheses_trace :
    (talking .algorithms false).doeOpen = true ∧ (req (some 0)).good = true ∧ (req (some 0)).version = 0x13 ∧
    (talking .algorithms false).sessions.find? (fun x => some x.id == (req (some 0)).session && x.ready) = some ⟨0, 7, true, some 0⟩ ∧
    (talking .algorithms false).sessions.find? (fun x => some x.id == (req none).session && x.ready) = none := by decide +kernel

/-- A machine whose partition 0 holds bank 3 and ports 2, 5, with flits kept at port 2 and n replays without progress. -/
def moduleAt (n : Nat) : State :=
  { up (lanes.mapPart 0 fun p => { p with maps := { p.maps with banks := [3], finper := [2, 5] }, guarded := true, nodes := [(0x24000, 131072)] }) with
    flows := [((Config.finperPeer 2).toNat, ⟨some 4, 0⟩)]
    ports := [(2, { Port.reset with buffer := [6, 7], next := 8, failed := n })] }

theorem test_hypotheses_module :
    Protected (moduleAt 0) 0 ∧ inRegion 0x30000 1 = true ∧ (regs.thr (.grp 0 0)).scalar = false ∧ (ctl0.thr (.ctl 0)).scalar = true ∧
    (match lanes.translate (lanes.who (.grp 0 0)) ⟨.fetch, 0, 0, false⟩ (lanes.thr (.grp 0 0)).issueAddr.toNat with | .ok pa _ => pa == 0x30008 | _ => false) = true ∧
    ((moduleAt 0).parts.find? (fun y => y.2.live && y.2.maps.banks.contains 3)).map (·.1) = some 0 ∧
    (∀ y ∈ (moduleAt 0).parts, y.2.live = true → 4 ∉ y.2.maps.banks) ∧ 3 ≤ (moduleAt 0).boot.stage ∧
    (∀ pa ∈ [0x24010, 0x100000], inRegion pa 1 = true ∧ ((moduleAt 0).parts.find? fun p =>
      p.2.live && p.2.nodes.any fun n => decide (n.1 ≤ canon pa) && decide (canon pa < n.1 + n.2)).isSome = decide (pa = 0x24010)) ∧ ((moduleAt 0).port 2).up = true ∧ ((moduleAt 0).port 2).expect = 0 ∧
    6 ∈ ((moduleAt 0).port 2).buffer ∧ ((moduleAt 7).port 2).failed < 8 ∧ 8 ≤ ((moduleAt 8).port 2).failed ∧
    ((moduleAt 0).parts.find? (fun y => y.2.live && y.2.maps.finper.contains 2)).map (·.1) = some 0 ∧ 2 ≤ 16 := by
  refine ⟨⟨(0, (moduleAt 0).part 0), by decide +kernel⟩, by decide +kernel⟩

/-- Power over the cap and at rest, junctions at the limits, a limit condition long past. -/
def powered (p j c : Nat) (hot : Option Nat) : State :=
  { State.reset with clk := 20000000, power := { State.reset.power with power := p, junction := j, clock := c, cap := 5200000, since := 0, hot := hot } }

theorem test_hypotheses_power :
    5200000 < (powered 5200001 0 1750 none).power.power ∧ 875 < (powered 5200001 0 1750 none).power.clock ∧
    (let s := powered 1 950 1500 none
     ¬(5200000 < s.power.power ∨ s.power.cap < s.power.power ∨ 950 < s.power.junction) ∧ s.power.since + 10000 * s.power.clock ≤ s.clk ∧ s.power.clock < 1750) ∧
    1050 ≤ (powered 0 1050 1750 none).power.junction ∧ (powered 0 0 100 (some 0)).power.hot = some 0 ∧ 0 + 100000 * (powered 0 0 100 (some 0)).power.clock ≤ (powered 0 0 100 (some 0)).clk ∧
    (powered 0 1049 1750 none).power.junction < 1050 := by decide +kernel

/-- The steps of bring-up, and what waits for the third of them. -/
theorem test_hypotheses_bring_up :
    (∀ n < 5, ({ State.reset with boot := { State.reset.boot with stage := n } } : State).boot.stage < 5) ∧ State.reset.unlock = false ∧
    State.reset.boot.diag = false := by decide +kernel

/-! ### One word of every opcode, written out from Tables 4.1, 4.2, 4.11 and 12.1

The control field is DIST 5, WAIT 0x801, SETF 3, WB 1, PRED 6, PN 1 (0xB002_7D, Table 4.1); every payload field has a value of its own. -/

/-- The control field of the words below. -/
def kw : Ctl := ⟨5, 0x801, 3, 1, 6, 1⟩
/-- Payloads of formats A, B, I and J. -/
def wA : PayA := ⟨0x12, 0x34, 0x56, 0x78, none⟩
@[inherit_doc wA]
def wB : PayB := ⟨0x12, 0x34, 0x56, 0x78, none⟩
@[inherit_doc wA]
def wI : PayI := ⟨0x12, 0x34, 0x5678, none⟩
@[inherit_doc wA]
def wJ : PayJ := ⟨0x12, 0x345678⟩

/-- Row 0 of Table 4.11. -/
def words0 : List (Nat × Nat × Instr) :=
  [(64, 0xB0027D0012345678, .nop kw wA),
   (64, 0xB0027D0112345678, .add kw wA),
   (64, 0xB0027D0212345678, .sub kw wA),
   (64, 0xB0027D0312345678, .mul kw wA),
   (64, 0xB0027D0412345678, .mulhi kw wA),
   (64, 0xB0027D0512345678, .mad kw wB),
   (64, 0xB0027D0612345678, .min kw wA),
   (64, 0xB0027D0712345678, .max kw wA),
   (64, 0xB0027D0812345678, .abs kw wA),
   (64, 0xB0027D0912345678, .neg kw wA),
   (64, 0xB0027D0A12345678, .and kw wA),
   (64, 0xB0027D0B12345678, .or kw wA),
   (64, 0xB0027D0C12345678, .xor kw wA),
   (64, 0xB0027D0D12345678, .not kw wA),
   (64, 0xB0027D0E12345678, .shl kw wA),
   (64, 0xB0027D0F12345678, .shr kw wA),
   (128, 0x0123456789ABCDEFB0027D011234FF78, .add kw ⟨0x12, 0x34, 0xFF, 0x78, some 0x0123456789ABCDEF⟩)]

theorem test_words_integer : (words0.all fun x => decodeTableWord x.1 x.2.1 == some x.2.2) = true := by decide +kernel

/-- Row 1 of Table 4.11. -/
def words1 : List (Nat × Nat × Instr) :=
  [(64, 0xB0027D1012345678, .sar kw wA),
   (64, 0xB0027D1112345678, .rot kw wA),
   (64, 0xB0027D1212345678, .popc kw wA),
   (64, 0xB0027D1312345678, .clz kw wA),
   (64, 0xB0027D1412345678, .bfe kw wB),
   (64, 0xB0027D1512345678, .bfi kw wB),
   (64, 0xB0027D1612345678, .sel kw wB),
   (64, 0xB0027D1712345678, .cmp kw wA),
   (64, 0xB0027D1812345678, .addi kw wI),
   (64, 0xB0027D1912345678, .li kw wI),
   (64, 0xB0027D1A12345678, .lih kw wI),
   (64, 0xB0027D1B12345678, .mov kw wA),
   (64, 0xB0027D1C12345678, .lea kw wA),
   (64, 0xB0027D1D12345663, .cvt kw ⟨0x12, 0x34, 5, 6, 1, 1, 3, none⟩),
   (64, 0xB0027D1E12345678, .div kw wA),
   (64, 0xB0027D1F12345678, .rem kw wA),
   (128, 0x0123456789ABCDEFB0027D1812FF5678, .addi kw ⟨0x12, 0xFF, 0x5678, some 0x0123456789ABCDEF⟩)]

theorem test_words_integer_moves : (words1.all fun x => decodeTableWord x.1 x.2.1 == some x.2.2) = true := by decide +kernel

/-- Row 2 of Table 4.11. -/
def words2 : List (Nat × Nat × Instr) :=
  [(64, 0xB0027D2012345678, .fadd kw wA),
   (64, 0xB0027D2112345678, .fsub kw wA),
   (64, 0xB0027D2212345678, .fmul kw wA),
   (64, 0xB0027D2312345678, .fma kw wB),
   (64, 0xB0027D2412345678, .fmin kw wA),
   (64, 0xB0027D2512345678, .fmax kw wA),
   (64, 0xB0027D2612345678, .fabs kw wA),
   (64, 0xB0027D2712345678, .fneg kw wA),
   (64, 0xB0027D2812345678, .fcmp kw wA),
   (64, 0xB0027D2912345663, .fcvt kw ⟨0x12, 0x34, 5, 6, 1, 1, 3, none⟩),
   (64, 0xB0027D2A12345678, .fround kw wA),
   (64, 0xB0027D2B12345678, .fclass kw wA),
   (64, 0xB0027D2C12345678, .fscl kw wA),
   (64, 0xB0027D2D12345678, .fgetx kw wA),
   (64, 0xB0027D2E12345678, .rcps kw wA),
   (64, 0xB0027D2F12345678, .rsqs kw wA),
   (128, 0x0000000012000073B0027D23123456FF, .fma kw ⟨0x12, 0x34, 0x56, 0xFF, some 0x12000073⟩)]

theorem test_words_float : (words2.all fun x => decodeTableWord x.1 x.2.1 == some x.2.2) = true := by decide +kernel

/-- Row 3 of Table 4.11. -/
def words3 : List (Nat × Nat × Instr) :=
  [(64, 0xB0027D3012345678, .exs kw wA),
   (64, 0xB0027D3112345678, .lgs kw wA),
   (64, 0xB0027D3212345678, .sns kw wA),
   (64, 0xB0027D3312345678, .css kw wA),
   (64, 0xB0027D3412345678, .fdiv kw wA),
   (64, 0xB0027D3512345678, .fsqrt kw wA)]

theorem test_words_seeds_and_division : (words3.all fun x => decodeTableWord x.1 x.2.1 == some x.2.2) = true := by decide +kernel

/-- Row 4 of Table 4.11. -/
def words4 : List (Nat × Nat × Instr) :=
  [(64, 0xB0027D4012345678, .dot2 kw wB),
   (64, 0xB0027D4112345678, .dot4 kw wB),
   (64, 0xB0027D4212345678, .pk2 kw wA),
   (64, 0xB0027D4312345678, .upk2 kw wA),
   (64, 0xB0027D4412345678, .pk4 kw wA),
   (64, 0xB0027D4512345678, .upk4 kw wA),
   (64, 0xB0027D4612345678, .hadd2 kw wA),
   (64, 0xB0027D4712345678, .hmul2 kw wA),
   (64, 0xB0027D4812345678, .hfma2 kw wB)]

theorem test_words_packed : (words4.all fun x => decodeTableWord x.1 x.2.1 == some x.2.2) = true := by decide +kernel

/-- Row 5 of Table 4.11. -/
def words5 : List (Nat × Nat × Instr) :=
  [(64, 0xB0027D5012345678, .shfl kw wA),
   (64, 0xB0027D5112345678, .vote kw wA),
   (64, 0xB0027D5212345678, .match_ kw wA),
   (64, 0xB0027D5312345678, .cmpct kw wA),
   (64, 0xB0027D5412345678, .scan kw wA),
   (64, 0xB0027D5512345678, .red kw wA),
   (64, 0xB0027D5612345678, .segred kw wA),
   (64, 0xB0027D5712345678, .srt kw wA),
   (64, 0xB0027D5812345678, .topk kw wA),
   (64, 0xB0027D5912345678, .kmerge kw wA),
   (64, 0xB0027D5A12345678, .rgput kw wA),
   (64, 0xB0027D5B12345678, .rgget kw wA),
   (64, 0xB0027D5C12345678, .lperm kw wA),
   (64, 0xB0027D5D12345678, .bcast kw wA),
   (64, 0xB0027D5E12345678, .ffs kw wA)]

theorem test_words_lanes : (words5.all fun x => decodeTableWord x.1 x.2.1 == some x.2.2) = true := by decide +kernel

/-- Row 6 of Table 4.11. -/
def words6 : List (Nat × Nat × Instr) :=
  [(64, 0xB0027D6012345678, .br kw wJ),
   (64, 0xB0027D6112345678, .brc kw wJ),
   (64, 0xB0027D6212345678, .brl kw wJ),
   (64, 0xB0027D6312345678, .brx kw wA),
   (64, 0xB0027D6412345678, .call kw wJ),
   (64, 0xB0027D6512345678, .ret kw wA),
   (64, 0xB0027D6612345678, .exit kw wA),
   (64, 0xB0027D6712345678, .yield kw wA),
   (64, 0xB0027D6812345678, .halt kw wA),
   (64, 0xB0027D6912345678, .trap kw wA),
   (64, 0xB0027D6A12345678, .tret kw wA),
   (64, 0xB0027D6B12345678, .brk kw wA)]

theorem test_words_control : (words6.all fun x => decodeTableWord x.1 x.2.1 == some x.2.2) = true := by decide +kernel

/-- Row 7 of Table 4.11. -/
def words7 : List (Nat × Nat × Instr) :=
  [(64, 0xB0027D7012345678, .bar kw wA),
   (64, 0xB0027D7112345678, .barv kw wA),
   (64, 0xB0027D7212345678, .barw kw wA),
   (64, 0xB0027D7312345670, .fenceFull kw ⟨0x12, 0x34, 0x56, 0x70, none⟩),
   (64, 0xB0027D7312345674, .fenceAcq kw ⟨0x12, 0x34, 0x56, 0x74, none⟩),
   (64, 0xB0027D7312345678, .fenceRel kw ⟨0x12, 0x34, 0x56, 0x78, none⟩),
   (64, 0xB0027D7412345678, .twany kw wA),
   (64, 0xB0027D7512345678, .twall kw wA),
   (64, 0xB0027D7612345678, .tffs kw wA),
   (64, 0xB0027D7712345678, .tclr kw wA),
   (64, 0xB0027D7812345678, .racq kw wA),
   (64, 0xB0027D7912345678, .rrel kw wA),
   (64, 0xB0027D7A12345678, .tgrow kw wA),
   (64, 0xB0027D7B12345678, .tshrink kw wA),
   (64, 0xB0027D7C12345678, .tag kw wA),
   (64, 0xB0027D7D12345678, .tagset kw wA)]

theorem test_words_synchronisation : (words7.all fun x => decodeTableWord x.1 x.2.1 == some x.2.2) = true := by decide +kernel

/-- Row 8 of Table 4.11. -/
def words8 : List (Nat × Nat × Instr) :=
  [(64, 0xB0027D801234567D, .ld kw ⟨0x12, 0x34, 5, 6, 7, 1, 2, 1, none⟩),
   (64, 0xB0027D811234567D, .st kw ⟨0x12, 0x34, 5, 6, 7, 1, 2, 1, none⟩),
   (64, 0xB0027D8212349AA5, .lds kw ⟨0x12, 0x34, 2, 6, 0x2A5, none⟩),
   (64, 0xB0027D8312349AA5, .sts kw ⟨0x12, 0x34, 2, 6, 0x2A5, none⟩),
   (64, 0xB0027D841234567D, .pf kw ⟨0x12, 0x34, 5, 6, 7, 1, 2, 1, none⟩),
   (128, 0x9ABCDEF011223000B0027D851234567D, .atom kw ⟨0x12, 0x34, 5, 6, 7, 1, 2, 1, 0x9ABCDEF011223000⟩),
   (128, 0x9ABCDEF011223000B0027D861234567D, .cas kw ⟨0x12, 0x34, 5, 6, 7, 1, 2, 1, 0x9ABCDEF011223000⟩),
   (128, 0x9ABCDEF011223000B0027D8712349AA5, .atoms kw ⟨0x12, 0x34, 2, 6, 0x2A5, 0x9ABCDEF011223000⟩),
   (64, 0xB0027D8812345678, .hld kw wA),
   (64, 0xB0027D8912345678, .hst kw wA),
   (64, 0xB0027D8A12345678, .hmk kw wA),
   (64, 0xB0027D8B12345678, .hget kw wA)]

theorem test_words_memory : (words8.all fun x => decodeTableWord x.1 x.2.1 == some x.2.2) = true := by decide +kernel

/-- Row A of Table 4.11. -/
def wordsA : List (Nat × Nat × Instr) :=
  [(64, 0xB0027DA012345678, .vopen kw wA),
   (64, 0xB0027DA112345678, .vnar kw wA),
   (64, 0xB0027DA212345678, .vsplit kw wA),
   (64, 0xB0027DA312345678, .vclose kw wA),
   (64, 0xB0027DA412345678, .vinfo kw wA),
   (64, 0xB0027DA512345678, .hpub kw wA)]

theorem test_words_views : (wordsA.all fun x => decodeTableWord x.1 x.2.1 == some x.2.2) = true := by decide +kernel

/-- Row B of Table 4.11. -/
def wordsB : List (Nat × Nat × Instr) :=
  [(64, 0xB0027DB012345678, .cpy kw wA),
   (64, 0xB0027DB112345678, .cpy2 kw wA),
   (64, 0xB0027DB212345678, .gth kw wA),
   (64, 0xB0027DB312345678, .sct kw wA),
   (64, 0xB0027DB412345678, .coll kw wA),
   (64, 0xB0027DB512345678, .fill kw wA),
   (64, 0xB0027DB612345678, .fbset kw wA),
   (64, 0xB0027DB712345678, .fbclr kw wA),
   (64, 0xB0027DB812345678, .sfpre kw wA)]

theorem test_words_engines : (wordsB.all fun x => decodeTableWord x.1 x.2.1 == some x.2.2) = true := by decide +kernel

/-- Row C of Table 4.11. -/
def wordsC : List (Nat × Nat × Instr) :=
  [(64, 0xB0027DC012345678, .mma kw wA),
   (64, 0xB0027DC112345678, .mmz kw wA),
   (64, 0xB0027DC212345678, .mst kw wA),
   (64, 0xB0027DC312345678, .mld kw wA),
   (64, 0xB0027DC412345678, .mscl kw wA),
   (64, 0xB0027DC512345678, .mfeed kw wA),
   (64, 0xB0027DC612345678, .mdrain kw wA)]

theorem test_words_matrix : (wordsC.all fun x => decodeTableWord x.1 x.2.1 == some x.2.2) = true := by decide +kernel

/-- Row D of Table 4.11. -/
def wordsD : List (Nat × Nat × Instr) :=
  [(64, 0xB0027DD012345678, .tap kw wA),
   (64, 0xB0027DD112345678, .rowsel kw wA),
   (64, 0xB0027DD212345678, .rset kw wA),
   (64, 0xB0027DD312345678, .tapget kw wA),
   (64, 0xB0027DD412345678, .wret kw wA),
   (64, 0xB0027DD512345678, .wrd kw wA),
   (64, 0xB0027DD612345678, .tlaunch kw wA),
   (64, 0xB0027DD712345678, .qpush kw wA),
   (64, 0xB0027DD812345678, .qclose kw wA)]

theorem test_words_taps_and_queues : (wordsD.all fun x => decodeTableWord x.1 x.2.1 == some x.2.2) = true := by decide +kernel

/-- Row E of Table 4.11. -/
def wordsE : List (Nat × Nat × Instr) :=
  [(64, 0xB0027DE012345678, .srd kw wA),
   (64, 0xB0027DE112345678, .swr kw wA),
   (64, 0xB0027DE212345678, .segset kw wA),
   (64, 0xB0027DE312345678, .fpadd kw wA),
   (64, 0xB0027DE412345678, .pgev kw wA),
   (64, 0xB0027DE512345678, .tlbiPage kw ⟨0x12, 0x34, 0x56, 0x78, none⟩),
   (64, 0xB0027DE512345679, .tlbiInterface kw ⟨0x12, 0x34, 0x56, 0x79, none⟩),
   (64, 0xB0027DE51234567A, .tlbiAll kw ⟨0x12, 0x34, 0x56, 0x7A, none⟩),
   (64, 0xB0027DE612345678, .dbgset kw wA),
   (64, 0xB0027DE712345678, .mrst kw wA)]

theorem test_words_system : (wordsE.all fun x => decodeTableWord x.1 x.2.1 == some x.2.2) = true := by decide +kernel

/-- Words that the manual prints whole: Tables 9.6, 17.5 and 22.8, the mma, mst, mdrain and qpush of a program, wret and tagset. -/
theorem test_words_printed :
    decodeTableWord 64 0x000040C000141618 = some (.mma ⟨0, 0, 2, 0, 0, 0⟩ ⟨0, 20, 22, 24, none⟩) ∧
    decodeTableWord 64 0x000860C200140070 = some (.mst ⟨0, 4, 3, 0, 0, 0⟩ ⟨0, 20, 0, 0x70, none⟩) ∧
    decodeTableWord 64 0x000080D0001E0000 = some (.tap ⟨0, 0, 4, 0, 0, 0⟩ ⟨0, 30, 0, 0, none⟩) ∧
    decodeTableWord 64 0x0020B0D11E090000 = some (.rowsel ⟨0, 0x10, 5, 1, 0, 0⟩ ⟨30, 9, 0, 0, none⟩) ∧
    decodeTableWord 64 0x400010D6020A0000 = some (.tlaunch ⟨2, 0, 0, 1, 0, 0⟩ ⟨2, 10, 0, 0, none⟩) ∧
    decodeTableWord 64 0x0003E0D700020700 = some (.qpush ⟨0, 1, 15, 0, 0, 0⟩ ⟨0, 2, 7, 0, none⟩) ∧
    decodeTableWord 64 0x000030C604090140 = some (.mdrain ⟨0, 0, 1, 1, 0, 0⟩ ⟨4, 9, 1, 0x40, none⟩) ∧
    decodeTableWord 64 0x0001E0D400F80000 = some (.wret ⟨0, 0, 15, 0, 0, 0⟩ ⟨0, 0xF8, 0, 0, none⟩) ∧
    decodeTableWord 128 0x00000000000000010001E07D02FF0000 = some (.tagset ⟨0, 0, 15, 0, 0, 0⟩ ⟨2, 0xFF, 0, 0, some 1⟩) := by decide +kernel

/-! ### What WellFormed refuses -/

/-- A literal where no source asks for one, none where one is asked for; a fence, or a tlbi, of another kind than its word's; a
step of the device. -/
theorem test_ill_formed :
    (.add kw ⟨1, 2, 3, 0, some 0⟩ : Instr).wellFormed = false ∧ (.add kw ⟨1, 2, 0xFF, 0, none⟩ : Instr).wellFormed = false ∧
    (.fma kw ⟨1, 2, 3, 0xFF, none⟩ : Instr).wellFormed = false ∧ (.fenceFull kw ⟨0, 0, 0, 4, none⟩ : Instr).wellFormed = false ∧
    (.fenceAcq kw ⟨0, 0, 0, 8, none⟩ : Instr).wellFormed = false ∧ (.fenceRel kw ⟨0, 0, 0, 0, none⟩ : Instr).wellFormed = false ∧
    (.tlbiPage kw ⟨0, 0, 0, 1, none⟩ : Instr).wellFormed = false ∧ (.tlbiInterface kw ⟨0, 0, 0, 2, none⟩ : Instr).wellFormed = false ∧
    (.tlbiAll kw ⟨0, 0, 0, 0, none⟩ : Instr).wellFormed = false ∧ (.linkRetrain 0 : Instr).wellFormed = false ∧
    (.add kw ⟨1, 2, 0xFF, 0, some 0⟩ : Instr).wellFormed = true := by decide

/-- Undefined opcodes, and the kinds of fence and tlbi that name nothing, decode to no instruction. -/
theorem test_undefined_words :
    ([0x36, 0x49, 0x5F, 0x6C, 0x7E, 0x8C, 0x90, 0xA6, 0xB9, 0xC7, 0xD9, 0xE8, 0xFF].all fun o => (decodeTableWord 64 (o * 2 ^ 32)).isNone) = true ∧
    decodeTableWord 64 0x0001E0730000000C = none ∧ decodeTableWord 64 0x0001E0E500000003 = none := by decide +kernel

/-! ### Single steps with results that the manual prints -/

/-- What an instruction sends to lane l of the register at position p. -/
def sent (i : Instr) (s : State) (p l : Nat) : Option Nat :=
  match exec i s with
  | .next t =>
    let th := t.thr s.cur
    ((th.pend.flatMap (·.ws) ++ th.ops.flatMap (·.kind.results)).find? fun w => w.tgt == .v p).map fun w => (lane64 w.v l).toNat % 2 ^ 32
  | _ => none
/-- a in every lane of v5 and b in every lane of v6. -/
def both (a b : Nat) : State := withReg (withReg lanes 5 fun _ => a) 6 fun _ => b
/-- The result is written, and flag 0 named. -/
def kwb : Ctl := ⟨0, 0, 0, 1, 0, 0⟩

/-- R93: add wraps and clamps; sub, mulhi, shl and sar, whose counts are taken modulo the width. -/
theorem test_integer_results :
    sent (.add kwb (pa 0)) (both 0xFFFFFFFF 2) 9 0 = some 1 ∧ sent (.add kwb (pa 2)) (both 0x7FFFFFFF 2) 9 0 = some 0x7FFFFFFF ∧
    sent (.sub kwb (pa 0)) (both 7 2) 9 31 = some 5 ∧ sent (.mulhi kwb (pa 0)) (both 0xFFFFFFFF 2) 9 0 = some 0xFFFFFFFF ∧
    sent (.mulhi kwb (pa 0x10)) (both 0xFFFFFFFF 2) 9 0 = some 1 ∧ sent (.shl kwb (pa 0)) (both 3 33) 9 0 = some 6 ∧
    sent (.sar kwb (pa 0)) (both 0x80000000 4) 9 0 = some 0xF8000000 ∧ sent (.clz kwb (pa1 0)) (both 0 0) 9 0 = some 32 := by decide +kernel

/-- Table 6.4, and a zero divisor, which takes DIVZERO and stops a launch that names no trap entry. -/
theorem test_table_6_4 :
    sent (.div kwb (pa 0)) (both 0xFFFFFFF9 2) 9 0 = some 0xFFFFFFFD ∧ sent (.rem kwb (pa 0)) (both 0xFFFFFFF9 2) 9 0 = some 0xFFFFFFFF ∧
    sent (.div kwb (pa 0x10)) (both 0xFFFFFFF9 2) 9 0 = some 0x7FFFFFFC ∧ sent (.div kwb (pa 0)) (both 0x80000000 0xFFFFFFFF) 9 0 = some 0x80000000 ∧
    sent (.div kwb (pa 2)) (both 0x80000000 0xFFFFFFFF) 9 0 = some 0x7FFFFFFF ∧ sent (.rem kwb (pa 0)) (both 0xFFFFFFF0 0xFFFFFFFD) 9 0 = some 0xFFFFFFFF ∧
    sent (.div kwb (pa 0)) (both 5 0) 9 0 = none := by decide +kernel

/-- R96 with POS 4, LEN 8, signed and not; R102: cvt.n8.i32 of −1 without and with SAT. -/
theorem test_fields_and_conversions :
    sent (.bfe kwb ⟨9, 5, 6, 0, none⟩) (both 0xABCD 0x10804) 9 0 = some 0xFFFFFFBC ∧ sent (.bfe kwb ⟨9, 5, 6, 0, none⟩) (both 0xABCD 0x804) 9 0 = some 0xBC ∧
    sent (.cvt kwb ⟨9, 5, 14, 0, 0, 0, 0, none⟩) (both 0xFFFFFFFF 0) 9 0 = some 0xFF ∧
    sent (.cvt kwb ⟨9, 5, 14, 0, 0, 1, 0, none⟩) (both 0xFFFFFFFF 0) 9 0 = some 0 := by decide +kernel

/-- R123: fround.f32.rdn of −2.5 is −3, fround.f32 of 2.5 is 2; R126: fgetx.f32 of 2^−149 is −149; R69: an overflow under RTZ. -/
theorem test_float_results :
    sent (.fround kwb ⟨9, 5, 0, 0x48, none⟩) (both 0xC0200000 0) 9 0 = some 0xC0400000 ∧
    sent (.fround kwb ⟨9, 5, 0, 0x40, none⟩) (both 0x40200000 0) 9 0 = some 0x40000000 ∧
    sent (.fgetx kwb ⟨9, 5, 0, 0x40, none⟩) (both 1 0) 9 0 = some (2 ^ 32 - 149) ∧
    sent (.fadd kwb (pa 0x44)) (both 0x7F7FFFFF 0x7F7FFFFF) 9 0 = some 0x7F7FFFFF ∧ sent (.fadd kwb (pa 0x40)) (both 0x3F800000 0x40000000) 9 0 = some 0x40400000 := by
  decide +kernel

/-- The example of R86: red.add.f32 over 2^24, 1, 1 and −2^24 in lanes 0 to 3 alone gives 1.0. -/
theorem test_red_tree :
    sent (.red kwb ⟨9, 5, 0, 0x40, none⟩)
      ((withReg lanes 5 fun l => ([0x4B800000, 0x3F800000, 0x3F800000, 0xCB800000] : List Nat).getD l 0).mapThr (.grp 0 0) fun th =>
        { th with pcv := perLane fun l => if l < 4 then 8 else exitedPc }) 9 3 = some 0x3F800000 := by decide +kernel

/-- R172: shfl.down by 2 past the last lane keeps the lane's own value; Table 11.1: vote.count. -/
theorem test_lane_results :
    sent (.shfl kwb (pa 8)) (withReg (withReg lanes 5 fun l => l) 6 fun _ => 2) 9 29 = some 31 ∧
    sent (.shfl kwb (pa 8)) (withReg (withReg lanes 5 fun l => l) 6 fun _ => 2) 9 30 = some 30 ∧
    sent (.vote kwb (pa1 2)) (withReg lanes 5 fun l => l % 3) 9 7 = some 21 := by decide +kernel

/-- The example of R138: quad offset 0x52340 lies in core 2 of the quad, at byte 0x14340 of that core's quad part, which
lies above the boundary (here 131,072 bytes from the end, log entry 4). -/
theorem test_quad_offset :
    State.reset.quadByte 0 0x52340 = 2 * 524288 + (524288 - 131072) + 0x14340 := by decide +kernel

/-- R112: a software trap of a launch with a trap entry sends the lanes to it, with epc at the word after the instruction. -/
theorem test_trap_enters :
    (match exec (.trap k0 ⟨0, 6, 0, 0, none⟩) (trapped regs) with
      | .next t => (t.thr regs.cur).handler && (t.thr regs.cur).epc == 16 && (t.thr regs.cur).pcv == perLane (fun _ => 128)
      | _ => false) = true := by decide +kernel

/-- R105, R106: a branch by one word back moves every present lane to the header. -/
theorem test_branch_moves :
    (match exec (.br k0 ⟨0, 0xFFFFFF⟩) regs with | .next t => (t.thr regs.cur).pcv == perLane (fun _ => 0) | _ => false) = true := by decide +kernel

/-- R144: a store through h0 reaches the bytes of its element when it is performed: lane 2 of v6 at 0x31008. -/
theorem test_store_performed :
    (match exec (.st k1 ⟨6, 0xFE, 0, 0, 8, 0, 3, 0, none⟩) handled with
      | .next t => match (t.thr handled.cur).ops with
        | [o] => match exec (.variableOpComplete handled.cur o.seq) t with
          | .next u => Memory.read u.mem 0x31008 4 == [2, 0, 0, 0] && Memory.read u.mem 0x31010 4 == [0, 0, 0, 0]
          | _ => false
        | _ => false
      | _ => false) = true := by decide +kernel

end Sys2Proof.Tests
end

section
/-! PROOFS. Threads at their launch: what each field of `Thr.start` holds (R32, R229, R283). -/

namespace Sys2Proof.Proofs

open Sys2Proof Sys2Proof.Machine Sys2Proof.Safety Sys2Proof.Claims

/-! ### Finite maps that list a function -/

/-- A map that lists `f` at the keys of `l` reads as `f` at those keys and as the default elsewhere. -/
theorem get_listed {α : Type} (d : α) (f : Nat → α) (k : Nat) (l : List Nat) :
    Sparse.get d k (l.map fun i => (i, f i)) = if k ∈ l then f k else d := by
  induction l with
  | nil => rfl
  | cons i r ih =>
    by_cases h : i = k
    · subst h; simp [Sparse.get]
    · simp [Sparse.get, ih, h, Ne.symm h]

/-! ### Threads at their launch (R32, R283) -/

section
variable (scalar : Bool) (e : Entry) (hargs : List (BitVec 128)) (level : Nat)

theorem hreg_start {k : Nat} (hk : k < 16) : (Thr.start scalar e hargs level).hreg k = ⟨hargs.getD k 0, false, false⟩ := by
  simp only [Thr.start, Thr.hreg, get_listed (f := fun i => (⟨hargs.getD i 0, false, false⟩ : HReg)), List.mem_range, hk, if_true]

theorem pred_start {k : Nat} (hk : 1 ≤ k) : (Thr.start scalar e hargs level).pred k = ⟨0, 0⟩ := by
  have h : k ≠ 0 := by omega
  simp only [Thr.pred, h, if_false]
  rfl

/-- Exactly the chunks of the base set are held: v0 up to the last register of chunk BASE. -/
theorem holds_start (k : Nat) : (Thr.start scalar e hargs level).holds k = decide (k < 16 * (e.base + 1)) := by
  have h : k / 16 < e.base + 1 ↔ k < 16 * (e.base + 1) := by omega
  simp [Thr.holds, Thr.start, Thr.idle, h]

theorem pcv_start : (Thr.start scalar e hargs level).pcv =
    List.replicate (if scalar then 1 else 32) (BitVec.ofNat 48 (e.code + 8 * e.entry)) := rfl

end

/-- Settles O27: each field of `Thr.start` read back, register files by what an unlisted register holds. -/
theorem threadsStartAsTheirLaunchEntrySays : Obligations.ThreadsStartAsTheirLaunchEntrySays := by
  unfold Obligations.ThreadsStartAsTheirLaunchEntrySays
  intro scalar e hargs level
  refine ⟨?_, ?_, fun k hk => ?_, rfl, rfl, rfl, rfl, rfl, rfl, fun _ => rfl, fun _ => rfl, fun k hk => ?_,
    fun k _ => holds_start scalar e hargs level k, rfl, rfl, rfl, rfl, rfl, rfl⟩
  · rw [pcv_start, List.length_replicate]
  · intro pc hpc
    exact List.eq_of_mem_replicate hpc
  · simp [hreg_start scalar e hargs level hk]
  · rw [pred_start scalar e hargs level hk]

end Sys2Proof.Proofs
end

section
/-! PROOFS. The words of a well-formed instruction decode to it (R40, R41, R45, R62). -/
namespace Sys2Proof.Proofs

open Sys2Proof

/-! ### Fields read back from the words that hold them -/

theorem opc_word0 (n : Ins) : Decode.opc n.word0 = n.row.opc := Laws.word0_opcode n

theorem pay_word0 (n : Ins) : Decode.pay n.word0 = n.pay := BitVec.extractLsb'_append_eq_right

theorem ctl_word0 (n : Ins) : Decode.ctl n.word0 = n.c := by
  simp (disch := omega) only [Decode.ctl, Ins.word0, BitVec.extractLsb'_append_eq_of_le, BitVec.extractLsb'_append_eq_of_add_le,
    Nat.reduceSub, BitVec.extractLsb'_eq_self]

theorem payA_bits (p : PayA) : Decode.payA p.bits p.lit = p := by
  simp (disch := omega) only [Decode.payA, PayA.bits, BitVec.extractLsb'_append_eq_of_le, BitVec.extractLsb'_append_eq_of_add_le,
    Nat.reduceSub, BitVec.extractLsb'_eq_self]
theorem payB_bits (p : PayB) : Decode.payB p.bits p.ext = p := by
  simp (disch := omega) only [Decode.payB, PayB.bits, BitVec.extractLsb'_append_eq_of_le, BitVec.extractLsb'_append_eq_of_add_le,
    Nat.reduceSub, BitVec.extractLsb'_eq_self]
theorem payI_bits (p : PayI) : Decode.payI p.bits p.lit = p := by
  simp (disch := omega) only [Decode.payI, PayI.bits, BitVec.extractLsb'_append_eq_of_le, BitVec.extractLsb'_append_eq_of_add_le,
    Nat.reduceSub, BitVec.extractLsb'_eq_self]
theorem payC_bits (p : PayC) : Decode.payC p.bits p.lit = p := by
  simp (disch := omega) only [Decode.payC, PayC.bits, BitVec.extractLsb'_append_eq_of_le, BitVec.extractLsb'_append_eq_of_add_le,
    Nat.reduceSub, BitVec.extractLsb'_eq_self]
theorem payM_bits (p : PayM) : Decode.payM p.bits p.lit = p := by
  simp (disch := omega) only [Decode.payM, PayM.bits, BitVec.extractLsb'_append_eq_of_le, BitVec.extractLsb'_append_eq_of_add_le,
    Nat.reduceSub, BitVec.extractLsb'_eq_self]
theorem payML_bits (p : PayML) : Decode.payML p.bits p.lit = p := by
  simp (disch := omega) only [Decode.payML, PayML.bits, BitVec.extractLsb'_append_eq_of_le, BitVec.extractLsb'_append_eq_of_add_le,
    Nat.reduceSub, BitVec.extractLsb'_eq_self]
theorem payJ_bits (p : PayJ) : Decode.payJ p.bits = p := by
  simp (disch := omega) only [Decode.payJ, PayJ.bits, BitVec.extractLsb'_append_eq_of_le, BitVec.extractLsb'_append_eq_of_add_le,
    Nat.reduceSub, BitVec.extractLsb'_eq_self]
theorem payEM_bits (p : PayEM) : Decode.payEM p.bits p.w1 = p := by
  simp (disch := omega) only [Decode.payEM, PayEM.bits, BitVec.extractLsb'_append_eq_of_le, BitVec.extractLsb'_append_eq_of_add_le,
    Nat.reduceSub, BitVec.extractLsb'_eq_self]
theorem payEML_bits (p : PayEML) : Decode.payEML p.bits p.w1 = p := by
  simp (disch := omega) only [Decode.payEML, PayEML.bits, BitVec.extractLsb'_append_eq_of_le, BitVec.extractLsb'_append_eq_of_add_le,
    Nat.reduceSub, BitVec.extractLsb'_eq_self]

theorem fence_of_kind (c : Ctl) (p : PayA) :
    (p.fenceKind = 0 → Decode.fence c p = .ok (.fenceFull c p)) ∧ (p.fenceKind = 1 → Decode.fence c p = .ok (.fenceAcq c p)) ∧
      (p.fenceKind = 2 → Decode.fence c p = .ok (.fenceRel c p)) := by
  refine ⟨fun h => ?_, fun h => ?_, fun h => ?_⟩ <;> rw [Decode.fence, h] <;> rfl

theorem tlbi_of_kind (c : Ctl) (p : PayA) :
    (p.tlbiKind = 0 → Decode.tlbi c p = .ok (.tlbiPage c p)) ∧ (p.tlbiKind = 1 → Decode.tlbi c p = .ok (.tlbiInterface c p)) ∧
      (p.tlbiKind = 2 → Decode.tlbi c p = .ok (.tlbiAll c p)) := by
  refine ⟨fun h => ?_, fun h => ?_, fun h => ?_⟩ <;> rw [Decode.tlbi, h] <;> rfl

/-! ### Decoding -/

/-- The decoder gives back the instruction whose first word and second word it reads. -/
theorem instr_words {i : Instr} {n : Ins} (h : insOf i = some n) (hv : i.variantOk = true) :
    Decode.instr n.word0 n.w1 = .ok i := by
  unfold Decode.instr
  rw [opc_word0, ctl_word0, pay_word0]
  cases i
  case fenceFull c p => cases h; exact (congrArg (Decode.fence c) (payA_bits p)).trans ((fence_of_kind c p).1 (by simpa [Instr.variantOk] using hv))
  case fenceAcq c p => cases h; exact (congrArg (Decode.fence c) (payA_bits p)).trans ((fence_of_kind c p).2.1 (by simpa [Instr.variantOk] using hv))
  case fenceRel c p => cases h; exact (congrArg (Decode.fence c) (payA_bits p)).trans ((fence_of_kind c p).2.2 (by simpa [Instr.variantOk] using hv))
  case tlbiPage c p => cases h; exact (congrArg (Decode.tlbi c) (payA_bits p)).trans ((tlbi_of_kind c p).1 (by simpa [Instr.variantOk] using hv))
  case tlbiInterface c p => cases h; exact (congrArg (Decode.tlbi c) (payA_bits p)).trans ((tlbi_of_kind c p).2.1 (by simpa [Instr.variantOk] using hv))
  case tlbiAll c p => cases h; exact (congrArg (Decode.tlbi c) (payA_bits p)).trans ((tlbi_of_kind c p).2.2 (by simpa [Instr.variantOk] using hv))
  case mad c p | bfe c p | bfi c p | sel c p | fma c p | dot2 c p | dot4 c p | hfma2 c p =>
    cases h; (conv_rhs => rw [← payB_bits p]); rfl
  case addi c p | li c p | lih c p => cases h; (conv_rhs => rw [← payI_bits p]); rfl
  case cvt c p | fcvt c p => cases h; (conv_rhs => rw [← payC_bits p]); rfl
  case ld c p | st c p | pf c p => cases h; (conv_rhs => rw [← payM_bits p]); rfl
  case lds c p | sts c p => cases h; (conv_rhs => rw [← payML_bits p]); rfl
  case br c p | brc c p | brl c p | call c p => cases h; (conv_rhs => rw [← payJ_bits p]); rfl
  case atom c p | cas c p => cases h; (conv_rhs => rw [← payEM_bits p]); rfl
  case atoms c p => cases h; (conv_rhs => rw [← payEML_bits p]); rfl
  all_goals cases h
  all_goals rename_i c p; (conv_rhs => rw [← payA_bits p]); rfl

/-- The row that the opcode table holds for an instruction's opcode is its own. -/
theorem ofOpc_row {i : Instr} {n : Ins} (h : insOf i = some n) : Rows.ofOpc n.row.opc = some n.row := by
  cases i <;> cases h <;> rfl

/-- The first word calls for a second exactly where the instruction carries one. -/
theorem needsSecond_word0 {i : Instr} {n : Ins} (h : insOf i = some n) (hw : n.secondWordOk = true) :
    Decode.needsSecond n.word0 = n.w1.isSome := by
  rw [Decode.needsSecond, opc_word0, pay_word0, ofOpc_row h]
  exact (beq_iff_eq.mp hw).symm

theorem encode_words {i : Instr} {n : Ins} (h : insOf i = some n) : encode i = n.word0 :: n.w1.toList := by
  rw [encode, h]
  cases hw : n.w1 <;> simp [Ins.words, Ins.word0, hw]

theorem wellFormed_parts {i : Instr} {n : Ins} (h : insOf i = some n) (hwf : i.wellFormed = true) :
    n.secondWordOk = true ∧ i.variantOk = true := by
  simpa [Instr.wellFormed, h] using hwf

end Sys2Proof.Proofs
end

section
/-! PROOFS. What a translation leaves behind touches only TLBs (and, for a write, a page-table entry), and the issue slot of a
control core or of a quarter with one group executes the instruction at its issue address (R17, R22, R212, R229, R304). -/
namespace Sys2Proof.Proofs

open Sys2Proof Sys2Proof.Machine Sys2Proof.Safety Sys2Proof.Claims

/-! ### What a fetch leaves behind (R304) -/

/-- `t` is `s` but for translations held in TLBs. -/
structure TlbsOnly (s t : State) : Prop where
  eq : t = { s with cores := t.cores, dies := t.dies }
  cores : ∀ k, t.coreOf k = { s.coreOf k with tlb := (t.coreOf k).tlb }
  dies : ∀ k, t.die k = { s.die k with tlb := (t.die k).tlb }

theorem TlbsOnly.refl (s : State) : TlbsOnly s s := ⟨rfl, fun _ => rfl, fun _ => rfl⟩

theorem TlbsOnly.trans {s t u : State} (h : TlbsOnly s t) (k : TlbsOnly t u) : TlbsOnly s u where
  eq := by rw [k.eq, h.eq]
  cores c := by rw [k.cores, h.cores]
  dies c := by rw [k.dies, h.dies]

theorem tlbsOnly_mapCore (s : State) (c : Nat) (f : List TlbEnt → List TlbEnt) :
    TlbsOnly s (s.mapCore c fun x => { x with tlb := f x.tlb }) where
  eq := rfl
  cores k := by
    by_cases h : k = c
    · subst h; simp
    · simp [State.coreOf_mapCore_other _ h]
  dies _ := rfl

theorem tlbsOnly_mapDie (s : State) (c : Nat) (f : List TlbEnt → List TlbEnt) :
    TlbsOnly s (s.mapDie c fun x => { x with tlb := f x.tlb }) where
  eq := rfl
  cores _ := rfl
  dies k := by
    by_cases h : k = c
    · subst h; simp
    · simp [State.die_mapDie_other _ h]

/-- A fetch marks no leaf dirty: it leaves only translations behind. -/
theorem noteAccess_fetch (s : State) (w : Who) (va : Nat) : TlbsOnly s (s.noteAccess w .fetch va) := by
  unfold State.noteAccess
  split
  · simp only [reduceCtorEq, or_self, false_and, if_false]
    have core : ∀ c e f, TlbsOnly s (s.mapCore c fun x => { x with tlb := tlbPut Config.l1Tlb f e x.tlb }) :=
      fun c e f => tlbsOnly_mapCore s c _
    cases hc : w.core with
    | none =>
      simp only
      split
      · exact .refl s
      · exact tlbsOnly_mapDie s _ _
    | some c =>
      simp only
      split_ifs
      · exact .refl s
      · exact tlbsOnly_mapDie s _ _
      · exact core ..
      · exact (core ..).trans (tlbsOnly_mapDie _ _ _)
  · exact .refl s

theorem TlbsOnly.thr {s t : State} (h : TlbsOnly s t) (a : Agent) : t.thr a = s.thr a := by
  rw [h.eq]; cases a <;> rfl

theorem TlbsOnly.sameBytes {s t : State} (h : TlbsOnly s t) : SameBytes s t := by
  rw [h.eq]; exact ⟨rfl, rfl, rfl, rfl⟩

/-- Whether a comparator meets an address does not depend on translations. -/
theorem TlbsOnly.comparator {s t : State} (h : TlbsOnly s t) (a : Agent) : t.comparator a = s.comparator a := by
  have hq : t.qifOf a = s.qifOf a := by rw [h.eq]; cases a <;> rfl
  have hn : t.coreNo a = s.coreNo a := by rw [h.eq]; cases a <;> rfl
  have hc : (t.coreOf (s.coreNo a)).cmps = (s.coreOf (s.coreNo a)).cmps := by rw [h.cores]
  simp only [State.comparator, h.thr, hq, hn, hc]

/-! ### The instruction at the issue address -/

/-- Bytes that are the words of an instruction are decoded to it. -/
theorem decodeAt_of_fetches {u : State} {a : Agent} {i : Instr} {n : Ins} (hwf : i.wellFormed = true) (hn : insOf i = some n)
    (hf : Fetches u a i) : u.decodeAt a (u.thr a).issueAddr.toNat = .code n (.instr i) := by
  obtain ⟨hw, hv⟩ := wellFormed_parts hn hwf
  have hd := instr_words hn hv
  have h2 := needsSecond_word0 hn hw
  rw [Fetches, encode_words hn] at hf
  unfold State.decodeAt
  rcases hf with ⟨w, he, f0⟩ | ⟨w, w1, he, f0, f1⟩
  · cases hn1 : n.w1 with
    | some x => simp [hn1] at he
    | none =>
      obtain rfl : n.word0 = w := by simpa [hn1] using he
      simp only [hn1] at hd h2
      simp [f0, h2, wordsAt, hd, hn]
  · cases hn1 : n.w1 with
    | none => simp [hn1] at he
    | some x =>
      obtain ⟨rfl, rfl⟩ : n.word0 = w ∧ x = w1 := by simpa [hn1] using he
      simp only [hn1] at hd h2
      simp [f0, f1, h2, wordsAt, hd, hn]

theorem atIssue_inBlock {u : State} {a : Agent} (h : InBlock u a) : u.atIssue a = u.decodeAt a (u.thr a).issueAddr.toNat := by
  obtain ⟨hl, hp, hb, hd, x, hh, hx, hlen⟩ := h
  simp only [State.atIssue, if_neg hl, hp, hb, hh, hx, if_pos hlen, Bool.false_eq_true, if_false]

theorem atIssue_fetched {u : State} {a : Agent} {i : Instr} {n : Ins} (hwf : i.wellFormed = true) (hn : insOf i = some n)
    (hb : InBlock u a) (hf : Fetches u a i) : u.atIssue a = .code n (.instr i) :=
  (atIssue_inBlock hb).trans (decodeAt_of_fetches hwf hn hf)

theorem insAt_fetched {u : State} {a : Agent} {i : Instr} {n : Ins} (hwf : i.wellFormed = true) (hn : insOf i = some n)
    (hb : InBlock u a) (hf : Fetches u a i) : u.insAt a = some (n, .instr i) := by
  simp [State.insAt, atIssue_fetched hwf hn hb hf]

/-! ### The slot -/

theorem who_cur (v : State) (a b : Agent) : ({ v with cur := a } : State).who b = v.who b := by cases b <;> rfl

theorem comparator_cur (v : State) (a b : Agent) : ({ v with cur := a } : State).comparator b = v.comparator b := by
  cases b <;> rfl

/-- An agent that owes no MATRIX_RESET and meets no comparator is given the slot: the instruction is executed. -/
theorem give_instr {v : State} {a : Agent} {n : Ins} {i : Instr} (hl : (v.thr a).lost = none) (hc : v.comparator a = none) :
    v.give a n (.instr i) = .exec i (given a v) := by
  have hc' : (({ v with cur := a } : State).noteAccess (v.who a) .fetch (v.thr a).issueAddr.toNat).comparator a = none := by
    rw [(noteAccess_fetch _ _ _).comparator, comparator_cur, hc]
  simp only [State.give, hl, who_cur, hc', given, Option.isNone_iff_eq_none]

/-- The turn of a control core whose program is eligible. -/
theorem controlTurn_exec {u : State} {q : Nat} {n : Ins} {i : Instr} (hi : u.insAt (.ctl q) = some (n, .instr i))
    (hu : u.upkeep (.ctl q) = none) (hw : u.why (.ctl q) n = none) (hl : (u.thr (.ctl q)).lost = none)
    (hc : u.comparator (.ctl q) = none) (hs : (u.quad q).issued ≠ u.clk + 1) :
    u.controlTurn q = .exec i (given (.ctl q) (u.mapQuad q fun x => { x with issued := u.clk + 1 })) := by
  have ht : (u.mapQuad q fun x => { x with issued := u.clk + 1 }).thr (.ctl q) = u.thr (.ctl q) := by simp [State.thr]
  have hq : (u.mapQuad q fun x => { x with issued := u.clk + 1 }).qifOf (.ctl q) = u.qifOf (.ctl q) := by
    simp [State.qifOf, State.launchOf]
  have hc' : (u.mapQuad q fun x => { x with issued := u.clk + 1 }).comparator (.ctl q) = none := by
    simp only [State.comparator, ht, hq, State.coreOf_mapQuad] at hc ⊢
    exact hc
  simp only [State.controlTurn, hu, hi, hw, Option.isNone_none, Bool.true_and, bne_iff_ne, ne_eq, hs, not_false_eq_true, if_true]
  exact give_instr (by rw [ht]; exact hl) hc'

/-! ### The pick among one group (R212) -/

theorem roundRobin_single (last : Option Nat) (x : Nat × Agent) : roundRobin last [x] = some x := by
  cases last with
  | none => rfl
  | some k => by_cases h : k < x.1 <;> simp [roundRobin, h]

theorem starved_single (s : State) (x : Nat × Agent) : s.starved [x] = none ∨ s.starved [x] = some x := by
  unfold State.starved
  by_cases h : ((s.thr x.2).ra.isNone && decide (Config.starveLimit ≤ (s.thr x.2).starve)) = true <;> simp [h, pickBy]

theorem byClass_single (s : State) (core q : Nat) (x : Nat × Agent) (h : s.pickClass x.2 ≤ 4) :
    s.byClass core q [x] = some x := by
  simp [State.byClass, Nat.min_eq_right h, roundRobin_single]

/-- A quarter picks its only group where that is eligible, whether it pins the quarter, has yielded or starves. -/
theorem quarterTurn_exec {u : State} {core q k : Nat} {a : Agent} {n : Ins} {i : Instr}
    (hg : u.quarterGroups core q = [(k, a)]) (hi : u.insAt a = some (n, .instr i)) (hu : u.upkeep a = none)
    (hw : u.agentWhy a = none) (hl : (u.thr a).lost = none) (hc : u.comparator a = none)
    (hs : (u.coreOf core).issued.any (fun x => x.1 == q && x.2 == u.clk + 1) = false)
    (hp : (u.thr a).pinned < Config.pinLimit) (hcls : u.pickClass a ≤ 4)
    (hv : let v := pickNoted core q k a [(k, a)] (if u.pins a then some a else none) u
      v.comparator a = none ∧ (v.thr a).lost = none) :
    u.quarterTurn core q = .exec i (given a (pickNoted core q k a [(k, a)] (if u.pins a then some a else none) u)) := by
  have hup : u.firstUpkeep [a] = none := by simp [State.firstUpkeep, hu]
  have hcl := byClass_single u core q (k, a) hcls
  have hp' : ¬ Config.pinLimit ≤ (u.thr a).pinned := by omega
  rw [← give_instr (n := n) hv.2 hv.1]
  unfold State.quarterTurn
  rcases starved_single u (k, a) with hst | hst <;> by_cases hpin : u.pins a = true <;>
    by_cases hy : (u.thr a).yielded = some (u.clk - 1) <;>
    simp [hg, hs, hup, hw, hpin, hy, hp', hst, hcl, hi, hl, hc, pickNoted]

/-! ### Steps -/

theorem step_of_controlTurn {s v : State} {rest : List Turn} {q : Nat} {i : Instr} (ha : s.agenda = .control q :: rest)
    (h : ({ s with agenda := rest, freeCtr := s.freeCtr + 1 } : State).controlTurn q = .exec i v) : step s = exec i v := by
  unfold step State.takeTurn
  rw [ha]
  exact congrArg Given.run h

theorem step_of_quarterTurn {s v : State} {rest : List Turn} {core q : Nat} {i : Instr} (ha : s.agenda = .quarter core q :: rest)
    (h : ({ s with agenda := rest, freeCtr := s.freeCtr + 1 } : State).quarterTurn core q = .exec i v) : step s = exec i v := by
  unfold step State.takeTurn
  rw [ha]
  exact congrArg Given.run h

/-- Settles O28: the bytes at the issue address decode to the instruction, and the slot of the control core or of the quarter
executes it. -/
theorem aStepRunsTheDecodedInstruction : Obligations.AStepRunsTheDecodedInstruction := by
  unfold Obligations.AStepRunsTheDecodedInstruction
  intro s rest i n hwf hn
  refine ⟨fun a hb hf => atIssue_fetched hwf hn hb hf, ?_, ?_⟩
  · intro q ha a hb hf hu hw hl hc hs
    exact step_of_controlTurn ha (controlTurn_exec (insAt_fetched hwf hn hb hf) hu hw hl hc hs)
  · intro core q k a ha hg hb hf hu hw hl hc hs hp hcls v hv
    exact step_of_quarterTurn ha (quarterTurn_exec hg (insAt_fetched hwf hn hb hf) hu hw hl hc hs hp hcls hv)

end Sys2Proof.Proofs
end

section
/-! PROOFS. Frames of the operations that groups, teams and launches go through: what folds, register writes, programs that close,
barriers that settle and the unwinding of a chain leave unchanged (R27, R57, R58, R197, R229). -/
namespace Sys2Proof.Proofs

open Sys2Proof Sys2Proof.Machine Sys2Proof.Safety Sys2Proof.Claims

/-! ### Folds -/

/-- What every step of a fold leaves alone, the fold leaves alone. -/
theorem foldl_keeps {α β γ : Type} (p : β → γ) (f : β → α → β) (h : ∀ b a, p (f b a) = p b) (l : List α) (b : β) :
    p (l.foldl f b) = p b := by
  induction l generalizing b with
  | nil => rfl
  | cons a r ih => exact (ih _).trans (h b a)

/-! ### The bytes of the device -/

theorem sameBytes_refl (s : State) : SameBytes s s := ⟨rfl, rfl, rfl, rfl⟩

theorem sameBytes_trans {s t u : State} (h : SameBytes s t) (k : SameBytes t u) : SameBytes s u :=
  ⟨k.1.trans h.1, k.2.1.trans h.2.1, k.2.2.1.trans h.2.2.1, k.2.2.2.trans h.2.2.2⟩

theorem sameBytes_foldl {α : Type} (f : State → α → State) (h : ∀ s a, SameBytes s (f s a)) (l : List α) (s : State) :
    SameBytes s (l.foldl f s) := by
  induction l generalizing s with
  | nil => exact sameBytes_refl s
  | cons a r ih => exact sameBytes_trans (h s a) (ih _)

theorem sameBytes_mapTeam (s : State) (k : Nat) (f : Team → Team) : SameBytes s (s.mapTeam k f) := ⟨rfl, rfl, rfl, rfl⟩
theorem sameBytes_mapQuad (s : State) (k : Nat) (f : Quad → Quad) : SameBytes s (s.mapQuad k f) := ⟨rfl, rfl, rfl, rfl⟩
theorem sameBytes_mapQif (s : State) (k : Nat) (f : Qif → Qif) : SameBytes s (s.mapQif k f) := ⟨rfl, rfl, rfl, rfl⟩
theorem sameBytes_mapThr (s : State) (a : Agent) (f : Thr → Thr) : SameBytes s (s.mapThr a f) := by simp [SameBytes]

/-! ### Finite maps -/

/-- Changing every listed value changes what is read, where the default changes with it. -/
theorem get_map_snd {α : Type} (d : α) (f : α → α) (hd : f d = d) (k : Nat) (m : List (Nat × α)) :
    Sparse.get d k (m.map fun r => (r.1, f r.2)) = f (Sparse.get d k m) := by
  induction m with
  | nil => exact hd.symm
  | cons r m ih => simp only [List.map_cons, Sparse.get, ih, apply_ite f]

/-! ### Lanes -/

theorem getD_perLane {α : Type} (f : Nat → α) (d : α) {l : Nat} (hl : l < 32) : (perLane f).getD l d = f l := by
  simp [perLane, laneIds, hl]

theorem lane32_perLane (f : Nat → BitVec 32) {l : Nat} (hl : l < 32) : lane32 (perLane f) l = f l := getD_perLane f 0 hl

theorem lane32_put (r : VReg) (m : Mask) (v : List (BitVec 64)) (tag : Tag) (p f : Mask) {l : Nat} (hl : l < 32) :
    lane32 (r.put m v tag p f).v l = if m.getLsbD l then (lane64 v l).setWidth 32 else lane32 r.v l := by
  rw [VReg.put, lane32_perLane _ hl]

/-! ### Register writes and the unwinding of a chain (R58) -/

section
variable {γ : Type} (p : Thr → γ) (hr : ∀ th r, p { th with regs := r } = p th) (hs : ∀ th r, p { th with sregs := r } = p th)
  (hk : ∀ th r, p { th with preds := r } = p th) (hh : ∀ th r, p { th with hs := r } = p th)
include hr hs hk hh

/-- A result that lands changes registers only. -/
theorem writeW_keeps (th : Thr) (w : RegW) : p (th.writeW w) = p th := by
  unfold Thr.writeW
  by_cases hm : w.mask &&& ~~~w.dead = 0
  · simp only [hm, if_true]
  · simp only [hm, if_false]
    cases w.tgt with
      | v n => exact hr ..
      | s n => exact hs ..
      | k n => by_cases h : n = 0 <;> simp [h, hk]
      | h n => exact hh ..

theorem foldl_writeW_keeps (ws : List RegW) (th : Thr) : p (ws.foldl (fun t w => t.writeW w) th) = p th :=
  foldl_keeps p _ (writeW_keeps p hr hs hk hh) ws th

end

/-- A result that has lost none of its lanes reaches each lane of its register that it is for. -/
theorem writeW_reaches {w : RegW} {n l : Nat} (ht : w.tgt = .v n) (hd : w.dead = 0) (hl : l < 32) (hm : w.mask.getLsbD l = true)
    (th : Thr) : lane32 ((th.writeW w).vreg n).v l = (lane64 w.v l).setWidth 32 := by
  have hz : w.mask &&& ~~~w.dead = w.mask := by rw [hd]; exact BitVec.and_allOnes
  have h0 : w.mask ≠ 0 := fun h => by simp [h] at hm
  simp only [Thr.writeW, hz, ht]
  rw [if_neg h0]
  simp only [Thr.vreg, Sparse.get_put_same]
  rw [lane32_put _ _ _ _ _ _ hl, if_pos hm]

/-- Unwinding moves the present lanes to the head of the chain (R58). -/
theorem pcv_unwind {th : Thr} {c : Chain} (hc : th.chain = some c) :
    th.unwind.pcv = (List.range th.pcv.length).map fun l => if th.present.getLsbD l then c.head else th.pcv.getD l exitedPc := by
  have keeps : ∀ t : Thr, (c.undo.foldl (fun t w => t.writeW w) t).pcv = t.pcv :=
    foldl_writeW_keeps Thr.pcv (fun _ _ => rfl) (fun _ _ => rfl) (fun _ _ => rfl) (fun _ _ => rfl) c.undo
  have here : ∀ t : Thr, (c.undo.foldl (fun t w => t.writeW w) t).present = t.present :=
    foldl_writeW_keeps Thr.present (fun _ _ => rfl) (fun _ _ => rfl) (fun _ _ => rfl) (fun _ _ => rfl) c.undo
  simp only [Thr.unwind, hc, Thr.setPc, keeps, here]
  rfl

/-- Unwinding leaves alone what neither registers, PCs, the chain nor operations on their way hold. -/
theorem handler_unwind (th : Thr) : th.unwind.handler = th.handler := by
  cases hc : th.chain with
  | none => simp [Thr.unwind, hc]
  | some c =>
    simp only [Thr.unwind, hc, Thr.setPc]
    exact foldl_writeW_keeps Thr.handler (fun _ _ => rfl) (fun _ _ => rfl) (fun _ _ => rfl) (fun _ _ => rfl) c.undo _

theorem chain_unwind (th : Thr) : th.unwind.chain = none := by
  cases hc : th.chain <;> simp [Thr.unwind, hc]

/-- A chain whose head has written one register gives its lanes back what they held. -/
theorem vreg_unwind {th : Thr} {c : Chain} {w : RegW} {n l : Nat} (hc : th.chain = some c) (hu : c.undo = [w]) (ht : w.tgt = .v n)
    (hd : w.dead = 0) (hl : l < 32) (hm : w.mask.getLsbD l = true) :
    lane32 (th.unwind.vreg n).v l = (lane64 w.v l).setWidth 32 := by
  simp only [Thr.unwind, hc, hu, List.foldl_cons, List.foldl_nil]
  exact writeW_reaches ht hd hl hm _

/-! ### Barriers that settle and queues that are read empty (R38, R197) -/

theorem groups_settle (t : Team) (id : Nat) : (t.settle id).groups = t.groups := by
  unfold Team.settle
  dsimp only
  split_ifs <;> rfl

theorem groups_settleAll (t : Team) : t.settleAll.groups = t.groups := foldl_keeps Team.groups _ groups_settle _ t

theorem groups_freeQueue (t : Team) : t.freeQueue.groups = t.groups := rfl

/-! ### A program that closes (R229, R231) -/

/-- Closing a program's queues and dropping its commands touches only those teams' queue marks and its own quad. -/
theorem sameBytes_closeProgram (s : State) (q : Nat) : SameBytes s (s.closeProgram q) := by
  dsimp only [State.closeProgram]
  exact sameBytes_trans (sameBytes_trans (sameBytes_foldl _ (fun s _ => sameBytes_mapTeam s _ _) _ s) (sameBytes_mapThr _ _ _))
    (sameBytes_mapQuad _ _ _)

end Sys2Proof.Proofs
end

section
/-! PROOFS. Headers, the end of groups and programs, and the release of a latch pin (R22, R24, R27, R57, R229). -/
namespace Sys2Proof.Proofs

open Sys2Proof Sys2Proof.Machine Sys2Proof.Safety Sys2Proof.Claims

/-! ### Headers (R22 to R24) -/

theorem hdr_live (w : Nat) : Hdr.live w = BitVec.ofNat 16 (w / 2 ^ 36) := by
  apply BitVec.eq_of_toNat_eq
  simp [Hdr.live, bitsOf]

theorem hdr_resv (w : Nat) : Hdr.resv w = !decide (w / 8 % 256 = 0) := by simp [Hdr.resv, bitsOf, bne, beq_eq_decide]

theorem hdr_hdl (w : Nat) : Hdr.hdl w = w.testBit 2 := by
  simp [Hdr.hdl, bitAt, Nat.testBit_eq_decide_div_mod_eq, beq_eq_decide]

/-- A header is bad at least where its LEN is 0 or it names a handler's block in normal mode. -/
theorem headerBad_of {s : State} {a : Agent} {pc w : Nat} (h : Hdr.len w = 0 ∨ (Hdr.hdl w = true ∧ (s.thr a).handler = false)) :
    s.headerBad a pc w = true := by
  rcases h with h | ⟨h, hh⟩
  · simp [State.headerBad, h]
  · simp [State.headerBad, h, hh]

/-- HEADER_PASS of an agent that stands at a header word outside runahead. -/
theorem headerPass_eq {s : State} {w : Nat} (hst : s.standing s.cur = true) (hw : (s.thr s.cur).wait = none)
    (hra : (s.thr s.cur).ra = none) (hb : s.headerBit s.cur (s.thr s.cur).issueAddr.toNat = true)
    (hf : s.fetchNat s.cur (s.thr s.cur).issueAddr.toNat 8 = .ok w) :
    exec .headerPass s =
      if s.headerBad s.cur (s.thr s.cur).issueAddr.toNat w then .next (s.wordTrap s.cur)
      else .next ((s.noteAccess (s.who s.cur) .fetch (s.thr s.cur).issueAddr.toNat).mapThr s.cur
        (Thr.passHeader (s.thr s.cur).issueAddr w)) := by
  simp [exec, execHeaderPass, hst, hw, hra, hb, hf]

/-- Outside runahead a passed header takes effect: its fields, the Equinox point, the warning, the lanes that move on. -/
theorem passHeader_awake {th : Thr} (hra : th.ra = none) (pc : BitVec 48) (w : Nat) :
    th.passHeader pc w = { (th.enterBlock pc w) with
      reopen := none
      equinox := Hdr.eq w && !Hdr.hdl w && !th.handler && th.pcv.all fun p => p == exitedPc || p == pc
      wsr := if Hdr.resv w then th.wsr ||| 0x200 else th.wsr
      latches := List.replicate 4 Latch.invalid
      pcv := (List.range th.pcv.length).map fun l =>
        if th.present.getLsbD l then th.pcv.getD l exitedPc + 8 else th.pcv.getD l exitedPc } := by
  simp only [Thr.passHeader, hra]
  rfl

/-- A cause that is no instruction's, in normal mode with a trap entry: the thread enters its handler (R272, R274). -/
theorem takeCause_enters {s : State} {a : Agent} (hra : (s.thr a).ra = none) (hh : (s.thr a).handler = false)
    (he : s.trapEntry a ≠ 0) (t : Trap) :
    s.takeCause a t = (s.meetMatrix a).mapThr a fun th =>
      th.enterHandler (s.thr a).issueAddr (BitVec.ofNat 48 (s.trapEntry a)) t := by
  simp [State.takeCause, hra, hh, State.enterTrap, he]

theorem sameBytes_meetMatrix (s : State) (a : Agent) : SameBytes s (s.meetMatrix a) := by
  cases a with
  | grp t g => exact sameBytes_refl s
  | ctl q =>
    unfold State.meetMatrix
    dsimp only
    split
    · exact sameBytes_refl s
    · exact sameBytes_mapQuad _ _ _

theorem thr_meetMatrix (s : State) (a : Agent) : (s.meetMatrix a).thr a = s.thr a := by
  cases a with
  | grp t g => rfl
  | ctl q =>
    unfold State.meetMatrix
    dsimp only
    split
    · rfl
    · simp [State.thr]

/-! ### The end of a group or program (R19, R27, R229) -/

/-- GROUP_END of a listed group whose lanes have exited and whose operations have completed. -/
theorem groupEnd_grp {s : State} {k g : Nat} (hl : (s.team k).groups.any (·.1 == g) = true)
    (he : (s.thr (.grp k g)).ended = false) (ha : (s.thr (.grp k g)).alive = 0) (ho : (s.thr (.grp k g)).ops = []) :
    exec (.groupEnd (.grp k g)) s = .next ((s.mapThr (.grp k g) fun th =>
      { th with ended := true, pend := [], ra := none, chunks := th.baseChunks }).mapTeam k fun x => x.settleAll.freeQueue) := by
  have hf : ∃ x, (s.team k).groups.find? (·.1 == g) = some x := by
    rw [← Option.isSome_iff_exists, List.find?_isSome]
    simpa using hl
  obtain ⟨x, hx⟩ := hf
  simp [exec, execGroupEnd, he, ha, ho, hx]

/-- Settling barriers and freeing the queue leave every thread of the team alone. -/
theorem thr_settled (s : State) (k g : Nat) : (s.mapTeam k fun x => x.settleAll.freeQueue).thr (.grp k g) = s.thr (.grp k g) := by
  simp only [State.thr, State.team_mapTeam_same, groups_freeQueue, groups_settleAll]

/-- GROUP_END of a control-core program whose lane has exited. -/
theorem groupEnd_ctl {s : State} {q : Nat} (hp : (s.quad q).prog.isSome = true) (he : (s.quad q).ctl.ended = false)
    (ha : (s.quad q).ctl.alive = 0) (ho : (s.quad q).ctl.ops = []) :
    exec (.groupEnd (.ctl q)) s = .next ((s.closeProgram q).mapQuad q fun x =>
      { x with prog := none, preempt := false, ctl := { x.ctl with ended := true, pend := [] } }) := by
  have hn : (s.quad q).prog.isNone = false := by simpa [Option.isNone_eq_false_iff] using hp
  simp [exec, execGroupEnd, State.thr, he, ha, ho, hn]

/-! ### The latch pin (R57) -/

theorem latchPinRelease_eq (s : State) (a : Agent) :
    exec (.latchPinRelease a) s = if 64 ≤ (s.thr a).pinned ∧ (s.thr a).pinOther = true then
      .next (s.mapThr a fun th => { th.unwind.dropLatches with pinned := 0, pinOther := false, pinFree := true }) else .next s := rfl

end Sys2Proof.Proofs
end

section
/-! PROOFS. The retirement of a team (R27) and runahead: its entry, limit and thaw (R215 to R220). -/
namespace Sys2Proof.Proofs

open Sys2Proof Sys2Proof.Machine Sys2Proof.Safety Sys2Proof.Claims

/-! ### Poison marks hold no bytes (R371) -/

/-- Marking or clearing the sectors of a run changes the marks of its space only. -/
theorem poisonRun_keeps {γ : Type} (f : State → γ) (sp : Sp) (h : ∀ s p, f (s.setPoison sp p) = f s) (s : State) (a n : Nat) (b : Bool) :
    f (s.poisonRun sp a n b) = f s := by
  refine foldl_keeps f _ (fun s k => ?_) _ s
  cases b with
  | true =>
    simp only [if_true, State.addPoison]
    split_ifs
    · rfl
    · exact h _ _
  | false =>
    simp only [Bool.false_eq_true, if_false, State.clearPoison]
    split_ifs
    · exact h _ _
    · rfl

/-! ### TEAM_RETIRE (R27) -/

/-- A scrubbed allotment: only its own scratchpad bytes and their marks change. -/
theorem scrub_keeps {γ : Type} (f : State → γ) (h : ∀ (s : State) p, f (s.setPoison .scr p) = f s)
    (hs : ∀ (s : State) m, f { s with scr := m } = f s) (s : State) (t : Team) : f (s.scrub t) = f s := by
  unfold State.scrub
  refine (poisonRun_keeps f .scr h _ _ _ _).trans ?_
  simp [State.writeAt, State.hostLost, State.setSpace, hs]

theorem scrub_scr (s : State) (t : Team) : (s.scrub t).scr = Memory.write s.scr (t.core * 524288 + t.scrBase)
    ((List.range t.scrLen).map fun i => (Config.freeWord s.freeCtr (730000 + i)).setWidth 8) := by
  unfold State.scrub
  refine (poisonRun_keeps State.scr .scr (fun _ _ => rfl) _ _ _ _).trans ?_
  simp [State.writeAt, State.hostLost, State.setSpace, State.space, Config.scratchBytes]

/-- A resident team of ended groups, with no command pending and no page draining, may retire. -/
theorem mayRetire_resident {s : State} {k : Nat} (hr : (s.team k).stage = .resident) (he : ∀ g ∈ (s.team k).groups, g.2.ended = true)
    (hc : ∀ c ∈ s.cmds, ∀ j g, c.a = .grp j g → j ≠ k)
    (hd : ∀ y ∈ s.dies, ∀ e ∈ y.2.drains, e.part ≠ (s.launch (s.team k).launch).part) : s.mayRetire k = true := by
  have quiet : ((s.team k).groups.all fun g => g.2.ended || (s.teamDead (s.team k) && g.2.ops.isEmpty)) = true :=
    List.all_eq_true.mpr fun g hg => by simp [he g hg]
  have cmds : (s.cmds.any fun c => match c.a with | .grp j _ => j == k | .ctl _ => false) = false :=
    List.any_eq_false.mpr fun c h => by
      cases ha : c.a with
      | grp j g => simpa [ha] using hc c h j g ha
      | ctl q => simp
  have drains : (s.dies.any fun d => d.2.drains.any (·.part == (s.launch (s.team k).launch).part)) = false :=
    List.any_eq_false.mpr fun d h => by simpa using hd d h
  unfold State.mayRetire
  simp only [hr, quiet, drains, Bool.true_and, Bool.not_false, Bool.or_true, Bool.and_true, Bool.not_eq_true']
  exact cmds

theorem teamRetire_eq {s : State} {k : Nat} (h : s.mayRetire k = true)
    (hs : ∀ die cmd cls, (s.launch (s.team k).launch).src ≠ .tap die cmd cls) : exec (.teamRetire k) s = .next (s.retireTeam k) := by
  simp only [exec, execTeamRetire, h, Bool.not_true, Bool.false_eq_true, if_false]

/-- A resident team that retires, step by step: its allotment, its core, the queue table of its producer, its entry. -/
def retired (s : State) (k : Nat) : State :=
  let t := s.team k
  let u := (s.scrub t).mapCore t.core fun c =>
    { c with free := c.free + t.registers, reqs := c.reqs.filter fun r => !inTeam k r.a
             busyWith := if c.busyWith = some k then none else c.busyWith }
  match t.producer with
  | some q => u.mapQuad q fun x =>
      { x with queues := x.queues.filter (·.2 != k), closed := x.closed.filter fun n => x.queues.any fun p => p.1 == n && p.2 != k }
  | none => u

theorem retireTeam_resident {s : State} {k : Nat} (hr : (s.team k).stage = .resident) :
    s.retireTeam k = (retired s k).setTeam k { Team.absent with
      stage := .retired, launch := (s.team k).launch, teamid := (s.team k).teamid, die := (s.team k).die, cls := (s.team k).cls,
      n := (s.team k).n } := by
  unfold State.retireTeam retired
  cases hp : (s.team k).producer <;> simp only [hr, hp, if_true]

theorem retired_keeps {γ : Type} (f : State → γ) (h : ∀ (s : State) p, f (s.setPoison .scr p) = f s)
    (hs : ∀ (s : State) m, f { s with scr := m } = f s) (hc : ∀ (s : State) k g, f (s.mapCore k g) = f s)
    (hq : ∀ (s : State) k g, f (s.mapQuad k g) = f s) (s : State) (k : Nat) : f (retired s k) = f s := by
  dsimp only [retired]
  cases (s.team k).producer with
  | none => exact (hc ..).trans (scrub_keeps f h hs s _)
  | some q => exact (hq ..).trans ((hc ..).trans (scrub_keeps f h hs s _))

theorem retired_scr (s : State) (k : Nat) : (retired s k).scr = (s.scrub (s.team k)).scr := by
  dsimp only [retired]; cases (s.team k).producer <;> rfl

theorem retired_free (s : State) (k : Nat) :
    ((retired s k).coreOf (s.team k).core).free = (s.coreOf (s.team k).core).free + (s.team k).registers := by
  have hc : (s.scrub (s.team k)).coreOf (s.team k).core = s.coreOf (s.team k).core :=
    scrub_keeps (fun s => s.coreOf _) (fun _ _ => rfl) (fun _ _ => rfl) s _
  dsimp only [retired]
  cases (s.team k).producer <;> simp [hc]

theorem retired_queues {s : State} {k q : Nat} (hp : (s.team k).producer = some q) :
    ∀ y ∈ ((retired s k).quad q).queues, y.2 ≠ k := by
  simp [retired, hp]

/-! ### Runahead entry (R215 to R217) -/

/-- `t` is `th` after marks have been set: registers keep their lanes, and what was marked stays so. -/
structure Marked (th t : Thr) : Prop where
  eq : t = { th with regs := t.regs, preds := t.preds, hs := t.hs }
  lanes : ∀ p, (t.vreg p).v = (th.vreg p).v
  stays : ∀ p, (th.vreg p).frost = BitVec.allOnes 32 → (t.vreg p).frost = BitVec.allOnes 32

theorem Marked.refl (th : Thr) : Marked th th := ⟨rfl, fun _ => rfl, fun _ h => h⟩

theorem Marked.trans {a b c : Thr} (h : Marked a b) (k : Marked b c) : Marked a c where
  eq := by rw [k.eq, h.eq]
  lanes p := (k.lanes p).trans (h.lanes p)
  stays p := fun e => k.stays p (h.stays p e)

theorem Marked.foldl {α : Type} (f : Thr → α → Thr) (h : ∀ t x, Marked t (f t x)) (l : List α) (th : Thr) : Marked th (l.foldl f th) := by
  induction l generalizing th with
  | nil => exact .refl th
  | cons x r ih => exact (h th x).trans (ih _)

/-- Setting the Frost marks of what one result will write. -/
def frostResult (th : Thr) (w : RegW) : Thr :=
  match w.tgt with
  | .v p => { th with regs := Sparse.put p { (th.vreg p) with frost := BitVec.allOnes 32 } th.regs }
  | .k p => if p = 0 then th else { th with preds := Sparse.put p { (th.pred p) with frost := BitVec.allOnes 32 } th.preds }
  | .h n => { th with hs := Sparse.put n { (th.hreg n) with frost := true } th.hs }
  | .s _ => th

/-- Setting the Frost marks of what one operation in flight will write. -/
def frostOp (th : Thr) (o : VOp) : Thr :=
  match o.kind with
  | .hld _ n .. =>
    let t := o.kind.results.foldl frostResult th
    { t with hs := Sparse.put n { (t.hreg n) with frost := true } t.hs }
  | _ => o.kind.results.foldl frostResult th

theorem frostPending_eq (th : Thr) : th.frostPending = th.ops.foldl frostOp th := rfl

theorem marked_frostResult (th : Thr) (w : RegW) : Marked th (frostResult th w) := by
  unfold frostResult
  cases w.tgt with
  | v p =>
    refine ⟨rfl, fun q => ?_, fun q h => ?_⟩ <;> by_cases e : q = p
    · subst e; simp [Thr.vreg, Sparse.get_put_same]
    · simp [Thr.vreg, Sparse.get_put_other _ e]
    · subst e; simp [Thr.vreg, Sparse.get_put_same]
    · simpa [Thr.vreg, Sparse.get_put_other _ e] using h
  | k p =>
    dsimp only
    split_ifs
    · exact .refl th
    · exact ⟨rfl, fun _ => rfl, fun _ h => h⟩
  | h n => exact ⟨rfl, fun _ => rfl, fun _ h => h⟩
  | s n => exact .refl th

theorem marked_frostOp (th : Thr) (o : VOp) : Marked th (frostOp th o) := by
  have all : Marked th (o.kind.results.foldl frostResult th) := Marked.foldl _ marked_frostResult _ th
  unfold frostOp
  cases hk : o.kind with
  | hld e n ch k => exact ⟨rfl, fun _ => rfl, fun _ h => h⟩
  | _ => rw [hk] at all; exact all

theorem marked_frostPending (th : Thr) : Marked th th.frostPending := by
  rw [frostPending_eq]
  exact Marked.foldl _ marked_frostOp _ th

/-- In a fold of marking steps, what one step marks is marked at the end. -/
theorem frost_of_mem {α : Type} (f : Thr → α → Thr) (h : ∀ t x, Marked t (f t x)) {x : α} {p : Nat}
    (hx : ∀ t, ((f t x).vreg p).frost = BitVec.allOnes 32) {l : List α} (hm : x ∈ l) (th : Thr) :
    ((l.foldl f th).vreg p).frost = BitVec.allOnes 32 := by
  induction l generalizing th with
  | nil => cases hm
  | cons y r ih =>
    rcases List.mem_cons.mp hm with rfl | hr
    · exact (Marked.foldl f h r _).stays p (hx th)
    · exact ih hr _

/-- Every register that an operation in flight will write is Frost in all its lanes (R217). -/
theorem frost_frostPending {th : Thr} {o : VOp} {w : RegW} {p : Nat} (ho : o ∈ th.ops) (hw : w ∈ o.kind.results) (ht : w.tgt = .v p) :
    (th.frostPending.vreg p).frost = BitVec.allOnes 32 := by
  have one : ∀ t, ((frostResult t w).vreg p).frost = BitVec.allOnes 32 := fun t => by
    simp [frostResult, ht, Thr.vreg, Sparse.get_put_same]
  rw [frostPending_eq]
  refine frost_of_mem frostOp marked_frostOp (fun t => ?_) ho th
  have all := frost_of_mem frostResult marked_frostResult one hw t
  unfold frostOp
  cases hk : o.kind with
  | hld e n ch k => rw [hk] at hw; cases hw
  | _ => rw [hk] at all; exact all

theorem runaheadEntry_eq {s : State} {a : Agent} {n : Ins} {x : Code}
    (hi : (s.mapThr a (Thr.landDue s.clk)).insAt a = some (n, x))
    (he : (s.mapThr a (Thr.landDue s.clk)).entersRunahead a n = true) :
    exec (.runaheadEntry a) s =
      .next ((s.mapThr a (Thr.landDue s.clk)).mapThr a (Thr.enterRunahead (Sys2Proof.Machine.Ins.needs n))) := by
  simp only [exec, execRunaheadEntry, hi, he, if_true]

/-- The checkpoint saves every held register of a chunk that is live, or written since the block's header (R216, Table 14.3). -/
theorem mem_ckptRegs {th : Thr} {b : CodeBlock} {p : Nat} (hb : th.block = some b) (hp : p < 248) (hh : p / 16 < th.chunks)
    (hk : b.live.getLsbD (p / 16) = true ∨ ∃ y ∈ b.wrote, y / 16 = p / 16) : ∃ c, (p, c) ∈ th.ckptRegs := by
  have kept : (b.live.getLsbD (p / 16) || b.wrote.any fun y => decide (y / 16 = p / 16)) = true := by simpa using hk
  unfold Thr.ckptRegs
  dsimp only
  generalize List.flatMap _ th.ops = coming
  simp only [List.mem_filterMap, List.mem_range, hb]
  by_cases hc : coming.contains p = true
  · exact ⟨true, p, hp, if_pos hc⟩
  · refine ⟨false, p, hp, ?_⟩
    rw [if_neg hc, if_pos (by rw [kept]; simpa using hh)]

/-! ### Runahead limit and Thaw (R219, R220) -/

theorem runaheadLimit_eq {s : State} {a : Agent} {c : Ckpt} (h : (s.thr a).ra = some c) :
    exec (.runaheadLimit a) s = if 512 ≤ c.count then .next (s.endRunahead a) else .next s := by
  simp only [exec, execRunaheadLimit, h]
  rfl

theorem thaw_eq {s : State} {a : Agent} {c : Ckpt} (h : (s.thr a).ra = some c) (hf : (s.thr a).busy &&& c.need = 0) :
    exec (.thaw a) s = .next (s.thaw a) := by
  have hd : (s.thr a).thawDue = true := by simp [Thr.thawDue, h, hf]
  simp only [exec, execThaw, hd, Bool.true_or, if_true]

/-- Registers set one after another: a register set to one value only holds it. -/
theorem vreg_setAll (l : List (Nat × VReg)) (th : Thr) {y : Nat × VReg} (hy : y ∈ l) (hu : ∀ z ∈ l, z.1 = y.1 → z = y) :
    (l.foldl (fun t r => ({ t with regs := Sparse.put r.1 r.2 t.regs } : Thr)) th).vreg y.1 = y.2 := by
  induction l using List.reverseRecOn with
  | nil => cases hy
  | append_singleton l z ih =>
    rw [List.foldl_append]
    simp only [List.foldl_cons, List.foldl_nil, Thr.vreg]
    by_cases e : y.1 = z.1
    · have : z = y := hu z (by simp) e.symm
      rw [this, Sparse.get_put_same]
    · rw [Sparse.get_put_other _ e]
      have hne : y ≠ z := fun h => e (by rw [h])
      have hm : y ∈ l := by simpa [hne] using hy
      exact ih hm fun z hz => hu z (by simp [hz])

/-- The registers of a thread before their Frost marks go, in a thaw: free values, then the checkpoint's. -/
def thawRegs (free : Nat → Nat → BitVec 64) (c : Ckpt) (th : Thr) : Thr :=
  c.regs.foldl (fun t r => { t with regs := Sparse.put r.1 r.2 t.regs })
    (((List.range (min 248 (16 * th.chunks))).filter fun p => (c.regs.find? (·.1 = p)).isNone).foldl (fun t p =>
      { t with regs := Sparse.put p { VReg.zero with v := perLane fun l => (free p l).setWidth 32, tag := .G } t.regs }) th)

theorem thawRegs_keeps {γ : Type} (p : Thr → γ) (hr : ∀ th r, p { th with regs := r } = p th) (free : Nat → Nat → BitVec 64) (c : Ckpt)
    (th : Thr) : p (thawRegs free c th) = p th :=
  (foldl_keeps p _ (fun _ _ => hr _ _) _ _).trans (foldl_keeps p _ (fun _ _ => hr _ _) _ _)

theorem thaw_thr {th : Thr} {c : Ckpt} (h : th.ra = some c) (free : Nat → Nat → BitVec 64) :
    th.thaw free = { (thawRegs free c th).dropLatches with
      pcv := c.pcv, preds := c.preds, pend := c.pend, blocks := c.blocks, ra := none, lastIssue := none, chain := none,
      hs := (thawRegs free c th).hs.map fun h => (h.1, { h.2 with frost := false }),
      regs := (thawRegs free c th).regs.map fun r => (r.1, { r.2 with frost := 0 }) } := by
  simp only [Thr.thaw, h]
  rfl

/-- After a thaw no register is Frost: each holds what it was set to, without the mark. -/
theorem vreg_thaw {th : Thr} {c : Ckpt} (h : th.ra = some c) (free : Nat → Nat → BitVec 64) (p : Nat) :
    (th.thaw free).vreg p = { (thawRegs free c th).vreg p with frost := 0 } := by
  rw [thaw_thr h]
  exact get_map_snd VReg.zero (fun r => { r with frost := 0 }) rfl p _

end Sys2Proof.Proofs
end

section
/-! PROOFS. Groups pass headers, end, and run ahead (R22, R24, R27, R57, R215 to R220, R331): each clause of the statement from the
lemmas about its step. -/
namespace Sys2Proof.Proofs

open Sys2Proof Sys2Proof.Machine Sys2Proof.Safety Sys2Proof.Claims

/-- R22, R23: a good header outside runahead. -/
theorem headerPass_good {s : State} {w : Nat} (hst : s.standing s.cur = true) (hw : (s.thr s.cur).wait = none)
    (hra : (s.thr s.cur).ra = none) (hb : s.headerBit s.cur (s.thr s.cur).issueAddr.toNat = true)
    (hf : s.fetchNat s.cur (s.thr s.cur).issueAddr.toNat 8 = .ok w)
    (hg : s.headerBad s.cur (s.thr s.cur).issueAddr.toNat w = false) :
    ∃ t, exec .headerPass s = .next t ∧ SameBytes s t ∧ t.thr s.cur = (s.thr s.cur).passHeader (s.thr s.cur).issueAddr w := by
  have tlb := noteAccess_fetch s (s.who s.cur) (s.thr s.cur).issueAddr.toNat
  refine ⟨_, by rw [headerPass_eq hst hw hra hb hf, hg]; rfl, sameBytes_trans tlb.sameBytes (sameBytes_mapThr _ _ _), ?_⟩
  rw [State.thr_mapThr_same, tlb.thr]

/-- R22, R24: a bad header in normal mode, where the launch has a trap entry. -/
theorem headerPass_bad {s : State} {w : Nat} (hst : s.standing s.cur = true) (hw : (s.thr s.cur).wait = none)
    (hra : (s.thr s.cur).ra = none) (hb : s.headerBit s.cur (s.thr s.cur).issueAddr.toNat = true)
    (hf : s.fetchNat s.cur (s.thr s.cur).issueAddr.toNat 8 = .ok w)
    (hg : s.headerBad s.cur (s.thr s.cur).issueAddr.toNat w = true) (hh : (s.thr s.cur).handler = false)
    (he : s.trapEntry s.cur ≠ 0) :
    ∃ t, exec .headerPass s = .next t ∧ SameBytes s t ∧ t.thr s.cur =
      (s.thr s.cur).enterHandler (s.thr s.cur).issueAddr (BitVec.ofNat 48 (s.trapEntry s.cur))
        { cause := .illegal, lmask := (s.thr s.cur).present, tval := (s.thr s.cur).issueAddr.setWidth 64 } := by
  refine ⟨_, by rw [headerPass_eq hst hw hra hb hf, hg]; rfl, ?_⟩
  rw [State.wordTrap, takeCause_enters hra hh he]
  exact ⟨sameBytes_trans (sameBytes_meetMatrix s _) (sameBytes_mapThr _ _ _), by rw [State.thr_mapThr_same, thr_meetMatrix]⟩

/-- R27: what the retirement of a resident team leaves. -/
theorem teamRetire_resident {s : State} {k : Nat} (hr : (s.team k).stage = .resident) :
    let x := s.team k
    let t := s.retireTeam k
    t.mem = s.mem ∧ t.dsp = s.dsp ∧ t.drive = s.drive ∧ (t.team k).stage = .retired ∧
      (∀ A, A < x.core * 524288 + x.scrBase ∨ x.core * 524288 + x.scrBase + x.scrLen ≤ A → Memory.byte t.scr A = Memory.byte s.scr A) ∧
      (t.coreOf x.core).free = (s.coreOf x.core).free + x.registers ∧ (∀ j, j ≠ k → t.team j = s.team j) ∧
      ∀ q y, x.producer = some q → y ∈ (t.quad q).queues → y.2 ≠ k := by
  intro x t
  have ht : t = (retired s k).setTeam k _ := retireTeam_resident hr
  have mem : (retired s k).mem = s.mem :=
    retired_keeps State.mem (fun _ _ => rfl) (fun _ _ => rfl) (fun _ _ _ => rfl) (fun _ _ _ => rfl) s k
  have dsp : (retired s k).dsp = s.dsp :=
    retired_keeps State.dsp (fun _ _ => rfl) (fun _ _ => rfl) (fun _ _ _ => rfl) (fun _ _ _ => rfl) s k
  have drive : (retired s k).drive = s.drive :=
    retired_keeps State.drive (fun _ _ => rfl) (fun _ _ => rfl) (fun _ _ _ => rfl) (fun _ _ _ => rfl) s k
  have teams : (retired s k).teams = s.teams :=
    retired_keeps State.teams (fun _ _ => rfl) (fun _ _ => rfl) (fun _ _ _ => rfl) (fun _ _ _ => rfl) s k
  refine ⟨by rw [ht]; exact mem, by rw [ht]; exact dsp, by rw [ht]; exact drive, by rw [ht, State.team_setTeam_same],
    fun A hA => ?_, by rw [ht]; exact retired_free s k, fun j hj => ?_, fun q y hp hy => ?_⟩
  · rw [ht, State.setTeam_scr, retired_scr, scrub_scr]
    exact Memory.byte_write_outside _ _ _ _ (by simpa using hA)
  · rw [ht, State.team_setTeam_other _ hj]
    exact congrArg (Sparse.get Team.absent j) teams
  · rw [ht] at hy
    exact retired_queues hp y hy

/-- R57: what the release of a latch pin leaves of the thread. -/
theorem latchPinRelease_thr {th : Thr} {c : Chain} (hc : th.chain = some c) :
    let h : Thr := { th.unwind.dropLatches with pinned := 0, pinOther := false, pinFree := true }
    h.latches = List.replicate 4 Latch.invalid ∧ h.chain = none ∧ h.pinned = 0 ∧ h.handler = th.handler ∧
      h.pcv = (List.range th.pcv.length).map (fun l => if th.present.getLsbD l then c.head else th.pcv.getD l exitedPc) ∧
      (∀ w p, c.undo = [w] → w.tgt = .v p → w.dead = 0 → ∀ l < 32, w.mask.getLsbD l = true →
        lane32 (h.vreg p).v l = (lane64 w.v l).setWidth 32) :=
  ⟨rfl, chain_unwind th, rfl, handler_unwind th, pcv_unwind hc,
    fun _ _ hu ht hd _ hl hm => vreg_unwind hc hu ht hd hl hm⟩

/-- R215 to R217: the thread that has entered runahead, and its checkpoint. -/
theorem enterRunahead_thr (need : BitVec 12) (th : Thr) :
    ∃ c, (th.enterRunahead need).ra = some c ∧ c.pcv = th.pcv ∧ c.preds = th.preds ∧ c.need = need ∧
      (th.enterRunahead need).pcv = th.pcv ∧ (th.enterRunahead need).busy = th.busy ∧
      (th.enterRunahead need).latches = List.replicate 4 Latch.invalid ∧ (∀ y ∈ c.regs, y.2 = th.vreg y.1) ∧
      (∀ b, th.block = some b → ∀ p < 248, p / 16 < th.chunks →
        (b.live.getLsbD (p / 16) = true ∨ ∃ y ∈ b.wrote, y / 16 = p / 16) → p ∈ c.regs.map (·.1)) ∧
      (∀ o ∈ th.ops, ∀ w ∈ o.kind.results, ∀ p, w.tgt = .v p → ((th.enterRunahead need).vreg p).frost = BitVec.allOnes 32) ∧
      ∀ p l, lane32 ((th.enterRunahead need).vreg p).v l = lane32 (th.vreg p).v l := by
  have marked := marked_frostPending th
  have pcv : th.frostPending.pcv = th.pcv := by rw [marked.eq]
  have busy : th.frostPending.busy = th.busy := by rw [marked.eq]
  refine ⟨_, rfl, rfl, rfl, rfl, pcv, busy, rfl, ?_, ?_, ?_, ?_⟩
  · simp only [List.mem_map]
    rintro y ⟨r, -, rfl⟩
    rfl
  · intro b hb p hp hh hk
    obtain ⟨c, hc⟩ := mem_ckptRegs hb hp hh hk
    simp only [List.map_map, List.mem_map]
    exact ⟨(p, c), hc, rfl⟩
  · exact fun o ho w hw p ht => frost_frostPending ho hw ht
  · exact fun p l => congrArg (lane32 · l) (marked.lanes p)

/-- R220: the thread that has thawed. -/
theorem thaw_restores {th : Thr} {c : Ckpt} (hc : th.ra = some c) (free : Nat → Nat → BitVec 64) :
    let h := th.thaw free
    h.ra = none ∧ h.pcv = c.pcv ∧ h.preds = c.preds ∧ h.latches = List.replicate 4 Latch.invalid ∧ h.busy = th.busy ∧
      (∀ y ∈ c.regs, (∀ z ∈ c.regs, z.1 = y.1 → z = y) → h.vreg y.1 = { y.2 with frost := 0 }) ∧
      (∀ y ∈ h.hs, y.2.frost = false) ∧ ∀ p, (h.vreg p).frost = 0 := by
  intro h
  have hh : h = _ := thaw_thr hc free
  refine ⟨by rw [hh], by rw [hh], by rw [hh], by rw [hh]; rfl, ?_, fun y hy hu => ?_, ?_, fun p => ?_⟩
  · rw [hh]
    exact thawRegs_keeps Thr.busy (fun _ _ => rfl) free c th
  · rw [vreg_thaw hc]
    exact congrArg (fun r : VReg => { r with frost := 0 }) (vreg_setAll _ _ hy hu)
  · rw [hh]
    simp only [List.mem_map]
    rintro y ⟨r, -, rfl⟩
    rfl
  · rw [vreg_thaw hc]

/-- Settles O54: one clause for each step of a group, from the lemma about that step. -/
theorem groupsPassHeadersEndAndRunAheadAsTheirRulesSay : Obligations.GroupsPassHeadersEndAndRunAheadAsTheirRulesSay := by
  unfold Obligations.GroupsPassHeadersEndAndRunAheadAsTheirRulesSay
  refine ⟨?header, ?group, ?program, ?team, ?pin, ?entry, ?runahead, ?expiry⟩
  case header =>
    intro s w a th pc hst hw hra hb hf
    constructor
    · intro hg
      obtain ⟨t, he, hbytes, ht⟩ := headerPass_good hst hw hra hb hf hg
      refine ⟨t, he, hbytes, ?_⟩
      have ht' : t.thr a = _ := ht.trans (passHeader_awake hra _ w)
      intro h
      have hh : h = _ := ht'
      refine ⟨by rw [hh], by rw [hh]; exact hdr_live w, ⟨_, by rw [hh]; exact List.getLast?_concat, rfl, rfl, by rw [hh]; rfl, rfl, rfl⟩,
        by rw [hh]; rfl, by rw [hh]; rfl, by rw [hh]; rfl, ?_, by rw [hh]⟩
      rw [hh, hdr_resv]
      by_cases hz : w / 8 % 256 = 0 <;> simp [hz, th, a]
    · intro hbad hh he
      have hg : s.headerBad s.cur (s.thr s.cur).issueAddr.toNat w = true :=
        headerBad_of (hbad.imp id fun h => ⟨(hdr_hdl w).trans h.1, h.2⟩)
      obtain ⟨t, hex, hbytes, ht⟩ := headerPass_bad hst hw hra hb hf hg hh he
      refine ⟨t, hex, hbytes, ?_⟩
      intro h
      have hh : h = _ := ht
      rw [hh]
      exact ⟨rfl, rfl, rfl, rfl, rfl⟩
  case group =>
    intro s k g hl th he ha ho
    refine ⟨_, groupEnd_grp hl he ha ho, sameBytes_trans (sameBytes_mapThr _ _ _) (sameBytes_mapTeam _ _ _), ?_, ?_, ?_, fun j hj => ?_⟩
    · rw [thr_settled, State.thr_mapThr_same]
    · rw [thr_settled, State.thr_mapThr_same]
    · rw [thr_settled, State.thr_mapThr_same]
    · rw [State.team_mapTeam_other _ hj]
      exact State.team_mapTeam_other _ hj _
  case program =>
    intro s q hp he ha ho
    refine ⟨_, groupEnd_ctl hp he ha ho, sameBytes_trans (sameBytes_closeProgram s q) (sameBytes_mapQuad _ _ _), ?_, ?_⟩ <;>
      rw [State.quad_mapQuad_same]
  case team =>
    intro s k x hr he hc hs hd
    exact ⟨_, teamRetire_eq (mayRetire_resident hr he hc hd) hs, teamRetire_resident hr⟩
  case pin =>
    intro s a th
    refine ⟨fun hp ho c hc => ?_, fun h => ?_⟩
    · refine ⟨_, by rw [latchPinRelease_eq, if_pos ⟨hp, ho⟩], sameBytes_mapThr _ _ _, ?_⟩
      rw [State.thr_mapThr_same]
      exact latchPinRelease_thr hc
    · rw [latchPinRelease_eq, if_neg]
      rintro ⟨hp, ho⟩
      rcases h with h | h
      · exact absurd (show 64 ≤ th.pinned from hp) (by omega)
      · exact absurd ho (by simp [th, h])
  case entry =>
    intro s a n x u th hi he
    obtain ⟨c, h⟩ := enterRunahead_thr (Sys2Proof.Machine.Ins.needs n) th
    refine ⟨_, c, runaheadEntry_eq hi he, sameBytes_trans (sameBytes_mapThr s a _) (sameBytes_mapThr u a _), ?_⟩
    rw [State.thr_mapThr_same]
    exact h
  case runahead =>
    intro s a c hc
    refine ⟨fun hn => ?_, fun hn => ?_, fun hf => ?_⟩
    · refine ⟨s.endRunahead a, by rw [runaheadLimit_eq hc, if_pos hn], sameBytes_mapThr _ _ _, ?_, ?_⟩ <;>
        rw [State.endRunahead, State.thr_mapThr_same]
      rw [hc]; rfl
    · rw [runaheadLimit_eq hc, if_neg (by omega)]
    · refine ⟨_, thaw_eq hc hf, sameBytes_mapThr _ _ _, ?_⟩
      rw [State.thaw, State.thr_mapThr_same]
      exact thaw_restores hc _
  case expiry =>
    intro s core
    refine ⟨_, rfl, ⟨rfl, rfl, rfl, rfl⟩, rfl, ?_, ?_⟩
    · rw [State.coreOf_mapQuad, State.coreOf_mapCore_same]; rfl
    · rw [State.quad_mapQuad_same]; rfl

end Sys2Proof.Proofs
end

section
/-! PROOFS. Device writes and the completion of chain entries: what a write at a virtual address leaves alone (R304), how DONE moves
(Table 23.2), and what an entry's completion leaves (R282). -/
namespace Sys2Proof.Proofs

open Sys2Proof Sys2Proof.Machine Sys2Proof.Safety Sys2Proof.Claims

/-! ### Device writes -/

/-- The state without what a device write reaches: memory with its marks, and the translations that cores and dies hold. -/
def besides (s : State) : State := { s with mem := [], poisonM := [], cores := [], dies := [] }

theorem qifs_of_besides {s t : State} (h : besides t = besides s) : t.qifs = s.qifs :=
  show (besides t).qifs = (besides s).qifs by rw [h]
theorem teams_of_besides {s t : State} (h : besides t = besides s) : t.teams = s.teams :=
  show (besides t).teams = (besides s).teams by rw [h]
theorem launches_of_besides {s t : State} (h : besides t = besides s) : t.launches = s.launches :=
  show (besides t).launches = (besides s).launches by rw [h]
theorem quads_of_besides {s t : State} (h : besides t = besides s) : t.quads = s.quads :=
  show (besides t).quads = (besides s).quads by rw [h]
theorem scr_of_besides {s t : State} (h : besides t = besides s) : t.scr = s.scr := show (besides t).scr = (besides s).scr by rw [h]
theorem dsp_of_besides {s t : State} (h : besides t = besides s) : t.dsp = s.dsp := show (besides t).dsp = (besides s).dsp by rw [h]
theorem drive_of_besides {s t : State} (h : besides t = besides s) : t.drive = s.drive :=
  show (besides t).drive = (besides s).drive by rw [h]
theorem qif_of_besides {s t : State} (h : besides t = besides s) (q : Nat) : t.qif q = s.qif q :=
  congrArg (Sparse.get Qif.reset q) (qifs_of_besides h)

theorem launch_of_besides {s t : State} (h : besides t = besides s) (k : Nat) : t.launch k = s.launch k :=
  congrArg (Sparse.get Launch.absent k) (launches_of_besides h)

theorem besides_mapQif {s t : State} (h : besides t = besides s) (q : Nat) (f : Qif → Qif) :
    besides (t.mapQif q f) = besides (s.mapQif q f) :=
  show (besides t).mapQif q f = (besides s).mapQif q f by rw [h]

theorem besides_setMem (s : State) (m : List (Nat × Byte)) : besides { s with mem := m } = besides s := rfl

theorem besides_writeAt_mem (s : State) (key a : Nat) (bs : List Byte) : besides (s.writeAt .mem key a bs) = besides s := by
  unfold State.writeAt
  split_ifs
  · rfl
  · exact foldl_keeps besides _ (by intro s n; rfl) _ s
  · rfl

theorem besides_writeTable (s : State) (part a : Nat) (bs : List Byte) : besides (s.writeTable part a bs) = besides s := by
  unfold State.writeTable
  cases s.tableKey part with
  | none => exact besides_writeAt_mem ..
  | some k =>
    dsimp only
    split_ifs
    · rfl
    · exact foldl_keeps besides _ (fun s _ => besides_setMem s _) _ s

/-- What an access leaves behind: translations, and for a write an entry of a page table marked dirty. -/
theorem besides_noteAccess (s : State) (w : Who) (need : Need) (va : Nat) : besides (s.noteAccess w need va) = besides s := by
  unfold State.noteAccess
  split
  · next l pte fromTlb _ =>
    extract_lets wr l' u e f v
    have hu : besides u = besides s := by
      dsimp only [u]
      split_ifs
      · exact besides_writeTable ..
      · rfl
    have hv : besides v = besides u := by
      dsimp only [v]
      cases w.core with
      | none => rfl
      | some c => dsimp only; split_ifs <;> rfl
    rw [← hu, ← hv]
    split_ifs <;> rfl
  · rfl

/-- A device write changes memory, its marks, and translations in TLBs. -/
theorem besides_writeVirt {s v : State} {w : Who} {acc : Access} {va : Nat} {bs : List Byte} {p : Bool}
    (h : s.writeVirt w acc va bs p = .ok v) : besides v = besides s := by
  have note := fun s va => besides_noteAccess s w acc.need va
  unfold State.writeVirt at h
  cases hr : s.runs w acc va bs.length with
  | error e => rw [hr] at h; cases h
  | ok rs =>
    rw [hr] at h
    cases h
    refine (foldl_keeps (fun x : State × List Byte => besides x.1) _ (fun x r => ?_) rs _).trans ?_
    · exact (poisonRun_keeps besides .mem (fun _ _ => rfl) _ _ _ _).trans (besides_writeAt_mem _ _ _ _)
    · have fold : ∀ l : List Nat, besides (l.foldl (fun s i => if 32 * i < bs.length then s.noteAccess w acc.need (va + 32 * i) else s) s) =
          besides s := fun l => foldl_keeps besides _ (fun s i => by split_ifs; exacts [note _ _, rfl]) l s
      dsimp only
      split_ifs
      · exact fold _
      · exact (note _ _).trans (fold _)

/-! ### DONE -/

/-- DONE moves over every entry that has finished, and stops before the first that has not. -/
theorem advanceDone_spec (fuel done : Nat) (fin : List Nat) (h : fin.length ≤ fuel) :
    done ≤ (advanceDone fuel done fin).1 ∧ (advanceDone fuel done fin).1 + 1 ∉ fin ∧
      ∀ m, done < m → m ≤ (advanceDone fuel done fin).1 → m ∈ fin := by
  induction fuel generalizing done fin with
  | zero =>
    obtain rfl : fin = [] := List.length_eq_zero_iff.mp (by omega)
    exact ⟨le_rfl, by simp, fun m h1 h2 => absurd h1 (not_lt_of_ge h2)⟩
  | succ fuel ih =>
    unfold advanceDone
    split_ifs with hc
    · have hm : done + 1 ∈ fin := by simpa using hc
      have shorter : (fin.filter (· != done + 1)).length < fin.length :=
        List.length_filter_lt_length_iff_exists.mpr ⟨done + 1, hm, by simp⟩
      obtain ⟨low, stop, all⟩ := ih (done + 1) (fin.filter (· != done + 1)) (by omega)
      refine ⟨by omega, fun hr => stop ?_, fun m h1 h2 => ?_⟩
      · exact List.mem_filter.mpr ⟨hr, by simp; omega⟩
      · by_cases e : m = done + 1
        · rw [e]; exact hm
        · exact (List.mem_filter.mp (all m (by omega) h2)).1
    · exact ⟨le_rfl, by simpa using hc, fun m h1 h2 => absurd h1 (not_lt_of_ge h2)⟩

/-- Entry n finishes: DONE moves as Table 23.2 says. -/
theorem done_countEntry {s u t : State} {q n : Nat} (hd : (u.qif q).done = (s.qif q).done) (hf : (u.qif q).fin = (s.qif q).fin)
    (ht : besides t = besides (u.countEntry q n)) : Done s t q n := by
  have hq : t.qif q = (u.countEntry q n).qif q := qif_of_besides ht q
  have hdone : (t.qif q).done = (advanceDone ((s.qif q).fin.length + 1) (s.qif q).done ((s.qif q).fin ++ [n])).1 := by
    rw [hq, State.countEntry, State.qif_mapQif_same, hd, hf]
  rw [Done, hdone]
  exact advanceDone_spec _ _ _ (by simp)

/-! ### The completion of an entry -/

/-- Beside the completion word, the end of an entry only moves DONE. -/
theorem besides_finishEntry (u : State) (q n at_ st : Nat) : besides (u.finishEntry q n at_ st) = besides (u.countEntry q n) := by
  dsimp only [State.finishEntry]
  cases h : u.writeVirt (u.walkerWho q) devWrite at_ (leBytes 8 (n % 2 ^ 48 + st % 256 * 2 ^ 48)) with
  | error e => rfl
  | ok v => exact besides_mapQif (besides_writeVirt h) q _

/-- The completion word is written where its address allows it (R282, log entry 47). -/
theorem word_finishEntry (u : State) (q n at_ st : Nat) : Word u (u.finishEntry q n at_ st) q n at_ st := by
  have hb := besides_finishEntry u q n at_ st
  refine ⟨(scr_of_besides hb).trans rfl, (dsp_of_besides hb).trans rfl, (drive_of_besides hb).trans rfl, ?_⟩
  dsimp only [Written, State.finishEntry]
  cases u.writeVirt (u.walkerWho q) devWrite at_ (leBytes 8 (n % 2 ^ 48 + st % 256 * 2 ^ 48)) <;> rfl

/-- The end of an entry moves DONE, where `u` stands as `s` does in the entries that have finished. -/
theorem done_finishEntry {s u : State} {q n at_ st : Nat} (hd : (u.qif q).done = (s.qif q).done)
    (hf : (u.qif q).fin = (s.qif q).fin) : Done s (u.finishEntry q n at_ st) q n :=
  done_countEntry hd hf (besides_finishEntry u q n at_ st)

/-! ### Taking an entry (R282) -/

theorem walkOk_iff (s : State) (q : Nat) : s.walkOk q = true ↔ Walks s q := by
  simp only [State.walkOk, Walks]
  cases (s.part (s.qif q).part).guarded <;> simp [and_assoc]

/-- The walker at an entry of operation OP processes it. -/
theorem chainStep_entry {s : State} {q : Nat} {bs : List Byte} (h : AtEntry s q bs) {op : Nat → Bool} (ho : op (wordBits bs 1 52 4) = true)
    (f : List Byte → State → Out) : chainStep q op f s = f bs s := by
  obtain ⟨hw, hne, hwait, hok, hshut, hf⟩ := h
  have he : s.headEntry q = .entry bs := by
    simp [State.headEntry, hw, hne, hwait, (walkOk_iff s q).mpr hok, hshut, hf]
  simp [chainStep, he, ho]

theorem qif_pastHead (s : State) (q : Nat) (bs : List Byte) :
    (s.pastHead q bs).qif q = { s.qif q with num := (s.qif q).num + 1, head := wordBits bs 1 0 52 } := State.qif_mapQif_same _ _ _

/-- Whatever else the entry does to its own interface, the walker has gone past it. -/
theorem took_of {s t : State} {q : Nat} {bs : List Byte} (hwalk : (s.qif q).walking = true) (f : Qif → Qif)
    (hf : ∀ x, (f x).num = x.num ∧ (f x).head = x.head ∧ (f x).tail = x.tail ∧ (f x).walking = x.walking)
    (hq : t.qifs = ((s.pastHead q bs).mapQif q f).qifs) (ht : t.teams = s.teams) : Took s t q bs := by
  have same : ∀ r, t.qif r = ((s.pastHead q bs).mapQif q f).qif r := fun r => congrArg (Sparse.get Qif.reset r) hq
  obtain ⟨hn, hh, htl, hw⟩ := hf ((s.pastHead q bs).qif q)
  rw [qif_pastHead] at hn hh htl hw
  refine ⟨?_, ?_, ?_, ?_, ht, fun r hr => ?_⟩
  · rw [same, State.qif_mapQif_same, qif_pastHead, hn]
  · rw [same, State.qif_mapQif_same, qif_pastHead, hh]
  · rw [same, State.qif_mapQif_same, qif_pastHead, htl]
  · rw [same, State.qif_mapQif_same, qif_pastHead, hw]; exact hwalk
  · rw [same, State.qif_mapQif_other _ hr]
    exact State.qif_mapQif_other _ hr _

theorem took_pastHead {s t : State} {q : Nat} {bs : List Byte} (hwalk : (s.qif q).walking = true)
    (hq : t.qifs = (s.pastHead q bs).qifs) (ht : t.teams = s.teams) : Took s t q bs := by
  have same : ∀ r, t.qif r = (s.pastHead q bs).qif r := fun r => congrArg (Sparse.get Qif.reset r) hq
  refine ⟨?_, ?_, ?_, ?_, ht, fun r hr => ?_⟩
  · rw [same, qif_pastHead]
  · rw [same, qif_pastHead]
  · rw [same, qif_pastHead]
  · rw [same, qif_pastHead]; exact hwalk
  · rw [same]
    exact State.qif_mapQif_other _ hr _

theorem took_mapQif {s : State} {q : Nat} {bs : List Byte} (hwalk : (s.qif q).walking = true) (f : Qif → Qif)
    (hf : ∀ x, (f x).num = x.num ∧ (f x).head = x.head ∧ (f x).tail = x.tail ∧ (f x).walking = x.walking) :
    Took s ((s.pastHead q bs).mapQif q f) q bs := took_of hwalk f hf rfl rfl

theorem took_countEntry {s t : State} {q n : Nat} {bs : List Byte} (hwalk : (s.qif q).walking = true)
    (hq : t.qifs = ((s.pastHead q bs).countEntry q n).qifs) (ht : t.teams = s.teams) : Took s t q bs := by
  rw [State.countEntry] at hq
  refine took_of hwalk _ ?_ hq ht
  exact fun _ => ⟨rfl, rfl, rfl, rfl⟩

/-- An entry that finishes at once, with a cause or without: its word, DONE, and nothing started. -/
theorem finishes_pastHead {s : State} {q : Nat} {bs : List Byte} (h : AtEntry s q bs) (st : Nat) :
    let t := (s.pastHead q bs).finishEntry q ((s.qif q).num + 1) (s.qif q).head st
    Took s t q bs ∧ Word (s.pastHead q bs) t q ((s.qif q).num + 1) (s.qif q).head st ∧ Done s t q ((s.qif q).num + 1) ∧
      t.launches = s.launches ∧ t.quads = s.quads := by
  intro t
  have hb : besides t = besides ((s.pastHead q bs).countEntry q ((s.qif q).num + 1)) := besides_finishEntry ..
  have hteams : t.teams = s.teams := (teams_of_besides hb).trans rfl
  have hlaunches : t.launches = s.launches := (launches_of_besides hb).trans rfl
  have hquads : t.quads = s.quads := (quads_of_besides hb).trans rfl
  exact ⟨took_countEntry h.1 (qifs_of_besides hb) hteams, word_finishEntry ..,
    done_finishEntry (by rw [qif_pastHead]) (by rw [qif_pastHead]), hlaunches, hquads⟩

end Sys2Proof.Proofs
end

section
/-! PROOFS. Launches and programs: what the walker starts from a launch entry (R25, R283), the order in which a quad's programs wait
(R229), and what the end of a program leaves of its queues (R110, R231). -/
namespace Sys2Proof.Proofs

open Sys2Proof Sys2Proof.Machine Sys2Proof.Safety Sys2Proof.Claims

/-! ### TAIL (R364, R366, R378) -/

theorem qifs_hostUp (s : State) : s.hostUp.qifs = s.qifs := by
  unfold State.hostUp
  split_ifs <;> rfl

theorem sameBytes_hostUp (s : State) : SameBytes s s.hostUp := by
  unfold State.hostUp
  split_ifs <;> exact sameBytes_refl s

theorem tailOk_hostUp (s : State) (q : Nat) : s.hostUp.tailOk q = s.tailOk q := by
  unfold State.hostUp
  split_ifs <;> rfl

theorem tailOk_iff (s : State) (q : Nat) : s.tailOk q = true ↔ TakesTail s q := by
  have count : decide (q < interfaceCount) = decide (q < 4096) := rfl
  simp only [State.tailOk, TakesTail, State.booted, count]
  cases (s.part (s.qif q).part).guarded <;> simp [and_assoc]

/-! ### The chunks of a grid by die (R25) -/

theorem launch_addLaunch_same (s : State) (l : Launch) : (s.addLaunch l).launch s.nLaunch = l := Sparse.get_put_same _ _ _ _
theorem launch_addLaunch_lt (s : State) (l : Launch) {k : Nat} (h : k < s.nLaunch) : (s.addLaunch l).launch k = s.launch k :=
  Sparse.get_put_other _ (Nat.ne_of_lt h) _ _

/-- Die number i of m gets every m-th of the n chunks, from the i-th. -/
theorem mem_everyNth {n m i c : Nat} : c ∈ everyNth n m i ↔ c < n ∧ c % m = i := by simp [everyNth]

/-- The chunks a die gets, where `ds` are the dies from the i-th of m on. -/
theorem mem_chunks_zipIdx (n m d c : Nat) (ds : List Nat) (hd : ds.Nodup) (i : Nat) :
    c ∈ Sparse.get [] d ((ds.zipIdx i).map fun p => (p.1, everyNth n m p.2)) ↔
      c < n ∧ i ≤ c % m ∧ ds[c % m - i]? = some d := by
  induction ds generalizing i with
  | nil => simp [Sparse.get]
  | cons a r ih =>
    obtain ⟨ha, hr⟩ := List.nodup_cons.mp hd
    simp only [List.zipIdx_cons, List.map_cons, Sparse.get]
    by_cases e : a = d
    · subst e
      have first : (i ≤ c % m ∧ (a :: r)[c % m - i]? = some a) ↔ c % m = i := by
        refine ⟨fun ⟨hle, hget⟩ => ?_, fun h => by simp [h]⟩
        by_contra hne
        obtain ⟨j, hj⟩ : ∃ j, c % m - i = j + 1 := ⟨c % m - i - 1, by omega⟩
        rw [hj, List.getElem?_cons_succ] at hget
        exact ha (List.mem_of_getElem? hget)
      rw [if_pos rfl, mem_everyNth, first]
    · have later : (i ≤ c % m ∧ (a :: r)[c % m - i]? = some d) ↔ (i + 1 ≤ c % m ∧ r[c % m - (i + 1)]? = some d) := by
        rcases Nat.lt_trichotomy (c % m) i with h | h | h
        · simp [Nat.not_le_of_lt h, Nat.not_le_of_lt (Nat.lt_succ_of_lt h)]
        · simp [h, e]
        · obtain ⟨j, hj⟩ : ∃ j, c % m = i + (j + 1) := ⟨c % m - i - 1, by omega⟩
          have hle : i + 1 ≤ i + (j + 1) := by omega
          have hsub : i + (j + 1) - (i + 1) = j := by omega
          rw [hj, Nat.add_sub_cancel_left, List.getElem?_cons_succ, hsub]
          simp [hle]
      rw [if_neg e, ih hr, later]

theorem diesOf_nodup (s : State) (part : Nat) : (s.diesOf part).Nodup := List.Nodup.filter _ List.nodup_range

/-- A partition that has a quad has a die. -/
theorem diesOf_ne_nil {s : State} {part : Nat} (h : s.quadsOf part ≠ []) : s.diesOf part ≠ [] := by
  obtain ⟨q, hq⟩ := List.exists_mem_of_ne_nil _ h
  have hlt : q < Config.quads := List.mem_range.mp (List.mem_filter.mp hq).1
  have hdie : q / Config.quadsPerDie < Config.dies := by
    simp only [Config.quads, Config.quadsPerDie, Config.dies] at hlt ⊢
    omega
  exact List.ne_nil_of_mem (List.mem_filter.mpr ⟨List.mem_range.mpr hdie, List.any_eq_true.mpr ⟨q, hq, by simp⟩⟩)

/-- A new grid is its launch with the chunks dealt to the dies of its partition in turn. -/
theorem launch_startGrid (s : State) (l : Launch) :
    (∀ {γ : Type} (p : Launch → γ), (∀ l c, p { l with chunks := c } = p l) → p ((s.startGrid l).launch s.nLaunch) = p l) ∧
      (s.quadsOf l.part ≠ [] → ∀ c d, c ∈ Sparse.get [] d ((s.startGrid l).launch s.nLaunch).chunks ↔
        c < (l.e.gdx * l.e.gdy * l.e.gdz + 15) / 16 ∧ (s.diesOf l.part)[c % (s.diesOf l.part).length]? = some d) := by
  refine ⟨fun p hp => ?_, fun h c d => ?_⟩
  · exact (congrArg p (launch_addLaunch_same s _)).trans (hp _ _)
  · have hne : (s.diesOf l.part).isEmpty = false := by simpa using diesOf_ne_nil h
    have hl : ((s.startGrid l).launch s.nLaunch).chunks =
        (s.diesOf l.part).zipIdx.map fun p => (p.1, everyNth (ceilDiv l.e.size 16) (s.diesOf l.part).length p.2) := by
      simp only [State.startGrid, hne]
      exact congrArg Launch.chunks (launch_addLaunch_same s _)
    rw [hl, mem_chunks_zipIdx _ _ _ _ _ (diesOf_nodup s l.part)]
    simp [ceilDiv, Entry.size]

/-! ### The programs of a quad wait in the order of their launches (R229) -/

theorem startsFirst_iff (a b : Launch) : a.startsFirst b = true ↔ a.clk < b.clk ∨ (a.clk = b.clk ∧ a.qif ≤ b.qif) := by
  simp [Launch.startsFirst]

theorem startsFirst_false_iff (a b : Launch) : a.startsFirst b = false ↔ b.clk < a.clk ∨ (a.clk = b.clk ∧ b.qif < a.qif) := by
  rw [Bool.eq_false_iff, Ne, startsFirst_iff]
  omega

/-- A program waits behind those that start before it and ahead of the rest. -/
theorem queued_queueProgram (s : State) (q k : Nat) : ∃ pre post,
    (s.quad q).queued = pre ++ post ∧ ((s.queueProgram q k).quad q).queued = pre ++ [k] ++ post ∧
      (∀ j ∈ pre, (s.launch j).startsFirst (s.launch k) = true) ∧
      (∀ j, post.head? = some j → (s.launch j).startsFirst (s.launch k) = false) ∧
      ((s.queueProgram q k).quad q).prog = (s.quad q).prog := by
  let p := fun j => (s.launch j).startsFirst (s.launch k)
  have cut : (s.quad q).queued.drop ((s.quad q).queued.takeWhile p).length = (s.quad q).queued.dropWhile p := by
    conv_lhs => enter [2]; rw [← List.takeWhile_append_dropWhile (p := p) (l := (s.quad q).queued)]
    exact List.drop_left
  refine ⟨(s.quad q).queued.takeWhile p, (s.quad q).queued.dropWhile p, List.takeWhile_append_dropWhile.symm, ?_, fun j hj => ?_,
    fun j hj => ?_, ?_⟩
  · rw [State.queueProgram, State.quad_mapQuad_same, ← cut]
  · exact List.mem_takeWhile_imp (p := p) hj
  · have := List.head?_dropWhile_not p (s.quad q).queued
    rw [hj] at this
    exact this
  · rw [State.queueProgram, State.quad_mapQuad_same]

/-! ### The end of a program (R110, R231) -/

theorem freeCtr_foldl_mapTeam {α : Type} (g : α → Nat) (f : Team → Team) (l : List α) (s : State) :
    (l.foldl (fun s p => s.mapTeam (g p) f) s).freeCtr = s.freeCtr := by
  refine foldl_keeps State.freeCtr _ ?_ l s
  exact fun _ _ => rfl

theorem quads_foldl_mapTeam {α : Type} (g : α → Nat) (f : Team → Team) (l : List α) (s : State) :
    (l.foldl (fun s p => s.mapTeam (g p) f) s).quads = s.quads := by
  refine foldl_keeps State.quads _ ?_ l s
  exact fun _ _ => rfl

/-- What a change to teams leaves alone in one team, it leaves alone in every team. -/
theorem team_mapTeam_keeps {γ : Type} (p : Team → γ) (f : Team → Team) (h : ∀ t, p (f t) = p t) (s : State) (j k : Nat) :
    p ((s.mapTeam j f).team k) = p (s.team k) := by
  by_cases e : k = j
  · subst e
    rw [State.team_mapTeam_same, h]
  · rw [State.team_mapTeam_other _ e]

theorem uq_foldl_mapTeam {α : Type} (g : α → Nat) (l : List α) (s : State) (k : Nat) :
    ((l.foldl (fun s p => s.mapTeam (g p) fun t => { t with uqOpen := false }) s).team k).uq = (s.team k).uq := by
  refine foldl_keeps (fun s : State => (s.team k).uq) _ (fun s p => ?_) l s
  refine team_mapTeam_keeps Team.uq _ ?_ s (g p) k
  exact fun _ => rfl

/-- A queue that is listed is closed. -/
theorem uqOpen_foldl_mapTeam {α : Type} (g : α → Nat) {p : α} {l : List α} (hp : p ∈ l) (s : State) :
    ((l.foldl (fun s p => s.mapTeam (g p) fun t => { t with uqOpen := false }) s).team (g p)).uqOpen = false := by
  have closed : ∀ (l : List α) (s : State), (s.team (g p)).uqOpen = false →
      ((l.foldl (fun s p => s.mapTeam (g p) fun t => { t with uqOpen := false }) s).team (g p)).uqOpen = false := by
    intro l
    induction l with
    | nil => exact fun _ h => h
    | cons a r ih =>
      intro s h
      refine ih _ ?_
      by_cases e : g p = g a
      · rw [e, State.team_mapTeam_same]
      · rw [State.team_mapTeam_other _ e, h]
  induction hp generalizing s with
  | head r => exact closed r _ (by rw [State.team_mapTeam_same])
  | tail a _ ih => exact ih _

theorem alive_of_exited {th : Thr} (h : ∀ pc ∈ th.pcv, pc = exitedPc) : th.alive = 0 := by
  have gone : ∀ l, th.pcv.getD l exitedPc = exitedPc := fun l => by
    rw [List.getD_eq_getElem?_getD]
    cases e : th.pcv[l]? with
    | none => rfl
    | some pc => exact h pc (List.mem_of_getElem? e)
  simp only [Thr.alive, gone, bne_self_eq_false, Bool.and_false]
  decide

theorem quad_mapThr_ctl (s : State) (q : Nat) (f : Thr → Thr) :
    (s.mapThr (.ctl q) f).quad q = { s.quad q with ctl := f (s.quad q).ctl } := State.quad_mapQuad_same _ _ _

/-- The end of a program changes of its quad the thread, the marks of closed queues and the commands that have not begun. -/
theorem quad_endProgram (s : State) (q : Nat) {γ : Type} (p : Quad → γ) (ht : ∀ x th, p { x with ctl := th } = p x)
    (hc : ∀ x c m, p { x with closed := c, mq := m } = p x) : p ((s.endProgram q).quad q) = p (s.quad q) := by
  dsimp only [State.endProgram, State.closeProgram]
  rw [quad_mapThr_ctl, ht, State.quad_mapQuad_same, hc, quad_mapThr_ctl, ht]
  exact congrArg (fun m => p (Sparse.get Quad.reset q m)) (quads_foldl_mapTeam _ _ _ s)

theorem mq_endProgram (s : State) (q : Nat) : ((s.endProgram q).quad q).mq =
    (s.quad q).mq.filter fun c => !(c.a == .ctl q && !(s.quad q).started s.freeCtr c) := by
  dsimp only [State.endProgram, State.closeProgram]
  rw [quad_mapThr_ctl, State.quad_mapQuad_same, quad_mapThr_ctl, freeCtr_foldl_mapTeam]
  exact congrArg (fun m => (Sparse.get Quad.reset q m).mq.filter _) (quads_foldl_mapTeam _ _ _ s)

theorem alive_endProgram (s : State) (q : Nat) : ((s.endProgram q).thr (.ctl q)).alive = 0 := by
  refine alive_of_exited fun pc hpc => ?_
  rw [State.endProgram, State.thr_mapThr_same] at hpc
  obtain ⟨_, -, rfl⟩ := List.mem_map.mp hpc
  rfl

theorem sameBytes_endProgram (s : State) (q : Nat) : SameBytes s (s.endProgram q) :=
  sameBytes_trans (sameBytes_closeProgram s q) (sameBytes_mapThr _ _ _)

/-- The end of a program closes the queues of the teams that it launched, and keeps what is in them. -/
theorem team_endProgram (s : State) (q j : Nat) : ((s.endProgram q).team j).uq = (s.team j).uq ∧
    (∀ k, (s.quad q).prog = some k → (s.launch (s.team j).launch).src = .program q k → (∃ n, (n, j) ∈ (s.quad q).queues) →
      ((s.endProgram q).team j).uqOpen = false) := by
  refine ⟨uq_foldl_mapTeam Prod.snd _ s j, fun k hk hsrc ⟨n, hn⟩ => ?_⟩
  refine uqOpen_foldl_mapTeam Prod.snd (p := (n, j)) (List.mem_filter.mpr ⟨hn, ?_⟩) s
  simp [hk, hsrc]

end Sys2Proof.Proofs
end

section
/-! PROOFS. O57: what the walker does at an entry, how wait and signal entries finish, and the start and the end of launches
(R282 to R286, R229). -/
namespace Sys2Proof.Proofs

open Sys2Proof Sys2Proof.Machine Sys2Proof.Safety Sys2Proof.Claims

/-! ### TAIL -/

theorem tail_taken {s : State} {q : Nat} (v : BitVec 64) (h : TakesTail s q) :
    exec (.tail q v) s = .next (s.hostUp.mapQif q fun x => { x with tail := v.toNat % 2 ^ 52, walking := true }) :=
  if_pos ((tailOk_hostUp s q).trans ((tailOk_iff s q).mpr h))

theorem tail_dropped {s : State} {q : Nat} (v : BitVec 64) (h : ¬TakesTail s q) : exec (.tail q v) s = .next s.hostUp :=
  if_neg fun e => h ((tailOk_iff s q).mp ((tailOk_hostUp s q).symm.trans e))

theorem qif_hostUp (s : State) (q : Nat) : s.hostUp.qif q = s.qif q := congrArg (Sparse.get Qif.reset q) (qifs_hostUp s)

/-! ### Entries at the head of a chain (R282 to R284) -/

/-- The launch that the entry at the head of interface q makes (R283). -/
def entryLaunch (s : State) (q : Nat) (bs : List Byte) (e : Entry) (hargs : List (BitVec 128)) : Launch :=
  (s.pastHead q bs).launchFrom (.chain q ((s.qif q).num + 1) (s.qif q).head) q (s.qif q).part (launchLevel e (s.qif q).level) e hargs

section
variable {s : State} {q : Nat} {bs : List Byte} (h : AtEntry s q bs)
include h

theorem chainLaunch_refused (hop : wordBits bs 1 52 4 = 0) {c : Cause} {y : Nat}
    (hr : s.readEntry (s.walkerWho q) (wordBits bs 2 0 52) (fun e => if e.kind = 1 then [e.quad] else s.quadsOf (s.qif q).part)
      (fun _ => none) = .error (.cause c y)) :
    exec (.chainLaunch q) s = .next ((s.pastHead q bs).finishEntry q ((s.qif q).num + 1) (s.qif q).head c.code.toNat) := by
  show execChainLaunch q s = _
  rw [execChainLaunch, chainStep_entry h (by simp [hop])]
  simp only [hr]

theorem chainLaunch_read (hop : wordBits bs 1 52 4 = 0) {e : Entry} {hargs : List (BitVec 128)}
    (hr : s.readEntry (s.walkerWho q) (wordBits bs 2 0 52) (fun e => if e.kind = 1 then [e.quad] else s.quadsOf (s.qif q).part)
      (fun _ => none) = .ok (e, hargs)) :
    exec (.chainLaunch q) s =
      if e.kind = 0 then .next ((s.pastHead q bs).startGrid (entryLaunch s q bs e hargs))
      else if !(s.part (s.qif q).part).maps.quads.contains e.quad then
        .next ((s.pastHead q bs).finishEntry q ((s.qif q).num + 1) (s.qif q).head Cause.perm.code.toNat)
      else .next (((s.pastHead q bs).addLaunch (entryLaunch s q bs e hargs)).queueProgram e.quad s.nLaunch) := by
  show execChainLaunch q s = _
  rw [execChainLaunch, chainStep_entry h (by simp [hop])]
  simp only [hr]
  rfl

/-- The walker at a wait entry stands there (R284). -/
theorem chainWait_entry (hop : wordBits bs 1 52 4 = 1) : exec (.chainWait q) s =
    .next ((s.pastHead q bs).mapQif q fun y => { y with waitAt := some ((s.qif q).num + 1, (s.qif q).head, wordBits bs 3 0 64) }) := by
  show execChainWait q s = _
  rw [execChainWait, chainStep_entry h (by simp [hop])]

theorem chainInvalidOp_entry (hop : 3 ≤ wordBits bs 1 52 4) : exec (.chainInvalidOp q) s =
    .next ((s.pastHead q bs).finishEntry q ((s.qif q).num + 1) (s.qif q).head Cause.illegal.code.toNat) := by
  show execChainInvalidOp q s = _
  rw [execChainInvalidOp, chainStep_entry h (by simp [hop])]

/-- The walker takes a signal entry where none that it holds can be performed yet. -/
theorem chainSignal_entry (hop : wordBits bs 1 52 4 = 2) (hlate : ∀ y ∈ (s.qif q).signals, (s.qif q).done + 1 < y.1) :
    exec (.chainSignal q) s = .next ((s.pastHead q bs).mapQif q fun y => { y with signals := y.signals ++
      [((s.qif q).num + 1, (s.qif q).head, wordBits bs 2 0 52, BitVec.ofNat 64 (wordBits bs 3 0 64))] }) := by
  have none_due : (s.qif q).signals.find? (fun e => decide (e.1 ≤ (s.qif q).done + 1)) = none :=
    List.find?_eq_none.mpr fun y hy => by simpa using hlate y hy
  show execChainSignal q s = _
  simp only [execChainSignal, none_due, ite_self]
  rw [chainStep_entry h (by simp [hop])]

end

/-! ### The end of an entry -/

/-- A walker whose wait entry's condition holds (R284). -/
theorem waitEntryFinish_due {s : State} {q n at_ arg : Nat} (hw : (s.qif q).waitAt = some (n, at_, arg)) (hok : Walks s q)
    (hdue : arg ≤ (s.qif q).done) :
    exec (.waitEntryFinish q) s = .next ((s.mapQif q fun x => { x with waitAt := none }).finishEntry q n at_ 0) := by
  show execWaitEntryFinish q s = _
  simp only [execWaitEntryFinish, hw]
  exact if_pos ⟨hdue, (walkOk_iff s q).mpr hok⟩

theorem waitEntryFinish_early {s : State} {q n at_ arg : Nat} (hw : (s.qif q).waitAt = some (n, at_, arg))
    (hearly : (s.qif q).done < arg) : exec (.waitEntryFinish q) s = .next s := by
  show execWaitEntryFinish q s = _
  simp only [execWaitEntryFinish, hw]
  exact if_neg fun h => Nat.not_le_of_lt hearly h.1

/-- The end of a signal entry: it is no more among the signals. -/
theorem signals_finishEntry (s : State) (q n at_ st : Nat) :
    ∀ y ∈ (((s.mapQif q fun x => { x with signals := x.signals.filter (·.1 != n) }).finishEntry q n at_ st).qif q).signals, y.1 ≠ n := by
  intro y hy
  rw [qif_of_besides (besides_finishEntry ..), State.countEntry, State.qif_mapQif_same, State.qif_mapQif_same] at hy
  simpa using (List.mem_filter.mp hy).2

section
variable {s : State} {q n at_ va : Nat} {v : BitVec 64} (hok : Walks s q)
  (hdue : (s.qif q).signals.find? (fun e => decide (e.1 ≤ (s.qif q).done + 1)) = some (n, at_, va, v))
include hok hdue

/-- A signal entry that is due stores its value. -/
theorem chainSignal_stored {u : State} (hw : s.writeVirt (s.walkerWho q) devWrite va (leBytes 8 v.toNat) = .ok u) :
    exec (.chainSignal q) s =
      .next ((u.mapQif q fun x => { x with signals := x.signals.filter (·.1 != n) }).finishEntry q n at_ 0) := by
  show execChainSignal q s = _
  simp only [execChainSignal, (walkOk_iff s q).mpr hok, hdue, if_true, hw]

/-- A signal entry that is due and whose address allows no write finishes with the cause. -/
theorem chainSignal_refused {c : Cause} {y : Nat}
    (hw : s.writeVirt (s.walkerWho q) devWrite va (leBytes 8 v.toNat) = .error (.cause c, y)) :
    exec (.chainSignal q) s =
      .next ((s.mapQif q fun x => { x with signals := x.signals.filter (·.1 != n) }).finishEntry q n at_ c.code.toNat) := by
  show execChainSignal q s = _
  simp only [execChainSignal, (walkOk_iff s q).mpr hok, hdue, if_true, hw]

end

/-! ### The end of a launch -/

/-- A launch has finished when its teams have retired and no chunk is to start, or when its program is none that its quad runs, holds
or queues (R27, R110, R282). -/
theorem launchDone_of {s : State} {k : Nat} (hlive : (s.launch k).live = true)
    (h : ((s.launch k).e.kind ≠ 1 ∧ (∀ y ∈ (s.launch k).teams, (s.team y).stage = .retired) ∧
          ((s.launch k).failed = true ∨ ∀ c ∈ (s.launch k).chunks, c.2 = [])) ∨
        ((s.launch k).e.kind = 1 ∧ (s.quad (s.launch k).e.quad).prog ≠ some k ∧ k ∉ (s.quad (s.launch k).e.quad).queued ∧
          ∀ y, (s.quad (s.launch k).e.quad).spare = some y → y.1 ≠ k)) : s.launchDone k = true := by
  rcases h with ⟨hkind, hteams, hchunks⟩ | ⟨hkind, hprog, hqueued, hspare⟩
  · simpa [State.launchDone, hlive, hkind] using ⟨hteams, hchunks.imp_right fun h a b hb => h (a, b) hb⟩
  · simp only [State.launchDone, hlive, hkind, if_true, Bool.true_and]
    cases hs : (s.quad (s.launch k).e.quad).spare with
    | none => simp [hprog, hqueued]
    | some y =>
      have := hspare y hs
      simp [hprog, hqueued, this]

/-- The end of a launch of a host's chain: DONE moves, and its word is written but where a kill has muted it. -/
theorem launchFinish_chain {s : State} {k q n at_ : Nat} (hd : s.launchDone k = true) (hsrc : (s.launch k).src = .chain q n at_) :
    let u := s.mapLaunch k fun l => { l with live := false }
    ∃ t, exec (.launchFinish k) s = .next t ∧ besides t = besides (u.countEntry q n) ∧
      ((s.launch k).mute = false → Word u t q n at_ ((s.launch k).cause.getD 0).toNat) ∧ ((s.launch k).mute = true → SameBytes s t) := by
  have ex : exec (.launchFinish k) s = .next (
      let u := s.mapLaunch k fun l => { l with live := false }
      if (s.launch k).mute then u.countEntry q n else u.finishEntry q n at_ ((s.launch k).cause.getD 0).toNat) := by
    show execLaunchFinish k s = _
    simp only [execLaunchFinish, hd, hsrc]
    rfl
  refine ⟨_, ex, ?_⟩
  cases (s.launch k).mute with
  | true => exact ⟨rfl, nofun, fun _ => ⟨rfl, rfl, rfl, rfl⟩⟩
  | false => exact ⟨besides_finishEntry .., fun _ => word_finishEntry .., nofun⟩

theorem launchFinish_other {s : State} {k : Nat} (hd : s.launchDone k = true) (hsrc : ∀ q n at_, (s.launch k).src ≠ .chain q n at_) :
    exec (.launchFinish k) s = .next (s.mapLaunch k fun l => { l with live := false }) := by
  show execLaunchFinish k s = _
  simp only [execLaunchFinish, hd]
  cases hs : (s.launch k).src with
  | chain q n at_ => exact absurd hs (hsrc q n at_)
  | program => rfl
  | tap => rfl

/-! ### Programs of control cores -/

theorem controlProgramStart_starts {s : State} {q k : Nat} {r : List Nat} (hqueued : (s.quad q).queued = k :: r)
    (hprog : (s.quad q).prog = none) (hhalted : (s.quad q).halted = false) (hspare : (s.quad q).spare = none)
    (hclk : (s.launch k).clk < s.clk) :
    exec (.controlProgramStart q) s = .next (s.mapQuad q fun x =>
      { x with prog := some k, queued := r, ctl := Thr.start true (s.launch k).e (s.launch k).hargs (s.launch k).level }) := by
  show execControlProgramStart q s = _
  simp only [execControlProgramStart, hqueued]
  exact if_neg (by simp [hprog, hhalted, hspare, hclk])

theorem controlProgramStart_waits {s : State} {q k : Nat} {r : List Nat} (hqueued : (s.quad q).queued = k :: r)
    (h : (s.quad q).prog ≠ none ∨ (s.quad q).halted = true ∨ (s.quad q).spare ≠ none ∨ s.clk ≤ (s.launch k).clk) :
    exec (.controlProgramStart q) s = .next s := by
  show execControlProgramStart q s = _
  simp only [execControlProgramStart, hqueued]
  exact if_pos (by simpa [Option.isSome_iff_ne_none] using h)

theorem firmwareEndsProgram_running {s : State} {q k : Nat} (hprog : (s.quad q).prog = some k) :
    exec (.firmwareEndsProgram q) s = .next (s.endProgram q) :=
  congrArg Host.Outcome.next (if_pos (by rw [hprog]; rfl))

/-! ### The clauses of O57 -/

section
variable {s : State} {q : Nat} {bs : List Byte} {e : Entry} {hargs : List (BitVec 128)} (h : AtEntry s q bs)
  (hop : wordBits bs 1 52 4 = 0)
  (hr : s.readEntry (s.walkerWho q) (wordBits bs 2 0 52) (fun e => if e.kind = 1 then [e.quad] else s.quadsOf (s.qif q).part)
    (fun _ => none) = .ok (e, hargs))
include h hop hr

/-- An entry of kind 0 starts a grid (R25, R283, log entry 72). -/
theorem launchEntry_grid (hkind : e.kind = 0) : ∃ t, exec (.chainLaunch q) s = .next t ∧ Took s t q bs ∧ SameBytes s t ∧
    t.nLaunch = s.nLaunch + 1 ∧
    (let l := t.launch s.nLaunch
     l.live = true ∧ l.part = (s.qif q).part ∧ l.level = min 1 (s.qif q).level ∧ l.e = e ∧ l.hargs = hargs ∧
     l.src = .chain q ((s.qif q).num + 1) (s.qif q).head ∧ l.failed = false ∧ l.cause = none ∧ l.teams = [] ∧
     ∀ c d, s.quadsOf (s.qif q).part ≠ [] → (c ∈ Sparse.get [] d l.chunks ↔ c < (e.gdx * e.gdy * e.gdz + 15) / 16 ∧
       (s.diesOf (s.qif q).part)[c % (s.diesOf (s.qif q).part).length]? = some d)) := by
  have ex := chainLaunch_read h hop hr
  rw [if_pos hkind] at ex
  obtain ⟨hl, hchunks⟩ := launch_startGrid (s.pastHead q bs) (entryLaunch s q bs e hargs)
  refine ⟨_, ex, took_pastHead h.1 rfl rfl, ⟨rfl, rfl, rfl, rfl⟩, rfl, hl Launch.live fun _ _ => rfl, hl Launch.part fun _ _ => rfl,
    (hl Launch.level fun _ _ => rfl).trans (if_pos hkind), hl Launch.e fun _ _ => rfl, hl Launch.hargs fun _ _ => rfl,
    hl Launch.src fun _ _ => rfl, hl Launch.failed fun _ _ => rfl, hl Launch.cause fun _ _ => rfl, hl Launch.teams fun _ _ => rfl,
    fun c d hq => hchunks hq c d⟩

/-- An entry of kind 1 that names a quad of another partition ends in PERM (log entry 47). -/
theorem launchEntry_foreign (hkind : e.kind = 1) (hforeign : (s.part (s.qif q).part).maps.quads.contains e.quad = false) :
    exec (.chainLaunch q) s =
      .next ((s.pastHead q bs).finishEntry q ((s.qif q).num + 1) (s.qif q).head Cause.perm.code.toNat) := by
  rw [chainLaunch_read h hop hr, if_neg (by omega), hforeign]
  rfl

/-- An entry of kind 1 puts a program among those that wait for its quad (R229). -/
theorem launchEntry_program (hkind : e.kind = 1) (hown : (s.part (s.qif q).part).maps.quads.contains e.quad = true) :
    ∃ t pre post, exec (.chainLaunch q) s = .next t ∧ Took s t q bs ∧ SameBytes s t ∧
      (s.quad e.quad).queued = pre ++ post ∧ (t.quad e.quad).queued = pre ++ [s.nLaunch] ++ post ∧
      (∀ k ∈ pre, k < s.nLaunch → (s.launch k).clk < s.clk ∨ ((s.launch k).clk = s.clk ∧ (s.launch k).qif ≤ q)) ∧
      (∀ k, post.head? = some k → k < s.nLaunch → s.clk < (s.launch k).clk ∨ ((s.launch k).clk = s.clk ∧ q < (s.launch k).qif)) ∧
      (t.quad e.quad).prog = (s.quad e.quad).prog := by
  have ex := chainLaunch_read h hop hr
  rw [if_neg (by omega), hown] at ex
  obtain ⟨pre, post, before, after, first, last, prog⟩ :=
    queued_queueProgram ((s.pastHead q bs).addLaunch (entryLaunch s q bs e hargs)) e.quad s.nLaunch
  have hnew : ((s.pastHead q bs).addLaunch (entryLaunch s q bs e hargs)).launch s.nLaunch = entryLaunch s q bs e hargs :=
    launch_addLaunch_same _ _
  have hold : ∀ {k}, k < s.nLaunch →
      ((s.pastHead q bs).addLaunch (entryLaunch s q bs e hargs)).launch k = s.launch k := launch_addLaunch_lt (s.pastHead q bs) _
  refine ⟨_, pre, post, ex, took_pastHead h.1 rfl rfl, ⟨rfl, rfl, rfl, rfl⟩, before, after, fun k hk hlt => ?_, fun k hk hlt => ?_,
    prog⟩
  · have order := (startsFirst_iff _ _).mp (first k hk)
    rw [hold hlt, hnew] at order
    exact order
  · have order := (startsFirst_false_iff _ _).mp (last k hk)
    rw [hold hlt, hnew] at order
    exact order

end

/-- A launch that has finished is live no more; one of a host's chain has its word written and DONE moved. -/
theorem launchFinish_effect {s : State} {k : Nat} (hd : s.launchDone k = true) :
    ∃ t, exec (.launchFinish k) s = .next t ∧ (t.launch k).live = false ∧ t.teams = s.teams ∧ t.quads = s.quads ∧
      (∀ q n at_, (s.launch k).src = .chain q n at_ → Done s t q n ∧
        ((s.launch k).mute = false →
          Word (s.mapLaunch k fun x => { x with live := false }) t q n at_ ((s.launch k).cause.getD 0).toNat) ∧
        ((s.launch k).mute = true → SameBytes s t)) ∧
      ((∀ q n at_, (s.launch k).src ≠ .chain q n at_) → SameBytes s t) := by
  by_cases hchain : ∃ q n at_, (s.launch k).src = .chain q n at_
  · obtain ⟨q, n, at_, hsrc⟩ := hchain
    obtain ⟨t, ex, hb, word, same⟩ := launchFinish_chain hd hsrc
    refine ⟨t, ex, ?_, (teams_of_besides hb).trans rfl, (quads_of_besides hb).trans rfl, fun q' n' at' hsrc' => ?_,
      fun other => absurd hsrc (other q n at_)⟩
    · rw [launch_of_besides hb]
      exact congrArg Launch.live (State.launch_mapLaunch_same s k fun l => { l with live := false })
    · obtain ⟨rfl, rfl, rfl⟩ := Source.chain.inj (hsrc.symm.trans hsrc')
      exact ⟨done_countEntry (u := s.mapLaunch k _) rfl rfl hb, word, same⟩
  · push Not at hchain
    refine ⟨_, launchFinish_other hd hchain, ?_, rfl, rfl, fun q n at_ hsrc => absurd hsrc (hchain q n at_),
      fun _ => ⟨rfl, rfl, rfl, rfl⟩⟩
    rw [State.launch_mapLaunch_same]

/-- Firmware that ends a program lets its commands that have begun go on, and closes the queues that it fed (R110, R231). -/
theorem endProgram_effect {s : State} {q k : Nat} (hprog : (s.quad q).prog = some k) :
    let t := s.endProgram q
    (t.quad q).queues = (s.quad q).queues ∧
      (∀ c, c ∈ (t.quad q).mq ↔ c ∈ (s.quad q).mq ∧ (c.a ≠ .ctl q ∨ (s.quad q).started s.freeCtr c = true)) ∧
      (t.thr (.ctl q)).alive = 0 ∧ (t.quad q).acc = (s.quad q).acc ∧ (t.quad q).prog = (s.quad q).prog ∧
      ∀ y ∈ (s.quad q).queues, (t.team y.2).uq = (s.team y.2).uq ∧
        ((s.launch (s.team y.2).launch).src = .program q k → (t.team y.2).uqOpen = false) := by
  refine ⟨quad_endProgram s q Quad.queues (fun _ _ => rfl) (fun _ _ _ => rfl), fun c => ?_, alive_endProgram s q,
    quad_endProgram s q Quad.acc (fun _ _ => rfl) (fun _ _ _ => rfl), quad_endProgram s q Quad.prog (fun _ _ => rfl) (fun _ _ _ => rfl),
    fun y hy => ?_⟩
  · rw [mq_endProgram, List.mem_filter]
    simp [or_iff_not_imp_left]
  · obtain ⟨kept, closed⟩ := team_endProgram s q y.2
    exact ⟨kept, fun hsrc => closed k hprog hsrc ⟨y.1, hy⟩⟩

/-- Settles O57: each event's result from the model's equation for it, DONE by `advanceDone_spec`, and what a completion word leaves
alone by `besides_finishEntry`. -/
theorem chainsAreWalkedAndLaunchesStartAndFinish : Obligations.ChainsAreWalkedAndLaunchesStartAndFinish := by
  dsimp only [Obligations.ChainsAreWalkedAndLaunchesStartAndFinish]
  refine ⟨fun s q v => ⟨fun h => ?_, fun h => ⟨_, tail_dropped v h, sameBytes_hostUp s, qifs_hostUp s⟩⟩,
    fun s q bs h => ⟨fun hop => ⟨fun c y hr => ?_, fun e hargs hr => ⟨launchEntry_grid h hop hr, fun hkind hforeign => ?_,
      launchEntry_program h hop hr⟩⟩, fun hop => ?_, fun hop hlate => ?_, fun hop => ?_⟩,
    fun s q n at_ arg hw hok => ⟨fun hdue => ?_, waitEntryFinish_early hw⟩,
    fun s q n at_ va v hok hdue => ⟨fun u hw => ?_, fun c y hw => ?_⟩,
    fun s k hlive hfin => launchFinish_effect (launchDone_of hlive hfin),
    fun s q k r hqueued => ⟨fun hprog hhalted hspare hclk => ?_, controlProgramStart_waits hqueued⟩,
    fun s q => ⟨?_, fun k hprog => ⟨_, firmwareEndsProgram_running hprog, sameBytes_endProgram s q, endProgram_effect hprog⟩⟩,
    fun s d hd => congrArg Host.Outcome.next (if_pos hd), fun s hb => congrArg Host.Outcome.next (if_pos hb)⟩
  · -- TAIL is taken
    refine ⟨_, tail_taken v h, sameBytes_trans (sameBytes_hostUp s) (sameBytes_mapQif _ _ _), ?_⟩
    rw [State.qif_mapQif_same, qif_hostUp]
    refine ⟨rfl, rfl, rfl, rfl, rfl, fun r hr => ?_⟩
    rw [State.qif_mapQif_other _ hr, qif_hostUp]
  · -- a launch entry that names no launch
    obtain ⟨took, word, done, launches, -⟩ := finishes_pastHead h c.code.toNat
    exact ⟨_, chainLaunch_refused h hop hr, took, word, done, launches⟩
  · -- a program for a quad of another partition
    exact ⟨_, launchEntry_foreign h hop hr hkind hforeign, finishes_pastHead h Cause.perm.code.toNat⟩
  · -- a wait entry
    exact ⟨_, chainWait_entry h hop, ⟨rfl, rfl, rfl, rfl⟩, took_mapQif h.1 _ (fun _ => ⟨rfl, rfl, rfl, rfl⟩), by simp,
      by simp [qif_pastHead]⟩
  · -- a signal entry
    exact ⟨_, chainSignal_entry h hop hlate, ⟨rfl, rfl, rfl, rfl⟩, took_mapQif h.1 _ (fun _ => ⟨rfl, rfl, rfl, rfl⟩),
      by simp [qif_pastHead], by simp [qif_pastHead]⟩
  · -- an entry of no operation
    exact ⟨_, chainInvalidOp_entry h hop, finishes_pastHead h Cause.illegal.code.toNat⟩
  · -- the condition of a wait entry holds
    refine ⟨_, waitEntryFinish_due hw hok hdue, ?_, word_finishEntry .., done_finishEntry (by simp) (by simp)⟩
    rw [qif_of_besides (besides_finishEntry ..), State.countEntry, State.qif_mapQif_same, State.qif_mapQif_same]
  · -- a signal entry stores its value
    have hq : u.qif q = s.qif q := qif_of_besides (besides_writeVirt hw) q
    exact ⟨_, chainSignal_stored hok hdue hw, word_finishEntry .., done_finishEntry (by simp [hq]) (by simp [hq]),
      signals_finishEntry _ _ _ _ _⟩
  · -- a signal entry whose address allows no write
    exact ⟨_, chainSignal_refused hok hdue hw, word_finishEntry .., done_finishEntry (by simp) (by simp),
      signals_finishEntry _ _ _ _ _⟩
  · -- a program starts
    refine ⟨_, controlProgramStart_starts hqueued hprog hhalted hspare hclk, ⟨rfl, rfl, rfl, rfl⟩, ?_⟩
    rw [State.quad_mapQuad_same]
    exact ⟨rfl, rfl, rfl, rfl, rfl, rfl, rfl, rfl, fun _ _ => rfl, rfl, rfl, rfl, fun i hi => by rw [hreg_start _ _ _ _ hi]⟩
  · -- a control core restarts
    refine ⟨_, rfl, ⟨rfl, rfl, rfl, rfl⟩, ?_, ?_, fun p hp => State.quad_mapQuad_other _ hp _⟩ <;> rw [State.quad_mapQuad_same]

end Sys2Proof.Proofs
end

section
/-! PROOFS. Decoding and encoding are each other's inverses, on words and on bytes (R4, R40, R41, R45, R62). -/
namespace Sys2Proof.Proofs

open Sys2Proof

/-! ### Words and their bytes (R4) -/

theorem length_leBytes (n v : Nat) : (Decode.leBytes n v).length = n := by
  induction n generalizing v with
  | zero => rfl
  | succ n ih => simp [Decode.leBytes, ih]

theorem leNat_leBytes (n v : Nat) : Decode.leNat (Decode.leBytes n v) = v % 256 ^ n := by
  induction n generalizing v with
  | zero => simp [Decode.leBytes, Decode.leNat, Nat.mod_one]
  | succ n ih =>
    rw [Decode.leBytes, Decode.leNat, ih, Nat.pow_succ', Nat.mod_mul, BitVec.toNat_ofNat]

theorem leNat_lt (bs : List Byte) : Decode.leNat bs < 256 ^ bs.length := by
  induction bs with
  | nil => simp [Decode.leNat]
  | cons b bs ih =>
    have hb := b.isLt
    rw [Decode.leNat, List.length_cons, Nat.pow_succ']
    omega

theorem leBytes_leNat (bs : List Byte) : Decode.leBytes bs.length (Decode.leNat bs) = bs := by
  induction bs with
  | nil => rfl
  | cons b bs ih =>
    have hb := b.isLt
    have low : BitVec.ofNat 8 (b.toNat + 256 * Decode.leNat bs) = b := by
      apply BitVec.eq_of_toNat_eq
      rw [BitVec.toNat_ofNat]
      omega
    have high : (b.toNat + 256 * Decode.leNat bs) / 256 = Decode.leNat bs := by omega
    rw [List.length_cons, Decode.leNat, Decode.leBytes, low, high, ih]

/-- A word is read back from its bytes. -/
theorem word_leBytes (w : BitVec 64) : Decode.word (Decode.leBytes 8 w.toNat) = w := by
  rw [Decode.word, leNat_leBytes]
  apply BitVec.eq_of_toNat_eq
  rw [BitVec.toNat_ofNat]
  have := w.isLt
  omega

/-- Eight bytes are those of the word that they hold. -/
theorem leBytes_word {bs : List Byte} (h : bs.length = 8) : Decode.leBytes 8 (Decode.word bs).toNat = bs := by
  have hlt := leNat_lt bs
  rw [h] at hlt
  rw [Decode.word, BitVec.toNat_ofNat, Nat.mod_eq_of_lt (by omega), ← h, leBytes_leNat]

/-! ### A word is what its fields hold (R41, R45) -/

theorem word0_of_fields {n : Ins} {w : BitVec 64} (hc : n.c = Decode.ctl w) (ho : n.row.opc = Decode.opc w)
    (hp : n.pay = Decode.pay w) : n.word0 = w := by
  rw [Ins.word0, hc, ho, hp]
  simp (disch := omega) only [Decode.ctl, Decode.opc, Decode.pay, BitVec.extractLsb'_append_extractLsb'_eq_extractLsb']
  exact BitVec.extractLsb'_eq_self

theorem bits_payA (b : BitVec 32) (w1 : Option (BitVec 64)) : (Decode.payA b w1).bits = b := by
  simp (disch := omega) only [Decode.payA, PayA.bits, BitVec.extractLsb'_append_extractLsb'_eq_extractLsb']
  exact BitVec.extractLsb'_eq_self
theorem bits_payB (b : BitVec 32) (w1 : Option (BitVec 64)) : (Decode.payB b w1).bits = b := by
  simp (disch := omega) only [Decode.payB, PayB.bits, BitVec.extractLsb'_append_extractLsb'_eq_extractLsb']
  exact BitVec.extractLsb'_eq_self
theorem bits_payI (b : BitVec 32) (w1 : Option (BitVec 64)) : (Decode.payI b w1).bits = b := by
  simp (disch := omega) only [Decode.payI, PayI.bits, BitVec.extractLsb'_append_extractLsb'_eq_extractLsb']
  exact BitVec.extractLsb'_eq_self
theorem bits_payC (b : BitVec 32) (w1 : Option (BitVec 64)) : (Decode.payC b w1).bits = b := by
  simp (disch := omega) only [Decode.payC, PayC.bits, BitVec.extractLsb'_append_extractLsb'_eq_extractLsb']
  exact BitVec.extractLsb'_eq_self
theorem bits_payM (b : BitVec 32) (w1 : Option (BitVec 64)) : (Decode.payM b w1).bits = b := by
  simp (disch := omega) only [Decode.payM, PayM.bits, BitVec.extractLsb'_append_extractLsb'_eq_extractLsb']
  exact BitVec.extractLsb'_eq_self
theorem bits_payML (b : BitVec 32) (w1 : Option (BitVec 64)) : (Decode.payML b w1).bits = b := by
  simp (disch := omega) only [Decode.payML, PayML.bits, BitVec.extractLsb'_append_extractLsb'_eq_extractLsb']
  exact BitVec.extractLsb'_eq_self
theorem bits_payJ (b : BitVec 32) : (Decode.payJ b).bits = b := by
  simp (disch := omega) only [Decode.payJ, PayJ.bits, BitVec.extractLsb'_append_extractLsb'_eq_extractLsb']
  exact BitVec.extractLsb'_eq_self
theorem bits_payEM (b : BitVec 32) (w1 : BitVec 64) : (Decode.payEM b w1).bits = b := by
  simp (disch := omega) only [Decode.payEM, PayEM.bits, BitVec.extractLsb'_append_extractLsb'_eq_extractLsb']
  exact BitVec.extractLsb'_eq_self
theorem bits_payEML (b : BitVec 32) (w1 : BitVec 64) : (Decode.payEML b w1).bits = b := by
  simp (disch := omega) only [Decode.payEML, PayEML.bits, BitVec.extractLsb'_append_extractLsb'_eq_extractLsb']
  exact BitVec.extractLsb'_eq_self

/-! ### What the decoder gives back has the words it was read from -/

/-- The words `w`, and `w1` where there is one, are those of instruction `i`, which is well-formed but for the presence of `w1`. -/
def HasWords (i : Instr) (w : BitVec 64) (w1 : Option (BitVec 64)) : Prop :=
  ∃ n, insOf i = some n ∧ n.word0 = w ∧ n.w1 = w1 ∧ i.variantOk = true

/-- An instruction with the fields of `w` has the words `w` and `w1`, where its second word is the one that its row calls for. -/
theorem hasWords_of {i : Instr} {n : Ins} {w : BitVec 64} {w1 : Option (BitVec 64)} (h1 : w1.isSome = Decode.needsSecond w)
    (h : insOf i = some n) (hc : n.c = Decode.ctl w) (ho : (Decode.opc w).toNat = n.row.opc.toNat) (hv : i.variantOk = true)
    (hp : n.pay = Decode.pay w) (hs : w1.isSome = Rows.twoWords n.row n.pay → n.w1 = w1) : HasWords i w w1 := by
  have ho' := (BitVec.eq_of_toNat_eq ho).symm
  have hrow := ofOpc_row h
  refine ⟨n, h, word0_of_fields hc ho' hp, hs ?_, hv⟩
  rw [ho'] at hrow
  rw [h1, Decode.needsSecond, hrow, hp]

theorem variantOk_fence {c : Ctl} {p : PayA} {i : Instr} (h : Decode.fence c p = .ok i) :
    insOf i = some (p.ins Rows.rowFence c) ∧ i.variantOk = true := by
  unfold Decode.fence at h
  split_ifs at h with h0 h1 h2 <;> cases h
  · exact ⟨rfl, beq_iff_eq.mpr h0⟩
  · exact ⟨rfl, beq_iff_eq.mpr h1⟩
  · exact ⟨rfl, beq_iff_eq.mpr h2⟩

theorem variantOk_tlbi {c : Ctl} {p : PayA} {i : Instr} (h : Decode.tlbi c p = .ok i) :
    insOf i = some (p.ins Rows.rowTlbi c) ∧ i.variantOk = true := by
  unfold Decode.tlbi at h
  split_ifs at h with h0 h1 h2 <;> cases h
  · exact ⟨rfl, beq_iff_eq.mpr h0⟩
  · exact ⟨rfl, beq_iff_eq.mpr h1⟩
  · exact ⟨rfl, beq_iff_eq.mpr h2⟩

theorem none_of_not_isSome {w1 : Option (BitVec 64)} (h : w1.isSome = false) : none = w1 := (Option.not_isSome_iff_eq_none.mp (by simp [h])).symm

theorem some_getD_of_isSome {w1 : Option (BitVec 64)} (h : w1.isSome = true) : some (w1.getD 0) = w1 := by
  obtain ⟨x, rfl⟩ := Option.isSome_iff_exists.mp h
  rfl

/-- What the decoder gives back has the words it was read from: one case for each opcode of its table, whose payload is closed by
the lemma of its format. -/
theorem hasWords_instr {w : BitVec 64} {w1 : Option (BitVec 64)} {i : Instr} (h1 : w1.isSome = Decode.needsSecond w)
    (h : Decode.instr w w1 = .ok i) : HasWords i w w1 := by
  unfold Decode.instr at h
  dsimp only at h
  split at h
  all_goals rename_i ho
  -- the two opcodes whose variants a field tells apart
  case' h_94 =>
    obtain ⟨hi, hv⟩ := variantOk_fence h
    refine hasWords_of h1 hi rfl ho hv ?_ ?_
  case' h_153 =>
    obtain ⟨hi, hv⟩ := variantOk_tlbi h
    refine hasWords_of h1 hi rfl ho hv ?_ ?_
  any_goals cases h
  any_goals refine hasWords_of h1 rfl rfl ho rfl ?_ ?_
  any_goals simp only [PayA.ins, PayB.ins, PayI.ins, PayC.ins, PayM.ins, PayML.ins, PayJ.ins, PayEM.ins, PayEML.ins, bits_payA,
    bits_payB, bits_payI, bits_payC, bits_payM, bits_payML, bits_payJ, bits_payEM, bits_payEML]
  all_goals intro hs
  any_goals rfl
  -- no second word of format J (R105), always one of format E (R50)
  any_goals exact none_of_not_isSome hs
  all_goals exact some_getD_of_isSome hs

/-! ### Bytes -/

/-- The bytes of an instruction: those of its first word, then those of its second where it has one. -/
theorem encodeBytes_words {i : Instr} {n : Ins} (h : insOf i = some n) :
    encodeBytes i = Decode.leBytes 8 n.word0.toNat ++ n.w1.toList.flatMap fun w => Decode.leBytes 8 w.toNat := by
  rw [encodeBytes, encode_words h, List.flatMap_cons]

/-- Bytes whose first word calls for no second one are decoded by it. -/
theorem decode_one {a : List Byte} (ha : a.length = 8) (h : Decode.needsSecond (Decode.word a) = false) (more : List Byte) :
    decode (a ++ more) = (Decode.instr (Decode.word a) none).map (·, more) := by
  simp [decode, List.take_left' ha, List.drop_left' ha, ha, h]

/-- Bytes whose first word calls for a second one are decoded by both. -/
theorem decode_two {a b : List Byte} (ha : a.length = 8) (hb : b.length = 8) (h : Decode.needsSecond (Decode.word a) = true)
    (more : List Byte) :
    decode (a ++ b ++ more) = (Decode.instr (Decode.word a) (some (Decode.word b))).map (·, more) := by
  have hd : (a ++ (b ++ more)).drop 16 = more := by
    rw [← List.append_assoc]
    exact List.drop_left' (by simp [ha, hb])
  have hl : (a ++ (b ++ more)).length = 16 + more.length := by simp [ha, hb]; omega
  rw [List.append_assoc, decode, hl, if_neg (by omega), List.take_left' ha, List.drop_left' ha, List.take_left' hb, hd]
  exact (if_pos h).trans (if_neg (by omega))

theorem decode_encodeBytes {i : Instr} (h : i.wellFormed = true) (more : List Byte) : decode (encodeBytes i ++ more) = .ok (i, more) := by
  cases hn : insOf i with
  | none => simp [Instr.wellFormed, hn] at h
  | some n =>
    obtain ⟨hw, hv⟩ := wellFormed_parts hn h
    have hi := instr_words hn hv
    have h2 := needsSecond_word0 hn hw
    have len := length_leBytes 8
    rw [encodeBytes_words hn]
    cases hs : n.w1 with
    | none =>
      rw [hs] at hi h2
      rw [← word_leBytes n.word0] at hi h2
      have hd := decode_one (len _) h2 more
      rw [hi] at hd
      simpa [Except.map] using hd
    | some x =>
      rw [hs] at hi h2
      rw [← word_leBytes n.word0] at hi h2
      have hd := decode_two (len _) (len x.toNat) h2 more
      rw [word_leBytes x, hi] at hd
      simpa [Except.map] using hd

/-- The instruction of two words that are right for each other is well-formed and is encoded by their bytes. -/
theorem encodeBytes_of_hasWords {i : Instr} {w : BitVec 64} {w1 : Option (BitVec 64)} (h1 : w1.isSome = Decode.needsSecond w)
    (h : HasWords i w w1) : i.wellFormed = true ∧
      encodeBytes i = Decode.leBytes 8 w.toNat ++ w1.toList.flatMap fun x => Decode.leBytes 8 x.toNat := by
  obtain ⟨n, hn, rfl, rfl, hv⟩ := h
  refine ⟨?_, encodeBytes_words hn⟩
  rw [Decode.needsSecond, opc_word0, pay_word0, ofOpc_row hn] at h1
  simp [Instr.wellFormed, hn, hv, Ins.secondWordOk, h1]

theorem map_ok {e : Except DecErr Instr} {i : Instr} {r more : List Byte} (h : e.map (·, r) = .ok (i, more)) : e = .ok i ∧ r = more := by
  cases e <;> cases h
  exact ⟨rfl, rfl⟩

theorem encodeBytes_decode {bs more : List Byte} {i : Instr} (h : decode bs = .ok (i, more)) :
    i.wellFormed = true ∧ bs = encodeBytes i ++ more := by
  simp only [decode] at h
  split_ifs at h with hlen h2 hlen2
  · -- two words
    obtain ⟨hi, rfl⟩ := map_ok h
    have h1 : (some (Decode.word ((bs.drop 8).take 8))).isSome = Decode.needsSecond (Decode.word (bs.take 8)) := h2.symm
    obtain ⟨hwf, he⟩ := encodeBytes_of_hasWords h1 (hasWords_instr h1 hi)
    refine ⟨hwf, ?_⟩
    rw [he, leBytes_word (by simp; omega), Option.toList_some, List.flatMap_singleton, leBytes_word (by simp; omega), List.append_assoc,
      show bs.drop 16 = (bs.drop 8).drop 8 by rw [List.drop_drop], List.take_append_drop, List.take_append_drop]
  · -- one word
    obtain ⟨hi, rfl⟩ := map_ok h
    have h1 : (none : Option (BitVec 64)).isSome = Decode.needsSecond (Decode.word (bs.take 8)) := by simpa using h2
    obtain ⟨hwf, he⟩ := encodeBytes_of_hasWords h1 (hasWords_instr h1 hi)
    refine ⟨hwf, ?_⟩
    rw [he, leBytes_word (by simp; omega), Option.toList_none, List.flatMap_nil, List.append_nil, List.take_append_drop]

/-! ### The obligations -/

/-- Settles O30: `decode_encodeBytes` one way, `encodeBytes_decode` the other. -/
theorem decodingAndEncodingAgree : Obligations.DecodingAndEncodingAgree := by
  refine ⟨fun i more h => ⟨decode_encodeBytes h more, ?_⟩, fun bs more i h => encodeBytes_decode h⟩
  cases hn : insOf i with
  | none => simp [Instr.wellFormed, hn] at h
  | some n =>
    rw [encode_words hn]
    cases n.w1 with
    | none => exact .inl rfl
    | some x => exact .inr rfl

/-- Settles O29: the decoder run on each word. -/
theorem wordsOfTheTablesDecodeToTheirInstructions : Obligations.WordsOfTheTablesDecodeToTheirInstructions :=
  ⟨rfl, rfl, rfl, rfl, rfl, rfl, rfl, rfl, rfl⟩

end Sys2Proof.Proofs
end

section
/-! PROOFS. Results on their way to a register: what a read gives until they land, and what landing leaves (R43, R60). -/
namespace Sys2Proof.Proofs

open Sys2Proof Sys2Proof.Machine Sys2Proof.Safety Sys2Proof.Claims

/-! ### Lanes of masks and registers -/

theorem getLsbD_maskOf (f : Nat → Bool) {l : Nat} (hl : l < 32) : (maskOf f).getLsbD l = f l := by
  simp [maskOf, hl]

/-- Each lane of a register after a result that has lost no lane: the result's lanes hold it, the others what they held. -/
theorem lane32_writeW {w : RegW} {n l : Nat} (ht : w.tgt = .v n) (hd : w.dead = 0) (hl : l < 32) (th : Thr) :
    lane32 ((th.writeW w).vreg n).v l = if w.mask.getLsbD l then (lane64 w.v l).setWidth 32 else lane32 (th.vreg n).v l := by
  by_cases hm : w.mask.getLsbD l = true
  · rw [writeW_reaches ht hd hl hm, if_pos hm]
  · rw [if_neg hm, Thr.writeW]
    by_cases h0 : w.mask &&& ~~~w.dead = 0
    · rw [if_pos h0]
    · rw [if_neg h0]
      simp [ht, Thr.vreg, Sparse.get_put_same, lane32_put _ _ _ _ _ _ hl, hm]

/-- A lane of a register with a result on its way is read as it is or as the result gives it (R60). -/
theorem lane32_overlay (ctr place : Nat) (r : VReg) {seq : Nat} {w : RegW} {known : Bool} {l : Nat} (hl : l < 32) :
    lane32 (overlay ctr place r (seq, w, known)).v l = lane32 r.v l ∨
      (w.mask.getLsbD l = true ∧ lane32 (overlay ctr place r (seq, w, known)).v l = (lane64 w.v l).setWidth 32) := by
  simp only [overlay]
  split_ifs
  · exact .inl rfl
  · rw [lane32_put _ _ _ _ _ _ hl, getLsbD_maskOf _ hl]
    split_ifs with h
    · refine .inr ⟨?_, rfl⟩
      simp only [BitVec.getLsbD_and, Bool.and_eq_true] at h
      exact h.1.2.1
    · exact .inl rfl

/-! ### Landing -/

theorem ra_land (th : Thr) (seq : Nat) (w : RegW) : (th.land seq w).ra = th.ra := by
  unfold Thr.land
  split_ifs
  · rfl
  · exact writeW_keeps Thr.ra (fun _ _ => rfl) (fun _ _ => rfl) (fun _ _ => rfl) (fun _ _ => rfl) th w

/-- One fixed-latency write and its flag (R43, R60). -/
def landOne (t : Thr) (p : PendW) : Thr := (p.ws.foldl (fun t w => t.land p.seq w) t).clearFlag p.flag

theorem ra_landOne (t : Thr) (p : PendW) : (landOne t p).ra = t.ra := by
  rw [landOne, Thr.clearFlag_ra]
  exact foldl_keeps Thr.ra _ (fun t w => ra_land t p.seq w) p.ws t

/-- Outside runahead the results that are due land in their order, and the others stay on their way. -/
theorem landDue_awake {th : Thr} (hra : th.ra = none) (clk : Nat) :
    th.landDue clk = (sortBy PendW.before (th.pend.filter fun p => decide (p.due ≤ clk))).foldl landOne
      { th with pend := th.pend.filter fun p => !decide (p.due ≤ clk) } := by
  have hr (l : List PendW) : (l.foldl landOne { th with pend := th.pend.filter fun p => !decide (p.due ≤ clk) }).ra = none :=
    (foldl_keeps Thr.ra landOne ra_landOne l _).trans hra
  have hl := hr (sortBy PendW.before (th.pend.filter fun p => decide (p.due ≤ clk)))
  unfold Thr.landDue
  dsimp only
  split
  · rfl
  · next c hc => exact absurd (hl.symm.trans hc) (by simp)

section
variable {th : Thr} {due seq : Nat} {f : Option Nat} {ws : List RegW} (hra : th.ra = none) (hp : th.pend = [⟨due, seq, f, ws⟩])
include hra hp

theorem landDue_early {clk : Nat} (h : clk < due) : th.landDue clk = th := by
  have now : (th.pend.filter fun p => decide (p.due ≤ clk)) = [] := by simp [hp, h]
  have later : (th.pend.filter fun p => !decide (p.due ≤ clk)) = th.pend := by simp [hp, h]
  rw [landDue_awake hra, now, later]
  rfl

theorem landDue_due {clk : Nat} (h : due ≤ clk) : th.landDue clk = landOne { th with pend := [] } ⟨due, seq, f, ws⟩ := by
  rw [landDue_awake hra, hp]
  simp only [List.filter_cons, List.filter_nil, h, decide_true, Bool.not_true, Bool.false_eq_true, if_true, if_false]
  rfl

end

/-- One result that has lost no lane lands in the lanes it is for; after the last exit it is discarded (R19). -/
theorem lane32_land {w : RegW} {n l : Nat} (ht : w.tgt = .v n) (hd : w.dead = 0) (hl : l < 32) (seq : Nat) (th : Thr) :
    lane32 ((th.land seq w).vreg n).v l =
      if w.mask.getLsbD l ∧ th.alive ≠ 0 then (lane64 w.v l).setWidth 32 else lane32 (th.vreg n).v l := by
  unfold Thr.land
  by_cases ha : th.alive = 0
  · simp [ha]
  · simp only [ha, if_false, ne_eq, not_false_eq_true, and_true]
    exact lane32_writeW ht hd hl th

theorem pend_land {th : Thr} (h : th.pend = []) (seq : Nat) (w : RegW) : (th.land seq w).pend = [] := by
  have hw : (th.writeW w).pend = th.pend :=
    writeW_keeps Thr.pend (fun _ _ => rfl) (fun _ _ => rfl) (fun _ _ => rfl) (fun _ _ => rfl) th w
  unfold Thr.land
  split_ifs
  · exact h
  · simp [Thr.killOlder, hw, h, shadePend]

theorem busy_land (th : Thr) (seq : Nat) (w : RegW) : (th.land seq w).busy = th.busy := by
  unfold Thr.land
  split_ifs
  · rfl
  · exact writeW_keeps Thr.busy (fun _ _ => rfl) (fun _ _ => rfl) (fun _ _ => rfl) (fun _ _ => rfl) th w

/-- With one result on its way to it, a register is read as that result may give it. -/
theorem readV_one {th : Thr} {due seq p : Nat} {f : Option Nat} {w : RegW} (hra : th.ra = none) (ho : th.ops = [])
    (hp : th.pend = [⟨due, seq, f, [w]⟩]) (ht : w.tgt = .v p) (ctr : Nat) :
    th.readV ctr p = overlay ctr p (th.vreg p) (seq, w, true) := by
  simp [Thr.readV, Thr.onTheWay, hp, ho, hra, ht, sortBy, sortBy.insert]

/-- Settles O26: `landDue` before and at the cycle in which the result is due. -/
theorem fixedLatencyResultsLandWhenTheyAreDue : Obligations.FixedLatencyResultsLandWhenTheyAreDue := by
  dsimp only [Obligations.FixedLatencyResultsLandWhenTheyAreDue]
  intro s a due seq p f w hra hops hpend ht hd
  refine ⟨_, rfl, sameBytes_mapThr s a _, State.mapThr_clk .., fun hearly => ?_, fun hdue => ?_⟩
  · rw [State.thr_mapThr_same, landDue_early hra hpend hearly]
    refine ⟨rfl, fun ctr l hl => ?_⟩
    rw [readV_one hra hops hpend ht]
    exact lane32_overlay ctr p _ hl
  · rw [State.thr_mapThr_same, landDue_due hra hpend hdue]
    refine ⟨?_, fun k hk => ?_, fun l hl => ?_⟩
    · rw [landOne, Thr.clearFlag_pend]
      exact pend_land rfl seq w
    · subst hk
      exact congrArg (· &&& ~~~(1#12 <<< k)) (busy_land _ seq w)
    · rw [landOne, Thr.vreg, Thr.clearFlag_regs]
      exact lane32_land ht hd hl seq _

end Sys2Proof.Proofs
end

section
/-! PROOFS. What the source codes of Table 4.3 read (R30, R47, R48, R55). -/
namespace Sys2Proof.Proofs

open Sys2Proof Sys2Proof.Machine Sys2Proof.Safety Sys2Proof.Claims

theorem lane64_perLane (f : Nat → BitVec 64) {l : Nat} (hl : l < 32) : lane64 (perLane f) l = f l := getD_perLane f 0 hl

theorem lane64_map_setWidth (v : List (BitVec 32)) (l : Nat) : lane64 (v.map (·.setWidth 64)) l = (lane32 v l).setWidth 64 := by
  simp only [lane64, lane32, List.getD_eq_getElem?_getD, List.getElem?_map]
  cases v[l]? <;> rfl

theorem setWidth_low32 (x : BitVec 64) : x.setWidth 32 = x.extractLsb' 0 32 := BitVec.setWidth_eq_extractLsb' (by omega)

theorem lane64_replicate (x : BitVec 64) {l : Nat} (hl : l < 32) : lane64 (List.replicate 32 x) l = x := by
  rw [lane64, List.getD_eq_getElem?_getD, List.getElem?_replicate, if_pos hl, Option.getD_some]

theorem lane64_map_zext (v : List (BitVec 64)) (l : Nat) :
    lane64 (v.map (zext 32)) l = ((lane64 v l).extractLsb' 0 32 : BitVec 32).setWidth 64 := by
  simp only [lane64, List.getD_eq_getElem?_getD, List.getElem?_map]
  cases v[l]? with
  | none => rfl
  | some x => exact congrArg (BitVec.setWidth 64) (setWidth_low32 x)

/-! ### Registers with nothing on their way -/

section
variable {th : Thr} (hp : th.pend = []) (ho : th.ops = [])
include hp ho

theorem onTheWay_nothing (t : Tgt) : th.onTheWay t = [] := by
  unfold Thr.onTheWay
  rw [hp, ho]
  split_ifs <;> rfl

theorem readV_nothing (ctr p : Nat) : th.readV ctr p = th.vreg p := by
  rw [Thr.readV, onTheWay_nothing hp ho]; rfl

theorem readS_nothing (ctr k : Nat) : th.readS ctr k = th.sreg k := by
  rw [Thr.readS, onTheWay_nothing hp ho]; rfl

end

/-! ### One equation for each range of codes -/

section
variable (th : Thr) (ctr : Nat) (n : Ins) (uq : BitVec 64) (x : Src)

theorem readSrc_literal (h : x.code.toNat = 0xFF) : th.readSrc ctr n uq x = Opd.const (n.literal th.scalar x.wide x.w1) := by
  simp [Thr.readSrc, h]

theorem readSrc_laneid (h : x.code.toNat = 0xFE) : th.readSrc ctr n uq x =
    if th.scalar then Opd.const 0 else ⟨perLane fun l => BitVec.ofNat 64 l, .A 0 1, 0, 0, 0, none⟩ := by
  simp [Thr.readSrc, h]

theorem readSrc_zero (h : x.code.toNat = 0xFD) : th.readSrc ctr n uq x = Opd.const 0 := by
  simp [Thr.readSrc, h]

theorem readSrc_uq (h : x.code.toNat = 0xFC) : th.readSrc ctr n uq x = Opd.const uq := by
  simp [Thr.readSrc, h]

theorem readSrc_latch {k : Nat} (hk : k < 4) (h : x.code.toNat = 0xF8 + k) :
    th.readSrc ctr n uq x = (th.latches.getD k Latch.invalid).opd th.scalar x.wide k := by
  have h1 : x.code.toNat ≠ 0xFF := by omega
  have h2 : x.code.toNat ≠ 0xFE := by omega
  have h3 : x.code.toNat ≠ 0xFD := by omega
  have h4 : x.code.toNat ≠ 0xFC := by omega
  have h5 : 0xF8 ≤ x.code.toNat := by omega
  have h6 : x.code.toNat - 0xF8 = k := by omega
  simp only [Thr.readSrc, if_neg h1, if_neg h2, if_neg h3, if_neg h4, if_pos h5, h6]

variable {th ctr n uq x}

/-- The source codes below 0xF8 name registers. -/
theorem readSrc_register (h : x.code.toNat < 0xF8) : th.readSrc ctr n uq x =
    if th.scalar then
      ⟨List.replicate 32 (th.readS ctr x.code.toNat).v, .U, if (th.readS ctr x.code.toNat).poison then BitVec.allOnes 32 else 0, 0, 0, none⟩
    else if x.wide then
      let a := th.readV ctr (th.pos x.code.toNat)
      let b := th.readV ctr (th.pos (x.code.toNat + 1))
      ⟨perLane fun l => (lane32 b.v l ++ lane32 a.v l), if a.tag = .U ∧ b.tag = .U then .U else .G,
       a.poison ||| b.poison, a.frost ||| b.frost, 0, none⟩
    else
      let r := th.readV ctr (th.pos x.code.toNat)
      ⟨r.v.map (·.setWidth 64), r.tag, r.poison, r.frost, 0, none⟩ := by
  have h1 : x.code.toNat ≠ 0xFF := by omega
  have h2 : x.code.toNat ≠ 0xFE := by omega
  have h3 : x.code.toNat ≠ 0xFD := by omega
  have h4 : x.code.toNat ≠ 0xFC := by omega
  have h5 : ¬ 0xF8 ≤ x.code.toNat := by omega
  simp only [Thr.readSrc, if_neg h1, if_neg h2, if_neg h3, if_neg h4, if_neg h5]

end

/-- Outside format E a literal is the second word, or its low half for an operand of 32 bits or fewer (R48). -/
theorem literal_word {n : Ins} (h1 : n.row.fmt ≠ .EM) (h2 : n.row.fmt ≠ .EML) (scal wide watched : Bool) :
    n.literal scal wide watched = if wide || !watched then n.w1.getD 0 else ((n.w1.getD 0).setWidth 32).setWidth 64 := by
  unfold Ins.literal
  split
  · next h => exact absurd h h1
  · next h => exact absurd h h2
  · rfl

/-- Settles O25: the equation of `readSrc` for the range that each code lies in. -/
theorem sourceCodesReadWhatTable43Says : Obligations.SourceCodesReadWhatTable43Says := by
  dsimp only [Obligations.SourceCodesReadWhatTable43Says]
  intro th ctr n uq x hp ho
  refine ⟨fun h => readSrc_zero _ _ _ _ _ h, fun h hs => ?_, fun h hs => ?_, fun h => readSrc_uq _ _ _ _ _ h, fun h hw he hl => ?_,
    fun h hw h1 he hl => ?_, fun k hk h => ?_, fun h hs l hl => ?_, fun h hs hw => ?_, fun h hs hw l hl => ?_⟩
  · rw [readSrc_laneid _ _ _ _ _ h, hs]; rfl
  · rw [readSrc_laneid _ _ _ _ _ h, hs]
    exact ⟨rfl, rfl, fun l hl => lane64_perLane _ hl⟩
  · rw [readSrc_literal _ _ _ _ _ h, literal_word he hl, hw]; rfl
  · rw [readSrc_literal _ _ _ _ _ h, literal_word he hl, hw, h1]
    exact congrArg (fun v : BitVec 32 => Opd.const (v.setWidth 64)) (setWidth_low32 _)
  · -- a latch
    rw [readSrc_latch _ _ _ _ _ hk h]
    refine ⟨rfl, rfl, rfl, fun hw l _ => ?_, fun hw hs l _ => ?_, ?_⟩
    · rw [Latch.opd, if_pos (by simpa using hw)]
    · rw [Latch.opd, hw, hs]
      exact lane64_map_zext _ l
    · simp only [Latch.opd, Bool.and_eq_true, Bool.not_eq_true', and_right_comm, and_assoc]
  · simp only [readSrc_register h, hs, if_true, readS_nothing hp ho, lane64_replicate _ hl]
  · simp only [readSrc_register h, hs, hw, Bool.false_eq_true, if_false, readV_nothing hp ho, lane64_map_setWidth]
    exact ⟨trivial, trivial, fun _ _ => trivial⟩
  · simp only [readSrc_register h, hs, hw, Bool.false_eq_true, if_false, if_true, readV_nothing hp ho, lane64_perLane _ hl]

end Sys2Proof.Proofs
end

section
/-! PROOFS. The checks before an instruction, and what one with no active lane leaves (R33, R38, R43, R44, R63, R65, R66). -/
namespace Sys2Proof.Proofs

open Sys2Proof Sys2Proof.Machine Sys2Proof.Safety Sys2Proof.Claims

theorem freeCtr_noted (n : Ins) (x : BitVec 32) (s : State) : (noted n x s).freeCtr = s.freeCtr := by simp [noted, landed]

theorem wsr_noted (n : Ins) (x : BitVec 32) (s : State) : ((noted n x s).thr s.cur).wsr =
    ((landed s).thr s.cur).wsr ||| n.warns ((landed s).thr s.cur).scalar ||| x := by
  rw [noted, State.thr_mapThr_same]

theorem ra_noted (n : Ins) (x : BitVec 32) (s : State) : ((noted n x s).thr s.cur).ra = ((landed s).thr s.cur).ra := by
  rw [noted, State.thr_mapThr_same]

/-! ### The checks (R65) -/

theorem modeBad_scalar {n : Ins} {x : Extra} (h : n.row.mode = .lane ∨ n.c.pred ≠ 0 ∨ n.c.pn = 1) : modeBad n x true = true := by
  rcases h with h | h | h
  · simp [modeBad, h]
  · have h0 : ¬ n.c.pred = 0#3 := h
    simp [modeBad, h0]
  · simp [modeBad, h]

theorem modeBad_lane {n : Ins} {x : Extra} (h : n.row.mode = .scalar) : modeBad n x false = true := by simp [modeBad, h]

theorem earlyTrap_mode {n : Ins} {x : Extra} {th : Thr} (h : modeBad n x th.scalar = true) :
    earlyTrap n x th = some { cause := .mode, lmask := th.present, tval := n.word0 } := if_pos h

theorem earlyTrap_priv {n : Ins} {x : Extra} {th : Thr} (h : modeBad n x th.scalar = false) (hl : th.level < x.lvl.getD n.row.lvl) :
    earlyTrap n x th = some { cause := .priv, lmask := th.present, tval := n.word0 } := by
  rw [earlyTrap, h, if_neg Bool.false_ne_true, if_pos hl]

theorem earlyTrap_none {n : Ins} {x : Extra} {th : Thr} (h : modeBad n x th.scalar = false) (hl : x.lvl.getD n.row.lvl ≤ th.level) :
    earlyTrap n x th = none := by
  rw [earlyTrap, h, if_neg Bool.false_ne_true, if_neg (by omega)]

theorem chainBad_full {n : Ins} {th : Thr} {c : Chain} (hr : n.readsLatch th.scalar = true) (hc : th.chain = some c)
    (h : c.last = true ∨ 8 ≤ c.n) : chainBad n th = true := by
  rcases h with h | h <;> simp [chainBad, hr, hc, h]

/-- A variable-latency word without a flag, or a reader that its chain has no place for, is ILLEGAL. -/
theorem lateTrap_illegal {n : Ins} {x : Extra} {th : Thr} (h : (n.row.cls = .var ∧ n.flag = none) ∨ chainBad n th = true) :
    lateTrap n x th = some { cause := .illegal, lmask := th.present, tval := n.word0 } := by
  refine if_pos ?_
  rcases h with ⟨hv, hf⟩ | h
  · simp [hv, hf]
  · simp [h]

/-! ### No active lane -/

/-- No lane is active where no present lane's predicate bit lets it act. -/
theorem full_none {n : Ins} {a : Agent} {s : State} (hra : (s.thr a).ra = none)
    (h : ∀ l < 32, (s.thr a).present.getLsbD l = true → n.row.noPred = false ∧
      (((s.thr a).readP s.freeCtr n.c.pred.toNat).v.getLsbD l ^^ (n.c.pn == 1 && n.c.pred != 0)) = false) :
    (readOperands n a s).full = 0 := by
  refine BitVec.eq_of_getLsbD_eq fun l hl => ?_
  simp only [readOperands, hra, Option.isSome_none, Bool.false_and, Bool.false_eq_true, if_false, BitVec.getLsbD_and]
  by_cases hp : (s.thr a).present.getLsbD l = true
  · obtain ⟨hn, hb⟩ := h l hl hp
    have h0 : n.c.pred ≠ 0 := by
      intro h0
      rw [h0, Bool.and_comm, show ((0 : BitVec 3) != 0) = false from rfl, Bool.false_and, Bool.xor_false] at hb
      have all : (((s.thr a).readP s.freeCtr (0 : BitVec 3).toNat).v).getLsbD l = true := by
        show (BitVec.allOnes 32).getLsbD l = true
        rw [BitVec.getLsbD_allOnes, decide_eq_true hl]
      exact Bool.noConfusion (all.symm.trans hb)
    rw [if_neg (by rintro (h | h) <;> simp_all)]
    rw [bne_iff_ne.mpr h0, Bool.and_true] at hb
    by_cases h1 : n.c.pn = 1
    · rw [beq_iff_eq.mpr h1, Bool.xor_true, Bool.not_eq_false'] at hb
      rw [if_pos h1, BitVec.getLsbD_not, hb]
      simp
    · rw [beq_eq_false_iff_ne.mpr h1, Bool.xor_false] at hb
      rw [if_neg h1, hb]
      simp
  · simp [hp]

/-- What an instruction with no active lane leaves, in the terms of the statements. -/
theorem skip_eq {n : Ins} {g : Go} {s u : State} (hn : g.n = n) (hcur : u.cur = s.cur) (hclk : u.clk = s.clk) :
    skip n g u =
      (if n.readsUq g.scal = true ∧ (u.uqNext s.cur).isSome = true then u.consumeUq s.cur else u).mapThr s.cur fun th =>
        let w := sends n s.clk 1 [] th
        goesOn g { w with
          chain := nextChain n g.addr 0 (u.thr s.cur) w
          seq := w.seq + 1
          lastIssue := some s.clk
          latches := Latch.invalid :: (if n.readsLatch g.scal then w.latches else List.replicate 4 Latch.invalid).take 3
          latchDeps := [] :: w.latchDeps.take 3 } := by
  subst hn
  have hc : (if g.n.readsUq g.scal = true ∧ (u.uqNext s.cur).isSome = true then u.consumeUq s.cur else u).clk = s.clk := by
    split
    · exact (Laws.clk_consumeUq _ _).trans hclk
    · exact hclk
  unfold skip
  simp only [hcur, Bool.and_eq_true, hc, Laws.sends_eq]
  congr 1
  funext th
  cases g.n.readsLatch g.scal <;> rfl

/-- Settles O24: the branch of the shared path that each check takes, and `skip` where no lane is active. -/
theorem checksComeInOrderAndNoActiveLaneMeansNoEffect : Obligations.ChecksComeInOrderAndNoActiveLaneMeansNoEffect := by
  dsimp only [Obligations.ChecksComeInOrderAndNoActiveLaneMeansNoEffect]
  refine ⟨fun n x body s fl hra hm hb => ⟨fun hs h => ?_, fun hs h => ?_, fun h hl => ?_, fun h hl hill => ?_, wsr_noted n x.warn s⟩,
    fun n x body s fl hra he hl hp => ?_⟩
  · exact Laws.issue_early hra (earlyTrap_mode (by rw [hs]; exact modeBad_scalar h)) body fl
  · exact Laws.issue_early hra (earlyTrap_mode (by rw [hs]; exact modeBad_lane h)) body fl
  · exact Laws.issue_early hra (earlyTrap_priv h hl) body fl
  · refine Laws.issue_late hra (earlyTrap_none h hl) (lateTrap_illegal (hill.imp_right ?_)) body fl
    exact fun ⟨hr, c, hc, hfull⟩ => chainBad_full hr hc hfull
  · have hfull : (sight n x.warn s).full = 0 := full_none ((ra_noted ..).trans hra) (by rw [freeCtr_noted]; exact hp)
    rw [Laws.issue_skip hra he hl hfull]
    exact skip_eq rfl (Laws.cur_noted n x.warn s) (Laws.clk_noted n x.warn s)

end Sys2Proof.Proofs
end

section
/-! PROOFS. A step is a next state or meets memory that does not exist; it is never refused (R298, R301). -/
namespace Sys2Proof.Proofs

open Sys2Proof Sys2Proof.Machine Sys2Proof.Safety Sys2Proof.Claims

/-- A next state, or the fault of an address where no memory is. -/
inductive NextOrHole : Out → Prop where
  | next (t : State) : NextOrHole (.next t)
  | hole : NextOrHole (.fault .noSuchMemory)

theorem NextOrHole.cases {o : Out} (h : NextOrHole o) : (∃ t, o = .next t) ∨ o = .fault .noSuchMemory := by
  cases h with
  | next t => exact .inl ⟨t, rfl⟩
  | hole => exact .inr rfl

/-! ### The shared paths -/

theorem issueM_nextOrHole (n : Ins) (x : Extra) (plan : Mask → Go → State → Plan) (body : Plan → Body) (s : State) :
    NextOrHole (issueM n x plan body s) := by
  unfold issueM
  dsimp only
  split <;> constructor

theorem issueRead_nextOrHole (n : Ins) (x : Extra) (hole : Go → State → Bool) (body : Body) (s : State) :
    NextOrHole (issueRead n x hole body s) := by
  unfold issueRead
  dsimp only
  split <;> constructor

theorem firmwareCall_nextOrHole (h : CallHdr) (code : Byte → Bool) (least : Nat) (body : State → Verdict) (s : State) :
    NextOrHole (firmwareCall h code least body s) := by
  unfold firmwareCall
  dsimp only
  repeat' first | constructor | split

theorem serveHead_nextOrHole (die : Nat) (p : TapItem → Bool) (s : State) : NextOrHole (serveHead die p s) := by
  unfold serveHead
  dsimp only
  repeat' first | constructor | split

theorem chainStep_nextOrHole (q : Nat) (op : Nat → Bool) {f : List Byte → State → Out} (hf : ∀ bs s, NextOrHole (f bs s)) (s : State) :
    NextOrHole (chainStep q op f s) := by
  unfold chainStep
  repeat' first | constructor | exact hf _ _ | split

theorem completeRequest_nextOrHole (s : State) (a : Agent) (o : VOp) (q : TapReq) (ws : List RegW) :
    NextOrHole (completeRequest s a o q ws) := by
  unfold completeRequest
  dsimp only
  repeat' first | constructor | split

theorem completeOp_nextOrHole (s : State) (a : Agent) (o : VOp) : NextOrHole (s.completeOp a o) := by
  unfold State.completeOp
  dsimp only
  repeat' first | constructor | exact completeRequest_nextOrHole _ _ _ _ _ | split

theorem variableOpComplete_nextOrHole (a : Agent) (k : Nat) (s : State) : NextOrHole (execVariableOpComplete a k s) := by
  unfold execVariableOpComplete
  dsimp only
  repeat' first | constructor | exact completeOp_nextOrHole _ _ _ | split


/-- One case for each instruction and event: those that reach memory by a path of their own above, those that choose between next
states, and those that give one next state whatever they find. -/
theorem exec_nextOrHole (i : Instr) (s : State) : NextOrHole (exec i s) := by
  cases i
  case ld | st | lds | sts | atom | cas | atoms | hld | hst => exact issueM_nextOrHole _ _ _ _ _
  case tlaunch | pgev =>
    dsimp only [exec, execTlaunch, execPgev]
    exact issueRead_nextOrHole _ _ _ _ _
  case map | unmap | region | keydel | preempt | partConfig | extent | unknownCall =>
    dsimp only [exec, execUnknownCall]
    exact firmwareCall_nextOrHole _ _ _ _ _
  case keynew h id key =>
    cases hs : h.session with
    | none => simpa only [exec, execKeynew, hs] using firmwareCall_nextOrHole h _ 1 _ s
    | some k => simpa only [exec, execKeynew, hs] using NextOrHole.next _
  case tapCommandServe | backgroundEncode | rowFate => exact serveHead_nextOrHole _ _ _
  case variableOpComplete => exact variableOpComplete_nextOrHole _ _ _
  case chainWait | chainInvalidOp =>
    dsimp only [exec, execChainWait, execChainInvalidOp]
    exact chainStep_nextOrHole _ _ (fun _ _ => .next _) s
  case chainLaunch =>
    dsimp only [exec, execChainLaunch]
    refine chainStep_nextOrHole _ _ (fun bs s => ?_) s
    repeat' first | constructor | split
  case chainSignal =>
    dsimp only [exec, execChainSignal]
    repeat' first | constructor | exact chainStep_nextOrHole _ _ (fun _ _ => .next _) s | split
  case headerPass | blockingOpComplete | groupEnd | teamRetire | latchPinRelease | runaheadEntry | runaheadLimit | thaw | fibreScanner
      | stealRequest | equinoxStop | solsticeSave | controlCoreSave | swapOut | sqeFillRead | fillComplete | fillReadFail |
      nvmeReadTimeout | harvestFree | registerDeadlock | matrixEngineTurn | engineCommandComplete | tail | waitEntryFinish |
      launchFinish | controlProgramStart | unsupportedRequest | finperFlit | finperReplay | linkRetrain | thermalShutdown =>
    dsimp only [exec, execHeaderPass, execBlockingOpComplete, execGroupEnd, execTeamRetire, execLatchPinRelease, execRunaheadEntry,
      execRunaheadLimit, execThaw, execFibreScanner, execStealRequest, execEquinoxStop, execSolsticeSave,
      execControlCoreSave, execSwapOut, execSqeFillRead, execFillComplete, execFillReadFail, execNvmeReadTimeout,
      execHarvestFree, execRegisterDeadlock, execMatrixEngineTurn, execEngineCommandComplete, execTail,
      execWaitEntryFinish, execLaunchFinish, execControlProgramStart, execUnsupportedRequest, execFinperFlit,
      execFinperReplay, execLinkRetrain, execThermalShutdown, serveSpdm]
    repeat' first | constructor | split
  all_goals exact .next _

theorem hostAct_nextOrHole (s : State) (h : HostAct) : NextOrHole (s.hostAct h) := by
  cases h <;> exact .next _

theorem run_nextOrHole (g : Given) : NextOrHole g.run := by
  cases g with
  | next s => exact .next s
  | exec i s => exact exec_nextOrHole i s
  | hole => exact .hole

theorem turn_nextOrHole (s : State) (t : Turn) : NextOrHole (s.turn t) := by
  cases t with
  | tick => exact .next _
  | quarter c q => exact run_nextOrHole _
  | control q => exact run_nextOrHole _
  | event i =>
    dsimp only [State.turn]
    split
    · exact exec_nextOrHole i s
    · exact .next s
  | host h => exact hostAct_nextOrHole s h

theorem step_nextOrHole (s : State) : NextOrHole (Sys2Proof.Machine.step s) := turn_nextOrHole _ _

end Sys2Proof.Proofs
end

section
/-! PROOFS. Where a translation names no memory, who meets that, and what each turn of a step is (R40, R298, R301). -/
namespace Sys2Proof.Proofs

open Sys2Proof Sys2Proof.Machine Sys2Proof.Safety Sys2Proof.Claims

/-! ### Regions and walks (R295, R298) -/

theorem inRegion_iff (a n : Nat) : inRegion a n = true ↔ Lies a n := by
  simp [inRegion, Config.regions, Lies]

theorem not_lies {a n : Nat} (h : (!inRegion a n) = true) : ¬Lies a n := by
  rw [← inRegion_iff]
  simpa using h

/-- A descent meets no memory at its first entry, or goes on through a table entry and meets none below. -/
theorem walkFrom_hole {s : State} {part va sh bits node : Nat} {ps : Option Nat} {rest : List (Nat × Nat × Option Nat)}
    (h : s.walkFrom part va ((sh, bits, ps) :: rest) node = .hole) :
    ¬Lies (node + 16 * bitsOf va sh bits) 16 ∨ ∃ up, Leaf.v (s.leafAt part up) = true ∧ Leaf.ps (s.leafAt part up) = 3 ∧
      s.walkFrom part va rest (bitsOf (s.leafAt part up).toNat 64 50) = .hole := by
  simp only [State.walkFrom] at h
  split_ifs at h with hr hv hp hl
  · exact .inl (not_lies hr)
  · exact .inr ⟨_, by simpa using hv, hp, h⟩

/-- A walk from a root meets no memory at the root's entry, or at an entry that a table entry names. -/
theorem walkFrom_levels_hole {s : State} {part va node : Nat} (h : s.walkFrom part va levels node = .hole) :
    ¬Lies (node + 16 * bitsOf va 39 13) 16 ∨ ∃ up sh, Leaf.v (s.leafAt part up) = true ∧ Leaf.ps (s.leafAt part up) = 3 ∧
      (sh = 30 ∨ sh = 21 ∨ sh = 16) ∧
      ¬Lies (bitsOf (s.leafAt part up).toNat 64 50 + 16 * bitsOf va sh (if sh = 16 then 5 else 9)) 16 := by
  refine (walkFrom_hole h).imp_right fun ⟨u0, v0, p0, h0⟩ => ?_
  rcases walkFrom_hole h0 with l1 | ⟨u1, v1, p1, h1⟩
  · exact ⟨u0, 30, v0, p0, .inl rfl, l1⟩
  rcases walkFrom_hole h1 with l2 | ⟨u2, v2, p2, h2⟩
  · exact ⟨u1, 21, v1, p1, .inr (.inl rfl), l2⟩
  rcases walkFrom_hole h2 with l3 | ⟨u3, v3, p3, h3⟩
  · exact ⟨u2, 16, v2, p2, .inr (.inr rfl), l3⟩
  · cases h3

/-- Where the leaf of an address is a hole, the walk is (R304). -/
theorem walk_of_leafOf_hole {s : State} {w : Who} {need : Need} {va : Nat} {b : Bool} (h : s.leafOf w need va = (.hole, b)) :
    s.walk w.qif va = .hole := by
  unfold State.leafOf at h
  split at h
  · split_ifs at h
    · exact congrArg Prod.fst h
    · cases h
  · exact congrArg Prod.fst h

theorem translate_hole {s : State} {w : Who} {acc : Access} {va : Nat} (h : s.translate w acc va = .hole) :
    s.walk w.qif va = .hole ∨ ∃ l pte b, s.leafOf w acc.need va = (.leaf l pte, b) ∧
      ¬Lies (canon (s.frameOf w.part acc.slot acc.back l * 65536 + va % 2 ^ pageBits (Leaf.ps l))) 1 := by
  unfold State.translate at h
  split_ifs at h with hva
  split at h
  · next b hl => exact .inl (walk_of_leafOf_hole hl)
  · cases h
  · next l pte b hl =>
    dsimp only at h
    split_ifs at h with _ _ _ _ _ hr
    exact .inr ⟨l, pte, b, hl, not_lies hr⟩

/-! ### Fetches (R22, R297) -/

theorem readVirtFrom_hole {s : State} {w : Who} {acc : Access} {fuel va n : Nat} (h : s.readVirtFrom w acc fuel va n = .hole) :
    ∃ x, s.translate w acc x = .hole := by
  induction fuel generalizing va n with
  | zero => cases h
  | succ fuel ih =>
    simp only [State.readVirtFrom] at h
    split_ifs at h with hn
    split at h
    · cases h
    · cases h
    · next ht => exact ⟨va, ht⟩
    · split at h
      · cases h
      · exact ih h

theorem fetchNat_hole {s : State} {a : Agent} {pc n : Nat} (h : s.fetchNat a pc n = .hole) :
    ∃ va, s.translate (s.who a) ⟨.fetch, 0, 0, false⟩ va = .hole := by
  unfold State.fetchNat at h
  split at h
  · split_ifs at h
  · cases h
  · split_ifs at h
  · next hr => exact readVirtFrom_hole hr

theorem wordsAt_ne_hole (w : BitVec 64) (w1 : Option (BitVec 64)) : wordsAt w w1 ≠ .hole := by
  unfold wordsAt
  split
  · split <;> simp
  · simp

theorem decodeAt_hole {s : State} {a : Agent} {pc : Nat} (h : s.decodeAt a pc = .hole) :
    ∃ va, s.translate (s.who a) ⟨.fetch, 0, 0, false⟩ va = .hole := by
  unfold State.decodeAt at h
  split at h
  · cases h
  · cases h
  · next hf => exact fetchNat_hole hf
  · dsimp only at h
    split_ifs at h
    · split at h
      · cases h
      · cases h
      · next hf => exact fetchNat_hole hf
      · exact absurd h (wordsAt_ne_hole _ _)
    · exact absurd h (wordsAt_ne_hole _ _)

theorem bitmapMiss_ne_hole (s : State) (a : Agent) (pc pte : Nat) : s.bitmapMiss a pc pte ≠ .hole := by
  unfold State.bitmapMiss
  split_ifs <;> simp

theorem atIssue_hole {s : State} {a : Agent} (h : s.atIssue a = .hole) :
    ∃ va, s.translate (s.who a) ⟨.fetch, 0, 0, false⟩ va = .hole := by
  unfold State.atIssue at h
  dsimp only at h
  split at h
  · cases h
  split at h
  · exact absurd h (bitmapMiss_ne_hole _ _ _ _)
  split at h
  · cases h
  split at h
  · split at h
    · exact absurd h (bitmapMiss_ne_hole _ _ _ _)
    · cases h
  split at h
  · split_ifs at h
    exact decodeAt_hole h
  · cases h
  · next hf => exact fetchNat_hole hf
  · cases h

/-! ### Accesses (R144) -/

theorem laneCheck_hole {s : State} {wh : Who} {need : Need} {h : BitVec 128} {w l e : Nat} (hh : s.laneCheck wh need h w l e = .hole) :
    ∃ acc va, s.translate wh acc va = .hole := by
  unfold State.laneCheck at hh
  dsimp only at hh
  split_ifs at hh
  all_goals
    split at hh
    · next ht => exact ⟨_, _, ht⟩
    · cases hh
    · split_ifs at hh
    · split_ifs at hh

/-- What one lane adds to a plan. -/
def addLane (f : Nat → LaneR) (p : Plan) (l : Nat) : Plan :=
  match f l with
  | .el e va => { p with els := p.els ++ [(e, va)] }
  | .trap c v => { p with traps := p.traps ++ [{ cause := c, lmask := 1 <<< l, tval := BitVec.ofNat 64 v }] }
  | .absent pte va => { p with absent := p.absent ++ [(pte, va, l)] }
  | .hole => { p with hole := true }

theorem planOf_eq (m : Mask) (f : Nat → LaneR) : planOf m f = (lanesOf m).foldl (addLane f) ⟨[], [], [], false⟩ := rfl

theorem addLane_hole {f : Nat → LaneR} {p : Plan} {l : Nat} (h : (addLane f p l).hole = true) : p.hole = true ∨ f l = .hole := by
  unfold addLane at h
  split at h
  · exact .inl h
  · exact .inl h
  · exact .inl h
  · next hl => exact .inr hl

theorem foldl_addLane_hole {f : Nat → LaneR} {ls : List Nat} {p : Plan} (h : (ls.foldl (addLane f) p).hole = true) :
    p.hole = true ∨ ∃ l, f l = .hole := by
  induction ls generalizing p with
  | nil => exact .inl h
  | cons l ls ih =>
    rcases ih h with hp | hl
    · exact (addLane_hole hp).imp_right fun hl => ⟨l, hl⟩
    · exact .inr hl

theorem planOf_hole {m : Mask} {f : Nat → LaneR} (h : (planOf m f).hole = true) : ∃ l, f l = .hole := by
  rw [planOf_eq] at h
  exact (foldl_addLane_hole h).resolve_left (by simp)

theorem planM_hole {need : Need} {w : Go → Nat} {m : Mask} {g : Go} {s : State} (h : (planM need w m g s).hole = true) :
    ∃ acc va, s.translate (s.who s.cur) acc va = .hole := by
  obtain ⟨l, hl⟩ := planOf_hole h
  exact laneCheck_hole hl

theorem planH_hole {need : Need} {m : Mask} {g : Go} {s : State} (h : (planH need m g s).hole = true) :
    ∃ acc va, s.translate (s.who s.cur) acc va = .hole := by
  unfold planH at h
  split_ifs at h with hm
  dsimp only at h
  split at h
  · cases h
  · cases h
  · cases h
  · next hc =>
    split_ifs at hc
    exact laneCheck_hole hc

/-- The shared path of an access meets no memory only in its plan. -/
theorem issueM_fault {n : Ins} {x : Extra} {plan : Mask → Go → State → Plan} {body : Plan → Body} {s : State}
    (h : issueM n x plan body s = .fault .noSuchMemory) : ∃ m g, (plan m g (landed s)).hole = true := by
  unfold issueM at h
  dsimp only at h
  split at h
  · next hc =>
    simp only [Bool.and_eq_true] at hc
    exact ⟨_, _, hc.1.2⟩
  · cases h

theorem landed_translate_hole_of_plan {s : State} {plan : Mask → Go → State → Plan} {n : Ins} {x : Extra} {body : Plan → Body}
    (hp : ∀ m g u, (plan m g u).hole = true → ∃ acc va, u.translate (u.who u.cur) acc va = .hole)
    (h : issueM n x plan body s = .fault .noSuchMemory) :
    ∃ acc va, (landed s).translate ((landed s).who s.cur) acc va = .hole := by
  obtain ⟨m, g, hg⟩ := issueM_fault h
  simpa only [Laws.cur_landed] using hp m g _ hg

theorem planM_access_hole {s : State} {n : Ins} {x : Extra} {need : Need} {w : Go → Nat} {body : Plan → Body}
    (h : issueM n x (planM need w) body s = .fault .noSuchMemory) :
    ∃ acc va, (landed s).translate ((landed s).who s.cur) acc va = .hole :=
  landed_translate_hole_of_plan (fun _ _ _ => planM_hole) h

theorem planH_access_hole {s : State} {n : Ins} {x : Extra} {need : Need} {body : Plan → Body}
    (h : issueM n x (planH need) body s = .fault .noSuchMemory) :
    ∃ acc va, (landed s).translate ((landed s).who s.cur) acc va = .hole :=
  landed_translate_hole_of_plan (fun _ _ _ => planH_hole) h

theorem access_hole {s : State} {i : Instr} (hi : (∃ c m, i = .ld c m) ∨ (∃ c m, i = .st c m) ∨ (∃ c m, i = .atom c m) ∨
    (∃ c m, i = .hld c m) ∨ (∃ c m, i = .hst c m)) (h : exec i s = .fault .noSuchMemory) :
    ∃ acc va, (landed s).translate ((landed s).who s.cur) acc va = .hole := by
  obtain ⟨c, m, rfl⟩ | ⟨c, m, rfl⟩ | ⟨c, m, rfl⟩ | ⟨c, m, rfl⟩ | ⟨c, m, rfl⟩ := hi
  · simp only [exec, execLd] at h
    exact planM_access_hole h
  · simp only [exec, execSt] at h
    exact planM_access_hole h
  · simp only [exec, execAtom] at h
    exact planM_access_hole h
  · simp only [exec, execHld] at h
    exact planH_access_hole h
  · simp only [exec, execHst] at h
    exact planH_access_hole h

/-! ### The turns of a step -/

theorem step_cons {s : State} {t : Turn} {rest : List Turn} (h : s.agenda = t :: rest) :
    Sys2Proof.Machine.step s = ({ s with agenda := rest, freeCtr := s.freeCtr + 1 } : State).turn t := by
  unfold Sys2Proof.Machine.step State.takeTurn
  rw [h]

theorem step_nil {s : State} (h : s.agenda = []) :
    Sys2Proof.Machine.step s = ({ s with freeCtr := s.freeCtr + 1 } : State).turn (Config.nextTurn s.freeCtr) := by
  unfold Sys2Proof.Machine.step State.takeTurn
  rw [h]

theorem turn_event (s : State) {i : Instr} (h : insOf i = none) : s.turn (.event i) = exec i s := by
  simp [State.turn, h]

theorem turn_wordInstr (s : State) {i : Instr} (h : (insOf i).isSome = true) : s.turn (.event i) = .next s := by
  obtain ⟨n, hn⟩ := Option.isSome_iff_exists.mp h
  simp [State.turn, hn]

/-! A cycle that passes leaves memory alone and counts one (log entry 7). -/

theorem extend_keeps {γ : Type} (p : State → γ) (h : ∀ (s : State) m, p { s with measure := m } = p s) (s : State) (l : List Nat) :
    p (s.extend l) = p s := foldl_keeps p _ (fun s _ => h s _) l s

theorem clk_bootStep (s : State) : s.bootStep.clk = s.clk := by
  unfold State.bootStep
  dsimp only
  split <;> exact extend_keeps State.clk (fun _ _ => rfl) s _

theorem mem_bootStep (s : State) : s.bootStep.mem = s.mem := by
  unfold State.bootStep
  dsimp only
  split <;> exact extend_keeps State.mem (fun _ _ => rfl) s _

theorem mem_countSlot (s : State) (core leaf : Nat) (a : Option Agent) : (s.countSlot core leaf a).mem = s.mem := by
  cases a <;> rfl

theorem mem_chargeIdle (s : State) : s.chargeIdle.mem = s.mem := by
  refine foldl_keeps State.mem _ (fun u c => ?_) _ s
  refine foldl_keeps State.mem _ (fun v q => ?_) _ u
  split_ifs
  · rfl
  · exact mem_countSlot _ _ _ _

/-- The step of bring-up that a cycle may end (R378). -/
def boots (s : State) : State := if !s.booted && Config.freeBit s.freeCtr 840000 0 then s.bootStep else s

theorem clk_tick (s : State) : s.tick.clk = s.clk + 1 := by
  change (boots s).clk + 1 = _
  unfold boots
  split_ifs
  · rw [clk_bootStep]
  · rfl

theorem mem_tick (s : State) : s.tick.mem = s.mem := by
  change (boots s).chargeIdle.mem = _
  rw [mem_chargeIdle]
  unfold boots
  split_ifs
  · exact mem_bootStep s
  · rfl

/-- Settles O32: one equation for each kind of turn, and one lemma for each place where memory that does not exist can be met. -/
theorem aStepRunsTheNextTurnAndIsNeverRefused : Obligations.AStepRunsTheNextTurnAndIsNeverRefused := by
  unfold Obligations.AStepRunsTheNextTurnAndIsNeverRefused
  refine ⟨fun s rest i => ⟨fun h hi => ?_, fun h hi => ?_, fun a h => step_cons h, fun h => ?_, step_nil⟩,
    fun s w acc va => translate_hole, fun s part va node => walkFrom_levels_hole, fun s i => access_hole,
    fun u a => atIssue_hole, fun s i => (exec_nextOrHole i s).cases, fun s => (step_nextOrHole s).cases⟩
  · rw [step_cons h, turn_event _ hi]
  · rw [step_cons h, turn_wordInstr _ hi]
  · exact ⟨_, step_cons h, clk_tick _, mem_tick _⟩

end Sys2Proof.Proofs
end

section
/-! PROOFS. What ends each wait of a blocking instruction, and what its end leaves (R59, R196 to R200, R264, R266, R339 to R341, R357). -/
namespace Sys2Proof.Proofs

open Sys2Proof Sys2Proof.Machine Sys2Proof.Safety Sys2Proof.Claims

/-! ### The event (R59) -/

theorem exec_blockingOpComplete (a : Agent) (s : State) : exec (.blockingOpComplete a) s = execBlockingOpComplete a s := rfl

section
variable {s : State} {a : Agent} {w : Wait}
  (hw : ((s.mapThr a (Thr.landDue s.clk)).thr a).wait = some w) (hs : (s.mapThr a (Thr.landDue s.clk)).standing a = true)
include hw hs

theorem blocking_waits (h : (s.mapThr a (Thr.landDue s.clk)).tryHold a w.hold = .wait) :
    exec (.blockingOpComplete a) s = .next (s.mapThr a (Thr.landDue s.clk)) := by
  simp only [exec_blockingOpComplete, execBlockingOpComplete, hw, hs, h, Bool.not_true, Bool.false_eq_true, if_false]

theorem blocking_further {v : State} (h : (s.mapThr a (Thr.landDue s.clk)).tryHold a w.hold = .further v) :
    exec (.blockingOpComplete a) s = .next v := by
  simp only [exec_blockingOpComplete, execBlockingOpComplete, hw, hs, h, Bool.not_true, Bool.false_eq_true, if_false]

theorem blocking_done {v : State} {ws : List RegW} (h : (s.mapThr a (Thr.landDue s.clk)).tryHold a w.hold = .done v ws) :
    exec (.blockingOpComplete a) s = .next (waitOver a w ws v) := by
  simp only [exec_blockingOpComplete, execBlockingOpComplete, hw, hs, h, Bool.not_true, Bool.false_eq_true, if_false, waitOver]

theorem blocking_trap {t : Trap} (h : (s.mapThr a (Thr.landDue s.clk)).tryHold a w.hold = .trap t) :
    let u := s.mapThr a (Thr.landDue s.clk)
    let v := u.mapThr a (Thr.endWait w [])
    ((u.thr a).handler = true → exec (.blockingOpComplete a) s = .next (v.mapThr a fun th => (th.holdCause t).advance th.present w.len)) ∧
    ((u.thr a).handler = false → exec (.blockingOpComplete a) s =
      .next (v.takeTrap a w.len (((u.thr a).chain.map fun c => decide (0 < c.n)).getD false) t)) := by
  refine ⟨fun hh => ?_, fun hh => ?_⟩
  · simp only [exec_blockingOpComplete, execBlockingOpComplete, hw, hs, h, hh, Bool.not_true, Bool.false_eq_true, if_false, if_true]
  · simp only [exec_blockingOpComplete, execBlockingOpComplete, hw, hs, h, hh, Bool.not_true, Bool.false_eq_true, if_false]
    cases hc : ((s.mapThr a (Thr.landDue s.clk)).thr a).chain <;>
      simp only [Option.map_none, Option.map_some, Option.getD_none, Option.getD_some]

end

/-! ### What the end of a wait leaves -/

theorem wait_land (th : Thr) (seq : Nat) (w : RegW) : (th.land seq w).wait = th.wait := by
  unfold Thr.land
  split_ifs
  · rfl
  · exact writeW_keeps Thr.wait (fun _ _ => rfl) (fun _ _ => rfl) (fun _ _ => rfl) (fun _ _ => rfl) th w

theorem pcv_land (th : Thr) (seq : Nat) (w : RegW) : (th.land seq w).pcv = th.pcv := by
  unfold Thr.land
  split_ifs
  · rfl
  · exact writeW_keeps Thr.pcv (fun _ _ => rfl) (fun _ _ => rfl) (fun _ _ => rfl) (fun _ _ => rfl) th w

theorem wait_endWait (w : Wait) (ws : List RegW) (th : Thr) : (th.endWait w ws).wait = none :=
  foldl_keeps Thr.wait _ (fun t r => wait_land t _ r) ws _

theorem pcv_endWait (w : Wait) (ws : List RegW) (th : Thr) : (th.endWait w ws).pcv = th.pcv := by
  refine (foldl_keeps Thr.pcv _ (fun t r => pcv_land t _ r) ws _).trans ?_
  exact Thr.clearFlag_pcv ..

theorem thr_waitOver (a : Agent) (w : Wait) (ws : List RegW) (v : State) :
    (waitOver a w ws v).thr a = ((v.thr a).endWait w ws).advance (v.thr a).present w.len := by
  rw [waitOver, State.thr_mapThr_same]

theorem getD_pcv_advance (th : Thr) (m : Mask) (words : Nat) {l : Nat} (hl : l < th.pcv.length) :
    (th.advance m words).pcv.getD l exitedPc =
      if m.getLsbD l then th.pcv.getD l exitedPc + BitVec.ofNat 48 (8 * words) else th.pcv.getD l exitedPc := by
  simp [Thr.advance, Thr.setPc, hl]

/-! ### Accesses in flight (R196) -/

/-- Whether a thread has a load or atomic in flight. -/
def loading (th : Thr) : Bool := th.ops.any fun o => o.kind.reads

/-- Whether a thread has a store or atomic in flight. -/
def storing (th : Thr) : Bool := th.ops.any fun o => o.kind.writes

/-- What a fence of kind `k` still waits for, as the kinds of the accesses in flight say it. -/
def fenceLeft (k : Nat) (alone loads stores : Bool) : Bool :=
  if k = 0 then loads || (stores && !alone) else if k = 1 then loads else stores && !alone

theorem fenced_eq (th : Thr) (k : Nat) (alone : Bool) : th.fenced k alone = !fenceLeft k alone (loading th) (storing th) := by
  unfold Thr.fenced fenceLeft loading storing
  rw [Bool.eq_iff_iff]
  match k with
  | 0 => cases alone <;> simp [forall_and]
  | 1 => simp
  | k + 2 => cases alone <;> simp

theorem fenced_full (th : Thr) : th.fenced 0 = (!loading th && !storing th) := by
  rw [fenced_eq]
  simp [fenceLeft]

theorem fenced_acq (th : Thr) : th.fenced 1 = !loading th := fenced_eq th 1 false

theorem fenced_full_eq_false {th : Thr} (h : loading th = true ∨ storing th = true) : th.fenced 0 = false := by
  rw [fenced_full]
  rcases h with h | h <;> simp [h]

theorem fenced_full_eq_true {th : Thr} (hl : loading th = false) (hs : storing th = false) : th.fenced 0 = true := by
  simp [fenced_full, hl, hs]

theorem tryFence_left {k sc : Nat} {u : State} {a : Agent}
    (h : fenceLeft k (aloneIn a sc) (loading (u.thr a)) (storing (u.thr a)) = true) : u.tryFence k sc a = .wait := by
  simp [State.tryFence, fenced_eq, h]

theorem tryFence_done {k sc : Nat} {u : State} {a : Agent}
    (h : fenceLeft k (aloneIn a sc) (loading (u.thr a)) (storing (u.thr a)) = false) :
    u.tryFence k sc a = .done (u.mapThr a fun th => (if k = 1 then th else th.noteFence k sc).passFence k sc) [] := by
  simp [State.tryFence, fenced_eq, h]

/-! ### Barriers (R197 to R199) -/

/-- What a wait in a barrier takes with it when it ends. -/
def acquired (v : State) (a : Agent) (sc id k : Nat) (toks : List (BitVec 32)) : State :=
  (v.acquire a sc).join a sc (v.barReleased a sc id k toks)

/-- The phase of each token has passed. -/
def Past (u : State) (a : Agent) (sc id k : Nat) (toks : List (BitVec 32)) : Prop :=
  ∀ tok ∈ toks, 0 < (u.phase a sc id k - tok).toInt

theorem all_phasePast {u : State} {a : Agent} {sc id k : Nat} {toks : List (BitVec 32)} :
    toks.all (phasePast (u.phase a sc id k)) = true ↔ Past u a sc id k toks := by
  simp [phasePast, Past]

theorem past_singleton {u : State} {a : Agent} {sc id k : Nat} {tok : BitVec 32} :
    Past u a sc id k [tok] ↔ 0 < (u.phase a sc id k - tok).toInt := by
  simp [Past]

theorem tryBarrier_done {u : State} {a : Agent} {sc id k : Nat} {toks : List (BitVec 32)} (hp : Past u a sc id k toks)
    (hl : loading (u.thr a) = false) : u.tryBarrier sc id k toks a = .done (acquired u a sc id k toks) [] := by
  simp [State.tryBarrier, all_phasePast.mpr hp, fenced_acq, hl, acquired]

theorem tryBarrier_wait {u : State} {a : Agent} {sc id k : Nat} {toks : List (BitVec 32)}
    (h : ¬Past u a sc id k toks ∨ loading (u.thr a) = true) : u.tryBarrier sc id k toks a = .wait := by
  unfold State.tryBarrier
  rw [if_neg]
  rw [Bool.and_eq_true, all_phasePast, fenced_acq]
  rintro ⟨hp, hl⟩
  rcases h with h | h
  · exact h hp
  · simp [h] at hl

/-- An arrival changes barriers only: the thread that arrives stays as it is. -/
theorem thr_arrive (u : State) (a : Agent) (sc id n : Nat) : (u.arrive a sc id n).thr a = u.thr a := by
  cases a with
  | ctl q => rfl
  | grp t g =>
    unfold State.arrive
    dsimp only
    by_cases h2 : sc = 2
    · rw [if_pos h2]
      simp only [State.thr, State.team_mapTeam_same, groups_settle]
    · rw [if_neg h2]
      rfl

/-- The state of a thread that has arrived, after its release (R199). -/
def arrived (u : State) (a : Agent) (sc id n : Nat) : State := (u.mapThr a (Thr.passFence 2 sc)).arrive a sc id n

theorem thr_arrived (u : State) (a : Agent) (sc id n : Nat) : (arrived u a sc id n).thr a = (u.thr a).passFence 2 sc := by
  rw [arrived, thr_arrive, State.thr_mapThr_same]

section
variable {u : State} {a : Agent} {sc id n : Nat} {ws : List RegW} (hl : loading (u.thr a) = false)
  (hst : storing (u.thr a) = false)
include hl hst

theorem tryArrive_barv : u.tryArrive sc id n false ws a =
    .done (arrived u a sc id n) (withToken ws (u.phase a sc id (u.barInst a sc))) := by
  simp [State.tryArrive, fenced_full_eq_true hl hst, arrived]

theorem tryArrive_past (hp : Past (arrived u a sc id n) a sc id (u.barInst a sc) [u.phase a sc id (u.barInst a sc)]) :
    u.tryArrive sc id n true ws a =
      .done (acquired (arrived u a sc id n) a sc id (u.barInst a sc) [u.phase a sc id (u.barInst a sc)]) [] := by
  have hb := tryBarrier_done hp ((congrArg loading (thr_arrived u a sc id n)).trans hl)
  unfold arrived at hb
  simp [State.tryArrive, fenced_full_eq_true hl hst, hb, arrived]

theorem tryArrive_further {w : Wait} (hw : (u.thr a).wait = some w)
    (hp : ¬Past (arrived u a sc id n) a sc id (u.barInst a sc) [u.phase a sc id (u.barInst a sc)]) :
    u.tryArrive sc id n true ws a = .further ((arrived u a sc id n).mapThr a fun th =>
      { th with wait := some { w with hold := .barrier sc id (u.barInst a sc) [u.phase a sc id (u.barInst a sc)] } }) := by
  have hb := tryBarrier_wait (a := a) (Or.inl hp)
  have hv : ((arrived u a sc id n).thr a).wait = some w := by rw [thr_arrived]; exact hw
  unfold arrived at hb hv ⊢
  simp only [State.tryArrive, fenced_full_eq_true hl hst, hb, Bool.not_true, Bool.false_eq_true, if_false]
  exact congrArg Try.further (congrArg (State.setThr _ a) (by simp only [hv, Option.map_some]))

end

theorem tryArrive_wait {u : State} {a : Agent} {sc id n : Nat} {bar : Bool} {ws : List RegW}
    (h : loading (u.thr a) = true ∨ storing (u.thr a) = true) : u.tryArrive sc id n bar ws a = .wait := by
  simp [State.tryArrive, fenced_full_eq_false h]

/-! ### Tags (R200) -/

theorem getLsbD_lowTags {n : Nat} (hn : n ≤ 64) (t : Nat) : (lowTags n).getLsbD t = decide (t < n) := by
  by_cases ht : t < 64
  · simp only [lowTags, BitVec.getLsbD_ofNat, Nat.testBit_two_pow_sub_one, ht, decide_true, Bool.true_and]
  · rw [BitVec.getLsbD_of_ge _ _ (by omega)]
    simp
    omega

theorem ne_zero_iff_bit {n : Nat} (x : BitVec n) : x ≠ 0#n ↔ ∃ t, x.getLsbD t = true := by
  rw [not_iff_comm]
  constructor
  · intro h
    refine BitVec.eq_of_getLsbD_eq fun t _ => ?_
    rw [BitVec.getLsbD_zero, ← Bool.not_eq_true]
    exact fun ht => h ⟨t, ht⟩
  · rintro rfl ⟨t, ht⟩
    simp at ht

section
variable {u : State} {a : Agent} {mask : BitVec 64} (hn : (u.tagBits a).2.2.1 ≤ 64)

/-- A tag of the agent that the mask names. -/
def TagNamed (u : State) (a : Agent) (mask : BitVec 64) (t : Nat) : Prop := t < (u.tagBits a).2.2.1 ∧ mask.getLsbD t = true

/-- A tag whose command is done. -/
def TagReady (u : State) (a : Agent) (t : Nat) : Prop := (u.tagBits a).1.getLsbD t = true

/-- A named tag whose command has failed. -/
def TagFailed (u : State) (a : Agent) (mask : BitVec 64) (t : Nat) : Prop :=
  TagNamed u a mask t ∧ (u.tagBits a).2.1.getLsbD t = true

/-- What twall and twany wait for. -/
def TagsMet (u : State) (a : Agent) (all : Bool) (mask : BitVec 64) : Prop :=
  if all then ∀ t, TagNamed u a mask t → TagReady u a t else ∃ t, TagNamed u a mask t ∧ TagReady u a t

include hn

/-- The tags that a mask selects are those that it names. -/
theorem getLsbD_selected (t : Nat) : (mask &&& lowTags (u.tagBits a).2.2.1).getLsbD t = true ↔ TagNamed u a mask t := by
  simp [getLsbD_lowTags hn, TagNamed, and_comm]

theorem all_ready : ((u.tagBits a).1 &&& (mask &&& lowTags (u.tagBits a).2.2.1)) = mask &&& lowTags (u.tagBits a).2.2.1 ↔
    ∀ t, TagNamed u a mask t → TagReady u a t := by
  simp only [← getLsbD_selected hn, TagReady]
  constructor
  · intro h t ht
    rw [← h, BitVec.getLsbD_and, Bool.and_eq_true] at ht
    exact ht.1
  · intro h
    refine BitVec.eq_of_getLsbD_eq fun t _ => ?_
    rw [BitVec.getLsbD_and, Bool.eq_iff_iff, Bool.and_eq_true]
    exact ⟨And.right, fun ht => ⟨h t ht, ht⟩⟩

theorem any_ready : ((u.tagBits a).1 &&& (mask &&& lowTags (u.tagBits a).2.2.1)) ≠ 0 ↔ ∃ t, TagNamed u a mask t ∧ TagReady u a t := by
  refine (ne_zero_iff_bit _).trans (exists_congr fun t => ?_)
  rw [BitVec.getLsbD_and, Bool.and_eq_true, getLsbD_selected hn, and_comm]
  rfl

/-- Whether a tw instruction may go on, as the model computes it. -/
theorem met_iff (all : Bool) : (if all then (u.tagBits a).1 &&& (mask &&& lowTags (u.tagBits a).2.2.1) == mask &&& lowTags (u.tagBits a).2.2.1
    else (u.tagBits a).1 &&& (mask &&& lowTags (u.tagBits a).2.2.1) != 0) = true ↔ TagsMet u a all mask := by
  cases all
  · simpa [TagsMet] using any_ready hn
  · simpa [TagsMet] using all_ready hn

theorem failedTag_none (h : ∀ t, ¬TagFailed u a mask t) : u.failedTag a (mask &&& lowTags (u.tagBits a).2.2.1) = none := by
  rw [State.failedTag, List.find?_eq_none]
  intro t _ ht
  rw [Bool.and_eq_true, getLsbD_selected hn] at ht
  exact h t ht

theorem failedTag_lowest {t : Nat} (ht : TagFailed u a mask t) (h : ∀ r < t, ¬TagFailed u a mask r) :
    u.failedTag a (mask &&& lowTags (u.tagBits a).2.2.1) = some t := by
  rw [State.failedTag, List.find?_range_eq_some]
  refine ⟨?_, List.mem_range.mpr ht.1.1, fun r hr => ?_⟩
  · rw [Bool.and_eq_true, getLsbD_selected hn]
    exact ht
  · rw [Bool.not_eq_true', ← Bool.not_eq_true, Bool.and_eq_true, getLsbD_selected hn]
    exact h r hr

variable {all : Bool}

theorem tryTags_wait (h : ¬TagsMet u a all mask) : u.tryTags all mask a = .wait := by
  unfold State.tryTags
  dsimp only
  rw [if_pos]
  rw [Bool.not_eq_true', ← Bool.not_eq_true]
  exact fun hm => h ((met_iff hn all).mp hm)

theorem tryTags_done (h : TagsMet u a all mask) (hf : ∀ t, ¬TagFailed u a mask t) : u.tryTags all mask a =
    .done ((u.acquire a 8).join a 8 (u.tagWrites a (mask &&& lowTags (u.tagBits a).2.2.1))) [] := by
  simp only [State.tryTags, (met_iff hn all).mpr h, failedTag_none hn hf, Bool.not_true, Bool.false_eq_true, if_false]

theorem tryTags_trap (h : TagsMet u a all mask) {t : Nat} (hf : TagFailed u a mask t) (hlow : ∀ r < t, ¬TagFailed u a mask r) :
    u.tryTags all mask a = .trap (u.tagTrap a (u.thr a).present t) := by
  simp only [State.tryTags, (met_iff hn all).mpr h, failedTag_lowest hn hf hlow, Bool.not_true, Bool.false_eq_true, if_false]

end

/-! ### Register pools (R339 to R341) -/

theorem first_iff (u : State) (a : Agent) (l : List PoolReq) : u.first a l = true ↔ Claims.served u a l := by
  unfold State.first Claims.served
  cases l with
  | nil => simp [State.settledBefore]
  | cons r l => simp

section
variable {u : State} {t g m : Nat}

theorem tryRacq_done (h : Claims.served u (.grp t g) (u.team t).poolReqs ∧ chunkRegs (u.thr (.grp t g)).chunks m ≤ poolFree (u.team t)) :
    u.tryRacq m (.grp t g) = .done (acquires t m (.grp t g) u) [] :=
  if_pos (by rw [Bool.and_eq_true, first_iff, decide_eq_true_iff]; exact h)

theorem tryRacq_wait (h : ¬(Claims.served u (.grp t g) (u.team t).poolReqs ∧ chunkRegs (u.thr (.grp t g)).chunks m ≤ poolFree (u.team t))) :
    u.tryRacq m (.grp t g) = .wait :=
  if_neg (by rw [Bool.and_eq_true, first_iff, decide_eq_true_iff]; exact h)

theorem tryTgrow_done (h : Claims.served u (.grp t g) (u.coreOf (u.team t).core).reqs ∧ 16 * m ≤ (u.coreOf (u.team t).core).free) :
    u.tryTgrow m (.grp t g) = .done (grows t m (.grp t g) u) [] :=
  if_pos (by rw [Bool.and_eq_true, first_iff, decide_eq_true_iff]; exact h)

theorem tryTgrow_wait (h : ¬(Claims.served u (.grp t g) (u.coreOf (u.team t).core).reqs ∧ 16 * m ≤ (u.coreOf (u.team t).core).free)) :
    u.tryTgrow m (.grp t g) = .wait :=
  if_neg (by rw [Bool.and_eq_true, first_iff, decide_eq_true_iff]; exact h)

theorem tryTshrink_done (h : Claims.served u (.grp t g) (u.team t).poolReqs ∧ 16 * m ≤ poolFree (u.team t)) :
    u.tryTshrink m (.grp t g) = .done (shrinks t m (.grp t g) u) [] :=
  if_pos (by rw [Bool.and_eq_true, first_iff, decide_eq_true_iff]; exact h)

theorem tryTshrink_wait (h : ¬(Claims.served u (.grp t g) (u.team t).poolReqs ∧ 16 * m ≤ poolFree (u.team t))) :
    u.tryTshrink m (.grp t g) = .wait :=
  if_neg (by rw [Bool.and_eq_true, first_iff, decide_eq_true_iff]; exact h)

end

/-! ### wret (R251, R264) -/

theorem tryWret_wait {u : State} {a : Agent} {mode : Nat} (h : loading (u.thr a) = true ∨ storing (u.thr a) = true) :
    u.tryWret mode a = .wait := by
  simp only [State.tryWret, fenced_full_eq_false h, Bool.not_false, if_true]

theorem tryWret_done {u : State} {a : Agent} {mode die cmd cls : Nat} {r : Rec} (hl : loading (u.thr a) = false)
    (hst : storing (u.thr a) = false) (hr : (u.thr a).recs.getLast? = some r) (hh : u.handlerOf a = some (die, cmd, cls)) :
    u.tryWret mode a = .done ((((u.mapDie die fun d => { d with tapView := d.tapView ++ (u.thr a).released 5 }).mapThr a
      (Thr.passFence 2 5)).mapThr a fun th => { th with recs := th.recs.dropLast }).answer die r mode) [] := by
  simp only [State.tryWret, fenced_full_eq_true hl hst, Bool.not_true, Bool.false_eq_true, if_false, hr, hh]

/-! ### qpush (R230, R266) -/

/-- A push into a team's queue, where it is open. -/
def pushed (x : BitVec 32) (view : List Carry) (y : Team) : Team :=
  if y.uqOpen then { y with uq := y.uq ++ [x], uqView := y.uqView ++ [view] } else y

theorem pushed_open {x : BitVec 32} {view : List Carry} {y : Team} (h : y.uqOpen = true) :
    pushed x view y = { y with uq := y.uq ++ [x], uqView := y.uqView ++ [view] } := if_pos h

theorem pushed_closed {x : BitVec 32} {view : List Carry} {y : Team} (h : y.uqOpen = false) : pushed x view y = y :=
  if_neg (by simp [h])

/-- A change of each team of a list changes a team as often as it is listed. -/
theorem team_foldl_mapTeam (f : Team → Team) (ts : List Nat) (s : State) (t : Nat) :
    (ts.foldl (fun s t => s.mapTeam t f) s).team t = f^[ts.count t] (s.team t) := by
  induction ts generalizing s with
  | nil => rfl
  | cons b ts ih =>
    rw [List.foldl_cons, ih]
    by_cases hb : b = t
    · subst hb
      rw [State.team_mapTeam_same, List.count_cons_self, Function.iterate_succ_apply]
    · rw [State.team_mapTeam_other _ (Ne.symm hb), List.count_cons_of_ne hb]

/-- The state after a push into the queues of the teams `ts`, which is a release (R230, R332). -/
def pushes (u : State) (a : Agent) (ts : List Nat) (x : BitVec 32) : State :=
  ts.foldl (fun s t => s.mapTeam t (pushed x ((u.thr a).released 5))) (u.mapThr a (Thr.passFence 2 5))

theorem sameBytes_pushes (u : State) (a : Agent) (ts : List Nat) (x : BitVec 32) : SameBytes u (pushes u a ts x) :=
  sameBytes_trans (sameBytes_mapThr u a _) (sameBytes_foldl _ (fun s t => sameBytes_mapTeam s t _) ts _)

theorem team_pushes (u : State) (q : Nat) (ts : List Nat) (x : BitVec 32) (t : Nat) :
    (pushes u (.ctl q) ts x).team t = (pushed x ((u.thr (.ctl q)).released 5))^[ts.count t] (u.team t) :=
  team_foldl_mapTeam _ ts _ t

theorem count_map_snd (l : List (Nat × Nat)) (t : Nat) : (l.map (·.2)).count t = (l.filter (·.2 == t)).length := by
  rw [List.count_eq_countP, List.countP_map, List.countP_eq_length_filter]
  rfl

/-- An open queue that is named once has one entry more. -/
theorem team_pushes_once {u : State} {q t : Nat} {l : List (Nat × Nat)} {x : BitVec 32} (h : (l.filter (·.2 == t)).length = 1)
    (ho : (u.team t).uqOpen = true) :
    ((pushes u (.ctl q) (l.map (·.2)) x).team t).uq = (u.team t).uq ++ [x] ∧
    ((pushes u (.ctl q) (l.map (·.2)) x).team t).uqView = (u.team t).uqView ++ [(u.thr (.ctl q)).released 5] := by
  rw [team_pushes, count_map_snd, h, Function.iterate_one, pushed_open ho]
  exact ⟨rfl, rfl⟩

/-- A team whose queue is not named, or closed, stays as it is. -/
theorem team_pushes_same {u : State} {q t : Nat} {l : List (Nat × Nat)} {x : BitVec 32}
    (h : (∀ y ∈ l, y.2 ≠ t) ∨ (u.team t).uqOpen = false) : (pushes u (.ctl q) (l.map (·.2)) x).team t = u.team t := by
  rw [team_pushes]
  rcases h with h | h
  · have h0 : (l.map (·.2)).count t = 0 := by
      rw [List.count_eq_zero, List.mem_map]
      rintro ⟨y, hy, e⟩
      exact h y hy e
    rw [h0, Function.iterate_zero, id]
  · exact Function.iterate_fixed (pushed_closed h) _

section
variable {u : State} {q : Nat} {mask : BitVec 16} {x : BitVec 32}

/-- A named queue without room, as the model looks for it. -/
theorem noRoom_iff : ((((u.quad (u.quadOf (.ctl q))).named mask).map (·.2)).any fun t =>
      (u.team t).uqOpen && decide (Config.uqEntries ≤ (u.team t).uq.length)) = true ↔
    ∃ y ∈ (u.quad q).named mask, (u.team y.2).uqOpen = true ∧ 64 ≤ (u.team y.2).uq.length := by
  simp only [List.any_map, List.any_eq_true, Function.comp, Bool.and_eq_true, decide_eq_true_iff]
  exact Iff.rfl

theorem tryQpush_wait (h : loading (u.thr (.ctl q)) = true ∨ storing (u.thr (.ctl q)) = true ∨
    ∃ y ∈ (u.quad q).named mask, (u.team y.2).uqOpen = true ∧ 64 ≤ (u.team y.2).uq.length) :
    u.tryQpush mask x (.ctl q) = .wait := by
  unfold State.tryQpush
  dsimp only
  split_ifs with hf hroom
  · rfl
  · rfl
  · rw [Bool.not_eq_true', Bool.not_eq_false, fenced_full, Bool.and_eq_true, Bool.not_eq_true', Bool.not_eq_true'] at hf
    simp only [hf, Bool.false_eq_true, false_or] at h
    exact absurd (noRoom_iff.mpr h) hroom

theorem tryQpush_done (hl : loading (u.thr (.ctl q)) = false) (hst : storing (u.thr (.ctl q)) = false)
    (h : ¬∃ y ∈ (u.quad q).named mask, (u.team y.2).uqOpen = true ∧ 64 ≤ (u.team y.2).uq.length) :
    u.tryQpush mask x (.ctl q) = .done (pushes u (.ctl q) (((u.quad q).named mask).map (·.2)) x) [] := by
  unfold State.tryQpush
  dsimp only
  rw [fenced_full_eq_true hl hst, if_neg (by simp), if_neg]
  · rfl
  · rwa [noRoom_iff]

end

/-! ### tlbi (R357) -/

theorem landed_iff (u : State) (ops : List (Agent × Nat)) :
    u.landed ops = true ↔ ¬∃ x ∈ ops, ∃ o ∈ (u.thr x.1).ops, o.seq = x.2 := by
  simp only [State.landed, List.all_eq_true, Bool.not_eq_true', ← Bool.not_eq_true, List.any_eq_true, beq_iff_eq]
  push Not
  rfl

/-- Settles O39: `blocking_waits`, `blocking_further`, `blocking_done` or `blocking_trap`, as the trial of what the wait holds
gives it. -/
theorem blockingInstructionsCompleteWhenTheirWaitEnds : Obligations.BlockingInstructionsCompleteWhenTheirWaitEnds := by
  unfold Obligations.BlockingInstructionsCompleteWhenTheirWaitEnds
  intro s a w u th run loads stores acq hw hs
  refine ⟨fun k sc hh => ?fence, fun sc id n bar ws hh => ?arrive, fun sc id k toks hh => ?barrier, fun all mask hh hn => ?tags,
    fun t g m ha hh => ?racq, fun t g m ha hh => ?tgrow, fun t g m ha hh => ?tshrink, fun mode hh => ?wret,
    fun q mask x ha hh => ?qpush, fun ops hh => ?drain, fun v ws => ?finish⟩
  case fence =>
    have ht : u.tryHold a w.hold = u.tryFence k sc a := by rw [hh]; rfl
    have hd := fun hl => blocking_done hw hs (ht.trans (tryFence_done hl))
    have hf := fun hl => blocking_waits hw hs (ht.trans (tryFence_left hl))
    cases a <;> exact ⟨hd, hf⟩
  case arrive =>
    have ht : u.tryHold a w.hold = u.tryArrive sc id n bar ws a := by rw [hh]; rfl
    refine ⟨fun h => blocking_waits hw hs (ht.trans (tryArrive_wait h)), fun hl hst => ⟨fun hb => ?_, fun hb hp => ?_, fun hb hp => ?_⟩⟩
    all_goals subst hb
    · exact blocking_done hw hs (ht.trans (tryArrive_barv hl hst))
    · exact blocking_done hw hs (ht.trans (tryArrive_past hl hst (past_singleton.mpr hp)))
    · exact blocking_further hw hs (ht.trans (tryArrive_further hl hst hw fun h => hp (past_singleton.mp h)))
  case barrier =>
    have ht : u.tryHold a w.hold = u.tryBarrier sc id k toks a := by rw [hh]; rfl
    exact ⟨fun hp hl => blocking_done hw hs (ht.trans (tryBarrier_done hp hl)),
      fun h => blocking_waits hw hs (ht.trans (tryBarrier_wait h))⟩
  case tags =>
    have ht : u.tryHold a w.hold = u.tryTags all mask a := by rw [hh]; rfl
    refine ⟨fun h => blocking_waits hw hs (ht.trans (tryTags_wait hn h)), fun h hf => ?_, fun t h hf hlow => ?_⟩
    · exact blocking_done hw hs (ht.trans (tryTags_done hn h hf))
    · exact blocking_trap hw hs (ht.trans (tryTags_trap hn h hf hlow))
  case racq =>
    subst ha
    have ht : u.tryHold (.grp t g) w.hold = u.tryRacq m (.grp t g) := by rw [hh]; rfl
    exact ⟨fun h => blocking_done hw hs (ht.trans (tryRacq_done h)), fun h => blocking_waits hw hs (ht.trans (tryRacq_wait h))⟩
  case tgrow =>
    subst ha
    have ht : u.tryHold (.grp t g) w.hold = u.tryTgrow m (.grp t g) := by rw [hh]; rfl
    exact ⟨fun h => blocking_done hw hs (ht.trans (tryTgrow_done h)), fun h => blocking_waits hw hs (ht.trans (tryTgrow_wait h))⟩
  case tshrink =>
    subst ha
    have ht : u.tryHold (.grp t g) w.hold = u.tryTshrink m (.grp t g) := by rw [hh]; rfl
    exact ⟨fun h => blocking_done hw hs (ht.trans (tryTshrink_done h)), fun h => blocking_waits hw hs (ht.trans (tryTshrink_wait h))⟩
  case wret =>
    have ht : u.tryHold a w.hold = u.tryWret mode a := by rw [hh]; rfl
    exact ⟨fun h => blocking_waits hw hs (ht.trans (tryWret_wait h)),
      fun r die cmd cls hl hst hr ho => blocking_done hw hs (ht.trans (tryWret_done hl hst hr ho))⟩
  case qpush =>
    subst ha
    have ht : u.tryHold (.ctl q) w.hold = u.tryQpush mask x (.ctl q) := by rw [hh]; rfl
    exact ⟨fun h => blocking_waits hw hs (ht.trans (tryQpush_wait h)),
      fun hl hst h => ⟨_, blocking_done hw hs (ht.trans (tryQpush_done hl hst h)), sameBytes_pushes .., fun _ _ => team_pushes_once,
        fun _ => team_pushes_same⟩⟩
  case drain =>
    have ht : u.tryHold a w.hold = u.tryDrain ops a := by rw [hh]; rfl
    exact ⟨fun h => blocking_waits hw hs (ht.trans (if_neg fun hd => (landed_iff u ops).mp hd h)),
      fun h => blocking_done hw hs (ht.trans (if_pos ((landed_iff u ops).mpr h)))⟩
  case finish =>
    refine ⟨?_, fun f hf => ?_, fun l _ hlen => ?_⟩
    · rw [thr_waitOver, Thr.advance_wait, wait_endWait]
    · rw [thr_waitOver, Thr.advance_busy]
      simp only [Thr.endWait, hf]
      rfl
    · rw [thr_waitOver, getD_pcv_advance _ _ _ (by rwa [pcv_endWait]), pcv_endWait]

end Sys2Proof.Proofs
end

section
/-! PROOFS. Integer reductions: the tree and the scan of R86 combine with an associative operation, so that they give the fold over
the active lanes in increasing order (R177). -/
namespace Sys2Proof.Proofs

open Sys2Proof Sys2Proof.Machine Sys2Proof.Safety Sys2Proof.Claims

/-! ### One combination (R177) -/

theorem zext_add_zext (w : Nat) (hw : w ≤ 64) (x y : BitVec 64) : zext w (zext w x + y) = zext w (x + y) := by
  simp only [zext]
  congr 1
  apply BitVec.eq_of_toNat_eq
  have hd : 2 ^ w ∣ 2 ^ 64 := Nat.pow_dvd_pow 2 hw
  simp only [BitVec.toNat_setWidth, BitVec.toNat_add, Nat.mod_mod_of_dvd _ hd, Nat.add_mod _ y.toNat (2 ^ w), Nat.mod_mod]

theorem combine_flags {op ty : Nat} (h : ty ≠ 4) (a b : BitVec 64) : (combine op ty a b).2 = 0#5 := by
  match op with
  | 0 | 1 | 2 => simp [combine, h]
  | 3 | 4 | _ + 5 => rfl

/-- What the operations of R177 have in common for integer types: combining is associative. -/
theorem combine_assoc {op ty : Nat} (h : ty ≠ 4) (a b c : BitVec 64) :
    (combine op ty (combine op ty a b).1 c).1 = (combine op ty a (combine op ty b c).1).1 := by
  have hw : (if is64 ty then 64 else 32) ≤ 64 := by split <;> decide
  unfold combine
  generalize (if is64 ty then 64 else 32) = w at hw ⊢
  generalize isSigned ty = sg
  match op with
  | 0 =>
    simp only [h, if_false]
    rw [zext_add_zext w hw, BitVec.add_comm a (zext w _), zext_add_zext w hw, BitVec.add_comm (b + c) a, BitVec.add_assoc]
  | 1 | 2 =>
    -- the order of the integers is total and transitive
    simp only [h, if_false]; grind
  | 3 => exact BitVec.and_assoc ..
  | 4 => exact BitVec.or_assoc ..
  | _ + 5 => exact BitVec.xor_assoc ..

/-! ### Slots in a row -/

/-- Slots combined from the left. -/
def joined (op ty : Nat) (t : List Slot) : Slot := t.foldl (comb op ty) none

section
variable {op ty : Nat}

theorem comb_none_left (y : Slot) : comb op ty none y = y := rfl

theorem comb_none_right (x : Slot) : comb op ty x none = x := by cases x <;> rfl

theorem comb_assoc (h : ty ≠ 4) (x y z : Slot) : comb op ty (comb op ty x y) z = comb op ty x (comb op ty y z) := by
  cases x with
  | none => rfl
  | some x =>
    cases y with
    | none => rfl
    | some y =>
      cases z with
      | none => rfl
      | some z => simp only [comb, combine_assoc h, combine_flags h, BitVec.zero_or, BitVec.or_assoc]

theorem foldl_comb (h : ty ≠ 4) (x : Slot) (t : List Slot) : t.foldl (comb op ty) x = comb op ty x (joined op ty t) := by
  induction t generalizing x with
  | nil => exact (comb_none_right x).symm
  | cons y t ih => rw [List.foldl_cons, ih, comb_assoc h, ← ih y]; rfl

theorem joined_append (h : ty ≠ 4) (s t : List Slot) : joined op ty (s ++ t) = comb op ty (joined op ty s) (joined op ty t) := by
  rw [joined, List.foldl_append, foldl_comb h]; rfl

/-- An empty slot in front of the others, or a full one. -/
theorem joined_cons (h : ty ≠ 4) (x : Slot) (t : List Slot) : joined op ty (x :: t) = comb op ty x (joined op ty t) :=
  joined_append h [x] t

theorem joined_singleton (x : Slot) : joined op ty [x] = x := rfl

/-- A fold whose first value is given. -/
theorem joined_some (h : ty ≠ 4) (v : BitVec 64) (vs : List (BitVec 64)) :
    joined op ty ((v :: vs).map fun x => some (x, 0)) = some (vs.foldl (fun x y => (combine op ty x y).1) v, 0) := by
  induction vs generalizing v with
  | nil => rfl
  | cons w vs ih =>
    rw [List.foldl_cons, ← ih]
    simp only [List.map_cons, joined, List.foldl_cons, comb, combine_flags h]; rfl

/-! ### The tree (R86) -/

theorem joined_pairUp (h : ty ≠ 4) (t : List Slot) : joined op ty (pairUp op ty t) = joined op ty t := by
  induction t using pairUp.induct with
  | case1 a b r ih => rw [pairUp, joined_cons h, ih, joined_cons h a, joined_cons h b, comb_assoc h]
  | case2 r hr => rw [pairUp]; exact hr

theorem length_pairUp (t : List Slot) : (pairUp op ty t).length = (t.length + 1) / 2 := by
  induction t using pairUp.induct with
  | case1 a b r ih => simp only [pairUp, List.length_cons, ih]; omega
  | case2 r hr =>
    match r with
    | [] => rfl
    | [_] => simp [pairUp]
    | a :: b :: r => exact (hr a b r rfl).elim

theorem tree_eq_joined (h : ty ≠ 4) {t : List Slot} (ht : t.length = 32) : tree op ty t = joined op ty t := by
  obtain ⟨x, hx⟩ : ∃ x, pairUp op ty (pairUp op ty (pairUp op ty (pairUp op ty (pairUp op ty t)))) = [x] :=
    List.length_eq_one_iff.mp (by simp [length_pairUp, ht])
  have hj : joined op ty t = joined op ty [x] := by simp only [← hx, joined_pairUp h]
  rw [tree, hj]
  simp only [hx]
  rfl

/-! ### The scan (R86) -/

/-- The slots `f` of the lanes from l + 1 - n up to l, combined. -/
def window (op ty : Nat) (f : Nat → Slot) (n l : Nat) : Slot :=
  joined op ty ((List.range' (l + 1 - n) (l + 1 - (l + 1 - n))).map f)

theorem window_one (f : Nat → Slot) (l : Nat) : window op ty f 1 l = f l := by
  simp [window, joined_singleton]

/-- A step of the scan doubles the window that each lane has combined. -/
theorem window_double (h : ty ≠ 4) (f : Nat → Slot) (w l : Nat) :
    window op ty f (2 * w) l = if l < w then window op ty f w l else comb op ty (window op ty f w (l - w)) (window op ty f w l) := by
  split
  next hl =>
    have e : l + 1 - 2 * w = l + 1 - w := by omega
    rw [window, window, e]
  next hl =>
    rw [window, window, window, ← joined_append h, ← List.map_append]
    have e : l - w + 1 - w = l + 1 - 2 * w := by omega
    have e' : l + 1 - w = l + 1 - 2 * w + (l - w + 1 - (l + 1 - 2 * w)) := by omega
    have e'' : l + 1 - (l + 1 - 2 * w) = l - w + 1 - (l + 1 - 2 * w) + (l + 1 - (l + 1 - w)) := by omega
    rw [e, e'', ← List.range'_append_1, ← e']

theorem scanStep_window (h : ty ≠ 4) (f : Nat → Slot) (w : Nat) :
    scanStep op ty w (perLane (window op ty f w)) = perLane (window op ty f (2 * w)) := by
  unfold scanStep
  refine List.map_congr_left fun l hl => ?_
  have hl : l < 32 := List.mem_range.mp hl
  rw [window_double h, getD_perLane _ _ hl, getD_perLane (window op ty f w) none (show l - w < 32 by omega)]

theorem scanAll_eq_window (h : ty ≠ 4) (f : Nat → Slot) : scanAll op ty (perLane f) = perLane (window op ty f 32) := by
  have e : f = window op ty f 1 := funext fun l => (window_one f l).symm
  rw [scanAll]
  nth_rw 1 [e]
  simp only [List.foldl_cons, List.foldl_nil]
  rw [scanStep_window h, scanStep_window h f 2, scanStep_window h f 4, scanStep_window h f 8, scanStep_window h f 16]

end

/-! ### The slots of the active lanes -/

/-- The value of an operand's lane in the width of TYPE. -/
def redKey (g : Go) (l : Nat) : BitVec 64 := if is64 g.ty then g.val 0 l else (low g 0 l).setWidth 64

/-- The slot of a lane: its value where the lane is in the mask. -/
def laneSlot (g : Go) (m : Mask) (l : Nat) : Slot := if m.getLsbD l then some (redKey g l, 0) else none

/-- The values of some lanes folded in their order. -/
def foldLanes (g : Go) (op : Nat) : List Nat → BitVec 64
  | [] => 0
  | l :: more => more.foldl (fun x j => (combine op g.ty x (redKey g j)).1) (redKey g l)

theorem slots_eq (g : Go) (m : Mask) : g.slots m = perLane (laneSlot g m) := rfl

/-- The lanes outside the mask leave no trace. -/
theorem joined_laneSlot {g : Go} {op : Nat} (h : g.ty ≠ 4) (m : Mask) (ls : List Nat) :
    joined op g.ty (ls.map (laneSlot g m)) = joined op g.ty (((ls.filter (m.getLsbD ·)).map (redKey g)).map fun x => some (x, 0)) := by
  induction ls with
  | nil => rfl
  | cons l ls ih =>
    rw [List.map_cons, joined_cons h, ih, List.filter_cons]
    by_cases hl : m.getLsbD l = true
    · rw [if_pos hl, List.map_cons, List.map_cons, joined_cons h, laneSlot, if_pos hl]
    · rw [if_neg hl, laneSlot, if_neg hl, comb_none_left]

theorem joined_keys {g : Go} {op : Nat} (h : g.ty ≠ 4) (ls : List Nat) :
    slotVal (joined op g.ty ((ls.map (redKey g)).map fun x => some (x, 0))) = foldLanes g op ls ∧
    slotFlags (joined op g.ty ((ls.map (redKey g)).map fun x => some (x, 0))) = 0 := by
  match ls with
  | [] => exact ⟨rfl, rfl⟩
  | l :: more =>
    rw [List.map_cons, joined_some h, List.foldl_map]
    exact ⟨rfl, rfl⟩

theorem lanesOf_upTo (m : Mask) {l : Nat} (hl : l < 32) :
    (lanesOf m).filter (fun j => decide (j ≤ l)) = (List.range (l + 1)).filter (m.getLsbD ·) := by
  have e : ∀ l < 32, (List.range 32).filter (fun j => decide (j ≤ l)) = List.range (l + 1) := by decide
  rw [lanesOf, laneIds, List.filter_comm, e l hl]

/-- Settles O14: the tree and the scan join the slots of their lanes, and joined slots are a fold, as combining integers is
associative. -/
theorem integerReductionsEqualTheirFolds : Obligations.IntegerReductionsEqualTheirFolds := by
  unfold Obligations.IntegerReductionsEqualTheirFolds
  intro g m op hty _
  have h : g.ty ≠ 4 := by omega
  have hall : tree op g.ty (g.slots m) = joined op g.ty (((lanesOf m).map (redKey g)).map fun x => some (x, 0)) := by
    rw [slots_eq, tree_eq_joined h (by simp [perLane, laneIds])]
    exact joined_laneSlot h m laneIds
  obtain ⟨hval, hflags⟩ := joined_keys (op := op) h (lanesOf m)
  refine ⟨?_, ?_, fun l hl => ?_⟩
  · rw [hall, hval]
    cases lanesOf m <;> rfl
  · rw [hall, hflags]
  · have hw : window op g.ty (laneSlot g m) 32 l = joined op g.ty ((List.range (l + 1)).map (laneSlot g m)) := by
      have e : l + 1 - 32 = 0 := by omega
      rw [window, e, Nat.sub_zero, List.range_eq_range']
    rw [slots_eq, scanAll_eq_window h, getD_perLane _ _ hl, hw, joined_laneSlot h, (joined_keys h _).1, ← lanesOf_upTo m hl]
    cases (lanesOf m).filter fun j => decide (j ≤ l) <;> rfl

end Sys2Proof.Proofs
end

section
/-! PROOFS. Rounding as a function of the exact value (R69): what `roundAt` and `roundNum` give depends on the rational number that
they are given alone. -/
namespace Sys2Proof.Proofs

open Sys2Proof Sys2Proof.Machine Sys2Proof.Claims
open Sys2Proof.Machine.Fp (expOf roundAt roundNum roundsUp)

/-! ### Magnitudes -/

/-- The magnitude m × 2^e. -/
def mag (m : Nat) (e : Int) : ℚ := (m : ℚ) * (2 : ℚ) ^ e

theorem two_zpow_pos (e : Int) : (0 : ℚ) < 2 ^ e := by positivity

theorem mag_nonneg (m : Nat) (e : Int) : 0 ≤ mag m e := by unfold mag; positivity

theorem mag_pos {m : Nat} (h : m ≠ 0) (e : Int) : 0 < mag m e := by
  have : 0 < m := Nat.pos_of_ne_zero h
  unfold mag; positivity

@[simp] theorem mag_zero (e : Int) : mag 0 e = 0 := by simp [mag]

theorem mag_eq_zero {m : Nat} {e : Int} : mag m e = 0 ↔ m = 0 := by
  simp [mag, (two_zpow_pos e).ne']

/-- Moving a power of two between the two factors. -/
theorem mag_shift (m j : Nat) (e : Int) : mag (m * 2 ^ j) e = mag m (e + j) := by
  unfold mag
  rw [zpow_add₀ two_ne_zero, zpow_natCast]
  push_cast
  ring

/-- A magnitude measured in units of 2^q. -/
theorem mag_div (m : Nat) (e q : Int) : mag m e / 2 ^ q = mag m (e - q) := by
  unfold mag
  rw [zpow_sub₀ two_ne_zero, mul_div_assoc]

theorem mag_natCast (m j : Nat) : mag m (j : Int) = ((m * 2 ^ j : Nat) : ℚ) := by
  simp [mag]

theorem mag_neg_natCast (m j : Nat) : mag m (-(j : Int)) = (m : ℚ) / ((2 ^ j : Nat) : ℚ) := by
  simp [mag, div_eq_mul_inv]

theorem ratOf_eq (s : Bool) (m : Nat) (e : Int) : ratOf s m e = if s then -mag m e else mag m e := by
  cases s <;> simp [ratOf, mag]

theorem abs_ratOf (s : Bool) (m : Nat) (e : Int) : |ratOf s m e| = mag m e := by
  rw [ratOf_eq]
  cases s <;> simp [abs_of_nonneg (mag_nonneg m e)]

/-- The sign and the magnitude of a number that is not zero. -/
theorem ratOf_inj {s t : Bool} {m n : Nat} {e d : Int} (hm : m ≠ 0) (h : ratOf s m e = ratOf t n d) : s = t ∧ mag m e = mag n d := by
  have hp := mag_pos hm e
  have hn := mag_nonneg n d
  rw [ratOf_eq, ratOf_eq] at h
  revert h
  cases s <;> cases t <;> simp only [Bool.false_eq_true, if_true, if_false] <;> intro h
  · exact ⟨trivial, h⟩
  · exact absurd h (by linarith)
  · exact absurd h (by linarith)
  · exact ⟨trivial, by linarith⟩

theorem log2_le_self_lt {m : Nat} (h : m ≠ 0) : 2 ^ Nat.log2 m ≤ m ∧ m < 2 ^ (Nat.log2 m + 1) :=
  ⟨Nat.log2_self_le h, Nat.lt_log2_self⟩

/-- The exponent of a magnitude. -/
theorem expOf_eq_log {m : Nat} (h : m ≠ 0) (e : Int) : expOf m e = Int.log 2 (mag m e) := by
  have hp := mag_pos h e
  obtain ⟨lo, hi⟩ := log2_le_self_lt h
  have low : (2 : ℚ) ^ expOf m e ≤ mag m e := by
    rw [expOf, zpow_add₀ two_ne_zero, zpow_natCast, mag]
    exact mul_le_mul_of_nonneg_right (by exact_mod_cast lo) (two_zpow_pos e).le
  have high : mag m e < (2 : ℚ) ^ (expOf m e + 1) := by
    have : expOf m e + 1 = ((Nat.log2 m + 1 : Nat) : Int) + e := by simp only [expOf]; push_cast; ring
    rw [this, zpow_add₀ two_ne_zero, zpow_natCast, mag]
    exact mul_lt_mul_of_pos_right (by exact_mod_cast hi) (two_zpow_pos e)
  apply le_antisymm
  · exact (Int.zpow_le_iff_le_log (b := 2) (by decide) hp).mp (by exact_mod_cast low)
  · exact Int.lt_add_one_iff.mp ((Int.lt_zpow_iff_log_lt (b := 2) (by decide) hp).mp (by exact_mod_cast high))

theorem zpow_expOf_le {m : Nat} (h : m ≠ 0) (e : Int) : (2 : ℚ) ^ expOf m e ≤ mag m e := by
  rw [expOf_eq_log h]
  exact_mod_cast Int.zpow_log_le_self (b := 2) (by decide) (mag_pos h e)

theorem lt_zpow_expOf_succ {m : Nat} (h : m ≠ 0) (e : Int) : mag m e < (2 : ℚ) ^ (expOf m e + 1) := by
  rw [expOf_eq_log h]
  exact_mod_cast Int.lt_zpow_succ_log_self (b := 2) (by decide) (mag m e)

/-! ### Rounding to a multiple of a unit -/

/-- A quotient by the unit, rounded to a whole number, and whether it is one (Table 4.7). -/
def roundQ (rm : Nat) (s : Bool) (x : ℚ) : Nat × Bool :=
  let n := ⌊x⌋₊
  let half : Ordering := if 2 * (x - n) < 1 then .lt else if 2 * (x - n) = 1 then .eq else .gt
  (if roundsUp rm s (n % 2 == 1) half (decide (x = n)) then n + 1 else n, decide (x = n))

theorem roundQ_natCast (rm : Nat) (s : Bool) (n : Nat) : roundQ rm s n = (n, true) := by
  simp [roundQ, roundsUp]

/-- The division with remainder of `roundAt` gives the whole part of the quotient and its excess. -/
theorem roundQ_div (rm : Nat) (s : Bool) (m d : Nat) (hd : 0 < d) :
    roundQ rm s ((m : ℚ) / d) =
      (if roundsUp rm s (m / d % 2 == 1) (if 2 * (m % d) < d then .lt else if 2 * (m % d) = d then .eq else .gt) (m % d == 0)
        then m / d + 1 else m / d, m % d == 0) := by
  have hd' : (0 : ℚ) < d := by exact_mod_cast hd
  have hf : ⌊(m : ℚ) / d⌋₊ = m / d := Nat.floor_div_eq_div m d
  have hm : (m : ℚ) = d * (m / d : Nat) + (m % d : Nat) := by exact_mod_cast (Nat.div_add_mod m d).symm
  have hx : (m : ℚ) / d - (m / d : Nat) = (m % d : Nat) / d := by
    rw [eq_div_iff hd'.ne', sub_mul, div_mul_cancel₀ _ hd'.ne']
    linarith
  have he : ((m : ℚ) / d = (m / d : Nat)) ↔ m % d = 0 := by
    rw [← sub_eq_zero, hx, div_eq_zero_iff]
    simp [hd'.ne']
  have h1 : (2 * ((m : ℚ) / d - (m / d : Nat)) < 1) ↔ 2 * (m % d) < d := by
    rw [hx, mul_div_assoc', div_lt_one hd']
    exact_mod_cast Iff.rfl
  have h2 : (2 * ((m : ℚ) / d - (m / d : Nat)) = 1) ↔ 2 * (m % d) = d := by
    rw [hx, mul_div_assoc', div_eq_one_iff_eq hd'.ne']
    exact_mod_cast Iff.rfl
  simp only [roundQ, hf, h1, h2, he, beq_eq_decide]

/-- `roundAt` without an excess rounds the quotient by the unit. -/
theorem roundAt_eq (rm : Nat) (s : Bool) (m : Nat) (e q : Int) : roundAt rm s m e false q = roundQ rm s (mag m e / 2 ^ q) := by
  rw [mag_div, roundAt]
  split
  next h =>
    have he : e - q = (((e - q).toNat : Nat) : Int) := by omega
    rw [he, mag_natCast, roundQ_natCast]
    rfl
  next h =>
    have he : e - q = -(((q - e).toNat : Nat) : Int) := by omega
    rw [he, mag_neg_natCast, roundQ_div _ _ _ _ (Nat.two_pow_pos _)]
    simp

/-- What rounding a finite number gives depends on its value alone. -/
theorem roundNum_congr {m n : Nat} {e d : Int} (hm : m ≠ 0) (hn : n ≠ 0) (h : mag m e = mag n d) (f : Fp.Fmt) (rm : Nat) (sat s : Bool) :
    roundNum f rm sat s m e false = roundNum f rm sat s n d false := by
  have hE : expOf m e = expOf n d := by rw [expOf_eq_log hm, expOf_eq_log hn, h]
  have hR : ∀ q, roundAt rm s m e false q = roundAt rm s n d false q := fun q => by rw [roundAt_eq, roundAt_eq, h]
  simp only [roundNum, hE, hR]

/-! ### What a mode does -/

section
variable {x : ℚ} (hx : 0 ≤ x) {rm : Nat} {s : Bool}

/-- The directed modes: RTZ and the side that RDN and RUP take for the sign. -/
theorem roundQ_down (h : rm = 1 ∨ (rm = 2 ∧ s = false) ∨ (rm = 3 ∧ s = true)) : (roundQ rm s x).1 = ⌊x⌋₊ := by
  have : ∀ odd half exact, roundsUp rm s odd half exact = false := by
    intro odd half exact
    rcases h with rfl | ⟨rfl, rfl⟩ | ⟨rfl, rfl⟩ <;> simp [roundsUp]
  simp [roundQ, this]

@[inherit_doc roundQ_down]
theorem roundQ_up (h : (rm = 2 ∧ s = true) ∨ (rm = 3 ∧ s = false)) : x ≤ (roundQ rm s x).1 := by
  by_cases e : x = (⌊x⌋₊ : Nat)
  · rw [e, roundQ_natCast]
  · have : (roundQ rm s x).1 = ⌊x⌋₊ + 1 := by
      rcases h with ⟨rfl, rfl⟩ | ⟨rfl, rfl⟩ <;> simp [roundQ, roundsUp, e]
    rw [this]
    exact_mod_cast (Nat.lt_floor_add_one x).le

include hx

theorem floor_le_lt : ((⌊x⌋₊ : Nat) : ℚ) ≤ x ∧ x < (⌊x⌋₊ : Nat) + 1 := ⟨Nat.floor_le hx, Nat.lt_floor_add_one x⟩

/-- The result is one of the two whole numbers around x: the upper one only where x is not whole. -/
theorem roundQ_floor_or : (roundQ rm s x).1 = ⌊x⌋₊ ∨ ((roundQ rm s x).1 = ⌊x⌋₊ + 1 ∧ ((⌊x⌋₊ : Nat) : ℚ) < x) := by
  by_cases e : x = (⌊x⌋₊ : Nat)
  · left
    rw [e, roundQ_natCast, Nat.floor_natCast]
  · have lt : ((⌊x⌋₊ : Nat) : ℚ) < x := lt_of_le_of_ne (Nat.floor_le hx) (Ne.symm e)
    dsimp only [roundQ]
    generalize roundsUp _ _ _ _ _ = up
    cases up
    · exact Or.inl rfl
    · exact Or.inr ⟨rfl, lt⟩

/-- RNE: at most half a unit away, and even where it is half a unit. -/
theorem roundQ_nearest : |x - (roundQ 0 s x).1| ≤ 1 / 2 ∧ (|x - (roundQ 0 s x).1| = 1 / 2 → (roundQ 0 s x).1 % 2 = 0) := by
  obtain ⟨lo, hi⟩ := floor_le_lt hx
  by_cases e : x = (⌊x⌋₊ : Nat)
  · rw [e, roundQ_natCast]
    simp
  dsimp only [roundQ]
  rw [decide_eq_false e]
  generalize ⌊x⌋₊ = n at *
  rcases lt_trichotomy (2 * (x - n)) 1 with h | h | h
  · rw [if_pos h, if_neg (by simp [roundsUp]), abs_of_nonneg (by linarith)]
    exact ⟨by linarith, fun k => absurd k (by linarith)⟩
  · rw [if_neg h.not_lt, if_pos h]
    rcases Nat.mod_two_eq_zero_or_one n with p | p
    · rw [if_neg (by simp [roundsUp, p]), abs_of_nonneg (by linarith)]
      exact ⟨by linarith, fun _ => p⟩
    · rw [if_pos (by simp [roundsUp, p])]
      push_cast
      rw [abs_of_nonpos (by linarith)]
      exact ⟨by linarith, fun _ => by omega⟩
  · rw [if_neg h.not_gt, if_neg h.ne', if_pos (by simp [roundsUp])]
    push_cast
    rw [abs_of_nonpos (by linarith)]
    exact ⟨by linarith, fun k => absurd k (by linarith)⟩

/-- Of numbers that leave out what lies between the two whole numbers around x, none lies between x and the result, and under RNE
none is nearer; of two at the same distance the result is the even one. -/
theorem roundQ_neighbour {y : ℚ} (hy : y ≤ (⌊x⌋₊ : Nat) ∨ (⌊x⌋₊ : Nat) + 1 ≤ y) :
    ¬(x < y ∧ y < (roundQ rm s x).1) ∧ ¬(((roundQ rm s x).1 : ℚ) < y ∧ y < x) ∧
    (rm = 0 → |x - (roundQ rm s x).1| ≤ |x - y| ∧
      (|x - (roundQ rm s x).1| = |x - y| → y ≠ (roundQ rm s x).1 → (roundQ rm s x).1 % 2 = 0)) := by
  obtain ⟨lo, hi⟩ := floor_le_lt hx
  have hk : ((roundQ rm s x).1 : ℚ) = (⌊x⌋₊ : Nat) ∨ ((roundQ rm s x).1 : ℚ) = (⌊x⌋₊ : Nat) + 1 := by
    rcases roundQ_floor_or hx (rm := rm) (s := s) with h | ⟨h, -⟩
    · exact Or.inl (by rw [h])
    · exact Or.inr (by rw [h]; push_cast; rfl)
  refine ⟨fun h => ?_, fun h => ?_, fun h0 => ?_⟩
  · rcases hy with hy | hy <;> rcases hk with hk | hk <;> rw [hk] at h <;> linarith [h.1, h.2]
  · rcases hy with hy | hy <;> rcases hk with hk | hk <;> rw [hk] at h <;> linarith [h.1, h.2]
  subst h0
  obtain ⟨near, even⟩ := roundQ_nearest hx (s := s)
  have tie : 1 / 2 ≤ |x - (roundQ 0 s x).1| → (roundQ 0 s x).1 % 2 = 0 := fun h => even (le_antisymm near h)
  generalize (roundQ 0 s x).1 = k at *
  have dist : |x - k| = if (k : ℚ) = (⌊x⌋₊ : Nat) then x - k else k - x := by
    split
    next h => exact abs_of_nonneg (by linarith)
    next h => rw [abs_of_nonpos (by linarith [hk.resolve_left h])]; ring
  rw [dist] at near tie ⊢
  rcases hy with hy | hy
  · rw [abs_of_nonneg (show 0 ≤ x - y by linarith)]
    rcases hk with hk | hk
    · rw [if_pos hk] at near tie ⊢
      exact ⟨by linarith, fun h ne => absurd (by linarith) ne⟩
    · rw [if_neg (by linarith)] at near tie ⊢
      exact ⟨by linarith, fun h _ => tie (by linarith)⟩
  · rw [abs_of_nonpos (show x - y ≤ 0 by linarith)]
    rcases hk with hk | hk
    · rw [if_pos hk] at near tie ⊢
      exact ⟨by linarith, fun h _ => tie (by linarith)⟩
    · rw [if_neg (by linarith)] at near tie ⊢
      exact ⟨by linarith, fun h ne => absurd (by linarith) ne⟩

end

end Sys2Proof.Proofs
end

section
/-! PROOFS. The finite values of a binary format (R67, Table 5.1), the bits that hold them, and which of them `roundNum` gives (R69). -/
namespace Sys2Proof.Proofs

open Sys2Proof Sys2Proof.Machine Sys2Proof.Claims
open Sys2Proof.Machine.Fp (expOf roundAt roundNum roundsUp)

/-! ### Formats -/

/-- What the formats of Table 5.1 have in common. -/
structure Proper (f : Fp.Fmt) : Prop where
  exps : 2 ≤ f.eb
  frac : 1 ≤ f.fb
  fits : f.eb + f.fb < 64
  short : f.e4m3 = true → f.eb = 4 ∧ f.fb = 3

theorem proper_f32 : Proper Fp.f32 := ⟨by decide, by decide, by decide, by decide⟩
theorem proper_f64 : Proper Fp.f64 := ⟨by decide, by decide, by decide, by decide⟩

theorem proper_of_listed {f : Fp.Fmt} (h : f = Fp.f32 ∨ f = Fp.f64 ∨ f = Fp.f16 ∨ f = Fp.bf16 ∨ f = Fp.e4m3 ∨ f = Fp.e5m2) : Proper f := by
  rcases h with rfl | rfl | rfl | rfl | rfl | rfl <;> exact ⟨by decide, by decide, by decide, by decide⟩

theorem ofTy_listed (t : Nat) : Fp.ofTy t = Fp.f32 ∨ Fp.ofTy t = Fp.f64 ∨ Fp.ofTy t = Fp.f16 ∨ Fp.ofTy t = Fp.bf16 ∨
    Fp.ofTy t = Fp.e4m3 ∨ Fp.ofTy t = Fp.e5m2 := by
  unfold Fp.ofTy
  split <;> simp

theorem proper_ofTy (t : Nat) : Proper (Fp.ofTy t) := proper_of_listed (ofTy_listed t)

/-- m × 2^e as a format holds a finite value: fb + 1 bits, fewer only at the least exponent, and no exponent above that of the
largest finite value; of e4m3, where all ones stand for NaN, not that code. -/
structure Canon (f : Fp.Fmt) (m : Nat) (e : Int) : Prop where
  bits : m < 2 ^ (f.fb + 1)
  low  : f.emin - f.fb ≤ e
  high : e ≤ f.emax - f.fb
  subn : m < 2 ^ f.fb → e = f.emin - f.fb
  room : f.e4m3 = true → e = f.emax - f.fb → m ≠ 15

/-- The bits below the sign of m × 2^e. -/
def code (f : Fp.Fmt) (m : Nat) (e : Int) : Nat := (e - (f.emin - f.fb)).toNat * 2 ^ f.fb + m

/-- The value of a sign, exponent and fraction field. -/
def fieldVal (f : Fp.Fmt) (s : Bool) (e fr : Nat) : Fp.Val :=
  if f.e4m3 then
    if e = 15 ∧ fr = 7 then .nan false
    else if e = 0 then .num s fr (f.emin - f.fb)
    else .num s (2 ^ f.fb + fr) ((e : Int) - f.bias - f.fb)
  else if e = 2 ^ f.eb - 1 then
    if fr = 0 then .inf s else .nan (!f.quiet && !bitAt fr (f.fb - 1))
  else if e = 0 then .num s fr (f.emin - f.fb)
  else .num s (2 ^ f.fb + fr) ((e : Int) - f.bias - f.fb)

theorem decode_eq_fieldVal (f : Fp.Fmt) (x : BitVec 64) :
    Fp.decode f x = fieldVal f (bitAt (x.toNat % 2 ^ f.width) (f.width - 1)) (bitsOf (x.toNat % 2 ^ f.width) f.fb f.eb)
      (x.toNat % 2 ^ f.width % 2 ^ f.fb) := rfl

section
variable {f : Fp.Fmt} (P : Proper f)
include P

theorem two_pow_eb : 2 ^ f.eb = 2 * 2 ^ (f.eb - 1) ∧ 2 ≤ 2 ^ (f.eb - 1) := by
  obtain ⟨k, hk⟩ : ∃ k, f.eb = k + 2 := ⟨f.eb - 2, by have := P.exps; omega⟩
  have : 1 ≤ 2 ^ k := Nat.one_le_two_pow
  simp only [hk, Nat.add_succ_sub_one, pow_succ]
  omega

/-- The fields of the bits that are put together from them. -/
theorem decode_fields (s : Bool) {e fr : Nat} (he : e < 2 ^ f.eb) (hfr : fr < 2 ^ f.fb) :
    Fp.decode f (BitVec.ofNat 64 (f.zero s + (e * 2 ^ f.fb + fr))) = fieldVal f s e fr := by
  have hlow : e * 2 ^ f.fb + fr < 2 ^ (f.eb + f.fb) := by
    have : (e + 1) * 2 ^ f.fb ≤ 2 ^ f.eb * 2 ^ f.fb := Nat.mul_le_mul_right _ he
    rw [pow_add]; linarith [Nat.succ_mul e (2 ^ f.fb)]
  have hz : f.zero s = (if s then 1 else 0) * 2 ^ (f.eb + f.fb) := by cases s <;> simp [Fp.Fmt.zero]
  have hw : f.width = (f.eb + f.fb) + 1 := by simp only [Fp.Fmt.width]; omega
  have hn : f.zero s + (e * 2 ^ f.fb + fr) < 2 ^ f.width := by
    rw [hz, hw, pow_succ]; cases s <;> simp <;> omega
  have h64 : f.zero s + (e * 2 ^ f.fb + fr) < 2 ^ 64 :=
    hn.trans_le (Nat.pow_le_pow_right (by decide) (by rw [hw]; exact P.fits))
  rw [decode_eq_fieldVal, BitVec.toNat_ofNat, Nat.mod_eq_of_lt h64, Nat.mod_eq_of_lt hn]
  have hsign : bitAt (f.zero s + (e * 2 ^ f.fb + fr)) (f.width - 1) = s := by
    rw [hw, Nat.add_sub_cancel, bitAt, hz, Nat.add_comm, Nat.add_mul_div_right _ _ (Nat.two_pow_pos _), Nat.div_eq_of_lt hlow]
    cases s <;> rfl
  have hrest : f.zero s + (e * 2 ^ f.fb + fr) = fr + ((if s then 1 else 0) * 2 ^ f.eb + e) * 2 ^ f.fb := by
    rw [hz, pow_add]; ring
  have hexp : ((if s then 1 else 0) * 2 ^ f.eb + e) % 2 ^ f.eb = e := by rw [Nat.mul_add_mod_self_right, Nat.mod_eq_of_lt he]
  rw [hsign, bitsOf, hrest, Nat.add_mul_div_right _ _ (Nat.two_pow_pos _), Nat.div_eq_of_lt hfr, Nat.zero_add, hexp,
    Nat.add_mul_mod_self_right, Nat.mod_eq_of_lt hfr]

omit P in
variable (f) in
theorem emin_emax : f.emin = 2 - (2 ^ (f.eb - 1) : Nat) ∧ f.bias = (2 ^ (f.eb - 1) : Nat) - 1 ∧
    f.emax = if f.e4m3 then f.bias + 1 else f.bias := by
  refine ⟨?_, rfl, rfl⟩
  simp only [Fp.Fmt.emin, Fp.Fmt.bias]; ring

/-- The bits of a finite value decode to it. -/
theorem decode_code (s : Bool) {m : Nat} {e : Int} (h : Canon f m e) :
    Fp.decode f (BitVec.ofNat 64 (f.zero s + code f m e)) = .num s m e := by
  obtain ⟨bits, low, high, subn, room⟩ := h
  obtain ⟨hpow, hB⟩ := two_pow_eb P
  obtain ⟨hmin, hbias, hmax⟩ := emin_emax f
  have hF : 1 ≤ 2 ^ f.fb := Nat.one_le_two_pow
  rw [pow_succ] at bits
  by_cases hm : m < 2 ^ f.fb
  · have hc : code f m e = 0 * 2 ^ f.fb + m := by simp [code, subn hm]
    have h15 : ¬(0 = 2 ^ f.eb - 1) := by omega
    rw [hc, decode_fields P s (by omega) hm, subn hm]
    simp [fieldVal, h15]
  · obtain ⟨t, ht⟩ : ∃ t : Nat, e = f.emin - f.fb + t := ⟨(e - (f.emin - f.fb)).toNat, by omega⟩
    have hc : code f m e = (t + 1) * 2 ^ f.fb + (m - 2 ^ f.fb) := by
      have : (e - (f.emin - f.fb)).toNat = t := by omega
      rw [code, this, Nat.succ_mul]; omega
    have hval : ∀ (x : Nat) (y : Int), 2 ^ f.fb + (m - 2 ^ f.fb) = x → ((t + 1 : Nat) : Int) - f.bias - f.fb = y →
        x = m ∧ y = e := fun x y hx hy => ⟨by omega, by omega⟩
    obtain ⟨hx, hy⟩ := hval _ _ rfl rfl
    cases h8 : f.e4m3 with
    | true =>
      obtain ⟨heb, hfb⟩ := P.short h8
      rw [h8, if_pos rfl] at hmax
      have hroom := room h8
      have hF8 : 2 ^ f.fb = 8 := by rw [hfb]; rfl
      have hE8 : 2 ^ f.eb = 16 := by rw [heb]; rfl
      have hne : ¬(t + 1 = 15 ∧ m - 2 ^ f.fb = 7) := by omega
      rw [hc, decode_fields P s (by omega) (by omega)]
      simp only [fieldVal, h8, if_true, hne, if_false, Nat.succ_ne_zero, hx, hy]
    | false =>
      rw [h8, if_neg (by decide)] at hmax
      have hne : ¬(t + 1 = 2 ^ f.eb - 1) := by omega
      rw [hc, decode_fields P s (by omega) (by omega)]
      simp only [fieldVal, h8, Bool.false_eq_true, if_false, hne, Nat.succ_ne_zero, hx, hy]

omit P in
/-- Where the fields hold a finite value, it is that of a subnormal or of a normal one, and no code is special. -/
theorem fieldVal_num {s' s : Bool} {ex fr m : Nat} {e : Int} (h : fieldVal f s' ex fr = .num s m e) :
    ((ex = 0 ∧ m = fr ∧ e = f.emin - f.fb) ∨ (ex ≠ 0 ∧ m = 2 ^ f.fb + fr ∧ e = ex - f.bias - f.fb)) ∧
    (f.e4m3 = true → ¬(ex = 15 ∧ fr = 7)) ∧ (f.e4m3 = false → ex ≠ 2 ^ f.eb - 1) := by
  unfold fieldVal at h
  split_ifs at h <;> cases h <;> simp_all

/-- What decodes to a finite value is of the form that the format holds. -/
theorem canon_of_decode {x : BitVec 64} {s : Bool} {m : Nat} {e : Int} (h : Fp.decode f x = .num s m e) : Canon f m e := by
  rw [decode_eq_fieldVal] at h
  have hfr : x.toNat % 2 ^ f.width % 2 ^ f.fb < 2 ^ f.fb := Nat.mod_lt _ (Nat.two_pow_pos _)
  have hex : bitsOf (x.toNat % 2 ^ f.width) f.fb f.eb < 2 ^ f.eb := Nat.mod_lt _ (Nat.two_pow_pos _)
  obtain ⟨hv, h15, htop⟩ := fieldVal_num h
  generalize x.toNat % 2 ^ f.width % 2 ^ f.fb = fr at *
  generalize bitsOf _ _ _ = ex at *
  obtain ⟨hpow, hB⟩ := two_pow_eb P
  obtain ⟨hmin, hbias, hmax⟩ := emin_emax f
  have hF := pow_succ 2 f.fb
  have hexp : (ex : Int) ≤ f.emax + f.bias := by
    cases h8 : f.e4m3 with
    | true =>
      have : 2 ^ f.eb = 16 := by rw [(P.short h8).1]; rfl
      rw [h8, if_pos rfl] at hmax
      omega
    | false =>
      have := htop h8
      rw [h8, if_neg (by decide)] at hmax
      omega
  have hroom : f.e4m3 = true → f.fb = 3 ∧ 2 ^ f.fb = 8 ∧ f.emax = 8 ∧ f.bias = 7 ∧ f.emin = -6 := fun h8 => by
    obtain ⟨heb, hfb⟩ := P.short h8
    rw [h8, if_pos rfl] at hmax
    rw [heb] at hmin hbias
    exact ⟨hfb, by rw [hfb]; rfl, by omega, by omega, by omega⟩
  have hle : f.emin ≤ f.emax := by
    cases h8 : f.e4m3 <;> rw [h8] at hmax <;> simp only [Bool.false_eq_true, if_true, if_false] at hmax <;> omega
  refine ⟨by omega, by omega, by omega, by omega, fun h8 he => ?_⟩
  have := h15 h8
  have := hroom h8
  omega

end

end Sys2Proof.Proofs
end

section
/-! PROOFS. What `roundNum` gives in a format (R69): the bits of the rounded multiple of the unit in the last place, or the value
that stands for an overflow; and that a value of the format is left as it is. -/
namespace Sys2Proof.Proofs

open Sys2Proof Sys2Proof.Machine Sys2Proof.Claims
open Sys2Proof.Machine.Fp (expOf roundAt roundNum roundsUp)

/-- The exponent of the unit to which a format rounds m × 2^e. -/
def unitExp (f : Fp.Fmt) (m : Nat) (e : Int) : Int := (if expOf m e < f.emin then f.emin else expOf m e) - f.fb

/-- The number of units that m × 2^e rounds to. -/
def unitsOf (f : Fp.Fmt) (rm : Nat) (s : Bool) (m : Nat) (e : Int) : Nat := (roundQ rm s (mag m e / 2 ^ unitExp f m e)).1

/-- Whether k × 2^q lies beyond the finite values of a format. -/
def Beyond (f : Fp.Fmt) (k : Nat) (q : Int) : Prop := f.emax < expOf k q ∨ (f.e4m3 = true ∧ expOf k q = f.emax ∧ k = 15)

/-- What stands for a value beyond the finite ones (R69, R71, Table 5.3). -/
def overflow (f : Fp.Fmt) (rm : Nat) (sat s : Bool) : BitVec 64 :=
  if f.quiet && sat then BitVec.ofNat 64 (f.maxFin s)
  else if f.e4m3 then 0x7F
  else BitVec.ofNat 64 (if rm = 1 ∨ (rm = 2 ∧ s = false) ∨ (rm = 3 ∧ s = true) then f.maxFin s else f.inf s)

/-- The bits below the sign that `roundNum` puts together from a number of units. -/
def body (f : Fp.Fmt) (k : Nat) (q : Int) : Nat :=
  if expOf k q < f.emin then k
  else (expOf k q - f.emin + 1).toNat * 2 ^ f.fb + (k / 2 ^ (expOf k q - f.fb - q).toNat - 2 ^ f.fb)

theorem expOf_eq {m j : Nat} (lo : 2 ^ j ≤ m) (hi : m < 2 ^ (j + 1)) (e : Int) : expOf m e = j + e := by
  have h0 : m ≠ 0 := (Nat.two_pow_pos j).trans_le lo |>.ne'
  rw [expOf, (Nat.log2_eq_iff h0).mpr ⟨lo, hi⟩]

section
variable {f : Fp.Fmt} (rm : Nat) (sat s : Bool) {m : Nat} (e : Int)

/-- The three outcomes of `roundNum`. -/
theorem roundNum_zero (h : unitsOf f rm s m e = 0) : (roundNum f rm sat s m e false).1 = BitVec.ofNat 64 (f.zero s) := by
  unfold unitsOf unitExp at h
  simp only [roundNum, roundAt_eq, h, if_true]

@[inherit_doc roundNum_zero]
theorem roundNum_beyond (h0 : unitsOf f rm s m e ≠ 0) (h : Beyond f (unitsOf f rm s m e) (unitExp f m e)) :
    (roundNum f rm sat s m e false).1 = overflow f rm sat s := by
  have h' := h
  unfold Beyond unitsOf unitExp at h'
  unfold unitsOf unitExp at h0
  simp only [roundNum, roundAt_eq, h0, if_false, overflow]
  rw [if_pos (by simpa [Bool.or_eq_true, and_assoc] using h')]
  split_ifs <;> rfl

@[inherit_doc roundNum_zero]
theorem roundNum_within (h0 : unitsOf f rm s m e ≠ 0) (h : ¬Beyond f (unitsOf f rm s m e) (unitExp f m e)) :
    (roundNum f rm sat s m e false).1 = BitVec.ofNat 64 (f.zero s + body f (unitsOf f rm s m e) (unitExp f m e)) := by
  have h' := h
  unfold Beyond unitsOf unitExp at h'
  have h0' := h0
  unfold unitsOf unitExp at h0'
  simp only [roundNum, roundAt_eq, h0', if_false]
  rw [if_neg (by simpa [Bool.or_eq_true, and_assoc] using h')]
  rfl

end

section
variable {f : Fp.Fmt} {k : Nat} {q : Int}

theorem body_eq_code (hk : k < 2 ^ (f.fb + 1)) (hq : f.emin - f.fb ≤ q) (hs : k < 2 ^ f.fb → q = f.emin - f.fb) (h0 : k ≠ 0) :
    body f k q = code f k q := by
  by_cases hn : k < 2 ^ f.fb
  · have hE : expOf k q < f.emin := by
      have : Nat.log2 k < f.fb := (Nat.log2_lt h0).mpr hn
      have := hs hn
      simp only [expOf]; omega
    rw [body, if_pos hE, code, hs hn]
    simp
  · have hE : expOf k q = f.fb + q := expOf_eq (by omega) hk q
    obtain ⟨t, ht⟩ : ∃ t : Nat, q = f.emin - f.fb + t := ⟨(q - (f.emin - f.fb)).toNat, by omega⟩
    have h1 : (expOf k q - f.emin + 1).toNat = t + 1 := by omega
    have h2 : (expOf k q - f.fb - q).toNat = 0 := by omega
    have h3 : (q - (f.emin - f.fb)).toNat = t := by omega
    rw [body, if_neg (by omega), h1, h2, code, h3, pow_zero, Nat.div_one, Nat.succ_mul]
    omega

/-- A carry out of the fraction: the next power of two. -/
theorem body_carry (hq : f.emin - f.fb ≤ q) : body f (2 ^ (f.fb + 1)) q = code f (2 ^ f.fb) (q + 1) := by
  have hE : expOf (2 ^ (f.fb + 1)) q = f.fb + 1 + q := by
    rw [expOf_eq (j := f.fb + 1) le_rfl (Nat.pow_lt_pow_right (by decide) (by omega))]; push_cast; ring
  obtain ⟨t, ht⟩ : ∃ t : Nat, q = f.emin - f.fb + t := ⟨(q - (f.emin - f.fb)).toNat, by omega⟩
  have h1 : (expOf (2 ^ (f.fb + 1)) q - f.emin + 1).toNat = t + 2 := by omega
  have h2 : (expOf (2 ^ (f.fb + 1)) q - f.fb - q).toNat = 1 := by omega
  have h3 : (q + 1 - (f.emin - f.fb)).toNat = t + 1 := by omega
  rw [body, if_neg (by omega), h1, h2, code, h3, pow_one, pow_succ, Nat.mul_div_cancel _ (by decide), Nat.sub_self, Nat.succ_mul (t + 1),
    Nat.add_zero]

end

/-! ### The number of units -/

section
variable {f : Fp.Fmt} {m : Nat} (hm : m ≠ 0) (e : Int)
include hm

omit hm in
variable (f m) in
theorem emin_le_unitExp : f.emin - f.fb ≤ unitExp f m e := by unfold unitExp; split <;> omega

theorem mag_lt_units : mag m e / 2 ^ unitExp f m e < 2 ^ (f.fb + 1) := by
  rw [div_lt_iff₀ (two_zpow_pos _), ← zpow_natCast, ← zpow_add₀ two_ne_zero]
  refine (lt_zpow_expOf_succ hm e).trans_le (zpow_le_zpow_right₀ (by norm_num) ?_)
  unfold unitExp; push_cast; split <;> omega

/-- Above the subnormal numbers the fraction is full. -/
theorem units_full (h : unitExp f m e ≠ f.emin - f.fb) : 2 ^ f.fb ≤ ⌊mag m e / 2 ^ unitExp f m e⌋₊ := by
  have hE : unitExp f m e = expOf m e - f.fb := by
    unfold unitExp at h ⊢
    split
    next hlt => exact absurd (by rw [if_pos hlt]) h
    next => rfl
  refine Nat.le_floor ?_
  rw [hE, le_div_iff₀ (two_zpow_pos _)]
  push_cast
  rw [← zpow_natCast, ← zpow_add₀ two_ne_zero, add_sub_cancel]
  exact zpow_expOf_le hm e

theorem floor_units_lt : ⌊mag m e / 2 ^ unitExp f m e⌋₊ < 2 ^ (f.fb + 1) := by
  refine (Nat.floor_lt (div_nonneg (mag_nonneg m e) (two_zpow_pos _).le)).mpr ?_
  push_cast
  exact mag_lt_units hm e

/-- Of the values of a format none lies strictly between the two numbers of units around m × 2^e. -/
theorem canon_units {n : Nat} {d : Int} (h : Canon f n d) :
    mag n d / 2 ^ unitExp f m e ≤ (⌊mag m e / 2 ^ unitExp f m e⌋₊ : Nat) ∨
    ((⌊mag m e / 2 ^ unitExp f m e⌋₊ : Nat) : ℚ) + 1 ≤ mag n d / 2 ^ unitExp f m e := by
  rw [mag_div n d]
  by_cases hd : unitExp f m e ≤ d
  · obtain ⟨j, hj⟩ : ∃ j : Nat, d - unitExp f m e = j := ⟨(d - unitExp f m e).toNat, by omega⟩
    rw [hj, mag_natCast]
    exact_mod_cast Nat.lt_or_ge (⌊mag m e / 2 ^ unitExp f m e⌋₊) (n * 2 ^ j) |>.symm
  · left
    have hq : unitExp f m e ≠ f.emin - f.fb := by have := h.low; omega
    have hfull : ((2 ^ f.fb : Nat) : ℚ) ≤ (⌊mag m e / 2 ^ unitExp f m e⌋₊ : Nat) := by exact_mod_cast units_full hm e hq
    refine le_trans ?_ hfull
    have hn : (n : ℚ) ≤ (2 : ℚ) ^ ((f.fb : Int) + 1) := by exact_mod_cast h.bits.le
    calc mag n (d - unitExp f m e) ≤ (2 : ℚ) ^ ((f.fb : Int) + 1) * 2 ^ (-1 : Int) :=
          mul_le_mul hn (zpow_le_zpow_right₀ (by norm_num) (by omega)) (two_zpow_pos _).le (two_zpow_pos _).le
      _ = ((2 ^ f.fb : Nat) : ℚ) := by rw [← zpow_add₀ two_ne_zero, add_neg_cancel_right]; simp

end

/-! ### The result -/

/-- What the bits of a rounded value hold: a number of units within the format, or the value that stands for an overflow. -/
theorem roundNum_cases {f : Fp.Fmt} (P : Proper f) (rm : Nat) (sat s : Bool) {m : Nat} (hm : m ≠ 0) (e : Int) :
    (∃ k q, Canon f k q ∧ mag k q = mag (unitsOf f rm s m e) (unitExp f m e) ∧ (unitsOf f rm s m e % 2 = 0 → k % 2 = 0) ∧
      (roundNum f rm sat s m e false).1 = BitVec.ofNat 64 (f.zero s + code f k q)) ∨
    (unitsOf f rm s m e ≠ 0 ∧ Beyond f (unitsOf f rm s m e) (unitExp f m e) ∧ (roundNum f rm sat s m e false).1 = overflow f rm sat s) := by
  have hq := emin_le_unitExp f m e
  have hx : 0 ≤ mag m e / 2 ^ unitExp f m e := div_nonneg (mag_nonneg m e) (two_zpow_pos _).le
  have hfl := floor_units_lt (f := f) hm e
  have hfull := units_full (f := f) hm e
  have hor := roundQ_floor_or hx (rm := rm) (s := s)
  have hz := roundNum_zero (f := f) rm sat s (m := m) e
  have hb := roundNum_beyond (f := f) rm sat s (m := m) e
  have hw := roundNum_within (f := f) rm sat s (m := m) e
  change unitsOf f rm s m e = _ ∨ (unitsOf f rm s m e = _ ∧ _) at hor
  generalize unitsOf f rm s m e = k at *
  generalize unitExp f m e = q at *
  obtain ⟨hmin, hbias, hmax⟩ := emin_emax f
  obtain ⟨-, hB⟩ := two_pow_eb P
  have hpow := pow_succ 2 f.fb
  have hF1 : 2 ≤ 2 ^ f.fb := by
    calc 2 = 2 ^ 1 := rfl
      _ ≤ 2 ^ f.fb := Nat.pow_le_pow_right (by decide) P.frac
  have hle : f.emin ≤ f.emax := by
    rw [hmax]; split <;> omega
  by_cases h0 : k = 0
  · -- zero: below one unit at the least exponent
    subst h0
    have hqe : q = f.emin - f.fb := by
      by_contra hne
      have := hfull hne
      omega
    refine Or.inl ⟨0, q, ⟨by positivity, by omega, by omega, fun _ => hqe, fun _ _ => by decide⟩, rfl, fun _ => rfl, ?_⟩
    rw [hz rfl, code, hqe]
    simp
  by_cases hbey : Beyond f k q
  · exact Or.inr ⟨h0, hbey, hb h0 hbey⟩
  left
  have hw := hw h0 hbey
  unfold Beyond at hbey
  rw [not_or, not_lt] at hbey
  obtain ⟨hexp, h15⟩ := hbey
  by_cases hc : k = 2 ^ (f.fb + 1)
  · -- a carry out of the fraction
    have hE : expOf k q = f.fb + 1 + q := by
      rw [expOf_eq (j := f.fb + 1) hc.ge (by rw [hc]; exact Nat.pow_lt_pow_right (by decide) (by omega))]; push_cast; ring
    refine ⟨2 ^ f.fb, q + 1, ⟨by omega, by omega, by omega, fun h => absurd h (lt_irrefl _), fun h8 _ => ?_⟩, ?_, fun _ => ?_, ?_⟩
    · rw [(P.short h8).2]; decide
    · rw [hc, pow_succ 2 f.fb]
      have := mag_shift (2 ^ f.fb) 1 q
      rw [pow_one] at this
      rw [this]; rfl
    · obtain ⟨j, hj⟩ : ∃ j, f.fb = j + 1 := ⟨f.fb - 1, by have := P.frac; omega⟩
      rw [hj, pow_succ]; omega
    · rw [hw, hc, body_carry hq]
  · have hk : k < 2 ^ (f.fb + 1) := by omega
    have hs : k < 2 ^ f.fb → q = f.emin - f.fb := fun hlt => by
      by_contra hne
      have := hfull hne
      omega
    refine ⟨k, q, ⟨hk, hq, ?_, hs, fun h8 hh hk15 => ?_⟩, rfl, id, ?_⟩
    · by_cases hlt : k < 2 ^ f.fb
      · have := hs hlt; omega
      · have := expOf_eq (not_lt.mp hlt) hk q; omega
    · have hfb := (P.short h8).2
      have := expOf_eq (j := f.fb) (by rw [hfb, hk15]; decide) hk q
      exact h15 ⟨h8, by omega, hk15⟩
    · rw [hw, body_eq_code hk hq hs h0]

/-- A value of the format is left as it is, without a flag. -/
theorem roundNum_canon {f : Fp.Fmt} (rm : Nat) (sat s : Bool) {k : Nat} {q : Int} (h : Canon f k q) (h0 : k ≠ 0) :
    roundNum f rm sat s k q false = (BitVec.ofNat 64 (f.zero s + code f k q), 0) := by
  have hE : expOf k q = if k < 2 ^ f.fb then expOf k q else f.fb + q := by
    split
    next => rfl
    next hn => exact expOf_eq (not_lt.mp hn) h.bits q
  have hu : unitExp f k q = q := by
    unfold unitExp
    rcases Nat.lt_or_ge k (2 ^ f.fb) with hn | hn
    · have hq := h.subn hn
      have : Nat.log2 k < f.fb := (Nat.log2_lt h0).mpr hn
      rw [if_pos (by simp only [expOf]; omega), hq]
    · rw [if_neg (by omega : ¬k < 2 ^ f.fb)] at hE
      have := h.low
      rw [if_neg (by omega), hE]; ring
  have hself : ∀ d : Int, d ≤ q → roundAt rm s k q false d = (k * 2 ^ (q - d).toNat, true) := fun d hd => by
    rw [roundAt, if_pos hd]; rfl
  have hk : unitsOf f rm s k q = k := by
    have := hself q le_rfl
    rw [roundAt_eq] at this
    rw [unitsOf, hu, this]
    simp
  have hn : ¬Beyond f k q := by
    unfold Beyond
    have hh := h.high
    rcases Nat.lt_or_ge k (2 ^ f.fb) with hlt | hge
    · have hq := h.subn hlt
      have : Nat.log2 k < f.fb := (Nat.log2_lt h0).mpr hlt
      have hx : expOf k q < f.emax := by simp only [expOf]; omega
      rintro (hb | ⟨-, hb, -⟩) <;> omega
    · rw [if_neg (by omega : ¬k < 2 ^ f.fb)] at hE
      rintro (hb | ⟨h8, hb, h15⟩)
      · omega
      · exact h.room h8 (by omega) h15
  refine Prod.ext ?_ ?_
  · rw [roundNum_within rm sat s q (by rwa [hk]) (by rwa [hk, hu]), hk, hu, body_eq_code h.bits h.low h.subn h0]
  · unfold Beyond at hn
    unfold unitExp at hu
    simp only [roundNum, hu, hself q le_rfl, sub_self, Int.toNat_zero, pow_zero, Nat.mul_one, h0, if_false]
    rw [if_neg (by simpa [Bool.or_eq_true, and_assoc] using hn)]
    simp

end Sys2Proof.Proofs
end

section
/-! PROOFS. Rounding gives the neighbour that its mode names (R69), and what invalid operations and divisions by zero give (R70,
R119 to R121). -/
namespace Sys2Proof.Proofs

open Sys2Proof Sys2Proof.Machine Sys2Proof.Claims
open Sys2Proof.Machine.Fp (expOf roundAt roundNum roundsUp)

/-! ### Overflow -/

/-- The directed modes that keep the largest finite value (Table 4.7). -/
def towardZero (rm : Nat) (s : Bool) : Prop := rm = 1 ∨ (rm = 2 ∧ s = false) ∨ (rm = 3 ∧ s = true)

/-- Where what stands for an overflow is finite, it is the largest finite value of its sign, in a mode that rounds toward zero. -/
theorem overflow_num {f : Fp.Fmt} (hf : f = Fp.f32 ∨ f = Fp.f64 ∨ f = Fp.f16 ∨ f = Fp.bf16 ∨ f = Fp.e4m3 ∨ f = Fp.e5m2) {rm : Nat}
    {s s' : Bool} {m : Nat} {e : Int} (h : Fp.decode f (overflow f rm false s) = .num s' m e) :
    towardZero rm s ∧ f.e4m3 = false ∧ s' = s ∧ m = 2 ^ (f.fb + 1) - 1 ∧ e = f.emax - f.fb := by
  have hmax : f.e4m3 = false → Fp.decode f (BitVec.ofNat 64 (f.maxFin s)) = .num s (2 ^ (f.fb + 1) - 1) (f.emax - f.fb) := by
    clear h
    rcases hf with rfl | rfl | rfl | rfl | rfl | rfl <;> revert s <;> decide
  have hinf : f.e4m3 = false → Fp.decode f (BitVec.ofNat 64 (f.inf s)) = .inf s := by
    clear h
    rcases hf with rfl | rfl | rfl | rfl | rfl | rfl <;> revert s <;> decide
  have hnan : f.e4m3 = true → Fp.decode f 0x7F = .nan false := by
    rcases hf with rfl | rfl | rfl | rfl | rfl | rfl <;> decide
  rw [overflow, Bool.and_false, if_neg (by decide)] at h
  cases h8 : f.e4m3 with
  | true =>
    rw [h8, if_pos rfl, hnan h8] at h
    cases h
  | false =>
    rw [h8, if_neg (by decide)] at h
    split at h
    next ht =>
      rw [hmax h8] at h
      cases h
      exact ⟨ht, rfl, rfl, rfl, rfl⟩
    next =>
      rw [hinf h8] at h
      cases h

/-- No finite value is greater. -/
theorem Canon.mag_le_max {f : Fp.Fmt} {n : Nat} {d : Int} (h : Canon f n d) :
    mag n d ≤ mag (2 ^ (f.fb + 1) - 1) (f.emax - f.fb) := by
  have hb : n ≤ 2 ^ (f.fb + 1) - 1 := by have := h.bits; omega
  exact mul_le_mul (by exact_mod_cast hb) (zpow_le_zpow_right₀ (by norm_num) h.high) (two_zpow_pos _).le (Nat.cast_nonneg _)

/-- What lies beyond the finite values is greater than each of them. -/
theorem max_lt_of_beyond {f : Fp.Fmt} (h8 : f.e4m3 = false) {k : Nat} {q : Int} (h0 : k ≠ 0) (h : Beyond f k q) :
    mag (2 ^ (f.fb + 1) - 1) (f.emax - f.fb) < mag k q := by
  have hE : f.emax + 1 ≤ expOf k q := by
    rcases h with h | ⟨h, -⟩
    · omega
    · rw [h8] at h; cases h
  calc mag (2 ^ (f.fb + 1) - 1) (f.emax - f.fb) < mag (2 ^ (f.fb + 1)) (f.emax - f.fb) :=
        mul_lt_mul_of_pos_right (by exact_mod_cast Nat.sub_lt (Nat.two_pow_pos _) (by decide)) (two_zpow_pos _)
    _ = 2 ^ (f.emax + 1) := by
        rw [mag]; push_cast
        rw [← zpow_natCast, ← zpow_add₀ two_ne_zero]; push_cast; congr 1; ring
    _ ≤ 2 ^ expOf k q := zpow_le_zpow_right₀ (by norm_num) hE
    _ ≤ mag k q := zpow_expOf_le h0 q

/-! ### Signs -/

/-- The factor of a sign. -/
def signOf (s : Bool) : ℚ := if s then -1 else 1

theorem ratOf_eq_signOf (s : Bool) (m : Nat) (e : Int) : ratOf s m e = signOf s * mag m e := by
  rw [ratOf_eq]; cases s <;> simp [signOf]

/-- A number measured by the sign and the unit of another. -/
theorem eq_signOf_mul (s : Bool) {u : ℚ} (hu : 0 < u) (v : ℚ) : v = signOf s * (u * (signOf s * v / u)) := by
  rw [mul_div_cancel₀ _ hu.ne', ← mul_assoc]
  cases s <;> simp [signOf]

section
variable (s : Bool) {u : ℚ} (hu : 0 < u) {X Y : ℚ}
include hu

theorem signed_lt : signOf s * (u * X) < signOf s * (u * Y) ↔ if s then Y < X else X < Y := by
  cases s <;> simp [signOf, hu]

theorem signed_le : signOf s * (u * X) ≤ signOf s * (u * Y) ↔ if s then Y ≤ X else X ≤ Y := by
  cases s <;> simp [signOf, hu]

theorem signed_dist : |signOf s * (u * X) - signOf s * (u * Y)| = u * |X - Y| := by
  rw [← mul_sub, ← mul_sub, abs_mul, abs_mul, abs_of_pos hu]
  cases s <;> simp [signOf]

end

/-- What R69 asks of a result r of an exact value x: it lies on the side that the mode names. -/
def OnSide (rm : Nat) (x r : ℚ) : Prop := (rm = 1 → |r| ≤ |x|) ∧ (rm = 2 → r ≤ x) ∧ (rm = 3 → x ≤ r)

/-- No value v lies between an exact value and its result, and under RNE none is nearer, and none as near unless the result is even. -/
def Neighbour (rm : Nat) (even : Prop) (x r v : ℚ) : Prop :=
  ¬(x < v ∧ v < r) ∧ ¬(r < v ∧ v < x) ∧ (rm = 0 → |x - r| ≤ |x - v| ∧ (|x - r| = |x - v| → v ≠ r → even))

section
variable {rm : Nat} {s : Bool} {X K u : ℚ} (hu : 0 < u)
include hu

theorem onSide_signed (hX : 0 ≤ X) (hK : 0 ≤ K) (down : towardZero rm s → K ≤ X)
    (up : (rm = 2 ∧ s = true) ∨ (rm = 3 ∧ s = false) → X ≤ K) : OnSide rm (signOf s * (u * X)) (signOf s * (u * K)) := by
  refine ⟨fun h => ?_, fun h => (signed_le s hu).mpr ?_, fun h => (signed_le s hu).mpr ?_⟩
  · rw [abs_mul, abs_mul (signOf s), abs_of_nonneg (mul_nonneg hu.le hX), abs_of_nonneg (mul_nonneg hu.le hK)]
    exact mul_le_mul_of_nonneg_left (mul_le_mul_of_nonneg_left (down (Or.inl h)) hu.le) (abs_nonneg _)
  · cases s
    · exact down (Or.inr (Or.inl ⟨h, rfl⟩))
    · exact up (Or.inl ⟨h, rfl⟩)
  · cases s
    · exact up (Or.inr ⟨h, rfl⟩)
    · exact down (Or.inr (Or.inr ⟨h, rfl⟩))

theorem neighbour_signed {even : Prop} {Y : ℚ} (h : Neighbour rm even X K Y) :
    Neighbour rm even (signOf s * (u * X)) (signOf s * (u * K)) (signOf s * (u * Y)) := by
  obtain ⟨h1, h2, h3⟩ := h
  refine ⟨?_, ?_, fun h0 => ?_⟩
  · rw [signed_lt s hu, signed_lt s hu]
    cases s
    · exact h1
    · exact fun h => h2 h.symm
  · rw [signed_lt s hu, signed_lt s hu]
    cases s
    · exact h2
    · exact fun h => h1 h.symm
  · rw [signed_dist s hu, signed_dist s hu]
    obtain ⟨near, even⟩ := h3 h0
    exact ⟨mul_le_mul_of_nonneg_left near hu.le, fun h ne => even (mul_left_cancel₀ hu.ne' h) fun e => ne (by rw [e])⟩

end

/-! ### The rounded value (R69) -/

theorem code_even {f : Fp.Fmt} (P : Proper f) (s : Bool) {k : Nat} {q : Int} (h : k % 2 = 0) :
    (BitVec.ofNat 64 (f.zero s + code f k q)).getLsbD 0 = false := by
  obtain ⟨j, hj⟩ : ∃ j, f.fb = j + 1 := ⟨f.fb - 1, by have := P.frac; omega⟩
  have hz : f.zero s % 2 = 0 := by
    cases s
    · rfl
    · simp only [Fp.Fmt.zero, if_true, hj, ← Nat.add_assoc, pow_succ]; omega
  have hc : code f k q % 2 = 0 := by
    simp only [code, hj, pow_succ, ← Nat.mul_assoc]; omega
  rw [BitVec.getLsbD_ofNat, Nat.testBit_zero]
  simp; omega

/-- The value that a number rounds to, where it is finite, is the neighbour that the mode names. -/
theorem rounded_neighbour {f : Fp.Fmt} (hf : f = Fp.f32 ∨ f = Fp.f64 ∨ f = Fp.f16 ∨ f = Fp.bf16 ∨ f = Fp.e4m3 ∨ f = Fp.e5m2)
    {rm : Nat} {s s' : Bool} {m m' : Nat} (hm : m ≠ 0) {e e' : Int}
    (h : Fp.decode f (roundNum f rm false s m e false).1 = .num s' m' e') :
    s' = s ∧ OnSide rm (ratOf s m e) (ratOf s' m' e') ∧
    ∀ {sy : Bool} {n : Nat} {d : Int}, Canon f n d →
      Neighbour rm ((roundNum f rm false s m e false).1.getLsbD 0 = false) (ratOf s m e) (ratOf s' m' e') (ratOf sy n d) := by
  have P := proper_of_listed hf
  have hu := two_zpow_pos (unitExp f m e)
  have hx : 0 ≤ mag m e / 2 ^ unitExp f m e := div_nonneg (mag_nonneg m e) hu.le
  have hdown : towardZero rm s → ((unitsOf f rm s m e : Nat) : ℚ) ≤ mag m e / 2 ^ unitExp f m e := fun ht => by
    rw [unitsOf, roundQ_down ht]; exact Nat.floor_le hx
  rcases roundNum_cases P rm false s hm e with ⟨k, q, hc, hk, heven, hr⟩ | ⟨h0, hb, hr⟩
  · rw [hr, decode_code P s hc] at h
    cases h
    have hX : ratOf s m e = signOf s * (2 ^ unitExp f m e * (mag m e / 2 ^ unitExp f m e)) := by
      rw [ratOf_eq_signOf, mul_div_cancel₀ _ hu.ne']
    have hK : ratOf s m' e' = signOf s * (2 ^ unitExp f m e * (unitsOf f rm s m e : Nat)) := by
      rw [ratOf_eq_signOf, hk, mag, mul_comm (2 ^ _)]
    refine ⟨rfl, ?_, fun {sy n d} hn => ?_⟩
    · rw [hX, hK]
      exact onSide_signed hu hx (Nat.cast_nonneg _) hdown fun ht => roundQ_up ht
    · rw [hX, hK, eq_signOf_mul s hu (ratOf sy n d)]
      have hy : signOf s * ratOf sy n d / 2 ^ unitExp f m e ≤ (⌊mag m e / 2 ^ unitExp f m e⌋₊ : Nat) ∨
          ((⌊mag m e / 2 ^ unitExp f m e⌋₊ : Nat) : ℚ) + 1 ≤ signOf s * ratOf sy n d / 2 ^ unitExp f m e := by
        by_cases hs : s = sy
        · have : signOf s * ratOf sy n d = mag n d := by
            rw [ratOf_eq_signOf, hs, ← mul_assoc]; cases sy <;> simp [signOf]
          rw [this]
          exact canon_units hm e hn
        · have : signOf s * ratOf sy n d = -mag n d := by
            rw [ratOf_eq_signOf, ← mul_assoc]; cases s <;> cases sy <;> simp_all [signOf]
          left
          rw [this, neg_div]
          exact (neg_nonpos.mpr (div_nonneg (mag_nonneg n d) hu.le)).trans (Nat.cast_nonneg _)
      obtain ⟨h1, h2, h3⟩ := roundQ_neighbour hx hy (rm := rm) (s := s)
      refine neighbour_signed hu ⟨h1, h2, fun hrm => ?_⟩
      subst hrm
      obtain ⟨near, tie⟩ := h3 rfl
      refine ⟨near, fun he hne => ?_⟩
      rw [hr]
      exact code_even P s (heven (tie he hne))
  · rw [hr] at h
    obtain ⟨ht, h8, rfl, rfl, rfl⟩ := overflow_num hf h
    have hmax := max_lt_of_beyond h8 h0 hb
    have hlt : mag (2 ^ (f.fb + 1) - 1) (f.emax - f.fb) < mag m e := by
      refine hmax.trans_le ?_
      have := hdown ht
      rwa [le_div_iff₀ hu] at this
    have hX : ratOf s' m e = signOf s' * (1 * mag m e) := by rw [ratOf_eq_signOf, one_mul]
    have hK : ratOf s' (2 ^ (f.fb + 1) - 1) (f.emax - f.fb) = signOf s' * (1 * mag (2 ^ (f.fb + 1) - 1) (f.emax - f.fb)) := by
      rw [ratOf_eq_signOf, one_mul]
    refine ⟨rfl, ?_, fun {sy n d} hn => ?_⟩
    · rw [hX, hK]
      refine onSide_signed one_pos (mag_nonneg _ _) (mag_nonneg _ _) (fun _ => hlt.le) fun hup => ?_
      rcases ht with rfl | ⟨rfl, rfl⟩ | ⟨rfl, rfl⟩ <;> simp at hup
    · have hle : signOf s' * ratOf sy n d / 1 ≤ mag (2 ^ (f.fb + 1) - 1) (f.emax - f.fb) := by
        rw [div_one]
        refine (le_abs_self _).trans ?_
        rw [abs_mul, abs_ratOf]
        have : |signOf s'| = 1 := by cases s' <;> simp [signOf]
        rw [this, one_mul]
        exact hn.mag_le_max
      rw [hX, hK, eq_signOf_mul s' one_pos (ratOf sy n d)]
      refine neighbour_signed one_pos ⟨fun hh => ?_, fun hh => ?_, fun hrm => ?_⟩
      · linarith [hh.1, hh.2]
      · linarith [hh.1, hh.2]
      · rcases ht with rfl | ⟨rfl, -⟩ | ⟨rfl, -⟩ <;> cases hrm

/-! ### Invalid operations (R70, R119 to R121) -/

section
variable (f : Fp.Fmt) (rm : Nat)

/-- The flag that signalling NaNs among the operands raise. -/
theorem sigNV_eq (vs : List Fp.Val) : Fp.sigNV vs = if vs.contains (.nan true) then 1 else 0 := by
  have : (vs.any fun v => v == .nan true) = vs.contains (.nan true) := by
    induction vs with
    | nil => rfl
    | cons v vs ih => rw [List.any_cons, ih, List.contains_cons]; congr 1; exact Bool.beq_comm
  rw [Fp.sigNV, this]; rfl

/-- A quiet result raises what its operands raise. -/
theorem zero_or_sigNV (vs : List Fp.Val) : 0#5 ||| 0#5 ||| Fp.sigNV vs = if vs.contains (.nan true) then 1 else 0 := by
  rw [sigNV_eq, BitVec.zero_or, BitVec.zero_or]

/-- An invalid operation raises NV whatever its operands raise. -/
theorem NV_or_sigNV (vs : List Fp.Val) : Fp.NV ||| 0 ||| Fp.sigNV vs = 1 := by
  rw [sigNV_eq]; split <;> rfl

theorem addX_nan {a b : Fp.Val} (h : a.isNan = true ∨ b.isNan = true) : Fp.addX rm a b = (.nan, 0) := by
  cases a <;> cases b <;> simp_all [Fp.Val.isNan, Fp.addX]

theorem mulX_nan {a b : Fp.Val} (h : a.isNan = true ∨ b.isNan = true) : Fp.mulX a b = (.nan, 0) := by
  cases a <;> cases b <;> simp_all [Fp.Val.isNan, Fp.mulX]

theorem divX_nan {a b : Fp.Val} (h : a.isNan = true ∨ b.isNan = true) : Fp.divX f a b = (.nan, 0) := by
  cases a <;> cases b <;> simp_all [Fp.Val.isNan, Fp.divX]

/-- The product of an infinity and a zero. -/
theorem mulX_inf_zero (t u : Bool) (e : Int) : Fp.mulX (.inf t) (.num u 0 e) = (.nan, Fp.NV) ∧ Fp.mulX (.num u 0 e) (.inf t) = (.nan, Fp.NV) :=
  ⟨rfl, rfl⟩

end

section
variable {f : Fp.Fmt} {rm : Nat} {a b d : BitVec 64}

theorem add_of {x : Fp.Exact} {fl : BitVec 5} (h : Fp.addX rm (Fp.decode f a) (Fp.decode f b) = (x, fl)) :
    Fp.add f rm a b = ((Fp.pack f rm x).1, fl ||| (Fp.pack f rm x).2 ||| Fp.sigNV [Fp.decode f a, Fp.decode f b]) := by
  simp only [Fp.add, h]

theorem mul_of {x : Fp.Exact} {fl : BitVec 5} (h : Fp.mulX (Fp.decode f a) (Fp.decode f b) = (x, fl)) :
    Fp.mul f rm a b = ((Fp.pack f rm x).1, fl ||| (Fp.pack f rm x).2 ||| Fp.sigNV [Fp.decode f a, Fp.decode f b]) := by
  simp only [Fp.mul, h]

theorem div_of {x : Fp.Exact} {fl : BitVec 5} (h : Fp.divX f (Fp.decode f a) (Fp.decode f b) = (x, fl)) :
    Fp.div f rm a b = ((Fp.pack f rm x).1, fl ||| (Fp.pack f rm x).2 ||| Fp.sigNV [Fp.decode f a, Fp.decode f b]) := by
  simp only [Fp.div, h]

theorem fma_of {x : Fp.Exact} {fl : BitVec 5} (h : Fp.fmaX rm (Fp.decode f a) (Fp.decode f b) (Fp.decode f d) = (x, fl)) :
    Fp.fma f rm a b d =
      ((Fp.pack f rm x).1, fl ||| (Fp.pack f rm x).2 ||| Fp.sigNV [Fp.decode f a, Fp.decode f b, Fp.decode f d]) := by
  simp only [Fp.fma, h]

/-- A value with its sign inverted, as fsub takes its second operand. -/
def negVal : Fp.Val → Fp.Val
  | .nan q => .nan q
  | .inf s => .inf (!s)
  | .num s m e => .num (!s) m e

theorem sub_of {x : Fp.Exact} {fl : BitVec 5} (h : Fp.addX rm (Fp.decode f a) (negVal (Fp.decode f b)) = (x, fl)) :
    Fp.sub f rm a b = ((Fp.pack f rm x).1, fl ||| (Fp.pack f rm x).2 ||| Fp.sigNV [Fp.decode f a, Fp.decode f b]) := by
  have h' : Fp.sub f rm a b =
      ((Fp.pack f rm (Fp.addX rm (Fp.decode f a) (negVal (Fp.decode f b))).1).1,
        (Fp.addX rm (Fp.decode f a) (negVal (Fp.decode f b))).2 |||
          (Fp.pack f rm (Fp.addX rm (Fp.decode f a) (negVal (Fp.decode f b))).1).2 ||| Fp.sigNV [Fp.decode f a, Fp.decode f b]) := rfl
  rw [h', h]

/-- A fused product that is invalid is a NaN with NV, whatever is added (R120). -/
theorem fmaX_invalid {va vb vd : Fp.Val} (h : Fp.mulX va vb = (.nan, Fp.NV)) : Fp.fmaX rm va vb vd = (.nan, Fp.NV) := by
  have : Fp.addX rm (.nan false) vd = (.nan, 0) := addX_nan rm (Or.inl rfl)
  simp only [Fp.fmaX, h, Fp.Exact.val, this]
  rfl

/-- A NaN added to a product that is not invalid makes no flag. -/
theorem fmaX_nan {va vb vd : Fp.Val} (hd : vd.isNan = true) (ha : ∀ t u e, va = .inf t → vb ≠ .num u 0 e)
    (hb : ∀ t u e, vb = .inf t → va ≠ .num u 0 e) : Fp.fmaX rm va vb vd = (.nan, 0) := by
  have hfl : (Fp.mulX va vb).2 = 0 := by
    cases va <;> cases vb <;> simp only [Fp.mulX]
    case inf.num t u n e =>
      rw [if_neg fun h => ha t u e rfl (by rw [h])]
    case num.inf u n e t =>
      rw [if_neg fun h => hb t u e rfl (by rw [h])]
    case num.num => split <;> rfl
  simp only [Fp.fmaX, hfl, addX_nan rm (Or.inr hd)]
  rfl

end

/-- Settles O10: the rounded number of units is the neighbour on the side of the mode (`rounded_neighbour`); the invalid operations
by the exact result of each. -/
theorem roundingAndInvalidOperationsGiveWhatTheirRulesName : Obligations.RoundingAndInvalidOperationsGiveWhatTheirRulesName := by
  unfold Obligations.RoundingAndInvalidOperationsGiveWhatTheirRulesName
  refine ⟨fun f rm sg m e sg' m' e' hf hm _ h => ?_, fun f rm a b d => ⟨fun hn => ?_, fun t ha hb => ?_, fun t ha hb => ?_,
    fun t u e ha hb => ?_, fun t u e e' ha hb => ?_, fun t u m e e' ha hm hb => ?_, fun hd ha hb => ?_⟩⟩
  · obtain ⟨hs, ⟨h1, h2, h3⟩, hv⟩ := rounded_neighbour hf hm.ne' h
    exact ⟨hs, h1, h2, h3, fun y sy my ey hy => hv (canon_of_decode (proper_of_listed hf) hy)⟩
  · have hneg : (Fp.decode f a).isNan = true ∨ (negVal (Fp.decode f b)).isNan = true := by
      refine hn.imp_right fun h => ?_
      cases hb : Fp.decode f b <;> rw [hb] at h <;> simp_all [negVal, Fp.Val.isNan]
    rw [add_of (addX_nan rm hn), mul_of (mulX_nan hn), div_of (divX_nan f hn), sub_of (addX_nan rm hneg)]
    have hz := zero_or_sigNV [Fp.decode f a, Fp.decode f b]
    exact ⟨Prod.ext rfl hz, Prod.ext rfl hz, Prod.ext rfl hz, Prod.ext rfl hz⟩
  · rw [add_of (x := .nan) (fl := Fp.NV) (by rw [ha, hb]; cases t <;> rfl), ← NV_or_sigNV]
    rfl
  · rw [sub_of (x := .nan) (fl := Fp.NV) (by rw [ha, hb]; cases t <;> rfl), div_of (x := .nan) (fl := Fp.NV) (by rw [ha, hb]; rfl)]
    simp only [Fp.pack, NV_or_sigNV]
    exact ⟨trivial, trivial⟩
  · obtain ⟨h1, h2⟩ := mulX_inf_zero t u e
    rw [← ha, ← hb] at h1 h2
    rw [mul_of h1, mul_of h2, fma_of (fmaX_invalid h1), fma_of (fmaX_invalid h2)]
    simp only [Fp.pack, NV_or_sigNV]
    exact ⟨trivial, trivial, trivial, trivial⟩
  · rw [div_of (x := .nan) (fl := Fp.NV) (by rw [ha, hb]; rfl), ← NV_or_sigNV]
    rfl
  · rw [div_of (x := .inf (t != u)) (fl := Fp.DZ) (by rw [ha, hb]; simp [Fp.divX, hm]), ha, hb]
    have hs : Fp.sigNV [.num t m e, .num u 0 e'] = 0 := by simp [Fp.sigNV]
    simp only [hs, Fp.pack]
    rfl
  · rw [fma_of (fmaX_nan hd ha hb)]
    exact Prod.ext rfl (zero_or_sigNV _)

end Sys2Proof.Proofs
end

section
/-! PROOFS. A float instruction that issues without a cause puts its lanes' results on their way or takes FPTRAP (R73, R74). -/
namespace Sys2Proof.Proofs

open Sys2Proof Sys2Proof.Machine Sys2Proof.Safety Sys2Proof.Claims

theorem floatRes_eq (f : Go → Nat → BitVec 64 × BitVec 5) (g : Go) :
    floatRes f g = { vals := lanewise g fun l => (f g l).1, tag := anyTag g, flags := laneFlags g (f g) } := by
  simp only [floatRes, lanewise, laneFlags, anyTag, perLane, List.map_map, Res.mk.injEq, and_true, true_and]
  constructor <;> refine List.map_congr_left fun l _ => ?_ <;> simp only [Function.comp] <;> split <;> rfl

theorem maskOf_congr {p q : Nat → Bool} (h : ∀ l < 32, p l = q l) : maskOf p = maskOf q := by
  refine BitVec.eq_of_getLsbD_eq fun l hl => ?_
  rw [getLsbD_maskOf _ hl, getLsbD_maskOf _ hl, h l hl]

theorem maskOf_eq_zero {p : Nat → Bool} : maskOf p = 0 ↔ ∀ l < 32, p l = false := by
  constructor
  · intro h l hl
    rw [← getLsbD_maskOf p hl, h]
    exact BitVec.getLsbD_zero
  · intro h
    refine BitVec.eq_of_getLsbD_eq fun l hl => ?_
    rw [getLsbD_maskOf p hl, h l hl]
    exact BitVec.getLsbD_zero.symm

/-- The lanes in which a float result raises an enabled flag. -/
def trapLanes (g : Go) (en : BitVec 5) (v : Nat → BitVec 64 × BitVec 5) : Mask :=
  maskOf fun l => g.act.getLsbD l && ((v l).2 &&& en) != 0

theorem fpTrap_laneFlags (fsr : BitVec 32) (g : Go) (v : Nat → BitVec 64 × BitVec 5) :
    fpTrap fsr g.act (laneFlags g v) =
      if trapLanes g (enables fsr) v = 0 then []
      else [{ cause := .fptrap, lmask := trapLanes g (enables fsr) v,
              tval := (unionFlags g.act (laneFlags g v) &&& enables fsr).setWidth 64 }] := by
  have h : (maskOf fun l => g.act.getLsbD l && ((laneFlags g v).getD l 0 &&& enables fsr) != 0) = trapLanes g (enables fsr) v := by
    refine maskOf_congr fun l hl => ?_
    rw [laneFlags, getD_perLane _ _ hl]
    cases g.act.getLsbD l <;> rfl
  simp only [fpTrap, h]

theorem trapLanes_eq_zero {g : Go} {en : BitVec 5} {v : Nat → BitVec 64 × BitVec 5} :
    trapLanes g en v = 0 ↔ ∀ l < 32, g.act.getLsbD l = true → (v l).2 &&& en = 0 := by
  rw [trapLanes, maskOf_eq_zero]
  refine forall₂_congr fun l _ => ?_
  cases g.act.getLsbD l <;> simp

/-- The causes that a fixed-latency result raises are taken (R65, R74). -/
theorem issueFixed_traps {n : Ins} {x : Extra} {s : State} (h : Clear n x s) (f : Go → Res) {ts : List Trap}
    (hr : (f (sight n x.warn s)).traps = [])
    (hf : fpTrap ((noted n x.warn s).thr s.cur).fsr (sight n x.warn s).act (f (sight n x.warn s)).flags = ts) (hts : ts ≠ []) :
    issueFixed n x f s = deliver n (noted n x.warn s) ts (unionFlags (sight n x.warn s).act (f (sight n x.warn s)).flags) := by
  have hra : ((noted n x.warn s).thr s.cur).ra = none := by
    have := h.awake
    simp only [noted, State.thr_mapThr_same] at this ⊢
    exact this
  have z : (sight n x.warn s).act &&& ~~~(0 : Mask) = (sight n x.warn s).act := by
    rw [show ~~~(0 : Mask) = BitVec.allOnes 32 by decide, BitVec.and_allOnes]
  have e : fixedBody f (sight n x.warn s) (noted n x.warn s) = .error ts := by
    have hne : ts.isEmpty = false := by simpa using hts
    simp only [fixedBody, commitFixed, Laws.cur_noted, hra, hr, z, hf, hne, List.isEmpty_nil, Bool.and_false, Bool.false_eq_true,
      if_false, List.nil_append]
  unfold issueFixed
  rw [Laws.issue_clear h, e]

/-- What `FGives` says of an instruction whose result is lane-wise with flags; the entry's values may be written in other words. -/
theorem fgives_issueFixed {n : Ins} {x : Extra} {s : State} {f v : Go → Nat → BitVec 64 × BitVec 5} (ht : n.row.opc ≠ 0x6A)
    (hv : f (sight n x.warn s) = v (sight n x.warn s)) : FGives n x s (.next (issueFixed n x (floatRes f) s)) v := by
  intro h
  let g := sight n x.warn s
  have hfl := fpTrap_laneFlags ((noted n x.warn s).thr s.cur).fsr g (f g)
  refine ⟨fun hno => ?_, fun hex => ?_⟩
  · have hz : trapLanes g (enabled n x.warn s) (f g) = 0 := trapLanes_eq_zero.mpr (by rw [hv]; exact hno)
    rw [enabled, ← enables] at hz
    rw [hz, if_pos rfl] at hfl
    rw [Laws.issueFixed_clear h _ ht (by rw [floatRes_eq]) (by rw [floatRes_eq]; exact hfl), floatRes_eq, hv]
  · have hz : trapLanes g (enabled n x.warn s) (f g) ≠ 0 := by
      rw [Ne, trapLanes_eq_zero, hv]
      obtain ⟨l, hl, ha, hn⟩ := hex
      exact fun h => hn (h l hl ha)
    rw [enabled, ← enables] at hz
    rw [if_neg hz] at hfl
    rw [issueFixed_traps h (floatRes f) (by rw [floatRes_eq]) (by rw [floatRes_eq]; exact hfl) (List.cons_ne_nil _ _), floatRes_eq, hv]
    rfl

end Sys2Proof.Proofs
end

section
/-! PROOFS. Conversions (R71, R72, R127): between floats, into integers and from integers. -/
namespace Sys2Proof.Proofs

open Sys2Proof Sys2Proof.Machine Sys2Proof.Safety Sys2Proof.Claims
open Sys2Proof.Machine.Fp (expOf roundAt roundNum)

/-! ### What a format holds -/

theorem holds_code {f : Fp.Fmt} (P : Proper f) (s : Bool) {k : Nat} {q : Int} (h : Canon f k q) :
    Holds f (BitVec.ofNat 64 (f.zero s + code f k q)) (ratOf s k q) := ⟨s, k, q, decode_code P s h, rfl⟩

theorem emin_le_emax {f : Fp.Fmt} (h : 2 ≤ f.eb) : f.emin ≤ f.emax := by
  obtain ⟨hmin, hbias, hmax⟩ := emin_emax f
  have : 2 ^ 1 ≤ 2 ^ (f.eb - 1) := Nat.pow_le_pow_right (by decide) (by omega)
  rw [hmax]
  split <;> omega

theorem holds_zero {f : Fp.Fmt} (P : Proper f) (s : Bool) : Holds f (BitVec.ofNat 64 (f.zero s)) 0 := by
  have hle := emin_le_emax P.exps
  have hc : Canon f 0 (f.emin - f.fb) := ⟨by positivity, le_rfl, by omega, fun _ => rfl, fun _ _ => by decide⟩
  have := holds_code P s hc
  simpa [code, ratOf] using this

/-- A value that the format holds, however it is written, is rounded to itself without a flag. -/
theorem roundNum_holds {f : Fp.Fmt} (P : Proper f) (rm : Nat) (sat s : Bool) {m k : Nat} {e q : Int} (hm : m ≠ 0)
    (hk : Canon f k q) (h : mag m e = mag k q) :
    Holds f (roundNum f rm sat s m e false).1 (ratOf s m e) ∧ (roundNum f rm sat s m e false).2 = 0 := by
  have hk0 : k ≠ 0 := fun h0 => hm (mag_eq_zero.mp (by rw [h, h0, mag_zero]))
  have hr : ratOf s m e = ratOf s k q := by rw [ratOf_eq, ratOf_eq, h]
  rw [roundNum_congr hm hk0 h, roundNum_canon rm sat s hk hk0, hr]
  exact ⟨holds_code P s hk, rfl⟩

/-- Few enough bits, and not beyond the exponents: a format other than e4m3 holds the value. -/
theorem canon_of_bits {f : Fp.Fmt} (P : Proper f) (h8 : f.e4m3 = false) {m : Nat} {e : Int} (hm : m ≠ 0) (bits : m < 2 ^ (f.fb + 1))
    (low : f.emin - f.fb ≤ e) (high : expOf m e ≤ f.emax) : ∃ k q, Canon f k q ∧ mag m e = mag k q := by
  have hlog : Nat.log2 m < f.fb + 1 := (Nat.log2_lt hm).mpr bits
  have hE : expOf m e = Nat.log2 m + e := rfl
  have hq : unitExp f m e ≤ e := by unfold unitExp; split <;> omega
  obtain ⟨j, hj⟩ : ∃ j : Nat, e = unitExp f m e + j := ⟨(e - unitExp f m e).toNat, by omega⟩
  have hmag : mag (m * 2 ^ j) (unitExp f m e) = mag m e := by rw [mag_shift, ← hj]
  have hle := emin_le_emax P.exps
  have hlt : m * 2 ^ j < 2 ^ (f.fb + 1) := by
    have := mag_lt_units (f := f) hm e
    rw [mag_div, show e - unitExp f m e = (j : Int) by omega, mag_natCast] at this
    exact_mod_cast this
  refine ⟨m * 2 ^ j, unitExp f m e, ⟨hlt, emin_le_unitExp f m e, ?_, fun hs => ?_, fun h => ?_⟩, hmag.symm⟩
  · unfold unitExp; split <;> omega
  · by_contra hne
    have := units_full (f := f) hm e hne
    rw [mag_div, show e - unitExp f m e = (j : Int) by omega, mag_natCast, Nat.floor_natCast] at this
    omega
  · rw [h8] at h; cases h

/-! ### Between floats (R71, Table 7.4) -/

/-- A format that holds every finite value of another. -/
structure Wider (f h : Fp.Fmt) : Prop where
  bits : f.fb ≤ h.fb
  low  : h.emin - h.fb ≤ f.emin - f.fb
  high : f.emax ≤ h.emax
  full : h.e4m3 = false

theorem Canon.expOf_le {f : Fp.Fmt} {m : Nat} {e : Int} (h : Canon f m e) (hm : m ≠ 0) : expOf m e ≤ f.emax := by
  have : Nat.log2 m < f.fb + 1 := (Nat.log2_lt hm).mpr h.bits
  have := h.high
  simp only [expOf]; omega

theorem Wider.canon {f h : Fp.Fmt} (P : Proper h) (w : Wider f h) {m : Nat} {e : Int} (hm : m ≠ 0) (hc : Canon f m e) :
    ∃ k q, Canon h k q ∧ mag m e = mag k q := by
  have h2 : 2 ^ (f.fb + 1) ≤ 2 ^ (h.fb + 1) := Nat.pow_le_pow_right (by decide) (by have := w.bits; omega)
  exact canon_of_bits P w.full hm (hc.bits.trans_le h2) (w.low.trans hc.low) ((hc.expOf_le hm).trans w.high)

/-- The exact pairs of Table 7.4. -/
theorem wider_of_exactPair {src dst : Nat} (hs : 4 ≤ src ∧ src ≤ 9) (hd : 4 ≤ dst ∧ dst ≤ 9)
    (h : src = dst ∨ dst = 5 ∨ (dst = 4 ∧ src ≠ 5) ∨ ((dst = 6 ∨ dst = 7) ∧ (src = 8 ∨ src = 9))) :
    src = dst ∨ Wider (Fp.ofTy src) (Fp.ofTy dst) := by
  have wide : ∀ s ∈ [4, 5, 6, 7, 8, 9], ∀ d ∈ [4, 5, 6, 7, 8, 9],
      (s = d ∨ d = 5 ∨ (d = 4 ∧ s ≠ 5) ∨ ((d = 6 ∨ d = 7) ∧ (s = 8 ∨ s = 9))) → s = d ∨
      ((Fp.ofTy s).fb ≤ (Fp.ofTy d).fb ∧ (Fp.ofTy d).emin - (Fp.ofTy d).fb ≤ (Fp.ofTy s).emin - (Fp.ofTy s).fb ∧
        (Fp.ofTy s).emax ≤ (Fp.ofTy d).emax ∧ (Fp.ofTy d).e4m3 = false) := by decide
  have mem : ∀ t, 4 ≤ t ∧ t ≤ 9 → t ∈ [4, 5, 6, 7, 8, 9] := fun t ht => by
    simp only [List.mem_cons, List.not_mem_nil, or_false]; omega
  exact (wide src (mem src hs) dst (mem dst hd) h).imp_right fun ⟨a, b, c, d⟩ => ⟨a, b, c, d⟩

/-- A zero in a format's bits (R71). -/
theorem convert_num (f h : Fp.Fmt) (rm : Nat) (sat : Bool) {x : BitVec 64} {s : Bool} {m : Nat} {e : Int} (hx : Fp.decode f x = .num s m e) :
    Fp.convert f h rm sat x = if m = 0 then (BitVec.ofNat 64 (h.zero s), 0) else roundNum h rm sat s m e false := by
  simp only [Fp.convert, hx]

theorem floatBecomes_convert {src dst rm : Nat} {sat : Bool} (x : BitVec 64) (hs : 4 ≤ src ∧ src ≤ 9) (hd : 4 ≤ dst ∧ dst ≤ 9) :
    FloatBecomes (Fp.ofTy src) (Fp.ofTy dst) src dst rm sat x (Fp.convert (Fp.ofTy src) (Fp.ofTy dst) rm sat x) := by
  have P := proper_ofTy dst
  refine ⟨fun q hx => ?_, fun sg hx => ?_, fun sg e hx => ?_, fun sg m e hx hm => ?_, fun hp sg m e hx => ?_⟩
  · simp only [Fp.convert, hx]; rfl
  · have hquiet : (Fp.ofTy dst).quiet = decide (dst = 8 ∨ dst = 9) := by
      obtain ⟨lo, hi⟩ := hd; interval_cases dst <;> rfl
    have hshort : (Fp.ofTy dst).e4m3 = decide (dst = 8) := by
      obtain ⟨lo, hi⟩ := hd; interval_cases dst <;> rfl
    simp only [Fp.convert, hx, hquiet, hshort, Bool.and_eq_true, decide_eq_true_eq]
    rfl
  · rw [convert_num _ _ _ _ hx, if_pos rfl]
  · rw [convert_num _ _ _ _ hx, if_neg hm]
  · rw [convert_num _ _ _ _ hx]
    have hc := canon_of_decode (proper_ofTy src) hx
    by_cases hm : m = 0
    · rw [if_pos hm, hm]
      have : ratOf sg 0 e = 0 := by simp [ratOf]
      rw [this]
      exact ⟨holds_zero P sg, rfl⟩
    · rw [if_neg hm]
      rcases wider_of_exactPair hs hd hp with rfl | w
      · exact roundNum_holds P rm sat sg hm hc rfl
      · obtain ⟨k, q, hk, he⟩ := w.canon P hm hc
        exact roundNum_holds P rm sat sg hm hk he

/-! ### Into integers (R72) -/

theorem roundQ_exact_iff {x : ℚ} (hx : 0 ≤ x) {rm : Nat} {s : Bool} : (roundQ rm s x).2 = true ↔ ((roundQ rm s x).1 : ℚ) = x := by
  obtain ⟨lo, hi⟩ := floor_le_lt hx
  have h2 : (roundQ rm s x).2 = decide (x = (⌊x⌋₊ : Nat)) := rfl
  rw [h2, decide_eq_true_eq]
  constructor
  · intro h
    rw [h, roundQ_natCast]
  · intro h
    rcases roundQ_floor_or hx (rm := rm) (s := s) with e | ⟨e, -⟩ <;> rw [e] at h
    · exact h.symm
    · push_cast at h; linarith

theorem roundQ_down_eq_floor {x : ℚ} (hx : 0 ≤ x) {rm : Nat} {s : Bool} (h : rm = 1 ∨ (rm = 2 ∧ s = false) ∨ (rm = 3 ∧ s = true)) :
    ((roundQ rm s x).1 : Int) = ⌊x⌋ := by
  rw [roundQ_down h, Int.natCast_floor_eq_floor hx]

theorem roundQ_up_eq_ceil {x : ℚ} (hx : 0 ≤ x) {rm : Nat} {s : Bool} (h : (rm = 2 ∧ s = true) ∨ (rm = 3 ∧ s = false)) :
    ((roundQ rm s x).1 : Int) = ⌈x⌉ := by
  obtain ⟨lo, hi⟩ := floor_le_lt hx
  refine (Int.ceil_eq_iff.mpr ⟨?_, by exact_mod_cast roundQ_up h⟩).symm
  rcases roundQ_floor_or hx (rm := rm) (s := s) with e | ⟨e, lt⟩ <;> rw [e] <;> push_cast
  · linarith
  · linarith

/-- Where a fraction is below a half, or is a half over an even number. -/
def roundsDown (x : ℚ) : Prop := x - ⌊x⌋ < 1 / 2 ∨ (x - ⌊x⌋ = 1 / 2 ∧ ⌊x⌋ % 2 = 0)

theorem roundQ_even {x : ℚ} (hx : 0 ≤ x) (s : Bool) :
    (roundsDown x → ((roundQ 0 s x).1 : Int) = ⌊x⌋) ∧ (¬roundsDown x → ((roundQ 0 s x).1 : Int) = ⌊x⌋ + 1) := by
  obtain ⟨lo, hi⟩ := floor_le_lt hx
  obtain ⟨near, even⟩ := roundQ_nearest hx (s := s)
  have hfi : ((⌊x⌋₊ : Nat) : Int) = ⌊x⌋ := Int.natCast_floor_eq_floor hx
  unfold roundsDown
  rw [← hfi, Int.cast_natCast]
  rcases roundQ_floor_or hx (rm := 0) (s := s) with e | ⟨e, lt⟩
  · rw [e] at near even ⊢
    rw [abs_of_nonneg (by linarith)] at near even
    refine ⟨fun _ => rfl, fun h => absurd ?_ h⟩
    rcases lt_or_eq_of_le near with h | h
    · exact Or.inl h
    · exact Or.inr ⟨h, by have := even h; omega⟩
  · rw [e] at near even ⊢
    push_cast at near even ⊢
    rw [abs_of_nonpos (by linarith)] at near even
    refine ⟨fun h => absurd h ?_, fun _ => rfl⟩
    rintro (h | ⟨h, hev⟩)
    · linarith
    · have := even (by linarith)
      omega

/-- Negating a number turns its ceiling into a floor. -/
theorem roundsDown_neg {x : ℚ} (h : x ≠ ⌊x⌋) : ⌊-x⌋ = -⌊x⌋ - 1 ∧ (roundsDown (-x) ↔ ¬roundsDown x) := by
  have hlt : (⌊x⌋ : ℚ) < x := lt_of_le_of_ne (Int.floor_le x) (Ne.symm h)
  have hfl : ⌊-x⌋ = -⌊x⌋ - 1 := by
    rw [Int.floor_eq_iff]
    push_cast
    exact ⟨by linarith [Int.lt_floor_add_one x], by linarith⟩
  refine ⟨hfl, ?_⟩
  unfold roundsDown
  rw [hfl]
  push_cast
  constructor
  · rintro (a | ⟨a, b⟩) (c | ⟨c, d⟩)
    · linarith
    · linarith
    · linarith
    · omega
  · intro hn
    rw [not_or, not_lt, not_and] at hn
    rcases lt_or_eq_of_le hn.1 with c | c
    · left; linarith
    · right
      have := hn.2 c.symm
      exact ⟨by linarith, by omega⟩

/-- The integer that a number rounds to has its sign and the magnitude that the quotient rounds to. -/
theorem toWhole_signed {rm : Nat} (hrm : rm < 4) (s : Bool) {x : ℚ} (hx : 0 ≤ x) :
    toWhole rm (if s then -x else x) = if s then -((roundQ rm s x).1 : Int) else ((roundQ rm s x).1 : Int) := by
  have hev := roundQ_even hx s
  have dn := fun h => roundQ_down_eq_floor hx (rm := rm) (s := s) h
  have up := fun h => roundQ_up_eq_ceil hx (rm := rm) (s := s) h
  have nearest : ∀ y : ℚ, (roundsDown y → toWhole 0 y = ⌊y⌋) ∧ (¬roundsDown y → toWhole 0 y = ⌊y⌋ + 1) := fun y => by
    simp only [toWhole, show ¬(0 = 1) by decide, show ¬(0 = 2) by decide, show ¬(0 = 3) by decide, if_false]
    exact ⟨fun h => if_pos h, fun h => if_neg h⟩
  interval_cases rm <;> cases s <;> simp only [Bool.false_eq_true, if_true, if_false]
  · by_cases h : roundsDown x
    · rw [(nearest x).1 h, hev.1 h]
    · rw [(nearest x).2 h, hev.2 h]
  · by_cases hw : x = ⌊x⌋
    · have hd : roundsDown x := Or.inl (by linarith)
      have hd' : roundsDown (-x) := Or.inl (by rw [hw, ← Int.cast_neg, Int.floor_intCast]; linarith)
      rw [(nearest _).1 hd', hev.1 hd, hw, ← Int.cast_neg, Int.floor_intCast, Int.floor_intCast]
    · obtain ⟨hfl, hiff⟩ := roundsDown_neg hw
      by_cases h : roundsDown x
      · rw [(nearest _).2 fun k => hiff.mp k h, hev.1 h, hfl]; ring
      · rw [(nearest _).1 (hiff.mpr h), hev.2 h, hfl]; ring
  · rw [dn (Or.inl rfl)]
    simp [toWhole, not_lt.mpr hx]
  · rw [dn (Or.inl rfl)]
    by_cases h0 : x = 0
    · simp [toWhole, h0]
    · have : -x < 0 := by have := lt_of_le_of_ne hx (Ne.symm h0); linarith
      simp only [toWhole, if_true, this, Int.ceil_neg]
  · rw [dn (Or.inr (Or.inl ⟨rfl, rfl⟩))]
    simp [toWhole]
  · rw [up (Or.inl ⟨rfl, rfl⟩)]
    simp [toWhole, Int.floor_neg]
  · rw [up (Or.inr ⟨rfl, rfl⟩)]
    simp [toWhole]
  · rw [dn (Or.inr (Or.inr ⟨rfl, rfl⟩))]
    simp [toWhole, Int.ceil_neg]

/-- A finite number as an integer of a type: clamped to its range with NV, else with NX where it is rounded (R72). -/
theorem toInt_num {f : Fp.Fmt} {rm : Nat} (hrm : rm < 4) (signed : Bool) (w : Nat) {x : BitVec 64} {s : Bool} {m : Nat} {e : Int}
    (hx : Fp.decode f x = .num s m e) :
    Fp.toInt f rm signed w x =
      if toWhole rm (ratOf s m e) < minOf signed w then (minOf signed w, 1)
      else if maxOf signed w < toWhole rm (ratOf s m e) then (maxOf signed w, 1)
      else (toWhole rm (ratOf s m e), if (toWhole rm (ratOf s m e) : ℚ) = ratOf s m e then 0 else 16) := by
  have hr : (if 0 ≤ e then (m * 2 ^ e.toNat, true) else roundAt rm s m e false 0) = roundQ rm s (mag m e) := by
    split
    next he =>
      have : mag m e = ((m * 2 ^ e.toNat : Nat) : ℚ) := by rw [← mag_natCast, Int.toNat_of_nonneg he]
      rw [this, roundQ_natCast]
    next => rw [roundAt_eq, zpow_zero, div_one]
  have hw := toWhole_signed hrm s (mag_nonneg m e)
  rw [← ratOf_eq] at hw
  have hex : (roundQ rm s (mag m e)).2 = decide ((toWhole rm (ratOf s m e) : ℚ) = ratOf s m e) := by
    rw [Bool.eq_iff_iff, roundQ_exact_iff (mag_nonneg m e), decide_eq_true_eq, hw, ratOf_eq]
    cases s <;> simp
  simp only [Fp.toInt, hx, hr]
  rw [← hw, hex]
  simp only [Fp.NV, Fp.NX, decide_eq_true_eq]

/-- The integer types of Table 4.6 with their ranges. -/
theorem int_range {t : Nat} (h : t < 4 ∨ t = 13 ∨ t = 14) :
    minOf (isSigned t) (intWidth t) = least t ∧ maxOf (isSigned t) (intWidth t) = greatest t := by
  have : t = 0 ∨ t = 1 ∨ t = 2 ∨ t = 3 ∨ t = 13 ∨ t = 14 := by omega
  rcases this with rfl | rfl | rfl | rfl | rfl | rfl <;> exact ⟨rfl, rfl⟩

theorem setWidth_ofInt {v w : Nat} (h : w ≤ v) (k : Int) : (BitVec.ofInt v k).setWidth w = BitVec.ofInt w k := by
  refine BitVec.eq_of_toNat_eq ?_
  have hd : (2 : Int) ^ w ∣ 2 ^ v := pow_dvd_pow 2 h
  have h0 : (2 : Int) ^ w ≠ 0 := by positivity
  have h0' : (2 : Int) ^ v ≠ 0 := by positivity
  rw [BitVec.toNat_setWidth, BitVec.toNat_ofInt, BitVec.toNat_ofInt]
  zify
  rw [Int.toNat_of_nonneg (Int.emod_nonneg _ h0'), Int.toNat_of_nonneg (Int.emod_nonneg _ h0)]
  exact Int.emod_emod_of_dvd k hd

/-- An integer in the range of an 8-bit type is held in 32 bits as in 8. -/
theorem signExtend_ofInt8 {k : Int} (lo : -128 ≤ k) (hi : k ≤ 127) : (BitVec.ofInt 8 k).signExtend 64 = BitVec.ofInt 64 k := by
  refine BitVec.eq_of_toInt_eq ?_
  rw [BitVec.toInt_signExtend, BitVec.toInt_ofInt, BitVec.toInt_ofInt, Int.bmod_eq_of_le (n := k) (by norm_num; omega) (by norm_num; omega),
    Int.bmod_eq_of_le (by norm_num; omega) (by norm_num; omega), Int.bmod_eq_of_le (by norm_num; omega) (by norm_num; omega)]

theorem setWidth_ofInt8 {k : Int} (lo : 0 ≤ k) (hi : k ≤ 255) : (BitVec.ofInt 8 k).setWidth 64 = (BitVec.ofInt 32 k).setWidth 64 := by
  refine BitVec.eq_of_toNat_eq ?_
  rw [BitVec.toNat_setWidth, BitVec.toNat_setWidth, BitVec.toNat_ofInt, BitVec.toNat_ofInt]
  norm_num
  omega

/-- An integer of the type as its register holds it (R68, R117). -/
theorem placeFcvt_ofInt {t : Nat} (h : t < 4 ∨ t = 13 ∨ t = 14) {k : Int} (lo : least t ≤ k) (hi : k ≤ greatest t) :
    placeFcvt t (BitVec.ofInt 64 k) = inReg t k := by
  have : t = 0 ∨ t = 1 ∨ t = 2 ∨ t = 3 ∨ t = 13 ∨ t = 14 := by omega
  rcases this with rfl | rfl | rfl | rfl | rfl | rfl
  · simp [placeFcvt, inReg, zext, setWidth_ofInt]
  · simp [placeFcvt, inReg, zext, setWidth_ofInt]
  · rfl
  · rfl
  · have lo : -128 ≤ k := lo
    have hi : k ≤ 127 := hi
    simp only [placeFcvt, inReg, zext, sext]
    rw [setWidth_ofInt (by decide), signExtend_ofInt8 lo hi, setWidth_ofInt (by decide)]
    rfl
  · have lo : 0 ≤ k := lo
    have hi : k ≤ 255 := hi
    simp only [placeFcvt, inReg, zext]
    rw [setWidth_ofInt (by decide), setWidth_ofInt8 lo hi]
    rfl

theorem least_le_greatest {t : Nat} (h : t < 4 ∨ t = 13 ∨ t = 14) : least t ≤ 0 ∧ 0 ≤ greatest t ∧ least t ≤ greatest t := by
  have : t = 0 ∨ t = 1 ∨ t = 2 ∨ t = 3 ∨ t = 13 ∨ t = 14 := by omega
  rcases this with rfl | rfl | rfl | rfl | rfl | rfl <;> decide

/-! ### From integers -/

/-- An integer of the type read from the register that holds it. -/
theorem intOf_ofInt {t : Nat} (h : t < 4 ∨ t = 13 ∨ t = 14) {k : Int} (lo : least t ≤ k) (hi : k ≤ greatest t) :
    intOf (isSigned t) (intWidth t) (BitVec.ofInt 64 k) = k := by
  have hw : intWidth t ≤ 64 := by unfold intWidth; split_ifs <;> decide
  rw [intOf, setWidth_ofInt hw, BitVec.toInt_ofInt, BitVec.toNat_ofInt]
  have : t = 0 ∨ t = 1 ∨ t = 2 ∨ t = 3 ∨ t = 13 ∨ t = 14 := by omega
  rcases this with rfl | rfl | rfl | rfl | rfl | rfl <;> simp [isSigned, intWidth, least, greatest] at lo hi ⊢
  · exact Int.bmod_eq_of_le (by norm_num; omega) (by norm_num; omega)
  · omega
  · exact Int.bmod_eq_of_le (by norm_num; omega) (by norm_num; omega)
  · omega
  · exact Int.bmod_eq_of_le (by norm_num; omega) (by norm_num; omega)
  · omega

theorem ratOf_natAbs (k : Int) : ratOf (decide (k < 0)) k.natAbs 0 = k := by
  rw [ratOf_eq]
  have hm : mag k.natAbs 0 = |(k : ℚ)| := by rw [mag, zpow_zero, mul_one, Nat.cast_natAbs, Int.cast_abs]
  rw [hm]
  by_cases h : k < 0
  · have : (k : ℚ) < 0 := by exact_mod_cast h
    simp [h, abs_of_neg this]
  · have : (0 : ℚ) ≤ k := by exact_mod_cast not_lt.mp h
    simp [h, abs_of_nonneg this]

theorem fromInt_holds {f : Fp.Fmt} (P : Proper f) (rm : Nat) (sat : Bool) {k : Int}
    (h : k ≠ 0 → ∃ m q, Canon f m q ∧ mag k.natAbs 0 = mag m q) :
    Holds f (Fp.fromInt f rm sat k).1 (k : ℚ) ∧ (Fp.fromInt f rm sat k).2 = 0 := by
  by_cases h0 : k = 0
  · rw [Fp.fromInt, if_pos h0, h0]
    exact ⟨by simpa using holds_zero P false, rfl⟩
  · rw [Fp.fromInt, if_neg h0, ← ratOf_natAbs k]
    obtain ⟨m, q, hc, hm⟩ := h h0
    exact roundNum_holds P rm sat _ (by omega) hc hm

/-- f64 holds every integer of at most 53 bits, and 2^53. -/
theorem canon_f64_int {n : Nat} (h0 : n ≠ 0) (h : n ≤ 2 ^ 53) : ∃ m q, Canon Fp.f64 m q ∧ mag n 0 = mag m q := by
  rcases lt_or_eq_of_le h with h | h
  · refine canon_of_bits proper_f64 rfl h0 h (by decide) ?_
    have : Nat.log2 n < 53 := (Nat.log2_lt h0).mpr h
    have : Fp.f64.emax = 1023 := by decide
    simp only [expOf]; omega
  · refine ⟨2 ^ 52, 1, ⟨by decide, by decide, by decide, by decide, by decide⟩, ?_⟩
    exact h ▸ mag_shift (2 ^ 52) 1 0

/-- f32, f16 and bf16 hold every integer of an 8-bit type. -/
theorem canon_byte {t n : Nat} (ht : t = 4 ∨ t = 6 ∨ t = 7) (h0 : n ≠ 0) (h : n ≤ 255) :
    ∃ m q, Canon (Fp.ofTy t) m q ∧ mag n 0 = mag m q := by
  have h8 : Nat.log2 n < 8 := (Nat.log2_lt h0).mpr (by omega)
  have key : (Fp.ofTy t).e4m3 = false ∧ 2 ^ 8 ≤ 2 ^ ((Fp.ofTy t).fb + 1) ∧ (Fp.ofTy t).emin - (Fp.ofTy t).fb ≤ 0 ∧ 7 ≤ (Fp.ofTy t).emax := by
    rcases ht with rfl | rfl | rfl <;> decide
  obtain ⟨k8, kb, kl, kh⟩ := key
  refine canon_of_bits (proper_ofTy t) k8 h0 (by omega) kl ?_
  simp only [expOf]; omega

end Sys2Proof.Proofs
end

section
/-! PROOFS. Conversions by the pair of their types (R71, R72, R127), packed bytes (R132), and the special and exact values of the seeds
(R128, R129, Table 7.6). -/
namespace Sys2Proof.Proofs

open Sys2Proof Sys2Proof.Machine Sys2Proof.Safety Sys2Proof.Claims
open Sys2Proof.Machine.Fp (expOf roundNum)

/-! ### fcvt (R127) -/

theorem isInt_eq (t : Nat) : isInt t = decide (t < 4 ∨ t = 13 ∨ t = 14) := by
  rw [Bool.eq_iff_iff]
  simp only [isInt, Bool.or_eq_true, beq_iff_eq, decide_eq_true_eq]
  omega

theorem isInt_of {t : Nat} (h : t < 4 ∨ t = 13 ∨ t = 14) : isInt t = true := by rw [isInt_eq, decide_eq_true h]

theorem isInt_of_float {t : Nat} (h : 4 ≤ t ∧ t ≤ 9) : isInt t = false := by rw [isInt_eq, decide_eq_false (by omega)]

theorem convertOne_floats {src dst : Nat} (hs : 4 ≤ src ∧ src ≤ 9) (hd : 4 ≤ dst ∧ dst ≤ 9) (rm : Nat) (sat : Bool) (x : BitVec 64) :
    convertOne src dst rm sat x = Fp.convert (Fp.ofTy src) (Fp.ofTy dst) rm sat x := by
  simp [convertOne, isInt_of_float hs, isInt_of_float hd]

theorem convertOne_toInt {src dst : Nat} (hs : 4 ≤ src ∧ src ≤ 9) (hd : dst < 4 ∨ dst = 13 ∨ dst = 14) (rm : Nat) (sat : Bool)
    (x : BitVec 64) :
    convertOne src dst rm sat x = (placeFcvt dst (BitVec.ofInt 64 (Fp.toInt (Fp.ofTy src) rm (isSigned dst) (intWidth dst) x).1),
      (Fp.toInt (Fp.ofTy src) rm (isSigned dst) (intWidth dst) x).2) := by
  simp [convertOne, isInt_of_float hs, isInt_of hd]

/-- An integer source converts as the integer that it holds; a pair of Table 7.4 that is exact ignores RND. -/
theorem convertOne_fromInt {src dst : Nat} (hs : src < 4 ∨ src = 13 ∨ src = 14) {k : Int} (lo : least src ≤ k) (hi : k ≤ greatest src)
    (rm : Nat) (sat : Bool) :
    convertOne src dst rm sat (BitVec.ofInt 64 k) = Fp.fromInt (Fp.ofTy dst) (if exactPair src dst then 0 else rm) sat k := by
  simp [convertOne, isInt_of hs, intOf_ofInt hs lo hi]

theorem exactPair_fromInt {src : Nat} (hs : src < 4 ∨ src = 13 ∨ src = 14) (dst : Nat) :
    exactPair src dst = decide (dst = 5 ∨ ((src = 13 ∨ src = 14) ∧ (dst = 4 ∨ dst = 6 ∨ dst = 7))) := by
  rw [Bool.eq_iff_iff]
  simp [exactPair, isInt_of hs, or_assoc]

theorem floatToInt {src dst rm : Nat} {sat : Bool} {x : BitVec 64} (hrm : rm < 4) (hs : 4 ≤ src ∧ src ≤ 9)
    (hd : dst < 4 ∨ dst = 13 ∨ dst = 14) :
    (∀ q, Fp.decode (Fp.ofTy src) x = .nan q → convertOne src dst rm sat x = (0, 1)) ∧
    (∀ sg, Fp.decode (Fp.ofTy src) x = .inf sg →
      convertOne src dst rm sat x = (inReg dst (if sg then least dst else greatest dst), 1)) ∧
    (∀ sg m e, Fp.decode (Fp.ofTy src) x = .num sg m e →
      convertOne src dst rm sat x =
        if toWhole rm (ratOf sg m e) < least dst then (inReg dst (least dst), 1)
        else if greatest dst < toWhole rm (ratOf sg m e) then (inReg dst (greatest dst), 1)
        else (inReg dst (toWhole rm (ratOf sg m e)), if (toWhole rm (ratOf sg m e) : ℚ) = ratOf sg m e then 0 else 16)) := by
  obtain ⟨lo, hi, le⟩ := least_le_greatest hd
  obtain ⟨hmin, hmax⟩ := int_range hd
  rw [convertOne_toInt hs hd]
  refine ⟨fun q hx => ?_, fun sg hx => ?_, fun sg m e hx => ?_⟩
  · simp only [Fp.toInt, hx]
    rw [placeFcvt_ofInt hd lo hi]
    refine Prod.ext ?_ rfl
    simp only [inReg]
    split <;> rfl
  · simp only [Fp.toInt, hx, hmin, hmax]
    cases sg
    · exact Prod.ext (placeFcvt_ofInt hd le le_rfl) rfl
    · exact Prod.ext (placeFcvt_ofInt hd le_rfl le) rfl
  · rw [toInt_num hrm _ _ hx, hmin, hmax]
    split_ifs with h1 h2
    · exact Prod.ext (placeFcvt_ofInt hd le_rfl le) rfl
    · exact Prod.ext (placeFcvt_ofInt hd le le_rfl) rfl
    · exact Prod.ext (placeFcvt_ofInt hd (not_lt.mp h1) (not_lt.mp h2)) rfl
    · exact Prod.ext (placeFcvt_ofInt hd (not_lt.mp h1) (not_lt.mp h2)) rfl

theorem intToFloat {src dst rm : Nat} {sat : Bool} {k : Int} (hs : src < 4 ∨ src = 13 ∨ src = 14)
    (lo : least src ≤ k) (hi : k ≤ greatest src) :
    let y := convertOne src dst rm sat (BitVec.ofInt 64 k)
    (k = 0 → y = (0, 0)) ∧
    (k ≠ 0 → ¬((src = 13 ∨ src = 14) ∧ (dst = 4 ∨ dst = 6 ∨ dst = 7)) →
      y = roundNum (Fp.ofTy dst) (if dst = 5 then 0 else rm) sat (decide (k < 0)) k.natAbs 0 false) ∧
    ((k.natAbs ≤ 2 ^ 53 ∧ dst = 5) ∨ ((src = 13 ∨ src = 14) ∧ (dst = 4 ∨ dst = 6 ∨ dst = 7)) →
      Holds (Fp.ofTy dst) y.1 (k : ℚ) ∧ y.2 = 0) := by
  intro y
  have hy : y = _ := convertOne_fromInt hs lo hi rm sat
  rw [hy, exactPair_fromInt hs]
  refine ⟨fun h0 => ?_, fun h0 hp => ?_, fun hp => fromInt_holds (proper_ofTy dst) _ _ fun h0 => ?_⟩
  · rw [Fp.fromInt, if_pos h0]
    rfl
  · rw [Fp.fromInt, if_neg h0]
    simp only [hp, or_false, decide_eq_true_eq]
  · rcases hp with ⟨hk, rfl⟩ | ⟨hb, ht⟩
    · exact canon_f64_int (by omega) hk
    · refine canon_byte ht (by omega) ?_
      rcases hb with rfl | rfl
      · have lo : -128 ≤ k := lo
        have hi : k ≤ 127 := hi
        omega
      · have lo : 0 ≤ k := lo
        have hi : k ≤ 255 := hi
        omega

/-! ### Packed bytes (R132) -/

/-- The effective type of an instruction is one of its row's types or the default. -/
theorem ty_pk4 (c : Ctl) (p : PayA) (scal : Bool) : (p.ins Rows.rowPk4 c).ty scal ∈ [8, 9, 13, 14] := by
  have hr : (p.ins Rows.rowPk4 c).readsTy = true := rfl
  have hb : (p.ins Rows.rowPk4 c).bothInts scal = false := rfl
  have hml : ¬((p.ins Rows.rowPk4 c).tyCode = 5 ∧ ((p.ins Rows.rowPk4 c).row.fmt = .ML ∨
      ((p.ins Rows.rowPk4 c).row.dflt = 0 ∧ ((p.ins Rows.rowPk4 c).row.opc = 0x80 ∨ (p.ins Rows.rowPk4 c).row.opc = 0x81)))) := by
    rintro ⟨-, h | ⟨h, -⟩⟩ <;> cases h
  rw [Ins.ty, hr, hb, if_neg hml]
  simp only [Bool.not_true, Bool.false_eq_true, if_false]
  split
  next ha =>
    simp only [Ins.accepts, Bool.and_eq_true, Bool.or_eq_true] at ha
    obtain ⟨h | ⟨-, h⟩, -⟩ := ha
    · exact List.contains_iff_mem.mp h
    · cases h
  next => exact List.mem_cons_self

theorem getLsbD_zero_bits (p : PayA) : p.bits.getLsbD 0 = p.mod.getLsbD 0 := by
  rw [PayA.bits, BitVec.getLsbD_append, if_pos (by decide)]

theorem and_mask8 (a : BitVec 64) : a &&& 0xFF#64 = (a.setWidth 8).setWidth 64 := by
  refine BitVec.eq_of_toNat_eq ?_
  have : a.toNat &&& (2 ^ 8 - 1) = a.toNat % 2 ^ 8 := Nat.and_two_pow_sub_one_eq_mod _ 8
  rw [BitVec.toNat_and, BitVec.toNat_setWidth, BitVec.toNat_setWidth]
  simp at this ⊢
  omega

/-- Two bytes side by side. -/
theorem bytes_join (a b : BitVec 64) :
    (a &&& 0xFF) ||| ((b &&& 0xFF) <<< 8) = ((b.setWidth 8 ++ a.setWidth 8 : BitVec 16)).setWidth 64 := by
  show (a &&& 0xFF#64) ||| ((b &&& 0xFF#64) <<< 8) = _
  rw [and_mask8, and_mask8]
  refine BitVec.eq_of_getLsbD_eq fun i hi => ?_
  simp only [BitVec.getLsbD_or, BitVec.getLsbD_shiftLeft, BitVec.getLsbD_setWidth, BitVec.getLsbD_append]
  by_cases h8 : i < 8
  · simp [h8, hi]
  · by_cases h16 : i - 8 < 8
    · simp [h8, hi, h16, show i - 8 < 64 by omega]
    · simp [h8, h16]

/-- The halves of a 32-bit value with one of them replaced. -/
theorem half_replaced (d : BitVec 64) (two : BitVec 16) :
    (zext 32 d &&& ~~~(0xFFFF#64 <<< 0)) ||| (two.setWidth 64 <<< 0) =
      ((d.setWidth 32).extractLsb' 16 16 ++ two : BitVec 32).setWidth 64 ∧
    (zext 32 d &&& ~~~(0xFFFF#64 <<< 16)) ||| (two.setWidth 64 <<< 16) =
      (two ++ (d.setWidth 32).extractLsb' 0 16 : BitVec 32).setWidth 64 := by
  have m0 : ∀ i < 64, (~~~(0xFFFF#64 <<< 0)).getLsbD i = !decide (i < 16) := by decide
  have m16 : ∀ i < 64, (~~~(0xFFFF#64 <<< 16)).getLsbD i = (decide (i < 16) || decide (32 ≤ i)) := by decide
  constructor <;> refine BitVec.eq_of_getLsbD_eq fun i hi => ?_
  · rw [BitVec.getLsbD_or, BitVec.getLsbD_and, m0 i hi]
    simp only [zext, BitVec.getLsbD_shiftLeft, BitVec.getLsbD_setWidth, BitVec.getLsbD_append, BitVec.getLsbD_extractLsb']
    by_cases h16 : i < 16
    · simp [h16, hi]
    · have h2 : two.getLsbD i = false := BitVec.getLsbD_of_ge two i (by omega)
      by_cases h32 : i < 32
      · simp [h16, h32, h2, show i - 16 < 16 by omega, show 16 + (i - 16) = i by omega]
      · simp [h16, h32, h2, show ¬(i - 16 < 16) by omega]
  · rw [BitVec.getLsbD_or, BitVec.getLsbD_and, m16 i hi]
    simp only [zext, BitVec.getLsbD_shiftLeft, BitVec.getLsbD_setWidth, BitVec.getLsbD_append, BitVec.getLsbD_extractLsb']
    by_cases h16 : i < 16
    · simp [h16, hi, show i < 32 by omega]
    · by_cases h32 : i < 32
      · simp [h16, h32, show i - 16 < 64 by omega, show ¬(32 ≤ i) by omega]
      · have h2 : two.getLsbD (i - 16) = false := BitVec.getLsbD_of_ge two _ (by omega)
        simp [h16, h32, h2]

/-- A byte of pk4, in its low eight bits (R132). -/
def pk4Byte (g : Go) (i l : Nat) : BitVec 64 × BitVec 5 :=
  if g.ty = 13 ∨ g.ty = 14 then
    let v := (low g i l).toInt
    let lo : Int := if g.ty = 13 then -128 else 0
    let hi : Int := if g.ty = 13 then 127 else 255
    (BitVec.ofInt 64 (if g.sat then (if v < lo then lo else if hi < v then hi else v) else v), 0)
  else Fp.convert Fp.f32 (Fp.ofTy g.ty) g.rm g.sat (g.val i l)

theorem setWidth_narrow8 (sat signed : Bool) (y : Int) : (narrow sat signed 8 y).setWidth 8 =
    (BitVec.ofInt 64 (if sat then clampInt (minOf signed 8) (maxOf signed 8) y else y)).setWidth 8 := by
  rw [narrow, setWidth_ofInt (v := 64) (by decide), BitVec.setWidth_setWidth_of_le _ (by decide), BitVec.setWidth_eq]

theorem pk4One_eq {g : Go} (h : g.ty ∈ [8, 9, 13, 14]) (i l : Nat) :
    (pk4One g.ty g.rm g.sat (g.val i l)).1.setWidth 8 = (pk4Byte g i l).1.setWidth 8 ∧
    (pk4One g.ty g.rm g.sat (g.val i l)).2 = (pk4Byte g i l).2 := by
  simp only [List.mem_cons, List.not_mem_nil, or_false] at h
  unfold pk4One pk4Byte
  rcases h with h | h | h | h <;> rw [h]
  · exact ⟨rfl, rfl⟩
  · exact ⟨rfl, rfl⟩
  · exact ⟨setWidth_narrow8 g.sat true (low g i l).toInt, rfl⟩
  · exact ⟨setWidth_narrow8 g.sat false (low g i l).toInt, rfl⟩

/-- What pk4 gives in a lane: the two bytes in the half that X names, the other half of D. -/
def pk4Lane (high : Bool) (g : Go) (l : Nat) : BitVec 64 × BitVec 5 :=
  let two : BitVec 16 := (pk4Byte g 1 l).1.setWidth 8 ++ (pk4Byte g 0 l).1.setWidth 8
  let d := low g 2 l
  (if high then (two ++ d.extractLsb' 0 16 : BitVec 32).setWidth 64 else (d.extractLsb' 16 16 ++ two : BitVec 32).setWidth 64,
    (pk4Byte g 0 l).2 ||| (pk4Byte g 1 l).2)

theorem byteAt_eq (x : BitVec 64) (k : BitVec 64) :
    byteAt x (k.toNat % 4) = (x.extractLsb' (8 * (k.extractLsb' 0 2).toNat) 8).setWidth 64 := by
  have hk : (k.extractLsb' 0 2).toNat = k.toNat % 4 := by simp [BitVec.extractLsb'_toNat]
  rw [hk]
  refine (and_mask8 _).trans (BitVec.eq_of_getLsbD_eq fun i hi => ?_)
  simp only [BitVec.getLsbD_setWidth, BitVec.getLsbD_ushiftRight, BitVec.getLsbD_extractLsb']

theorem resUpk4_eq (g : Go) : resUpk4 g =
    { vals := lanewise g fun l =>
        let b := (g.val 0 l).extractLsb' (8 * ((g.val 1 l).extractLsb' 0 2).toNat) 8
        if g.ty = 13 then (b.signExtend 32).setWidth 64 else if g.ty = 14 then b.setWidth 64
        else (Fp.convert (Fp.ofTy g.ty) Fp.f32 0 false (b.setWidth 64)).1
      tag := anyTag g } := by
  unfold resUpk4
  refine congrArg (fun v => ({ vals := v, tag := anyTag g } : Res)) (congrArg (lanewise g) (funext fun l => ?_))
  dsimp only
  rw [byteAt_eq]
  generalize (g.val 0 l).extractLsb' (8 * ((g.val 1 l).extractLsb' 0 2).toNat) 8 = b
  have hb : zext 32 (sext 8 (b.setWidth 64)) = (b.signExtend 32).setWidth 64 := by
    have h8 : (b.setWidth 64).setWidth 8 = b := by rw [BitVec.setWidth_setWidth_of_le _ (by decide), BitVec.setWidth_eq]
    rw [zext, sext, h8]
    refine BitVec.eq_of_getLsbD_eq fun i hi => ?_
    simp only [BitVec.getLsbD_setWidth, BitVec.getLsbD_signExtend]
    by_cases h32 : i < 32 <;> simp [h32, hi]
  unfold Go.fmt
  split <;> simp_all

/-! ### The exact value of an operand in fixed point -/

/-- A finite value at an exponent below its own is the whole number that it is a multiple of. -/
theorem scaled_cast (s : Bool) (m : Nat) {e q : Int} (h : q ≤ e) : (Fp.scaled s m e q : ℚ) = ratOf s m e / 2 ^ q := by
  have hm : ((m * 2 ^ (e - q).toNat : Nat) : ℚ) = mag m e / 2 ^ q := by
    rw [mag_div, ← mag_natCast, Int.toNat_of_nonneg (by omega)]
  rw [ratOf_eq, Fp.scaled]
  cases s
  · simpa using hm
  · simp only [if_true, Int.cast_neg, Int.cast_natCast, hm, neg_div]

/-- The finite values of f32. -/
theorem f32_range {x : BitVec 64} {s : Bool} {m : Nat} {e : Int} (hx : Fp.decode Fp.f32 x = .num s m e) :
    Canon Fp.f32 m e ∧ -149 ≤ e ∧ (m ≠ 0 → expOf m e ≤ 127) := by
  have hc := canon_of_decode proper_f32 hx
  have h1 : Fp.f32.emin - Fp.f32.fb = -149 := by decide
  have h2 : Fp.f32.emax = 127 := by decide
  exact ⟨hc, h1 ▸ hc.low, fun hm => h2 ▸ hc.expOf_le hm⟩

/-- A value that is k half units, in units of 2^-200. -/
theorem scaled_of_halves {s : Bool} {m : Nat} {e : Int} (he : -200 ≤ e) {k : Int} (h : 2 * ratOf s m e = k) :
    Fp.scaled s m e (-200) = k * 2 ^ 199 := by
  have hs := scaled_cast s m he
  have : (Fp.scaled s m e (-200) : ℚ) = ((k * 2 ^ 199 : Int) : ℚ) := by
    rw [hs, Int.cast_mul, ← h]
    norm_num
    ring
  exact_mod_cast this

/-- f32 holds the powers of two from 2^-149 to 2^127. -/
theorem canon_pow {n : Int} (lo : -149 ≤ n) (hi : n ≤ 127) : ∃ k q, Canon Fp.f32 k q ∧ mag 1 n = mag k q := by
  have h1 : Fp.f32.emin - Fp.f32.fb = -149 := by decide
  have h2 : Fp.f32.emax = 127 := by decide
  refine canon_of_bits proper_f32 rfl one_ne_zero (by decide) (by omega) ?_
  rw [h2, expOf, show Nat.log2 1 = 0 by decide]
  simpa using hi

/-! ### exs -/

theorem exs_overflow {x : BitVec 64} {s : Bool} {m : Nat} {e : Int} (hx : Fp.decode Fp.f32 x = .num s m e) (h : 128 ≤ ratOf s m e) :
    Seed.exs x = (0x7F800000, 0) := by
  obtain ⟨hc, he, -⟩ := f32_range hx
  have hs : (128 * 2 ^ 200 : Int) ≤ Fp.scaled s m e (-200) := by
    have : ((128 * 2 ^ 200 : Int) : ℚ) ≤ (Fp.scaled s m e (-200) : ℚ) := by
      rw [scaled_cast s m (by omega)]
      norm_num
      linarith
    exact_mod_cast this
  have hn : 128 ≤ Fp.scaled s m e (-200) / (2 ^ 72 : Nat) / (2 ^ Seed.prec : Nat) := by
    rw [Int.ediv_ediv_of_nonneg (by positivity)]
    exact (Int.le_ediv_iff_mul_le (by positivity)).mpr (by simpa [Seed.prec] using hs)
  simp only [Seed.exs, hx, hn, if_true]
  rfl

/-- 2^n at an integer n. -/
theorem exs_int {x : BitVec 64} {s : Bool} {m : Nat} {e : Int} (hx : Fp.decode Fp.f32 x = .num s m e) {n : Int} (lo : -149 ≤ n)
    (hi : n ≤ 127) (h : ratOf s m e = n) : Seed.exs x = (Seed.roundF 1 n, 0) := by
  obtain ⟨hc, he, -⟩ := f32_range hx
  have hs : Fp.scaled s m e (-200) = n * 2 ^ 200 := by
    rw [scaled_of_halves (by omega) (k := 2 * n) (by rw [h]; push_cast; ring)]
    ring
  have hn : Fp.scaled s m e (-200) / (2 ^ 72 : Nat) / (2 ^ Seed.prec : Nat) = n := by
    rw [Int.ediv_ediv_of_nonneg (by positivity), hs]
    exact Int.ediv_eq_of_eq_mul_left (by positivity) (by simp [Seed.prec])
  have hz : (Fp.scaled s m e (-200) % (2 ^ 200 : Nat) == 0) = true := by
    rw [hs]; simp
  simp only [Seed.exs, hx, hn, hz]
  rw [if_neg (by omega), if_neg (by omega), if_pos (by simpa using lo)]

theorem holds_roundF_pow {n : Int} (lo : -149 ≤ n) (hi : n ≤ 127) : Holds Fp.f32 (Seed.roundF 1 n) ((2 : ℚ) ^ n) := by
  obtain ⟨k, q, hk, h⟩ := canon_pow lo hi
  have hr : Seed.roundF 1 n = (roundNum Fp.f32 0 false false 1 n false).1 := rfl
  rw [hr]
  simpa [ratOf] using (roundNum_holds proper_f32 0 false false one_ne_zero hk h).1

/-! ### lgs -/

/-- A power of two has one bit set, and its logarithm is its exponent. -/
theorem pow_of_ratOf {s : Bool} {m : Nat} {e n : Int} (h : ratOf s m e = (2 : ℚ) ^ n) : s = false ∧ m ≠ 0 ∧ m = 2 ^ Nat.log2 m ∧ expOf m e = n := by
  have hp : (0 : ℚ) < 2 ^ n := two_zpow_pos n
  have hn := mag_nonneg m e
  rw [ratOf_eq] at h
  cases s with
  | true => simp only [if_true] at h; linarith
  | false =>
    simp only [Bool.false_eq_true, if_false] at h
    have hm : m ≠ 0 := fun h0 => by rw [h0, mag_zero] at h; linarith
    have hE : expOf m e = n := by
      rw [expOf_eq_log hm, h]
      exact_mod_cast Int.log_zpow (R := ℚ) (b := 2) (by decide) n
    refine ⟨rfl, hm, ?_, hE⟩
    have : (m : ℚ) * 2 ^ e = ((2 ^ Nat.log2 m : Nat) : ℚ) * 2 ^ e := by
      have h' : mag m e = mag (2 ^ Nat.log2 m) e := by
        rw [h, ← hE, expOf, zpow_add₀ two_ne_zero, zpow_natCast, mag]; push_cast; rfl
      exact h'
    exact_mod_cast mul_right_cancel₀ (two_zpow_pos e).ne' this

theorem roundF_eq_fromInt (n : Int) : Seed.roundF n 0 = (Fp.fromInt Fp.f32 0 false n).1 := by
  unfold Seed.roundF Fp.fromInt Fp.ofInt
  split <;> rfl

theorem lgs_pow {x : BitVec 64} {s : Bool} {m : Nat} {e : Int} (hx : Fp.decode Fp.f32 x = .num s m e) {n : Int}
    (h : ratOf s m e = (2 : ℚ) ^ n) :
    Holds Fp.f32 (Seed.lgs x).1 n ∧ (Seed.lgs x).2 = 0 ∧ (n = 0 → (Seed.lgs x).1 = 0) := by
  obtain ⟨rfl, hm, hpow, hE⟩ := pow_of_ratOf h
  obtain ⟨hc, he, hi⟩ := f32_range hx
  have hi := hi hm
  have hv : Seed.lgs x = (Seed.roundF n 0, 0) := by
    simp only [Seed.lgs, hx, hm, if_false, Bool.false_eq_true, hE]
    rw [if_pos hpow]
  rw [hv, roundF_eq_fromInt]
  refine ⟨(fromInt_holds proper_f32 0 false fun h0 => ?_).1, rfl, fun h0 => by rw [h0]; rfl⟩
  have hlo : -149 ≤ n := by rw [← hE, expOf]; omega
  have hlog : Nat.log2 n.natAbs < 8 := (Nat.log2_lt (by omega)).mpr (by omega)
  have h1 : Fp.f32.emin - Fp.f32.fb = -149 := by decide
  have h2 : Fp.f32.emax = 127 := by decide
  refine canon_of_bits proper_f32 rfl (by omega) (lt_of_lt_of_le (show n.natAbs < 2 ^ 8 by omega) (by decide)) (by omega) ?_
  rw [h2, expOf]
  omega

/-! ### sns and css -/

/-- Sine and cosine at multiples of a half. -/
theorem sincos_halves (op q : Nat) {x : BitVec 64} {s : Bool} {m : Nat} {e : Int} (hx : Fp.decode Fp.f32 x = .num s m e) {k : Int}
    (h : 2 * ratOf s m e = k) :
    Seed.sincos op q x =
      (if (k + q) % 4 = 1 then 0x3F800000 else if (k + q) % 4 = 3 then 0xBF800000
        else if q = 0 ∧ m = 0 ∧ s = true then 0x80000000 else 0, 0) := by
  obtain ⟨hc, he, -⟩ := f32_range hx
  have hs := scaled_of_halves (by omega) h
  have hz : (Fp.scaled s m e (-200) % (2 ^ 199 : Nat) == 0) = true := by rw [hs]; simp
  have hk : Fp.scaled s m e (-200) / (2 ^ 199 : Nat) = k := by
    rw [hs]
    exact Int.ediv_eq_of_eq_mul_left (by positivity) (by simp)
  simp only [Seed.sincos, hx, hz, hk, if_true]
  split_ifs <;> rfl

/-! ### Special operands (Table 7.6) -/

theorem decode_low {x : BitVec 64} {c : BitVec 32} (h : x.setWidth 32 = c) : Fp.decode Fp.f32 x = Fp.decode Fp.f32 (c.setWidth 64) := by
  have hw : Fp.f32.width = 32 := rfl
  have hx : x.toNat % 2 ^ 32 = (c.setWidth 64).toNat % 2 ^ 32 := by
    rw [← h, BitVec.toNat_setWidth, BitVec.toNat_setWidth]
    omega
  rw [decode_eq_fieldVal, decode_eq_fieldVal, hw, hx]

/-- A result of a NaN operand. -/
theorem seeds_nan {x : BitVec 64} {q : Bool} (hx : Fp.decode Fp.f32 x = .nan q) :
    ∀ f ∈ [Seed.rcps, Seed.rsqs, Seed.exs, Seed.lgs, Seed.sns, Seed.css], f x = (BitVec.ofNat 64 0x7FC00000, if q then 1 else 0) := by
  intro f hf
  simp only [List.mem_cons, List.not_mem_nil, or_false] at hf
  rcases hf with rfl | rfl | rfl | rfl | rfl | rfl
  · simp only [Seed.rcps, hx]; rfl
  · simp only [Seed.rsqs, hx]; rfl
  · simp only [Seed.exs, hx]; rfl
  · simp only [Seed.lgs, hx]; rfl
  · simp only [Seed.sns, Seed.sincos, hx]; rfl
  · simp only [Seed.css, Seed.sincos, hx]; rfl

/-- Roots and logarithms of numbers below zero are invalid. -/
theorem seeds_negative {x : BitVec 64} {m : Nat} {e : Int} (hx : Fp.decode Fp.f32 x = .num true m e) (hm : m ≠ 0) :
    Seed.rsqs x = (BitVec.ofNat 64 0x7FC00000, 1) ∧ Seed.lgs x = (BitVec.ofNat 64 0x7FC00000, 1) := by
  simp only [Seed.rsqs, Seed.lgs, hx, hm, if_false, if_true]
  exact ⟨rfl, rfl⟩

theorem inf_f32 (s : Bool) : BitVec.ofNat 64 (Fp.f32.inf s) = if s then 0xFF800000 else 0x7F800000 := by
  cases s <;> decide

theorem zero_f32 (s : Bool) : BitVec.ofNat 64 (Fp.f32.zero s) = if s then 0x80000000 else 0 := by
  cases s <;> decide

/-- Zeros: the reciprocals and the logarithm are infinite with DZ. -/
theorem seeds_zero {x : BitVec 64} {s : Bool} {e : Int} (hx : Fp.decode Fp.f32 x = .num s 0 e) :
    Seed.rcps x = (if s then 0xFF800000 else 0x7F800000, 2) ∧ Seed.rsqs x = (if s then 0xFF800000 else 0x7F800000, 2) ∧
    Seed.lgs x = (0xFF800000, 2) ∧ Seed.sns x = (if s then 0x80000000 else 0, 0) ∧
    Seed.css x = (0x3F800000, 0) ∧ Seed.exs x = (0x3F800000, 0) := by
  have h0 : ratOf s 0 e = 0 := by simp [ratOf]
  have hs := sincos_halves 4 0 hx (k := 0) (by rw [h0]; norm_num)
  have hc := sincos_halves 5 1 hx (k := 0) (by rw [h0]; norm_num)
  refine ⟨?_, ?_, ?_, ?_, hc, ?_⟩
  · simp only [Seed.rcps, hx, if_true, Seed.inf32, inf_f32]; rfl
  · simp only [Seed.rsqs, hx, if_true, Seed.inf32, inf_f32]; rfl
  · simp only [Seed.lgs, hx, if_true, Seed.inf32, inf_f32]; rfl
  · rw [Seed.sns, hs, ← zero_f32]
    cases s <;> rfl
  · rw [exs_int hx (n := 0) (by decide) (by decide) (by rw [h0]; rfl)]
    exact Prod.ext (by decide) rfl

/-- Infinities. -/
theorem seeds_inf {x : BitVec 64} {s : Bool} (hx : Fp.decode Fp.f32 x = .inf s) :
    Seed.rcps x = (BitVec.ofNat 64 (Fp.f32.zero s), 0) ∧
    Seed.rsqs x = (if s then (0x7FC00000, 1) else (0, 0)) ∧ Seed.exs x = (if s then 0 else 0x7F800000, 0) ∧
    Seed.lgs x = (if s then (0x7FC00000, 1) else (0x7F800000, 0)) ∧ Seed.sns x = (0x7FC00000, 1) ∧ Seed.css x = (0x7FC00000, 1) := by
  simp only [Seed.rcps, Seed.rsqs, Seed.exs, Seed.lgs, Seed.sns, Seed.css, Seed.sincos, hx]
  exact ⟨trivial, rfl, rfl, rfl, rfl, rfl⟩

/-- A lane-wise float instruction of format A or C. -/
theorem fgives_ins {r : Row} (c : Ctl) (bits : BitVec 32) (w : Option (BitVec 64)) {x : Extra} {s : State}
    {f v : Go → Nat → BitVec 64 × BitVec 5} (ht : r.opc ≠ 0x6A)
    (hv : ∀ l, f (sight ⟨c, r, bits, w⟩ x.warn s) l = v (sight ⟨c, r, bits, w⟩ x.warn s) l) :
    FGives ⟨c, r, bits, w⟩ x s (.next (issueFixed ⟨c, r, bits, w⟩ x (floatRes f) s)) v :=
  fgives_issueFixed ht (funext hv)

theorem seedsGive (c : Ctl) (p : PayA) (s : State) :
    FGives (p.ins Rows.rowRcps c) {} s (exec (.rcps c p) s) (fun g l => Seed.rcps ((low g 0 l).setWidth 64)) ∧
    FGives (p.ins Rows.rowRsqs c) {} s (exec (.rsqs c p) s) (fun g l => Seed.rsqs ((low g 0 l).setWidth 64)) ∧
    FGives (p.ins Rows.rowExs c) {} s (exec (.exs c p) s) (fun g l => Seed.exs ((low g 0 l).setWidth 64)) ∧
    FGives (p.ins Rows.rowLgs c) {} s (exec (.lgs c p) s) (fun g l => Seed.lgs ((low g 0 l).setWidth 64)) ∧
    FGives (p.ins Rows.rowSns c) {} s (exec (.sns c p) s) (fun g l => Seed.sns ((low g 0 l).setWidth 64)) ∧
    FGives (p.ins Rows.rowCss c) {} s (exec (.css c p) s) (fun g l => Seed.css ((low g 0 l).setWidth 64)) :=
  ⟨fgives_ins c p.bits p.lit (r := Rows.rowRcps) (by decide) fun _ => rfl, fgives_ins c p.bits p.lit (r := Rows.rowRsqs) (by decide) fun _ => rfl,
    fgives_ins c p.bits p.lit (r := Rows.rowExs) (by decide) fun _ => rfl, fgives_ins c p.bits p.lit (r := Rows.rowLgs) (by decide) fun _ => rfl,
    fgives_ins c p.bits p.lit (r := Rows.rowSns) (by decide) fun _ => rfl, fgives_ins c p.bits p.lit (r := Rows.rowCss) (by decide) fun _ => rfl⟩

theorem fcvt_gives (c : Ctl) (k : PayC) (s : State) :
    FGives (k.ins Rows.rowFcvt c) { warn := fcvtWarn (k.ins Rows.rowFcvt c) (s.thr s.cur).scalar } s (exec (.fcvt c k) s)
      (fun g l => convertOne g.st g.ty g.rm (g.sat && (g.ty == 8 || g.ty == 9) && !exactPair g.st g.ty) (g.val 0 l)) :=
  fgives_ins c k.bits k.lit (r := Rows.rowFcvt) (by decide) fun l => by simp only [satPair, Bool.and_assoc]

theorem pk4_gives (c : Ctl) (p : PayA) (s : State) :
    FGives (p.ins Rows.rowPk4 c)
      { warn := warnBit 5 (isInt ((p.ins Rows.rowPk4 c).ty (s.thr s.cur).scalar) && (p.ins Rows.rowPk4 c).rnd != 0) } s
      (exec (.pk4 c p) s) (pk4Lane (p.mod.getLsbD 0)) := by
  refine fgives_ins c p.bits p.lit (r := Rows.rowPk4) (by decide) fun l => ?_
  have hty := ty_pk4 c p ((noted (p.ins Rows.rowPk4 c)
    (warnBit 5 (isInt ((p.ins Rows.rowPk4 c).ty (s.thr s.cur).scalar) && (p.ins Rows.rowPk4 c).rnd != 0)) s).thr s.cur).scalar
  change (sight ⟨c, Rows.rowPk4, p.bits, p.lit⟩ _ s).ty ∈ _ at hty
  have hpay : (sight ⟨c, Rows.rowPk4, p.bits, p.lit⟩
    (warnBit 5 (isInt ((p.ins Rows.rowPk4 c).ty (s.thr s.cur).scalar) && (p.ins Rows.rowPk4 c).rnd != 0)) s).n.pay = p.bits := rfl
  generalize sight ⟨c, Rows.rowPk4, p.bits, p.lit⟩ _ s = g at *
  obtain ⟨a1, a2⟩ := pk4One_eq hty 0 l
  obtain ⟨b1, b2⟩ := pk4One_eq hty 1 l
  obtain ⟨lowHalf, highHalf⟩ := half_replaced (g.val 2 l) ((pk4Byte g 1 l).1.setWidth 8 ++ (pk4Byte g 0 l).1.setWidth 8)
  rw [hpay, getLsbD_zero_bits]
  refine Prod.ext ?_ (by simp only [pk4Lane, a2, b2])
  dsimp only [pk4Lane]
  rw [bytes_join, a1, b1]
  cases p.mod.getLsbD 0
  · exact lowHalf
  · exact highHalf

theorem upk4_gives (c : Ctl) (p : PayA) (s : State) :
    Gives (p.ins Rows.rowUpk4 c) {} s (exec (.upk4 c p) s)
      (fun g l =>
        let b := (g.val 0 l).extractLsb' (8 * ((g.val 1 l).extractLsb' 0 2).toNat) 8
        if g.ty = 13 then (b.signExtend 32).setWidth 64 else if g.ty = 14 then b.setWidth 64
        else (Fp.convert (Fp.ofTy g.ty) Fp.f32 0 false (b.setWidth 64)).1) anyTag := by
  intro h
  have hf : fpTrap ((noted (p.ins Rows.rowUpk4 c) 0 s).thr s.cur).fsr (sight (p.ins Rows.rowUpk4 c) 0 s).act [] = [] := by
    rw [fpTrap, if_pos (maskOf_eq_zero.mpr fun l _ => by simp)]
  have := Laws.issueFixed_clear h resUpk4 (show Rows.rowUpk4.opc ≠ 0x6A by decide) (by rw [resUpk4_eq]) (by rw [resUpk4_eq]; exact hf)
  rw [resUpk4_eq] at this
  exact congrArg Host.Outcome.next this

/-- Settles O8: the pairs of fcvt by the kinds of their types, the bytes of pk4 and upk4 by their bits, the seeds by the kind of their
operand. -/
theorem conversionsAndTheSpecialValuesOfSeedsFollowTheirTables :
    Obligations.ConversionsAndTheSpecialValuesOfSeedsFollowTheirTables := by
  unfold Obligations.ConversionsAndTheSpecialValuesOfSeedsFollowTheirTables
  refine ⟨fun src dst rm sat x hrm => ⟨fun hs hd _ => ?_, fun hs hd => floatToInt hrm hs hd, fun k hs hd lo hi hx => ?_⟩, fun c p k s => ?_⟩
  · show FloatBecomes _ _ src dst rm sat x (convertOne src dst rm sat x)
    rw [convertOne_floats hs hd]
    exact floatBecomes_convert x hs hd
  · subst hx
    exact intToFloat hs lo hi
  obtain ⟨g1, g2, g3, g4, g5, g6⟩ := seedsGive c p s
  refine ⟨fcvt_gives c k s, pk4_gives c p s, upk4_gives c p s, g1, g2, g3, g4, g5, g6, fun x => ⟨fun q hx => seeds_nan hx,
    fun sg m e hx => ⟨fun hs hm => ?_, fun h => exs_overflow hx h, fun n lo hi h => ?_, fun n h => lgs_pow hx h, fun k h => ⟨?_, ?_⟩⟩,
    fun hx => ?_, fun hx => ?_, fun hx => ?_, fun hx => ?_⟩⟩
  · subst hs
    exact seeds_negative hx hm
  · rw [exs_int hx lo hi h]
    exact ⟨holds_roundF_pow lo hi, rfl⟩
  · refine (sincos_halves 4 0 hx h).trans (Prod.ext ?_ rfl)
    rw [Nat.cast_zero, add_zero]
    split_ifs <;> simp_all
  · refine (sincos_halves 5 1 hx h).trans (Prod.ext ?_ rfl)
    have h1 : (k + (1 : Nat)) % 4 = 1 ↔ k % 4 = 0 := by omega
    have h3 : (k + (1 : Nat)) % 4 = 3 ↔ k % 4 = 2 := by omega
    simp only [h1, h3]
    split_ifs <;> simp_all
  · exact seeds_zero ((decode_low hx).trans (show _ = Fp.Val.num false 0 (-149) by decide))
  · obtain ⟨h1, h2, h3, h4, -⟩ := seeds_zero ((decode_low hx).trans (show _ = Fp.Val.num true 0 (-149) by decide))
    exact ⟨h1, h2, h3, h4⟩
  · exact seeds_inf ((decode_low hx).trans (show _ = Fp.Val.inf false by decide))
  · obtain ⟨h1, h2, h3, h4, -⟩ := seeds_inf ((decode_low hx).trans (show _ = Fp.Val.inf true by decide))
    exact ⟨h1, h3, h2, h4⟩

end Sys2Proof.Proofs
end

section
/-! PROOFS. What the turn of a command does to its queue, its issuer and its accumulators, and the commands that move bytes into tables:
mmz, mscl, mfeed and mdrain (R256 to R260). -/
namespace Sys2Proof.Proofs

open Sys2Proof Sys2Proof.Machine Sys2Proof.Safety Sys2Proof.Claims

/-! ### The turn of a command -/

theorem exec_matrixEngineTurn {s : State} {q : Nat} {c : MCmd} {o : VOp} (h : Turning s q c o) :
    exec (.matrixEngineTurn q) s = .next (s.performMatrix q c) := by
  obtain ⟨turn, held, -, -⟩ := h
  show execMatrixEngineTurn q s = _
  rw [execMatrixEngineTurn, turn]
  dsimp only
  rw [held, if_neg Bool.false_ne_true]

/-- A change to a quad that leaves its control core alone changes no thread. -/
theorem thr_mapQuad (s : State) (q : Nat) {f : Quad → Quad} (hf : ∀ x, (f x).ctl = x.ctl) (a : Agent) :
    (s.mapQuad q f).thr a = s.thr a := by
  cases a with
  | grp t g => rfl
  | ctl k =>
    by_cases e : k = q
    · subst e
      simp [State.thr, hf]
    · simp [State.thr, State.quad_mapQuad_other _ e]

/-- A change to a thread changes of a quad only the thread of its control core. -/
theorem quad_mapThr (s : State) (a : Agent) (g : Thr → Thr) (q : Nat) {γ : Type} (p : Quad → γ) (hp : ∀ x th, p { x with ctl := th } = p x) :
    p ((s.mapThr a g).quad q) = p (s.quad q) := by
  cases a with
  | grp t j => rfl
  | ctl k =>
    by_cases e : q = k
    · subst e
      rw [quad_mapThr_ctl, hp]
    · exact congrArg p (State.quad_mapQuad_other _ e _)

/-- The command leaves the queue. -/
def Quad.without (id : Nat) (x : Quad) : Quad := { x with mq := x.mq.filter (·.id != id) }

section
variable {s u : State} {q : Nat} {c : MCmd} {o : VOp} (h : Turning s q c o) (hu : u.thr c.a = s.thr c.a)
  (vals : List (BitVec 64)) (pz : Mask)
include h hu

theorem endMatrix_eq : u.endMatrix q c vals pz =
    ((u.mapQuad q (Quad.without c.id)).landOp c.a o.seq (fillResults o.kind.results vals pz)).mapThr c.a (Thr.retire o) := by
  obtain ⟨-, -, -, found⟩ := h
  have ops : ((u.mapQuad q (Quad.without c.id)).thr c.a).ops = (s.thr c.a).ops := by
    rw [thr_mapQuad (f := Quad.without c.id) _ _ fun _ => rfl, hu]
  rw [← ops] at found
  unfold State.endMatrix
  dsimp only
  split
  · next none => cases found.symm.trans none
  · next o' some =>
    cases Option.some.inj (found.symm.trans some)
    rfl

/-- The command has left the queue. -/
theorem dequeued : ∀ x ∈ ((u.endMatrix q c vals pz).quad q).mq, x.id ≠ c.id := by
  rw [endMatrix_eq h hu, quad_mapThr _ _ _ _ Quad.mq fun _ _ => rfl, State.landOp, quad_mapThr _ _ _ _ Quad.mq fun _ _ => rfl,
    State.quad_mapQuad_same]
  intro x hx
  simpa using (List.mem_filter.mp hx).2

/-- What the end of a command leaves of its quad: all but the queue and the thread of the control core. -/
theorem quad_endMatrix {γ : Type} (p : Quad → γ) (ht : ∀ x th, p { x with ctl := th } = p x) (hq : ∀ x m, p { x with mq := m } = p x) :
    p ((u.endMatrix q c vals pz).quad q) = p (u.quad q) := by
  rw [endMatrix_eq h hu, quad_mapThr _ _ _ _ p ht, State.landOp, quad_mapThr _ _ _ _ p ht, State.quad_mapQuad_same]
  exact hq _ _

theorem accum_endMatrix : ((u.endMatrix q c vals pz).quad q).accum = (u.quad q).accum :=
  quad_endMatrix h hu vals pz Quad.accum (fun _ _ => rfl) fun _ _ => rfl

theorem scr_endMatrix : (u.endMatrix q c vals pz).scr = u.scr := by
  rw [endMatrix_eq h hu]
  simp [State.landOp]

theorem flag_endMatrix {f : Nat} (hf : o.flag = some f) : ((u.endMatrix q c vals pz).thr c.a).busy.getLsbD f = false := by
  rw [endMatrix_eq h hu, State.thr_mapThr_same, Thr.retire, hf]
  simp [Thr.clearFlag]

/-- A command that has changed at most accumulator `n`, and no byte outside the scratchpads of the cores. -/
theorem performed_endMatrix (n : Option Nat) (acc : ∀ k, some k ≠ n → (u.quad q).accum k = (s.quad q).accum k)
    (mem : u.mem = s.mem) (dsp : u.dsp = s.dsp) (drive : u.drive = s.drive) : Performed s (u.endMatrix q c vals pz) q c o n := by
  refine ⟨dequeued h hu vals pz, fun f => flag_endMatrix h hu vals pz, fun k hk => ?_, ?_, ?_, ?_⟩
  · rw [accum_endMatrix h hu, acc k hk]
  all_goals
    rw [endMatrix_eq h hu]
    simpa [State.landOp]

end

section
variable {s : State} {q : Nat} {c : MCmd} {o : VOp} (h : Turning s q c o)
include h

/-- A command that changes its quad, but not its control core, and then ends. -/
theorem performed_mapQuad {f : Quad → Quad} (hf : ∀ x, (f x).ctl = x.ctl) (vals : List (BitVec 64)) (pz : Mask) (n : Option Nat)
    (acc : ∀ k, some k ≠ n → (f (s.quad q)).accum k = (s.quad q).accum k) :
    Performed s ((s.mapQuad q f).endMatrix q c vals pz) q c o n ∧ ((s.mapQuad q f).endMatrix q c vals pz).scr = s.scr := by
  have hu := thr_mapQuad s q hf c.a
  refine ⟨performed_endMatrix h hu vals pz n (fun k hk => ?_) rfl rfl rfl, scr_endMatrix h hu vals pz⟩
  rw [State.quad_mapQuad_same]
  exact acc k hk

theorem quad_performed {f : Quad → Quad} (hf : ∀ x, (f x).ctl = x.ctl) (vals : List (BitVec 64)) (pz : Mask) {γ : Type} (p : Quad → γ)
    (ht : ∀ x th, p { x with ctl := th } = p x) (hq : ∀ x m, p { x with mq := m } = p x) :
    p (((s.mapQuad q f).endMatrix q c vals pz).quad q) = p (f (s.quad q)) := by
  rw [quad_endMatrix h (thr_mapQuad s q hf c.a) vals pz p ht hq, State.quad_mapQuad_same]

end

theorem accum_setAccum (x : Quad) (n k : Nat) (a : Acc) : (x.setAccum n a).accum k = if k = n then a else x.accum k :=
  Sparse.get_put _ _ _ _ _

/-- A command that replaces accumulator `n`. -/
theorem performed_setAccum {s : State} {q : Nat} {c : MCmd} {o : VOp} (h : Turning s q c o) (n : Nat) (a : Acc) {f : Quad → Quad}
    (hf : ∀ x, (f x).ctl = x.ctl) (hacc : (f (s.quad q)).acc = ((s.quad q).setAccum n a).acc) :
    Performed s ((s.mapQuad q f).endMatrix q c [] 0) q c o (some n) ∧ ((s.mapQuad q f).endMatrix q c [] 0).scr = s.scr ∧
      (((s.mapQuad q f).endMatrix q c [] 0).quad q).accum n = a := by
  have read : ∀ k, (f (s.quad q)).accum k = if k = n then a else (s.quad q).accum k := fun k => by
    rw [← accum_setAccum, Quad.accum, hacc, Quad.accum]
  obtain ⟨done, scr⟩ := performed_mapQuad h hf [] 0 (some n) fun k hk => by rw [read, if_neg fun e => hk (congrArg some e)]
  refine ⟨done, scr, ?_⟩
  rw [quad_performed h hf [] 0 (fun x => x.accum n) (fun _ _ => rfl) fun _ _ => rfl, read, if_pos rfl]

/-! ### Tables that a fold fills -/

/-- What a table reads as at `i` once a list of entries has been written to it, where those for `i` agree. -/
theorem get_foldl_write {α β : Type} [DecidableEq α] (d : α) {key : β → Nat} {v : β → α} {i : Nat} {x : α} {l : List β}
    (same : ∀ b ∈ l, key b = i → v b = x) (m : List (Nat × α)) :
    Sparse.get d i (l.foldl (fun m b => Sparse.write d (key b) (v b) m) m) = if i ∈ l.map key then x else Sparse.get d i m := by
  induction l generalizing m with
  | nil => rfl
  | cons b r ih =>
    rw [List.foldl_cons, ih (fun y hy => same y (List.mem_cons_of_mem _ hy)), Sparse.get_write, List.map_cons]
    by_cases hr : i ∈ r.map key
    · rw [if_pos hr, if_pos (List.mem_cons_of_mem _ hr)]
    · by_cases hb : i = key b
      · rw [if_neg hr, if_pos hb, if_pos (List.mem_cons.mpr (.inl hb)), same b List.mem_cons_self hb.symm]
      · rw [if_neg hr, if_neg hb, if_neg fun h => (List.mem_cons.mp h).elim hb hr]

/-- The same of two nested lists. -/
theorem get_foldl_foldl_write {α β γ : Type} [DecidableEq α] (d : α) {key : β → γ → Nat} {v : β → γ → α} {i : Nat} {x : α}
    {l : List β} {r : List γ} (same : ∀ b ∈ l, ∀ c ∈ r, key b c = i → v b c = x) (m : List (Nat × α)) :
    Sparse.get d i (l.foldl (fun m b => r.foldl (fun m c => Sparse.write d (key b c) (v b c) m) m) m) =
      if ∃ b ∈ l, ∃ c ∈ r, key b c = i then x else Sparse.get d i m := by
  have flat : l.foldl (fun m b => r.foldl (fun m c => Sparse.write d (key b c) (v b c) m) m) m =
      (l ×ˢ r).foldl (fun m p => Sparse.write d (key p.1 p.2) (v p.1 p.2) m) m := by
    simp only [SProd.sprod, List.product, List.foldl_flatMap, List.foldl_map]
  rw [flat, get_foldl_write d (fun p hp => same p.1 (List.mem_product.mp hp).1 p.2 (List.mem_product.mp hp).2)]
  refine if_congr ?_ rfl rfl
  simp only [List.mem_map, List.mem_product, Prod.exists]
  exact ⟨fun ⟨b, c, ⟨hb, hc⟩, e⟩ => ⟨b, hb, c, hc, e⟩, fun ⟨b, hb, c, hc, e⟩ => ⟨b, c, ⟨hb, hc⟩, e⟩⟩

/-! ### Bytes of a value -/

theorem leBytes_eq (n x : Nat) : leBytes n x = (List.range n).map fun j => BitVec.ofNat 8 (x / 256 ^ j) := by
  induction n generalizing x with
  | zero => rfl
  | succ n ih =>
    rw [leBytes, ih, List.range_succ_eq_map, List.map_cons, List.map_map, pow_zero, Nat.div_one]
    simp only [Function.comp_def, Nat.pow_succ', ← Nat.div_div_eq_div_mul]

theorem zipIdx_leBytes (n x : Nat) : (leBytes n x).zipIdx = (List.range n).map fun j => (BitVec.ofNat 8 (x / 256 ^ j), j) := by
  rw [leBytes_eq]
  exact List.ext_getElem (by simp) fun i h1 h2 => by simp

theorem byte_eq_shift {w : Nat} (x : BitVec w) (j : Nat) : BitVec.ofNat 8 (x.toNat / 256 ^ j) = (x >>> (8 * j)).setWidth 8 := by
  apply BitVec.eq_of_toNat_eq
  rw [BitVec.toNat_setWidth, BitVec.toNat_ushiftRight, Nat.shiftRight_eq_div_pow, Nat.pow_mul, BitVec.toNat_ofNat]

/-! ### mmz and mscl (R256, R258) -/

section
variable {s : State} {q : Nat} {c : MCmd} {o : VOp} (h : Turning s q c o)
include h

theorem performs_mmz {n : Nat} {i : Bool} (hc : c.op = .mmz n i) :
    Performed s (s.performMatrix q c) q c o (some n) ∧ (s.performMatrix q c).scr = s.scr ∧
      (((s.performMatrix q c).quad q).accum n).int = i ∧ ∀ k, (((s.performMatrix q c).quad q).accum n).at k = (0, false) := by
  have run : s.performMatrix q c = (s.mapQuad q fun x => x.setAccum n ⟨i, [], []⟩).endMatrix q c [] 0 := by
    rw [State.performMatrix, hc]
  obtain ⟨done, scr, acc⟩ := performed_setAccum h n ⟨i, [], []⟩ (f := fun x => x.setAccum n ⟨i, [], []⟩) (fun _ => rfl) rfl
  rw [run]
  exact ⟨done, scr, by rw [acc], fun k => by rw [acc]; rfl⟩

/-- The scale table that mscl fills (R258). -/
def scaleFrom (s : State) (q src base shift : Nat) : Scale :=
  ⟨(List.range 1024).foldl (fun t i => Sparse.write 0x7F i (s.quadRead q (src + i)).1 t) [], BitVec.ofNat 32 base, shift⟩

omit h in
theorem get_scaleFrom (s : State) (q src base shift : Nat) {i : Nat} (hi : i < 1024) :
    Sparse.get 0x7F i (scaleFrom s q src base shift).tab = Memory.byte s.scr (s.quadByte q (src + i)) := by
  rw [scaleFrom, get_foldl_write (x := (s.quadRead q (src + i)).1) _ fun b _ hb => by rw [← hb], if_pos (by simpa using hi)]
  rfl

/-- A quad with scale table A or B replaced. -/
def Quad.setScale (b : Bool) (z : Scale) (x : Quad) : Quad := if b then { x with scaleB := z } else { x with scaleA := z }

omit h in
theorem performMatrix_mscl {b : Bool} {src base sh : Nat} (hc : c.op = .mscl b src base sh) :
    s.performMatrix q c = (s.mapQuad q (Quad.setScale b (scaleFrom s q src base sh))).endMatrix q c [] 0 := by
  rw [State.performMatrix, hc]
  dsimp only [scaleFrom]
  rfl

theorem performs_mscl {b : Bool} {src base sh : Nat} (hc : c.op = .mscl b src base sh) :
    let t := s.performMatrix q c
    let z := if b then (t.quad q).scaleB else (t.quad q).scaleA
    Performed s t q c o none ∧ t.scr = s.scr ∧
      (∀ i < 1024, Sparse.get 0x7F i z.tab = Memory.byte s.scr (s.quadByte q (src + i))) ∧ z.base = BitVec.ofNat 32 base ∧ z.shift = sh ∧
      (if b then (t.quad q).scaleA = (s.quad q).scaleA else (t.quad q).scaleB = (s.quad q).scaleB) := by
  rw [performMatrix_mscl hc]
  have get := fun i hi => get_scaleFrom s q src base sh (i := i) hi
  have hbase : (scaleFrom s q src base sh).base = BitVec.ofNat 32 base := rfl
  have hshift : (scaleFrom s q src base sh).shift = sh := rfl
  generalize scaleFrom s q src base sh = z at *
  have ctl : ∀ x, (Quad.setScale b z x).ctl = x.ctl := fun x => by cases b <;> rfl
  obtain ⟨done, scr⟩ := performed_mapQuad h ctl [] 0 none fun _ _ => by cases b <;> rfl
  have tabA := quad_performed h ctl [] 0 Quad.scaleA (fun _ _ => rfl) fun _ _ => rfl
  have tabB := quad_performed h ctl [] 0 Quad.scaleB (fun _ _ => rfl) fun _ _ => rfl
  refine ⟨done, scr, ?_⟩
  rw [tabA, tabB]
  cases b <;> exact ⟨get, hbase, hshift, rfl⟩

end

/-! ### mfeed and mdrain (R259, R260) -/

theorem mem_lanesOf {m : Mask} {l : Nat} : l ∈ lanesOf m ↔ l < 32 ∧ m.getLsbD l = true := by simp [lanesOf, laneIds]

/-- The bytes of a feed buffer after an mfeed (R259). -/
def fedBytes (k : Nat) (m : Mask) (v : List (BitVec 32)) (y : Feed) : List (Nat × Byte) :=
  (lanesOf m).foldl (fun t l => (leBytes 4 (lane32 v l).toNat).zipIdx.foldl (fun t y => Sparse.write 0 (128 * k + 4 * l + y.2) y.1 t) t) y.bytes

theorem fedBytes_eq (k : Nat) (m : Mask) (v : List (BitVec 32)) (y : Feed) : fedBytes k m v y = (lanesOf m).foldl (fun t l =>
    (List.range 4).foldl (fun t j => Sparse.write 0 (128 * k + 4 * l + j) (((lane32 v l >>> (8 * j)).setWidth 8 : Byte)) t) t) y.bytes := by
  simp only [fedBytes, zipIdx_leBytes, List.foldl_map, byte_eq_shift]

theorem get_fedBytes (k : Nat) (m : Mask) (v : List (BitVec 32)) (y : Feed) {l j : Nat} (hl : l < 32) (hj : j < 4) :
    Sparse.get 0 (128 * k + 4 * l + j) (fedBytes k m v y) =
      if m.getLsbD l then ((lane32 v l >>> (8 * j)).setWidth 8 : Byte) else Sparse.get 0 (128 * k + 4 * l + j) y.bytes := by
  have own : ∀ l' j', j' < 4 → 128 * k + 4 * l' + j' = 128 * k + 4 * l + j → l' = l ∧ j' = j := fun _ _ _ _ => by omega
  rw [fedBytes_eq, get_foldl_foldl_write 0 (x := ((lane32 v l >>> (8 * j)).setWidth 8 : Byte))]
  · refine if_congr ⟨fun ⟨b, hb, c, hc, e⟩ => ?_, fun hm => ⟨l, mem_lanesOf.mpr ⟨hl, hm⟩, j, List.mem_range.mpr hj, rfl⟩⟩ rfl rfl
    rw [← (own b c (List.mem_range.mp hc) e).1]
    exact (mem_lanesOf.mp hb).2
  · intro b hb c hc e
    obtain ⟨rfl, rfl⟩ := own b c (List.mem_range.mp hc) e
    rfl

theorem get_fedBytes_outside (k : Nat) (m : Mask) (v : List (BitVec 32)) (y : Feed) {i : Nat} (hi : i < 128 * k ∨ 128 * k + 128 ≤ i) :
    Sparse.get 0 i (fedBytes k m v y) = Sparse.get 0 i y.bytes := by
  have away : ∀ l ∈ lanesOf m, ∀ j ∈ List.range 4, 128 * k + 4 * l + j ≠ i := fun l hl j hj => by
    have := (mem_lanesOf.mp hl).1
    have := List.mem_range.mp hj
    omega
  rw [fedBytes_eq, get_foldl_foldl_write (x := 0) _ fun l hl j hj e => absurd e (away l hl j hj), if_neg]
  rintro ⟨l, hl, j, hj, e⟩
  exact away l hl j hj e

/-- A quad with feed buffer A or B replaced. -/
def Quad.setFeed (b : Bool) (z : Feed) (x : Quad) : Quad := if b then { x with feedB := z } else { x with feedA := z }

section
variable {s : State} {q : Nat} {c : MCmd} {o : VOp} (h : Turning s q c o)
include h

theorem performs_mfeed {b : Bool} {k : Nat} {last : Bool} {m : Mask} {v : List (BitVec 32)} (hc : c.op = .mfeed b k last m v) :
    let t := s.performMatrix q c
    let y := if b then (s.quad q).feedB else (s.quad q).feedA
    let z := if b then (t.quad q).feedB else (t.quad q).feedA
    Performed s t q c o none ∧ t.scr = s.scr ∧ z.full = (y.full || last) ∧
      (∀ l < 32, ∀ j < 4, Sparse.get 0 (128 * k + 4 * l + j) z.bytes =
        if m.getLsbD l then ((lane32 v l >>> (8 * j)).setWidth 8 : Byte) else Sparse.get 0 (128 * k + 4 * l + j) y.bytes) ∧
      (∀ i, (i < 128 * k ∨ 128 * k + 128 ≤ i) → Sparse.get 0 i z.bytes = Sparse.get 0 i y.bytes) := by
  intro t y z
  have run : t = (s.mapQuad q (Quad.setFeed b ⟨fedBytes k m v y, y.full || last⟩)).endMatrix q c [] 0 := by
    dsimp only [t]
    rw [State.performMatrix, hc]
    rfl
  have ctl : ∀ x, (Quad.setFeed b ⟨fedBytes k m v y, y.full || last⟩ x).ctl = x.ctl := fun x => by cases b <;> rfl
  obtain ⟨done, scr⟩ := performed_mapQuad h ctl [] 0 none fun _ _ => by cases b <;> rfl
  have filled : z = ⟨fedBytes k m v y, y.full || last⟩ := by
    dsimp only [z]
    rw [run, quad_performed h ctl [] 0 Quad.feedA (fun _ _ => rfl) fun _ _ => rfl,
      quad_performed h ctl [] 0 Quad.feedB (fun _ _ => rfl) fun _ _ => rfl]
    cases b <;> rfl
  rw [filled]
  rw [← run] at done scr
  exact ⟨done, scr, rfl, fun l hl j hj => get_fedBytes k m v y hl hj, fun i hi => get_fedBytes_outside k m v y hi⟩

end

/-- An element of mode I in i32: clamped under SAT, else its low bits (Table 17.2). -/
theorem narrow_i32 (sat : Bool) (x : BitVec 64) : narrow sat true 32 x.toInt =
    if sat ∧ x.toInt < -2 ^ 31 then 0x80000000 else if sat ∧ 2 ^ 31 ≤ x.toInt then 0x7FFFFFFF else (x.setWidth 32).setWidth 64 := by
  have kept : (BitVec.ofInt 32 x.toInt).setWidth 64 = (x.setWidth 32).setWidth 64 := by
    rw [← setWidth_ofInt (v := 64) (by decide), BitVec.ofInt_toInt]
  rw [narrow]
  cases sat
  · simpa using kept
  · have below : x.toInt < minOf true 32 ↔ x.toInt < -2 ^ 31 := Iff.rfl
    have above : maxOf true 32 < x.toInt ↔ 2 ^ 31 ≤ x.toInt := by simp only [maxOf, if_true]; omega
    simp only [clampInt, true_and, if_true, below, above]
    split_ifs
    · rfl
    · rfl
    · exact kept

theorem vreg_retire (o : VOp) (th : Thr) (p : Nat) : (Thr.retire o th).vreg p = th.vreg p := by simp [Thr.retire, Thr.vreg]

/-- Outside runahead a result lands in the register itself (R60). -/
theorem landVar_reaches {th : Thr} {w : RegW} {n l seq : Nat} (hr : th.ra = none) (ha : th.alive ≠ 0) (ht : w.tgt = .v n) (hd : w.dead = 0)
    (hl : l < 32) (hm : w.mask.getLsbD l = true) : lane32 ((th.landVar seq w).vreg n).v l = (lane64 w.v l).setWidth 32 := by
  rw [Thr.landVar, hr, Thr.land, if_neg ha]
  exact writeW_reaches ht hd hl hm th

theorem fromAcc_eq (int : Bool) (ty : Nat) (sat : Bool) (x : BitVec 64) : fromAcc int ty sat x = convertedFrom int ty sat x := by
  have low : ∀ k : Int, zext 32 (BitVec.ofInt 64 k) = (BitVec.ofInt 32 k).setWidth 64 := fun k => by
    rw [zext, setWidth_ofInt (by decide)]
  have narrowed : zext 32 (narrow sat true 32 x.toInt) = narrow sat true 32 x.toInt := by simp [narrow, zext]
  unfold fromAcc convertedFrom
  cases int
  · by_cases h0 : ty = 0
    · subst h0
      exact low _
    · by_cases h2 : ty = 2
      · subst h2
        rfl
      · simp only [h0, h2, if_false]
  · by_cases h0 : ty = 0
    · subst h0
      exact narrowed.trans (narrow_i32 sat x)
    · by_cases h2 : ty = 2
      · subst h2
        rfl
      · simp only [h0, h2, if_false, if_true]

section
variable {s : State} {q : Nat} {c : MCmd} {o : VOp} (h : Turning s q c o)
include h

theorem performs_mdrain {n sel ty : Nat} {sat : Bool} {w : RegW} {p : Nat} (hc : c.op = .mdrain n sel ty sat) (hw : o.kind.results = [w])
    (ht : w.tgt = .v p) (hd : w.dead = 0) :
    let t := s.performMatrix q c
    Performed s t q c o none ∧ t.scr = s.scr ∧ ∀ l < 32, (s.thr c.a).alive ≠ 0 → w.mask.getLsbD l = true →
      lane32 ((t.thr c.a).vreg p).v l = (convertedFrom ((s.quad q).accum n).int ty sat
        (((s.quad q).accum n).at (128 * (sel % 128) + 32 * (sel / 128 % 4) + l)).1).setWidth 32 := by
  have run : s.performMatrix q c = s.endMatrix q c
      (perLane fun l => fromAcc ((s.quad q).accum n).int ty sat (((s.quad q).accum n).at (128 * (sel % 128) + 32 * (sel / 128 % 4) + l)).1)
      (maskOf fun l => (((s.quad q).accum n).at (128 * (sel % 128) + 32 * (sel / 128 % 4) + l)).2) := by
    rw [State.performMatrix, hc]
  have value : ∀ l < 32, lane64 (perLane fun l => fromAcc ((s.quad q).accum n).int ty sat
      (((s.quad q).accum n).at (128 * (sel % 128) + 32 * (sel / 128 % 4) + l)).1) l = convertedFrom ((s.quad q).accum n).int ty sat
        (((s.quad q).accum n).at (128 * (sel % 128) + 32 * (sel / 128 % 4) + l)).1 := fun l hl => by
    rw [lane64_perLane _ hl, fromAcc_eq]
  rw [run]
  generalize perLane _ = vals at value ⊢
  generalize maskOf _ = pz
  have ⟨_, _, settled, _⟩ := h
  refine ⟨performed_endMatrix h rfl _ _ none (fun _ _ => rfl) rfl rfl rfl, scr_endMatrix h rfl _ _, fun l hl ha hm => ?_⟩
  rw [endMatrix_eq h rfl, hw, State.thr_mapThr_same, State.landOp, State.thr_mapThr_same,
    thr_mapQuad (f := Quad.without c.id) _ _ fun _ => rfl]
  simp only [fillResults, List.zipIdx_singleton, List.map_cons, List.map_nil, List.foldl_cons, List.foldl_nil, Nat.zero_mod,
    Nat.zero_ne_one, if_false]
  rw [vreg_retire, landVar_reaches (w := { w with v := vals, poison := pz }) settled ha ht hd hl hm, value l hl]

end

end Sys2Proof.Proofs
end

section
/-! PROOFS. The elements of an accumulator that a command replaces, what mld reads into them and what mst writes of them (R256, R257). -/
namespace Sys2Proof.Proofs

open Sys2Proof Sys2Proof.Machine Sys2Proof.Safety Sys2Proof.Claims

/-! ### Replaced elements -/

theorem int_accFrom (a : Acc) (rows : List Nat) (f : Nat → Nat → BitVec 64 × Bool) : (accFrom a rows f).int = a.int := by
  refine foldl_keeps Acc.int _ (fun a i => ?_) rows a
  generalize List.range 128 = columns
  induction columns generalizing a with
  | nil => rfl
  | cons j r ih => exact ih _

theorem el_accFrom (a : Acc) (rows : List Nat) (f : Nat → Nat → BitVec 64 × Bool) : (accFrom a rows f).el =
    rows.foldl (fun m i => (List.range 128).foldl (fun m j => Sparse.write 0 (128 * i + j) (f i j).1 m) m) a.el := by
  refine (List.foldl_hom Acc.el fun a i => ?_).symm
  exact List.foldl_hom Acc.el fun a j => rfl

/-- The elements of the listed rows are replaced, the others stay. -/
theorem at_accFrom (a : Acc) (rows : List Nat) (f : Nat → Nat → BitVec 64 × Bool) (i : Nat) {j : Nat} (hj : j < 128) :
    ((accFrom a rows f).at (128 * i + j)).1 = if i ∈ rows then (f i j).1 else (a.at (128 * i + j)).1 := by
  have own : ∀ i' j', j' < 128 → 128 * i' + j' = 128 * i + j → i' = i ∧ j' = j := fun _ _ _ _ => by omega
  rw [Acc.at, el_accFrom, get_foldl_foldl_write 0 (x := (f i j).1)]
  · refine if_congr ⟨fun ⟨i', hi, j', hj', e⟩ => ?_, fun hi => ⟨i, hi, j, List.mem_range.mpr hj, rfl⟩⟩ rfl rfl
    rw [← (own i' j' (List.mem_range.mp hj') e).1]
    exact hi
  · intro i' _ j' hj' e
    obtain ⟨rfl, rfl⟩ := own i' j' (List.mem_range.mp hj') e
    rfl

/-! ### mld (R256) -/

theorem toAcc_eq (ty : Nat) (x : BitVec 64) : toAcc ty x =
    if ty = 0 then (x.setWidth 32 : BitVec 32).signExtend 64 else if ty = 4 then (Fp.convert Fp.f32 Fp.f64 0 false x).1 else x := by
  by_cases h0 : ty = 0
  · subst h0
    rfl
  · by_cases h4 : ty = 4
    · subst h4
      rfl
    · simp only [toAcc, h0, h4, if_false]

/-- The element that mld reads for row i and column j. -/
def loaded (s : State) (q : Nat) (d : BitVec 128) (ty i j : Nat) : BitVec 64 × Bool :=
  let bs := (List.range (tyBytes ty)).map fun b => s.quadRead q (Desc.byte d (128 * tyBytes ty) 0 i (j * tyBytes ty + b))
  (toAcc ty (BitVec.ofNat 64 (leNat (bs.map (·.1)))), bs.any (·.2))

section
variable {s : State} {q : Nat} {c : MCmd} {o : VOp} (h : Turning s q c o)
include h

theorem performs_mld {n : Nat} {d : BitVec 128} {ty : Nat} (hc : c.op = .mld n d ty) :
    let t := s.performMatrix q c
    Performed s t q c o (some n) ∧ t.scr = s.scr ∧ ((t.quad q).accum n).int = (ty == 0 || ty == 2) ∧
      ∀ i < 128, ∀ j < 128, (((t.quad q).accum n).at (128 * i + j)).1 =
        if Desc.rows d ≤ i then 0
        else
          let raw := BitVec.ofNat 64 (leNat ((List.range (tyBytes ty)).map fun b =>
            Memory.byte s.scr (s.quadByte q (Desc.byte d (128 * tyBytes ty) 0 i (j * tyBytes ty + b)))))
          if ty = 0 then (raw.setWidth 32 : BitVec 32).signExtend 64 else if ty = 4 then (Fp.convert Fp.f32 Fp.f64 0 false raw).1 else raw := by
  have run : s.performMatrix q c = (s.mapQuad q fun x => x.setAccum n (accFrom ⟨ty == 0 || ty == 2, [], []⟩ (List.range (Desc.rows d))
      (loaded s q d ty))).endMatrix q c [] 0 := by
    rw [State.performMatrix, hc]
    rfl
  rw [run]
  obtain ⟨done, scr, acc⟩ := performed_setAccum h n (accFrom ⟨ty == 0 || ty == 2, [], []⟩ (List.range (Desc.rows d)) (loaded s q d ty))
    (f := fun x => x.setAccum n _) (fun _ => rfl) rfl
  refine ⟨done, scr, by rw [acc, int_accFrom], fun i _ j hj => ?_⟩
  rw [acc, at_accFrom _ _ _ _ hj]
  by_cases hi : Desc.rows d ≤ i
  · rw [if_neg (by simpa using hi), if_pos hi]
    rfl
  · rw [if_pos (by simpa using hi), if_neg hi]
    simp only [loaded, List.map_map, toAcc_eq]
    rfl

end

/-! ### The bytes of a stored row in the scratchpads (R138, R236) -/

/-- Two quad offsets below the size of the space lie in different bytes (R138). -/
theorem quadByte_inj {s : State} {q a b : Nat} (ha : a < 4 * (s.quad q).quadPart) (hb : b < 4 * (s.quad q).quadPart)
    (h4 : (s.quad q).quadPart % 4096 = 0) (hs : (s.quad q).quadPart ≤ Config.scratchBytes) (h : s.quadByte q a = s.quadByte q b) : a = b := by
  obtain ⟨k, hk⟩ := Nat.dvd_of_mod_eq_zero h4
  simp only [State.quadByte, Config.scratchBytes, hk] at *
  omega

/-- The offset of byte p of a row of L bytes once it is rotated (R236). -/
def rotated (d : BitVec 128) (L i p : Nat) : Nat := if Desc.rot d = 0 then p else (p + 32 * (i * Desc.rot d % 8)) % L

theorem rotated_lt {d : BitVec 128} {L i p : Nat} (hp : p < L) : rotated d L i p < L := by
  unfold rotated
  split_ifs
  · exact hp
  · exact Nat.mod_lt _ (by omega)

theorem rotated_inj {d : BitVec 128} {L i p p' : Nat} (hp : p < L) (hp' : p' < L) (h : rotated d L i p = rotated d L i p') : p = p' := by
  unfold rotated at h
  split_ifs at h
  · exact h
  · have : p ≡ p' [MOD L] := Nat.ModEq.add_right_cancel' _ h
    rwa [Nat.ModEq, Nat.mod_eq_of_lt hp, Nat.mod_eq_of_lt hp'] at this

theorem descByte_eq (d : BitVec 128) (L i p : Nat) : Desc.byte d L 0 i p = Desc.base d + i * Desc.pitch d + rotated d L i p := by
  simp [Desc.byte, rotated]

/-- A byte of a stored row lies below the end of the rows. -/
theorem descByte_lt {d : BitVec 128} {L i p : Nat} (hL : L ≤ Desc.pitch d) (hi : i < Desc.rows d) (hp : p < L) :
    Desc.byte d L 0 i p < Desc.base d + Desc.rows d * Desc.pitch d := by
  have := rotated_lt (d := d) (i := i) hp
  have := Nat.mul_le_mul_right (Desc.pitch d) (Nat.succ_le_of_lt hi)
  rw [descByte_eq]
  rw [Nat.succ_mul] at this
  omega

theorem mul_add_unique {w j j' b b' : Nat} (hb : b < w) (hb' : b' < w) (h : j * w + b = j' * w + b') : j = j' ∧ b = b' := by
  have place : ∀ {k r : Nat}, r < w → (k * w + r) / w = k := fun {k r} hr => by
    rw [Nat.mul_comm, Nat.mul_add_div (by omega), Nat.div_eq_of_lt hr, Nat.add_zero]
  have hj : j = j' := (place hb).symm.trans (.trans (congrArg (· / w) h) (place hb'))
  subst hj
  exact ⟨rfl, by omega⟩

theorem descByte_inj {d : BitVec 128} {L i i' p p' : Nat} (hL : L ≤ Desc.pitch d) (hp : p < L) (hp' : p' < L)
    (h : Desc.byte d L 0 i p = Desc.byte d L 0 i' p') : i = i' ∧ p = p' := by
  have lt := rotated_lt (d := d) (i := i) hp
  have lt' := rotated_lt (d := d) (i := i') hp'
  rw [descByte_eq, descByte_eq] at h
  obtain ⟨rfl, same⟩ := mul_add_unique (lt.trans_le hL) (lt'.trans_le hL) (show i * Desc.pitch d + _ = i' * Desc.pitch d + _ by omega)
  exact ⟨rfl, rotated_inj hp hp' same⟩

/-! ### Stores to the scratchpads of the cores -/

theorem writeAt_scr (s : State) (key a : Nat) (bs : List Byte) :
    s.writeAt .scr key a bs = { s with scr := Memory.write s.scr a bs } := by
  simp [State.writeAt, State.hostLost, State.setSpace, State.space]

section
variable {els : List Elem} (h : ∀ e ∈ els, e.sp = .scr) (s : State)

theorem storePoison_keeps {γ : Type} (p : State → γ) (mark : ∀ s sp l, p (State.setPoison s sp l) = p s) (els : List Elem) (s : State) :
    p (s.storePoison els) = p s := by
  refine foldl_keeps p _ (fun s k => ?_) _ s
  simp only [State.addPoison, State.clearPoison]
  split_ifs
  · rfl
  · exact mark _ _ _
  · exact mark _ _ _
  · rfl

include h

theorem storePlain_scr : s.storePlain els = { s with scr := els.foldl (fun m e => Memory.write m e.a (leBytes e.w e.data.toNat)) s.scr } := by
  unfold State.storePlain
  induction els generalizing s with
  | nil => rfl
  | cons e r ih =>
    obtain ⟨he, hr⟩ := List.forall_mem_cons.mp h
    rw [List.foldl_cons, ih hr, he, writeAt_scr]
    rfl

theorem storeElems_scr : s.storeElems 0 els = (s.storePlain els).storePoison els := by
  have all : (els.filter fun e => !s.hostLost e.sp e.a) = els := List.filter_eq_self.mpr fun e he => by simp [h e he, State.hostLost]
  simp only [State.storeElems, all, if_true]

/-- What a store of plain elements to the scratchpads of the cores leaves: all but their bytes and the marks of poison. -/
theorem storeElems_keeps {γ : Type} (p : State → γ) (scr : ∀ s m, p { s with scr := m } = p s)
    (mark : ∀ s sp l, p (State.setPoison s sp l) = p s) : p (s.storeElems 0 els) = p s := by
  rw [storeElems_scr h, storePoison_keeps p mark, storePlain_scr h, scr]

theorem scr_storeElems : (s.storeElems 0 els).scr = els.foldl (fun m e => Memory.write m e.a (leBytes e.w e.data.toNat)) s.scr := by
  rw [storeElems_scr h, storePoison_keeps State.scr (fun s sp l => by cases sp <;> rfl), storePlain_scr h]

end

/-! ### mst (R257) -/

/-- What a byte reads as once elements of one byte each have been stored, where those for it agree. -/
theorem byte_foldl_write {els : List Elem} (one : ∀ e ∈ els, e.w = 1) {A : Nat} {x : Byte}
    (same : ∀ e ∈ els, e.a = A → e.data.setWidth 8 = x) (m : List Host.Cell) :
    Memory.byte (els.foldl (fun m e => Memory.write m e.a (leBytes e.w e.data.toNat)) m) A =
      if A ∈ els.map Elem.a then x else Memory.byte m A := by
  have each : els.foldl (fun m e => Memory.write m e.a (leBytes e.w e.data.toNat)) m =
      els.foldl (fun m e => Sparse.write 0 e.a (e.data.setWidth 8) m) m := by
    refine List.foldl_ext _ _ _ fun m e he => ?_
    rw [one e he, leBytes_eq]
    simp only [List.range_one, List.map_cons, List.map_nil, pow_zero, Nat.div_one, BitVec.ofNat_toNat]
    rfl
  rw [each]
  exact get_foldl_write 0 same m

/-- The element of one byte that mst stores for byte b of row i and column j. -/
def storedByte (s : State) (q : Nat) (a : Acc) (d : BitVec 128) (ty : Nat) (sat : Bool) (i j b : Nat) : Elem :=
  { lane := 0, sp := .scr, a := s.quadByte q (Desc.byte d (128 * tyBytes ty) 0 i (j * tyBytes ty + b)), w := 1, key := 0, fmt := 0, pos := 0,
    data := (byteOfVal (convertedFrom a.int ty sat (a.at (128 * i + j)).1) b).setWidth 64, data2 := 0, poison := (a.at (128 * i + j)).2 }

theorem mem_mstBytes {s : State} {q : Nat} {a : Acc} {d : BitVec 128} {ty : Nat} {sat : Bool} {e : Elem} :
    e ∈ mstBytes s q a d ty sat ↔ ∃ i < Desc.rows d, ∃ j < 128, ∃ b < tyBytes ty, e = storedByte s q a d ty sat i j b := by
  simp only [mstBytes, List.mem_flatMap, List.mem_range, zipIdx_leBytes, List.map_map, List.mem_map, Function.comp_def, byte_eq_shift,
    fromAcc_eq, storedByte, byteOfVal, eq_comm (a := e)]

section
variable {s : State} {q : Nat} {c : MCmd} {o : VOp} (h : Turning s q c o)
include h

theorem performs_mst {n : Nat} {d : BitVec 128} {ty : Nat} {sat : Bool} (hc : c.op = .mst n d ty sat) (hL : 128 * tyBytes ty ≤ Desc.pitch d)
    (h4 : (s.quad q).quadPart % 4096 = 0) (hs : (s.quad q).quadPart ≤ Config.scratchBytes)
    (fits : Desc.base d + Desc.rows d * Desc.pitch d ≤ 4 * (s.quad q).quadPart) :
    let t := s.performMatrix q c
    Performed s t q c o none ∧
      (∀ i < Desc.rows d, ∀ j < 128, ∀ b < tyBytes ty,
        Memory.byte t.scr (s.quadByte q (Desc.byte d (128 * tyBytes ty) 0 i (j * tyBytes ty + b))) =
          byteOfVal (convertedFrom ((s.quad q).accum n).int ty sat (((s.quad q).accum n).at (128 * i + j)).1) b) ∧
      (∀ A, (∀ i < Desc.rows d, ∀ p < 128 * tyBytes ty, A ≠ s.quadByte q (Desc.byte d (128 * tyBytes ty) 0 i p)) →
        Memory.byte t.scr A = Memory.byte s.scr A) := by
  have run : s.performMatrix q c = (s.storeElems 0 (mstBytes s q ((s.quad q).accum n) d ty sat)).endMatrix q c [] 0 := by
    rw [State.performMatrix, hc]
  have inScr : ∀ e ∈ mstBytes s q ((s.quad q).accum n) d ty sat, e.sp = .scr := fun e he => by
    obtain ⟨i, -, j, -, b, -, rfl⟩ := mem_mstBytes.mp he
    rfl
  have one : ∀ e ∈ mstBytes s q ((s.quad q).accum n) d ty sat, e.w = 1 := fun e he => by
    obtain ⟨i, -, j, -, b, -, rfl⟩ := mem_mstBytes.mp he
    rfl
  have keeps := fun {γ : Type} (p : State → γ) => storeElems_keeps inScr s p
  have hu : (s.storeElems 0 (mstBytes s q ((s.quad q).accum n) d ty sat)).thr c.a = s.thr c.a :=
    keeps (fun s => s.thr c.a) (fun _ _ => by cases c.a <;> rfl) fun _ sp _ => by cases sp <;> cases c.a <;> rfl
  have place : ∀ {j b : Nat}, j < 128 → b < tyBytes ty → j * tyBytes ty + b < 128 * tyBytes ty := fun {j b} hj hb => by
    have := Nat.mul_le_mul_right (tyBytes ty) (Nat.succ_le_of_lt hj)
    rw [Nat.succ_mul] at this
    omega
  rw [run]
  refine ⟨performed_endMatrix h hu _ _ none (fun k _ => ?_) ?_ ?_ ?_, fun i hi j hj b hb => ?_, fun A away => ?_⟩
  · exact keeps (fun s => (s.quad q).accum k) (fun _ _ => rfl) fun _ sp _ => by cases sp <;> rfl
  · exact keeps State.mem (fun _ _ => rfl) fun _ sp _ => by cases sp <;> rfl
  · exact keeps State.dsp (fun _ _ => rfl) fun _ sp _ => by cases sp <;> rfl
  · exact keeps State.drive (fun _ _ => rfl) fun _ sp _ => by cases sp <;> rfl
  · rw [scr_endMatrix h hu, scr_storeElems inScr, byte_foldl_write one fun e he ha => ?_, if_pos]
    · exact List.mem_map.mpr ⟨_, mem_mstBytes.mpr ⟨i, hi, j, hj, b, hb, rfl⟩, rfl⟩
    · obtain ⟨i', hi', j', hj', b', hb', rfl⟩ := mem_mstBytes.mp he
      have near := fun {i p} hi hp => Nat.lt_of_lt_of_le (descByte_lt (d := d) (i := i) (p := p) hL hi hp) fits
      have offs := quadByte_inj (near hi' (place hj' hb')) (near hi (place hj hb)) h4 hs ha
      obtain ⟨rfl, hp⟩ := descByte_inj hL (place hj' hb') (place hj hb) offs
      obtain ⟨rfl, rfl⟩ := mul_add_unique hb' hb hp
      simp [storedByte]
  · have outside : ∀ e ∈ mstBytes s q ((s.quad q).accum n) d ty sat, e.a ≠ A := fun e he ha => by
      obtain ⟨i, hi, j, hj, b, hb, rfl⟩ := mem_mstBytes.mp he
      exact away i hi _ (place hj hb) ha.symm
    rw [scr_endMatrix h hu, scr_storeElems inScr, byte_foldl_write (x := 0) one fun e he ha => absurd ha (outside e he), if_neg]
    intro hA
    obtain ⟨e, he, ha⟩ := List.mem_map.mp hA
    exact outside e he ha

end

end Sys2Proof.Proofs
end

section
/-! PROOFS. The exact sum of a group's products and what it adds to an element of an accumulator (R87). -/
namespace Sys2Proof.Proofs

open Sys2Proof Sys2Proof.Machine Sys2Proof.Safety Sys2Proof.Claims
open Sys2Proof.Machine.Fp (roundNum)

/-! ### Running sums (R85) -/

/-- The number that an exact result stands for, where it is one. -/
def exactQ : Fp.Exact → ℚ
  | .num s m e _ => ratOf s m e
  | _ => 0

/-- The sum of a list of exact addends. -/
def sumUp (l : List Fp.Exact) (t : Fp.Sum) : Fp.Sum := l.foldl (fun t x => t.add x false) t

/-- The number that a running sum has reached. -/
def sumQ (t : Fp.Sum) : ℚ := t.x * 2 ^ t.e

/-- A mark that some addends set. -/
theorem sumUp_any {p : Fp.Sum → Bool} {y : Fp.Exact → Bool} (h : ∀ t x, p (t.add x false) = (p t || y x)) (l : List Fp.Exact) (t : Fp.Sum) :
    p (sumUp l t) = (p t || l.any y) := by
  induction l generalizing t with
  | nil => simp [sumUp]
  | cons x r ih => rw [List.any_cons, ← Bool.or_assoc, ← h, ← ih]; rfl

/-- A mark that some addends clear. -/
theorem sumUp_all {p : Fp.Sum → Bool} {y : Fp.Exact → Bool} (h : ∀ t x, p (t.add x false) = (p t && y x)) (l : List Fp.Exact) (t : Fp.Sum) :
    p (sumUp l t) = (p t && l.all y) := by
  induction l generalizing t with
  | nil => simp [sumUp]
  | cons x r ih => rw [List.all_cons, ← Bool.and_assoc, ← h, ← ih]; rfl

theorem sumQ_add (t : Fp.Sum) (x : Fp.Exact) : sumQ (t.add x false) = sumQ t + exactQ x := by
  cases x with
  | nan => exact (add_zero _).symm
  | inf s => cases s <;> exact (add_zero _).symm
  | zero s => exact (add_zero _).symm
  | num s m e b =>
    by_cases h0 : t.x = 0
    · have : sumQ (t.add (.num s m e b) false) = ((0 + Fp.scaled s m e e : Int) : ℚ) * 2 ^ e := by simp [sumQ, Fp.Sum.add, h0]
      rw [this, zero_add, scaled_cast s m le_rfl, div_mul_cancel₀ _ (two_zpow_pos e).ne', sumQ, h0, Int.cast_zero, zero_mul, zero_add]
      rfl
    · have : sumQ (t.add (.num s m e b) false) =
          ((t.x * (2 ^ (t.e - min t.e e).toNat : Nat) + Fp.scaled s m e (min t.e e) : Int) : ℚ) * 2 ^ min t.e e := by simp [sumQ, Fp.Sum.add, h0]
      have old : ((2 ^ (t.e - min t.e e).toNat : Nat) : ℚ) * 2 ^ min t.e e = 2 ^ t.e := by
        rw [Nat.cast_pow, Nat.cast_ofNat, ← zpow_natCast, ← zpow_add₀ two_ne_zero, Int.toNat_of_nonneg (by omega), sub_add_cancel]
      rw [this, Int.cast_add, add_mul, Int.cast_mul, Int.cast_natCast, mul_assoc, old, scaled_cast s m (min_le_right _ _),
        div_mul_cancel₀ _ (two_zpow_pos _).ne']
      rfl

theorem sumQ_sumUp (l : List Fp.Exact) (t : Fp.Sum) : sumQ (sumUp l t) = sumQ t + (l.map exactQ).sum := by
  induction l generalizing t with
  | nil => simp [sumUp]
  | cons x r ih => rw [List.map_cons, List.sum_cons, ← add_assoc, ← sumQ_add, ← ih]; rfl

section
variable (l : List Fp.Exact)

theorem sumUp_nan : (sumUp l .empty).nan = l.any (· == .nan) :=
  (sumUp_any (p := Fp.Sum.nan) (fun t x => by cases x with | inf s => cases s <;> simp [Fp.Sum.add] | _ => simp [Fp.Sum.add]) l _).trans
    (Bool.false_or _)

theorem sumUp_nv : (sumUp l .empty).nv = false :=
  (sumUp_any (p := Fp.Sum.nv) (y := fun _ => false)
    (fun t x => by cases x with | inf s => cases s <;> simp [Fp.Sum.add] | _ => simp [Fp.Sum.add]) l _).trans (by simp [Fp.Sum.empty])

theorem sumUp_pinf : (sumUp l .empty).pinf = l.any (· == .inf false) :=
  (sumUp_any (p := Fp.Sum.pinf) (fun t x => by cases x with | inf s => cases s <;> simp [Fp.Sum.add] | _ => simp [Fp.Sum.add]) l _).trans
    (Bool.false_or _)

theorem sumUp_ninf : (sumUp l .empty).ninf = l.any (· == .inf true) :=
  (sumUp_any (p := Fp.Sum.ninf) (fun t x => by cases x with | inf s => cases s <;> simp [Fp.Sum.add] | _ => simp [Fp.Sum.add]) l _).trans
    (Bool.false_or _)

theorem sumUp_allNegZero : (sumUp l .empty).allNegZero = l.all (· == .zero true) :=
  (sumUp_all (p := Fp.Sum.allNegZero)
    (fun t x => by cases x with | inf s => cases s <;> simp [Fp.Sum.add] | zero s => cases s <;> simp [Fp.Sum.add] | _ => simp [Fp.Sum.add])
    l _).trans (Bool.true_and _)

theorem sumQ_sumUp_empty : sumQ (sumUp l .empty) = (l.map exactQ).sum := by
  rw [sumQ_sumUp]
  simp [sumQ, Fp.Sum.empty]

/-- The exact value of a sum of a NaN, or of infinities of both signs. -/
theorem exact_nan (h : .nan ∈ l ∨ (.inf true ∈ l ∧ .inf false ∈ l)) : ((sumUp l .empty).exact 0 true).1 = .nan := by
  simp only [Fp.Sum.exact, sumUp_nan, sumUp_pinf, sumUp_ninf, List.any_beq']
  rcases h with h | ⟨h1, h2⟩
  · by_cases both : (l.contains (.inf false) && l.contains (.inf true)) = true
    · rw [if_pos both]
    · rw [if_neg both, if_pos (by simp [h])]
  · rw [if_pos (by simp [h1, h2])]

/-- The exact value of a sum with infinities of one sign. -/
theorem exact_inf {t : Bool} (hn : .nan ∉ l) (hi : .inf t ∈ l) (ho : .inf (!t) ∉ l) : ((sumUp l .empty).exact 0 true).1 = .inf t := by
  simp only [Fp.Sum.exact, sumUp_nan, sumUp_nv, sumUp_pinf, sumUp_ninf, List.any_beq']
  cases t <;> simp_all

/-- The exact value of a finite sum. -/
theorem exact_finite (hn : .nan ∉ l) (hi : ∀ t, .inf t ∉ l) : ((sumUp l .empty).exact 0 true).1 =
    if (sumUp l .empty).x = 0 then .zero (l.all (· == .zero true)) else Fp.ofInt (sumUp l .empty).x (sumUp l .empty).e false := by
  have none (x : Fp.Exact) (hx : x ∉ l) : l.contains x = false := by simpa using hx
  simp only [Fp.Sum.exact, sumUp_nan, sumUp_nv, sumUp_pinf, sumUp_ninf, sumUp_allNegZero, List.any_beq', none _ hn, none _ (hi _),
    Bool.and_false, Bool.or_false, Bool.false_eq_true, if_false]
  by_cases hx : (sumUp l .empty).x = 0
  · rw [if_pos hx, if_pos hx]
    cases l.all (· == .zero true) <;> simp
  · rw [if_neg hx, if_neg hx]

end

/-! ### The products of a group -/

/-- A multiple of 2^e that is not zero, as an exact result. -/
theorem ofInt_num {x : Int} (hx : x ≠ 0) (e : Int) (zs : Bool) :
    ∃ s m, m ≠ 0 ∧ Fp.ofInt x e zs = .num s m e false ∧ ratOf s m e = x * 2 ^ e := by
  refine ⟨decide (x < 0), x.natAbs, Int.natAbs_ne_zero.mpr hx, if_neg hx, ?_⟩
  rw [← ratOf_natAbs x]
  simp [ratOf]

/-- The exact products of a group's pairs. -/
def products (ps : List (Fp.Val × Fp.Val)) : List Fp.Exact := ps.map fun p => (Fp.mulX p.1 p.2).1

theorem groupSum_eq (ps : List (Fp.Val × Fp.Val)) : groupSum ps = ((sumUp (products ps) .empty).exact 0 true).1 := by
  rw [groupSum, sumUp, products, List.foldl_map]

/-- A product that is no number: of a NaN, or of an infinity and a zero (R70, R119). -/
theorem mulX_eq_nan (p : Fp.Val × Fp.Val) : (Fp.mulX p.1 p.2).1 = .nan ↔ Fp.Val.isNan p.1 = true ∨ Fp.Val.isNan p.2 = true ∨
    ∃ a b e, p = (.inf a, .num b 0 e) ∨ p = (.num b 0 e, .inf a) := by
  obtain ⟨x, y⟩ := p
  cases x with
  | nan q => simp [Fp.mulX, Fp.Val.isNan]
  | inf a =>
    cases y with
    | nan q => simp [Fp.mulX, Fp.Val.isNan]
    | inf b => simp [Fp.mulX, Fp.Val.isNan]
    | num b n d => by_cases hn : n = 0 <;> simp [Fp.mulX, Fp.Val.isNan, hn]
  | num a m e =>
    cases y with
    | nan q => simp [Fp.mulX, Fp.Val.isNan]
    | inf b => by_cases hm : m = 0 <;> simp [Fp.mulX, Fp.Val.isNan, hm]
    | num b n d => by_cases h0 : m * n = 0 <;> simp [Fp.mulX, Fp.Val.isNan, h0]

theorem mulX_eq_inf (p : Fp.Val × Fp.Val) (t : Bool) : (Fp.mulX p.1 p.2).1 = .inf t ↔ infinite p = some t := by
  obtain ⟨x, y⟩ := p
  cases x with
  | nan q => simp [Fp.mulX, infinite]
  | inf a =>
    cases y with
    | nan q => simp [Fp.mulX, infinite]
    | inf b => simp [Fp.mulX, infinite]
    | num b n d => by_cases hn : n = 0 <;> simp [Fp.mulX, infinite, hn]
  | num a m e =>
    cases y with
    | nan q => simp [Fp.mulX, infinite]
    | inf b => by_cases hm : m = 0 <;> simp [Fp.mulX, infinite, hm]
    | num b n d => by_cases h0 : m * n = 0 <;> simp [Fp.mulX, infinite, h0]

/-- The product of two numbers. -/
theorem exactQ_mulX (a b : Bool) (m n : Nat) (e d : Int) : exactQ (Fp.mulX (.num a m e) (.num b n d)).1 = ratOf a m e * ratOf b n d := by
  have value : ratOf (a != b) (m * n) (e + d) = ratOf a m e * ratOf b n d := by
    rw [ratOf, zpow_add₀ two_ne_zero, Nat.cast_mul]
    cases a <;> cases b <;> simp [ratOf] <;> ring
  rw [← value, Fp.mulX]
  by_cases h0 : m * n = 0
  · rw [if_pos h0, h0]
    simp [exactQ, ratOf]
  · rw [if_neg h0]
    rfl

theorem mulX_eq_negZero (a b : Bool) (m n : Nat) (e d : Int) :
    (Fp.mulX (.num a m e) (.num b n d)).1 = .zero true ↔ m * n = 0 ∧ (a != b) = true := by
  simp only [Fp.mulX]
  split_ifs with h <;> simp [h]

theorem nan_mem_products (ps : List (Fp.Val × Fp.Val)) : .nan ∈ products ps ↔
    ∃ p ∈ ps, Fp.Val.isNan p.1 = true ∨ Fp.Val.isNan p.2 = true ∨ ∃ a b e, p = (.inf a, .num b 0 e) ∨ p = (.num b 0 e, .inf a) := by
  simp only [products, List.mem_map, mulX_eq_nan]

theorem inf_mem_products (ps : List (Fp.Val × Fp.Val)) (t : Bool) : .inf t ∈ products ps ↔ ∃ p ∈ ps, infinite p = some t := by
  simp only [products, List.mem_map, mulX_eq_inf]

theorem noNumber_iff (ps : List (Fp.Val × Fp.Val)) :
    NoNumber ps ↔ .nan ∈ products ps ∨ (.inf true ∈ products ps ∧ .inf false ∈ products ps) := by
  rw [nan_mem_products, inf_mem_products, inf_mem_products, NoNumber]

/-- Every pair of a group is of numbers. -/
def Finite (ps : List (Fp.Val × Fp.Val)) : Prop := ∀ p ∈ ps, ∃ a m e b n d, p = (.num a m e, .num b n d)

section
variable {ps : List (Fp.Val × Fp.Val)} (h : Finite ps)
include h

theorem nan_notMem_products : .nan ∉ products ps := fun hn => by
  obtain ⟨p, hp, hx⟩ := (nan_mem_products ps).mp hn
  obtain ⟨a, m, e, b, n, d, rfl⟩ := h p hp
  simp [Fp.Val.isNan] at hx

theorem inf_notMem_products (t : Bool) : .inf t ∉ products ps := fun hi => by
  obtain ⟨p, hp, hx⟩ := (inf_mem_products ps t).mp hi
  obtain ⟨a, m, e, b, n, d, rfl⟩ := h p hp
  simp [infinite] at hx

theorem sum_exactQ : ((products ps).map exactQ).sum = sumOf ps := by
  rw [products, List.map_map, sumOf]
  refine congrArg List.sum (List.map_congr_left fun p hp => ?_)
  obtain ⟨a, m, e, b, n, d, rfl⟩ := h p hp
  exact exactQ_mulX a b m n e d

theorem all_negZero : (products ps).all (· == .zero true) = true ↔
    ∀ p ∈ ps, ∃ a m e b n d, p = (.num a m e, .num b n d) ∧ m * n = 0 ∧ (a != b) = true := by
  simp only [products, List.all_map, List.all_eq_true, Function.comp_apply, beq_iff_eq]
  refine forall₂_congr fun p hp => ⟨fun hz => ?_, fun ⟨a, m, e, b, n, d, hp, hz⟩ => ?_⟩
  · obtain ⟨a, m, e, b, n, d, rfl⟩ := h p hp
    exact ⟨a, m, e, b, n, d, rfl, (mulX_eq_negZero ..).mp hz⟩
  · subst hp
    exact (mulX_eq_negZero ..).mpr hz

/-- The exact sum of finite products: a zero, negative where every product is −0, or the number that they add up to. -/
theorem groupSum_finite :
    (sumOf ps = 0 ∧ groupSum ps = .zero ((products ps).all (· == .zero true))) ∨
    ∃ s m e, m ≠ 0 ∧ groupSum ps = .num s m e false ∧ ratOf s m e = sumOf ps := by
  have value : sumQ (sumUp (products ps) .empty) = sumOf ps := (sumQ_sumUp_empty _).trans (sum_exactQ h)
  rw [groupSum_eq, exact_finite _ (nan_notMem_products h) (inf_notMem_products h)]
  by_cases hx : (sumUp (products ps) .empty).x = 0
  · refine .inl ⟨?_, if_pos hx⟩
    rw [← value, sumQ, hx, Int.cast_zero, zero_mul]
  · obtain ⟨s, m, hm, hn, hq⟩ := ofInt_num hx (sumUp (products ps) .empty).e false
    exact .inr ⟨s, m, _, hm, (if_neg hx).trans hn, hq.trans value⟩

end

theorem groupSum_nan {ps : List (Fp.Val × Fp.Val)} (h : NoNumber ps) : groupSum ps = .nan := by
  rw [groupSum_eq, exact_nan _ ((noNumber_iff ps).mp h)]

theorem groupSum_inf {ps : List (Fp.Val × Fp.Val)} {t : Bool} (h : ¬NoNumber ps) (hi : ∃ p ∈ ps, infinite p = some t) :
    groupSum ps = .inf t := by
  rw [noNumber_iff, not_or, not_and] at h
  rw [← inf_mem_products] at hi
  refine (groupSum_eq ps).trans (exact_inf _ h.1 hi fun ho => ?_)
  cases t
  · exact h.2 ho hi
  · exact h.2 hi ho

/-! ### A group's sum into an element of mode I -/

/-- An integer sum is added as it is (R87). -/
theorem accumulate_int {z : Int} {s : Bool} {m : Nat} {e : Int} (h : ratOf s m e = z) (free old : BitVec 64) :
    accumulate true free old (.num s m e false) = old + BitVec.ofInt 64 z := by
  have whole : ∀ k : Nat, mag m e = k → (if s then -(k : Int) else k) = z := fun k hk => by
    rw [ratOf_eq, hk] at h
    cases s <;> exact_mod_cast h
  simp only [accumulate, if_true]
  by_cases he : e < 0
  · obtain ⟨j, rfl⟩ : ∃ j : Nat, e = -(j : Int) := ⟨(-e).toNat, by omega⟩
    have hm : m = z.natAbs * 2 ^ j := by
      have : (m : ℚ) / ((2 ^ j : Nat) : ℚ) = |(z : ℚ)| := by rw [← mag_neg_natCast, ← h, abs_ratOf]
      rw [div_eq_iff (by positivity), ← Int.cast_abs, Int.abs_eq_natAbs, Int.cast_natCast] at this
      exact_mod_cast this
    have hj : (- -(j : Int)).toNat = j := by omega
    rw [hj, hm, Nat.mul_mod_left, if_neg fun hne => hne.2 rfl, if_pos he, Nat.mul_div_cancel _ (Nat.two_pow_pos j),
      whole _ ?_]
    rw [hm, mag_shift, neg_add_cancel, mag, zpow_zero, mul_one]
  · obtain ⟨j, rfl⟩ : ∃ j : Nat, e = (j : Int) := ⟨e.toNat, by omega⟩
    rw [if_neg fun hne => he hne.1, if_neg he, Int.toNat_natCast, whole _ (mag_natCast m j)]

theorem intGroup_accumulate (free old : BitVec 64) (ps : List (Fp.Val × Fp.Val)) : IntGroup old (accumulate true free old (groupSum ps)) ps := by
  refine ⟨fun hn => by rw [groupSum_nan hn]; rfl, fun z fin hz => ?_⟩
  obtain ⟨h0, hg⟩ | ⟨s, m, e, -, hg, hq⟩ := groupSum_finite fin
  · have : z = 0 := by exact_mod_cast hz.symm.trans h0
    rw [hg, this]
    simp [accumulate]
  · rw [hg, accumulate_int (hq.trans hz)]

/-! ### A group's sum into an element of mode F -/

theorem accumulate_float (free old : BitVec 64) (p : Fp.Exact) :
    accumulate false free old p = (Fp.pack Fp.f64 0 (Fp.addX 0 (Fp.decode Fp.f64 old) p.val).1).1 := rfl

/-- The sum of two numbers: a zero, or what they add up to. -/
theorem addX_num (rm : Nat) (s t : Bool) (m n : Nat) (e d : Int) :
    (ratOf s m e + ratOf t n d = 0 ∧
      (Fp.addX rm (.num s m e) (.num t n d)).1 = .zero (if m = 0 ∧ n = 0 then Fp.zeroSign rm s t else rm == 2)) ∨
    ∃ u k q, k ≠ 0 ∧ (Fp.addX rm (.num s m e) (.num t n d)).1 = .num u k q false ∧ ratOf u k q = ratOf s m e + ratOf t n d := by
  have value : ((Fp.scaled s m e (min e d) + Fp.scaled t n d (min e d) : Int) : ℚ) * 2 ^ min e d = ratOf s m e + ratOf t n d := by
    rw [Int.cast_add, scaled_cast s m (min_le_left _ _), scaled_cast t n (min_le_right _ _), ← add_div,
      div_mul_cancel₀ _ (two_zpow_pos _).ne']
  by_cases hx : Fp.scaled s m e (min e d) + Fp.scaled t n d (min e d) = 0
  · refine .inl ⟨by rw [← value, hx, Int.cast_zero, zero_mul], ?_⟩
    simp only [Fp.addX, hx, if_true]
  · obtain ⟨u, k, hk, hn, hq⟩ := ofInt_num hx (min e d) false
    refine .inr ⟨u, k, _, hk, ?_, hq.trans value⟩
    simp only [Fp.addX, hx, if_false, hn]

/-- Two finite numbers of one value round alike. -/
theorem roundNum_of_ratOf {s t : Bool} {m n : Nat} {e d : Int} (hm : m ≠ 0) (hn : n ≠ 0) (h : ratOf s m e = ratOf t n d) (f : Fp.Fmt)
    (rm : Nat) (sat : Bool) : roundNum f rm sat s m e false = roundNum f rm sat t n d false := by
  obtain ⟨rfl, hmag⟩ := ratOf_inj hm h
  exact roundNum_congr hm hn hmag f rm sat s

/-- An infinite binary64 number has one form. -/
theorem eq_inf_of_decode {x : BitVec 64} {t : Bool} (h : Fp.decode Fp.f64 x = .inf t) : x = BitVec.ofNat 64 (Fp.f64.inf t) := by
  rw [decode_eq_fieldVal] at h
  have fields : bitsOf (x.toNat % 2 ^ Fp.f64.width) Fp.f64.fb Fp.f64.eb = 2047 ∧ x.toNat % 2 ^ Fp.f64.width % 2 ^ Fp.f64.fb = 0 ∧
      bitAt (x.toNat % 2 ^ Fp.f64.width) (Fp.f64.width - 1) = t := by
    generalize x.toNat % 2 ^ Fp.f64.width % 2 ^ Fp.f64.fb = fr at *
    generalize bitsOf _ _ _ = ex at *
    simp only [fieldVal, show Fp.f64.e4m3 = false from rfl, Bool.false_eq_true, if_false] at h
    split_ifs at h with he hf
    exact ⟨he, hf, Fp.Val.inf.inj h⟩
  obtain ⟨exponent, fraction, sign⟩ := fields
  have hx := x.isLt
  simp only [bitsOf, bitAt, show Fp.f64.width = 64 from rfl, show Fp.f64.fb = 52 from rfl, show Fp.f64.eb = 11 from rfl] at exponent fraction sign
  apply BitVec.eq_of_toNat_eq
  cases t
  · rw [beq_eq_false_iff_ne] at sign
    rw [show (BitVec.ofNat 64 (Fp.f64.inf false)).toNat = 2047 * 2 ^ 52 from by decide]
    omega
  · rw [beq_iff_eq] at sign
    rw [show (BitVec.ofNat 64 (Fp.f64.inf true)).toNat = 2 ^ 63 + 2047 * 2 ^ 52 from by decide]
    omega

theorem ratOf_eq_zero {s : Bool} {m : Nat} {e : Int} : ratOf s m e = 0 ↔ m = 0 := by rw [← abs_eq_zero, abs_ratOf, mag_eq_zero]

/-- The sum of a group of numbers, as a value: a zero of the sign that all products have, or a number that is not zero. -/
theorem val_groupSum {ps : List (Fp.Val × Fp.Val)} (h : Finite ps) : ∃ s m e, (groupSum ps).val = .num s m e ∧ ratOf s m e = sumOf ps ∧
    (m = 0 → s = (products ps).all (· == .zero true)) := by
  obtain ⟨h0, hg⟩ | ⟨s, m, e, hm, hg, hq⟩ := groupSum_finite h
  · exact ⟨_, 0, 0, by rw [hg]; rfl, by rw [h0, ratOf_eq_zero], fun _ => rfl⟩
  · exact ⟨s, m, e, by rw [hg]; rfl, hq, fun h0 => absurd h0 hm⟩

/-- An element that every product and the element itself leave at −0. -/
def AllNegZero (a : Bool) (m : Nat) (ps : List (Fp.Val × Fp.Val)) : Prop :=
  a = true ∧ m = 0 ∧ ∀ p ∈ ps, ∃ a' m' e' b' n' d', p = (.num a' m' e', .num b' n' d') ∧ m' * n' = 0 ∧ (a' != b') = true

/-- The sign of an exact zero that numbers add up to in round to nearest (R87, R119). -/
theorem zeroSign_nearest (a b : Bool) : Fp.zeroSign 0 a b = (a && b) := by cases a <;> cases b <;> rfl

section
variable {old : BitVec 64} {a : Bool} {m : Nat} {e : Int} {ps : List (Fp.Val × Fp.Val)} (fin : Finite ps)
  (ho : Fp.decode Fp.f64 old = .num a m e) (free : BitVec 64)
include fin ho

/-- A sum that is not zero is rounded once. -/
theorem accumulate_num {sg : Bool} {n : Nat} {d : Int} (hn : n ≠ 0) (h : ratOf sg n d = ratOf a m e + sumOf ps) :
    accumulate false free old (groupSum ps) = (roundNum Fp.f64 0 false sg n d false).1 := by
  obtain ⟨b, k, q, hv, hq, -⟩ := val_groupSum fin
  rw [accumulate_float, ho, hv]
  obtain ⟨h0, -⟩ | ⟨u, j, r, hj, hx, hr⟩ := addX_num 0 a b m k e q
  · rw [hq, ← h, ratOf_eq_zero] at h0
    exact absurd h0 hn
  · rw [hx, Fp.pack, roundNum_of_ratOf hj hn (hr.trans (by rw [hq, h]))]

/-- A sum that is zero is +0 but where everything added is −0. -/
theorem accumulate_zero (h : ratOf a m e + sumOf ps = 0) :
    (AllNegZero a m ps → accumulate false free old (groupSum ps) = 0x8000000000000000) ∧
    (¬AllNegZero a m ps → accumulate false free old (groupSum ps) = 0) := by
  obtain ⟨b, k, q, hv, hq, hb⟩ := val_groupSum fin
  rw [accumulate_float, ho, hv]
  obtain ⟨-, hx⟩ | ⟨u, j, r, hj, -, hr⟩ := addX_num 0 a b m k e q
  · rw [hx, Fp.pack, zeroSign_nearest]
    refine ⟨fun ⟨ha, hm, hp⟩ => ?_, fun hn => ?_⟩
    · have hk : k = 0 := by
        rw [hm, ratOf_eq_zero.mpr rfl, zero_add, ← hq] at h
        exact ratOf_eq_zero.mp h
      rw [if_pos ⟨hm, hk⟩, hb hk, (all_negZero fin).mpr hp, ha]
      decide
    · have sign : (if m = 0 ∧ k = 0 then a && b else 0 == 2) = false := by
        split_ifs with hmk
        · obtain ⟨hm, hk⟩ := hmk
          refine Bool.eq_false_iff.mpr fun hab => hn ?_
          obtain ⟨ha, hb'⟩ := (Bool.and_eq_true _ _).mp hab
          exact ⟨ha, hm, (all_negZero fin).mp (hb hk ▸ hb')⟩
        · rfl
      rw [sign]
      decide
  · rw [hq, h, ratOf_eq_zero] at hr
    exact absurd hr hj

end

theorem floatGroup_accumulate (free old : BitVec 64) (ps : List (Fp.Val × Fp.Val)) :
    FloatGroup old (accumulate false free old (groupSum ps)) ps := by
  have packedNan : (Fp.pack Fp.f64 0 .nan).1 = 0x7FF8000000000000 := by decide
  refine ⟨fun hn => ?_, fun t hn hi ho => ?_, fun t fin ho => ?_, fun a m e fin ho =>
    ⟨fun sg n d hn h => accumulate_num fin ho free hn h, fun h => accumulate_zero fin ho free h⟩⟩
  · rw [accumulate_float, addX_nan, packedNan]
    exact hn.symm.imp_right fun hp => by rw [groupSum_nan hp]; rfl
  · rw [accumulate_float, groupSum_inf hn hi]
    cases hd : Fp.decode Fp.f64 old with
    | nan q =>
      rw [hd] at ho
      cases ho
    | inf u =>
      by_cases hu : u = t
      · subst hu
        rw [if_neg fun he => (Bool.eq_not_self u).mp (Fp.Val.inf.inj he)]
        simp [Fp.addX, Fp.Exact.val, Fp.pack]
      · rw [if_pos (by rw [Bool.eq_not_of_ne hu])]
        simpa [Fp.addX, Fp.Exact.val, hu] using packedNan
    | num a m e => rfl
  · obtain ⟨b, k, q, hv, -⟩ := val_groupSum fin
    rw [accumulate_float, ho, hv, eq_inf_of_decode ho]
    rfl

end Sys2Proof.Proofs
end

section
/-! PROOFS. The elements that an mma reads, and its groups of k-steps (R232, R235, R238, R239, R87). -/
namespace Sys2Proof.Proofs

open Sys2Proof Sys2Proof.Machine Sys2Proof.Safety Sys2Proof.Claims

/-! ### Operand types (Table 16.2) -/

theorem matrixType_eq {t : Nat} (lo : 7 ≤ t) (hi : t < 16) : matrixType t = some (groupOf t, decide (t = 13 ∨ t = 14)) := by
  interval_cases t <;> rfl

theorem isBlock_iff (t : Nat) : isBlock t = true ↔ t = 10 ∨ t = 11 ∨ t = 12 ∨ t = 15 := by simp [isBlock, or_assoc]

theorem tyBytes_operand {t : Nat} (lo : 7 ≤ t) (hi : t < 16) (hb : ¬(t = 10 ∨ t = 11 ∨ t = 12 ∨ t = 15)) :
    tyBytes t = if t = 7 then 2 else 1 := by
  have : t = 7 ∨ t = 8 ∨ t = 9 ∨ t = 13 ∨ t = 14 := by omega
  rcases this with rfl | rfl | rfl | rfl | rfl <;> rfl

theorem intOf_ofNat (signed : Bool) (n : Nat) :
    intOf signed 8 (BitVec.ofNat 64 n) = if signed then (BitVec.ofNat 8 n).toInt else ((BitVec.ofNat 8 n).toNat : Int) := by
  rw [intOf, BitVec.setWidth_ofNat_of_le (by decide)]

/-! ### Elements (R235, R239) -/

/-- The element that raw bytes give at place j of their row, and its type. -/
def rawElem (t : Nat) (signed : Bool) (raw j : Nat) : Fp.Val :=
  if isBlock t then Block.elem t raw (unitOf t j).2.2
  else if isInt t then .num (decide (intOf signed 8 (BitVec.ofNat 64 raw) < 0)) (intOf signed 8 (BitVec.ofNat 64 raw)).natAbs 0
  else Fp.decode (Fp.ofTy t) (BitVec.ofNat 64 raw)

/-- An element under the scale table that stands for it (R239). -/
def scaledElem (scale : Option Scale) (a : Nat) (v : Fp.Val) : Fp.Val := match scale with | some sc => scaleBy (sc.entry a) v | none => v

/-- The stored rows of an operand; a feed buffer holds 128. -/
def rowsOf : OpFrom → Nat
  | .quad d => Desc.rows d
  | .feed _ => 128

/-- Byte b of the unit at p in stored row i of k-tile t, of rows of L bytes. -/
def unitByte (s : State) (q L : Nat) (src : OpFrom) (t i p b : Nat) : Byte :=
  match src with
  | .quad d => Memory.byte s.scr (s.quadByte q (Desc.byte d L t i (p + b)))
  | .feed f => Sparse.get 0 (i * L + p + b) f.bytes

/-- The place of that unit, by which the scale tables count. -/
def unitPlace (L : Nat) (src : OpFrom) (t i p : Nat) : Nat :=
  match src with
  | .quad d => Desc.logical d t i p
  | .feed _ => i * L + p

/-- The element at place j of stored row i of k-tile t. -/
def storedElem (s : State) (q : Nat) (src : OpFrom) (ty : Nat) (signed : Bool) (scale : Option Scale) (t i j : Nat) : Fp.Val :=
  if rowsOf src ≤ i then .num false 0 0
  else scaledElem scale (unitPlace (rowLen ty) src t i (unitOf ty j).2.1)
    (rawElem ty signed (leNat ((List.range (unitOf ty j).1).map fun b => unitByte s q (rowLen ty) src t i (unitOf ty j).2.1 b)) j)

theorem map_unitBytes (s : State) (q : Nat) (x : Operand) (t i p n : Nat) :
    (s.unitBytes q x t i p n).map (·.1) = (List.range n).map fun b => unitByte s q (rowLen x.ty) x.src t i p b := by
  rw [State.unitBytes, List.map_map]
  cases x.src <;> rfl

theorem operandElem_stored (s : State) (q : Nat) (src : OpFrom) (ty : Nat) (signed byRow : Bool) (scale : Option Scale) (r k : Nat) :
    (s.operandElem q ⟨src, ty, signed, byRow, scale⟩ r k).1 =
      storedElem s q src ty signed scale (k / 128) (if byRow then r else k % 128) (if byRow then k % 128 else r) := by
  have all (i j : Nat) : (if rowsOf src ≤ i then ((.num false 0 0, false) : Fp.Val × Bool) else (scaledElem scale
      (unitPlace (rowLen ty) src (k / 128) i (unitOf ty j).2.1)
      (rawElem ty signed (leNat ((s.unitBytes q ⟨src, ty, signed, byRow, scale⟩ (k / 128) i (unitOf ty j).2.1 (unitOf ty j).1).map (·.1))) j),
      (s.unitBytes q ⟨src, ty, signed, byRow, scale⟩ (k / 128) i (unitOf ty j).2.1 (unitOf ty j).1).any (·.2))).1 =
      storedElem s q src ty signed scale (k / 128) i j := by
    rw [apply_ite Prod.fst, map_unitBytes]
    rfl
  cases byRow
  · exact all (k % 128) r
  · exact all r (k % 128)

/-- Where the units of an operand type lie (Table 16.2, R235). -/
theorem unitOf_eq {t : Nat} (lo : 7 ≤ t) (hi : t < 16) (j : Nat) :
    let block : Prop := t = 10 ∨ t = 11 ∨ t = 12 ∨ t = 15
    let w := if block then Block.size t else if t = 7 then 2 else 1
    (unitOf t j).1 = w ∧ (unitOf t j).2.1 = (if block then j / Block.elems t * w else j * w) ∧
      rowLen t = if block then 128 / Block.elems t * w else 128 * w := by
  intro block w
  dsimp only [w, unitOf, rowLen]
  by_cases hb : block
  · simp only [(isBlock_iff t).mpr hb, hb, if_true]
    trivial
  · have hB : ¬isBlock t = true := fun h => hb ((isBlock_iff t).mp h)
    simp only [hB, hb, tyBytes_operand lo hi hb, if_false]
    trivial

theorem rawElem_eq {t : Nat} (lo : 7 ≤ t) (hi : t < 16) (signed : Bool) (raw j : Nat) :
    let y : Int := if signed then (BitVec.ofNat 8 raw).toInt else (BitVec.ofNat 8 raw).toNat
    rawElem t signed raw j = if t = 10 ∨ t = 11 ∨ t = 12 ∨ t = 15 then Block.elem t raw (j % Block.elems t)
      else if t = 13 ∨ t = 14 then .num (decide (y < 0)) y.natAbs 0 else Fp.decode (Fp.ofTy t) (BitVec.ofNat 64 raw) := by
  intro y
  have hI : isInt t = true ↔ t = 13 ∨ t = 14 := by simp only [isInt_eq, decide_eq_true_eq]; omega
  dsimp only [rawElem, unitOf]
  simp only [isBlock_iff, hI, intOf_ofNat]
  by_cases hb : t = 10 ∨ t = 11 ∨ t = 12 ∨ t = 15
  · simp only [if_pos hb]
  · simp only [if_neg hb]
    rfl

theorem elemOf_stored (s : State) (q : Nat) (src : OpFrom) {ty : Nat} (lo : 7 ≤ ty) (hi : ty < 16) (signed byRow : Bool)
    (scale : Option Scale) {r : Nat} (hr : r < 128) (k : Nat) : elemOf s q src ty signed byRow scale r k =
      storedElem s q src ty signed scale (k / 128) (if byRow then r else k % 128) (if byRow then k % 128 else r) := by
  have row : (if byRow then r else k % 128) < 128 := by
    split_ifs
    · exact hr
    · exact Nat.mod_lt _ (by decide)
  unfold elemOf
  generalize (if byRow then r else k % 128) = i at *
  generalize (if byRow then k % 128 else r) = j at *
  obtain ⟨hw, hp, hL⟩ := unitOf_eq lo hi j
  rw [storedElem, rawElem_eq lo hi, hw, hp, hL]
  cases src with
  | quad d =>
    simp only [decide_eq_true_eq]
    by_cases hd : Desc.rows d ≤ i
    · rw [if_pos hd, if_pos (show rowsOf (.quad d) ≤ i from hd)]
    · rw [if_neg hd, if_neg (show ¬rowsOf (.quad d) ≤ i from hd)]
      cases scale with
      | none => rfl
      | some z => rfl
  | feed f =>
    rw [if_neg Bool.false_ne_true, if_neg (show ¬rowsOf (.feed f) ≤ i from Nat.not_le.mpr row)]
    simp only [unitPlace, unitByte, Nat.mul_comm i]
    cases scale with
    | none => rfl
    | some z => rfl

theorem operandElem_eq (s : State) (q : Nat) (src : OpFrom) {ty : Nat} (lo : 7 ≤ ty) (hi : ty < 16) (signed byRow : Bool)
    (scale : Option Scale) {r : Nat} (hr : r < 128) (k : Nat) :
    (s.operandElem q ⟨src, ty, signed, byRow, scale⟩ r k).1 = elemOf s q src ty signed byRow scale r k := by
  rw [operandElem_stored, elemOf_stored s q src lo hi signed byRow scale hr k]

/-! ### Groups of k-steps (R87) -/

/-- The pairs of elements that group g of an mma multiplies. -/
def groupPairs (s : State) (q : Nat) (a b : Operand) (G m n g : Nat) : List (Fp.Val × Fp.Val) :=
  (List.range G).map fun k => ((s.operandElem q a m (g * G + k)).1, (s.operandElem q b n (g * G + k)).1)

theorem mmaElem_zero (s : State) (q : Nat) (a b : Operand) (int : Bool) (G m n : Nat) (old : BitVec 64 × Bool) :
    s.mmaElem q a b int G 0 0 m n old = old := rfl

theorem mmaElem_succ (s : State) (q : Nat) (a b : Operand) (int : Bool) (G g m n : Nat) (old : BitVec 64 × Bool) :
    (s.mmaElem q a b int G 0 (g + 1) m n old).1 = accumulate int (Config.freeWord s.freeCtr (500000 + 128 * m + n))
      (s.mmaElem q a b int G 0 g m n old).1 (groupSum (groupPairs s q a b G m n g)) := by
  simp only [State.mmaElem, Nat.sub_zero, List.range_succ, List.map_append, List.foldl_append, List.map_cons, List.map_nil,
    List.foldl_cons, List.foldl_nil, List.map_map, Function.comp_def, groupPairs, Nat.zero_add]

/-! ### mma (R238, R240) -/

/-- Operand A of an mma. -/
def operandA (x : Quad) (d : BitVec 128) (w : BitVec 64) : Operand :=
  ⟨if w.getLsbD 12 then .feed x.feedA else .quad d, (w.extractLsb' 0 4).toNat, w.getLsbD 8, !w.getLsbD 10,
    if w.getLsbD 14 then some x.scaleA else none⟩

/-- Operand B of an mma. -/
def operandB (x : Quad) (d : BitVec 128) (w : BitVec 64) : Operand :=
  ⟨if w.getLsbD 13 then .feed x.feedB else .quad d, (w.extractLsb' 4 4).toNat, w.getLsbD 9, w.getLsbD 11,
    if w.getLsbD 15 then some x.scaleB else none⟩

/-- The accumulator that an mma leaves which no fault of its program has met. -/
def mmaAcc (s : State) (q n : Nat) (da db : BitVec 128) (w : BitVec 64) (mask : BitVec 128) : Acc :=
  accFrom ((s.quad q).accum n) ((List.range 128).filter fun m => !w.getLsbD 26 || mask.getLsbD m) fun m j =>
    s.mmaElem q (operandA (s.quad q) da w) (operandB (s.quad q) db w) ((matrixType (Cw.at_ w)).getD (4, false)).2 (Quad.mmaGroup w) 0
      (Quad.mmaGroups w) m j (((s.quad q).accum n).at (128 * m + j))

/-- A quad without the feed buffers that an mma has read. -/
def Quad.emptied (w : BitVec 64) (x : Quad) : Quad :=
  { x with feedA := if w.getLsbD 12 then ⟨[], false⟩ else x.feedA, feedB := if w.getLsbD 13 then ⟨[], false⟩ else x.feedB }

theorem bitsOf_toNat (w : BitVec 64) (lo n : Nat) : bitsOf w.toNat lo n = (w.extractLsb' lo n).toNat := by
  rw [BitVec.extractLsb'_toNat, bitsOf, Nat.shiftRight_eq_div_pow]

theorem operands_eq (x : Quad) (da db : BitVec 128) (w : BitVec 64) : x.operands da db w = (operandA x da w, operandB x db w) := by
  simp only [Quad.operands, operandA, operandB, Cw.at_, Cw.bt, Cw.fa, Cw.fb, aByRow, bByRow, bitsOf_toNat]
  rfl

section
variable {s : State} {q : Nat} {c : MCmd} {o : VOp} (h : Turning s q c o) {n : Nat} {da db : BitVec 128} {w : BitVec 64} {mask : BitVec 128}
  (hc : c.op = .mma n da db w mask 0) (met : c.met = 0)

include hc met in
theorem performMatrix_mma : s.performMatrix q c = ((s.mapQuad q fun x => x.setAccum n (mmaAcc s q n da db w mask)).mapQuad q
    (Quad.emptied w)).endMatrix q c [] 0 := by
  rw [State.performMatrix, hc]
  dsimp only
  rw [met, State.mmaSplit, State.mmaPart, operands_eq]
  rfl

include h hc met in
theorem performs_mma : Performed s (s.performMatrix q c) q c o (some n) ∧ (s.performMatrix q c).scr = s.scr ∧
    ((s.performMatrix q c).quad q).accum n = mmaAcc s q n da db w mask ∧
    (w.getLsbD 12 = true → ((s.performMatrix q c).quad q).feedA = ⟨[], false⟩) ∧
    (w.getLsbD 13 = true → ((s.performMatrix q c).quad q).feedB = ⟨[], false⟩) := by
  rw [performMatrix_mma hc met]
  generalize mmaAcc s q n da db w mask = new
  have hu : ((s.mapQuad q fun x => x.setAccum n new).mapQuad q (Quad.emptied w)).thr c.a = s.thr c.a :=
    (thr_mapQuad (f := Quad.emptied w) _ _ (fun _ => rfl) _).trans (thr_mapQuad (f := fun x => x.setAccum n new) _ _ (fun _ => rfl) _)
  have after : ((s.mapQuad q fun x => x.setAccum n new).mapQuad q (Quad.emptied w)).quad q = Quad.emptied w ((s.quad q).setAccum n new) := by
    rw [State.quad_mapQuad_same, State.quad_mapQuad_same]
  have acc : ∀ k, (((s.mapQuad q fun x => x.setAccum n new).mapQuad q (Quad.emptied w)).quad q).accum k =
      if k = n then new else (s.quad q).accum k := fun k => by
    rw [after]
    exact accum_setAccum _ _ _ _
  refine ⟨performed_endMatrix h hu _ _ _ (fun k hk => ?_) rfl rfl rfl, scr_endMatrix h hu _ _, ?_, fun ha => ?_, fun hb => ?_⟩
  · rw [acc, if_neg fun e => hk (congrArg some e)]
  · rw [accum_endMatrix h hu, acc, if_pos rfl]
  · rw [quad_endMatrix h hu _ _ Quad.feedA (fun _ _ => rfl) fun _ _ => rfl, after]
    exact if_pos ha
  · rw [quad_endMatrix h hu _ _ Quad.feedB (fun _ _ => rfl) fun _ _ => rfl, after]
    exact if_pos hb

end

/-- The bits of a control word that the group size and the count of groups stand on. -/
theorem mmaGroup_eq {w : BitVec 64} (ha : 7 ≤ (w.extractLsb' 0 4).toNat) (hb : 7 ≤ (w.extractLsb' 4 4).toNat) :
    Quad.mmaGroup w = min (groupOf (w.extractLsb' 0 4).toNat) (groupOf (w.extractLsb' 4 4).toNat) := by
  rw [Quad.mmaGroup, Cw.at_, Cw.bt, bitsOf_toNat, bitsOf_toNat, matrixType_eq ha (w.extractLsb' 0 4).isLt,
    matrixType_eq hb (w.extractLsb' 4 4).isLt]
  rfl

theorem mmaGroups_eq (w : BitVec 64) : Quad.mmaGroups w = ((w.extractLsb' 16 8).toNat + 1) * 32 / Quad.mmaGroup w := by
  rw [Quad.mmaGroups, Cw.k, bitsOf_toNat]

theorem mode_eq {w : BitVec 64} (ha : 7 ≤ (w.extractLsb' 0 4).toNat) : ((matrixType (Cw.at_ w)).getD (4, false)).2 =
    decide ((w.extractLsb' 0 4).toNat = 13 ∨ (w.extractLsb' 0 4).toNat = 14) := by
  rw [Cw.at_, bitsOf_toNat, matrixType_eq ha (w.extractLsb' 0 4).isLt]
  rfl

/-- An element of the accumulator that an mma leaves. -/
theorem at_mmaAcc (s : State) (q n : Nat) (da db : BitVec 128) (w : BitVec 64) (mask : BitVec 128) {i j : Nat} (hi : i < 128) (hj : j < 128) :
    ((mmaAcc s q n da db w mask).at (128 * i + j)).1 =
      if w.getLsbD 26 = true ∧ mask.getLsbD i = false then (((s.quad q).accum n).at (128 * i + j)).1
      else (s.mmaElem q (operandA (s.quad q) da w) (operandB (s.quad q) db w) ((matrixType (Cw.at_ w)).getD (4, false)).2 (Quad.mmaGroup w) 0
        (Quad.mmaGroups w) i j (((s.quad q).accum n).at (128 * i + j))).1 := by
  have masked : i ∈ (List.range 128).filter (fun m => !w.getLsbD 26 || mask.getLsbD m) ↔ ¬(w.getLsbD 26 = true ∧ mask.getLsbD i = false) := by
    rw [List.mem_filter, List.mem_range]
    cases w.getLsbD 26 <;> cases mask.getLsbD i <;> simp [hi]
  rw [mmaAcc, at_accFrom _ _ _ _ hj]
  simp only [masked, ite_not]

/-! ### The groups of any mma -/

theorem groups_of_mma {s : State} {q n : Nat} {da db : BitVec 128} {w : BitVec 64} {mask : BitVec 128}
    (ha : 7 ≤ (w.extractLsb' 0 4).toNat) (hb : 7 ≤ (w.extractLsb' 4 4).toNat) {i j : Nat} (hi : i < 128) (hj : j < 128)
    (hm : w.getLsbD 26 = true → mask.getLsbD i = true) :
    let x := s.quad q
    let ta := (w.extractLsb' 0 4).toNat
    let tb := (w.extractLsb' 4 4).toNat
    let int (t : Nat) : Prop := t = 13 ∨ t = 14
    let K := ((w.extractLsb' 16 8).toNat + 1) * 32
    let G := min (groupOf ta) (groupOf tb)
    let a := if w.getLsbD 12 then OpFrom.feed x.feedA else OpFrom.quad da
    let b := if w.getLsbD 13 then OpFrom.feed x.feedB else OpFrom.quad db
    ∃ z : Nat → BitVec 64, z 0 = ((x.accum n).at (128 * i + j)).1 ∧ z (K / G) = ((mmaAcc s q n da db w mask).at (128 * i + j)).1 ∧
      ∀ g < K / G,
        let ps := (List.range G).map fun k =>
          (elemOf s q a ta (w.getLsbD 8) (!w.getLsbD 10) (if w.getLsbD 14 then some x.scaleA else none) i (g * G + k),
           elemOf s q b tb (w.getLsbD 9) (w.getLsbD 11) (if w.getLsbD 15 then some x.scaleB else none) j (g * G + k))
        (int ta → IntGroup (z g) (z (g + 1)) ps) ∧ (¬int ta → FloatGroup (z g) (z (g + 1)) ps) := by
  intro x ta tb int K G a b
  refine ⟨fun g => (s.mmaElem q (operandA x da w) (operandB x db w) (decide (int ta)) G 0 g i j ((x.accum n).at (128 * i + j))).1, rfl, ?_,
    fun g _ => ?_⟩
  · rw [at_mmaAcc s q n da db w mask hi hj, if_neg fun hne => by simp [hm hne.1] at hne, mmaGroups_eq, mmaGroup_eq ha hb, mode_eq ha]
  · intro ps
    have pairs : groupPairs s q (operandA x da w) (operandB x db w) G i j g = ps :=
      List.map_congr_left fun k _ => congrArg₂ Prod.mk (operandElem_eq s q a ha (w.extractLsb' 0 4).isLt _ _ _ hi _)
        (operandElem_eq s q b hb (w.extractLsb' 4 4).isLt _ _ _ hj _)
    dsimp only
    rw [mmaElem_succ, pairs]
    refine ⟨fun ht => ?_, fun ht => ?_⟩
    · rw [decide_eq_true ht]
      exact intGroup_accumulate _ _ _
    · rw [decide_eq_false ht]
      exact floatGroup_accumulate _ _ _

end Sys2Proof.Proofs
end

section
/-! PROOFS. Integer products of an mma (R87, R238), and the reset of a matrix engine (R242, R359). -/
namespace Sys2Proof.Proofs

open Sys2Proof Sys2Proof.Machine Sys2Proof.Safety Sys2Proof.Claims

/-! ### Elements of i8 and n8 -/

/-- An integer as an exact value. -/
def intVal (y : Int) : Fp.Val := .num (decide (y < 0)) y.natAbs 0

theorem elemOf_int (s : State) (q : Nat) (src : OpFrom) {t : Nat} (ht : t = 13 ∨ t = 14) (signed byRow : Bool) (r k : Nat) :
    elemOf s q src t signed byRow none r k = intVal (intElem s q src signed byRow r k) := by
  have single : ∀ b : Byte, BitVec.ofNat 8 (leNat [b]) = b := fun b => by simp [leNat]
  have noBlock : ¬(t = 10 ∨ t = 11 ∨ t = 12 ∨ t = 15) := by omega
  have seven : t ≠ 7 := by omega
  cases src with
  | quad d =>
    simp only [elemOf, intElem, intVal, ht, noBlock, seven, if_true, if_false, List.range_one, List.map_cons, List.map_nil, single, Nat.mul_one,
      Nat.add_zero]
    by_cases hd : Desc.rows d ≤ if byRow then r else k % 128
    · rw [if_pos (decide_eq_true hd), if_pos hd]
      rfl
    · rw [if_neg (by rwa [decide_eq_true_eq]), if_neg hd]
  | feed f =>
    simp only [elemOf, intElem, intVal, ht, noBlock, seven, if_true, if_false, List.range_one, List.map_cons, List.map_nil, single, Nat.mul_one,
      Nat.add_zero]
    exact if_neg Bool.false_ne_true

theorem sumOf_int (l : List Nat) (f g : Nat → Int) :
    sumOf (l.map fun k => (intVal (f k), intVal (g k))) = ((l.map fun k => f k * g k).sum : Int) := by
  rw [sumOf, List.map_map, Int.cast_list_sum, List.map_map]
  refine congrArg List.sum (List.map_congr_left fun k _ => ?_)
  simp only [Function.comp_apply, intVal, ratOf_natAbs, Int.cast_mul]

/-- A sum over consecutive groups is a sum over their k-steps. -/
theorem sum_groups (f : Nat → Int) (g G : Nat) :
    ((List.range ((g + 1) * G)).map f).sum = ((List.range (g * G)).map f).sum + ((List.range G).map fun k => f (g * G + k)).sum := by
  rw [Nat.succ_mul, List.range_add, List.map_append, List.sum_append, List.map_map]
  rfl

/-- Integer products are added modulo 2^64, whatever the size of the groups. -/
theorem mmaElem_int {s : State} {q : Nat} {a b : Operand} {i j : Nat} {fa fb : Nat → Int} (G : Nat)
    (ha : ∀ k, (s.operandElem q a i k).1 = intVal (fa k)) (hb : ∀ k, (s.operandElem q b j k).1 = intVal (fb k)) (g : Nat)
    (old : BitVec 64 × Bool) : (s.mmaElem q a b true G 0 g i j old).1 =
      old.1 + BitVec.ofInt 64 (((List.range (g * G)).map fun k => fa k * fb k).sum) := by
  induction g with
  | zero => rw [mmaElem_zero, Nat.zero_mul]; simp
  | succ g ih =>
    have pairs : groupPairs s q a b G i j g = (List.range G).map fun k => (intVal (fa (g * G + k)), intVal (fb (g * G + k))) := by
      simp only [groupPairs, ha, hb]
    have fin : Finite (groupPairs s q a b G i j g) := by
      rw [pairs]
      intro p hp
      obtain ⟨k, -, rfl⟩ := List.mem_map.mp hp
      exact ⟨_, _, _, _, _, _, rfl⟩
    have sum : sumOf (groupPairs s q a b G i j g) = (((List.range G).map fun k => fa (g * G + k) * fb (g * G + k)).sum : Int) := by
      rw [pairs, sumOf_int]
    obtain ⟨-, added⟩ := intGroup_accumulate (Config.freeWord s.freeCtr (500000 + 128 * i + j)) (s.mmaElem q a b true G 0 g i j old).1
      (groupPairs s q a b G i j g)
    rw [mmaElem_succ, added _ fin sum, ih, sum_groups, BitVec.ofInt_add, BitVec.add_assoc]

theorem int_mma {s : State} {q n : Nat} {da db : BitVec 128} {w : BitVec 64} {mask : BitVec 128}
    (ha : w.extractLsb' 0 4 = 13#4 ∨ w.extractLsb' 0 4 = 14#4) (hb : w.extractLsb' 4 4 = 13#4 ∨ w.extractLsb' 4 4 = 14#4)
    (hsa : w.getLsbD 14 = false) (hsb : w.getLsbD 15 = false) {i j : Nat} (hi : i < 128) (hj : j < 128) :
    let x := s.quad q
    let a := if w.getLsbD 12 then OpFrom.feed x.feedA else OpFrom.quad da
    let b := if w.getLsbD 13 then OpFrom.feed x.feedB else OpFrom.quad db
    ((mmaAcc s q n da db w mask).at (128 * i + j)).1 =
      if w.getLsbD 26 = true ∧ mask.getLsbD i = false then ((x.accum n).at (128 * i + j)).1
      else ((x.accum n).at (128 * i + j)).1 + BitVec.ofInt 64 (((List.range (((w.extractLsb' 16 8).toNat + 1) * 32)).map fun k =>
        intElem s q a (w.getLsbD 8) (!w.getLsbD 10) i k * intElem s q b (w.getLsbD 9) (w.getLsbD 11) j k).sum) := by
  intro x a b
  have nat : ∀ {v : BitVec 4}, v = 13#4 ∨ v = 14#4 → v.toNat = 13 ∨ v.toNat = 14 := by rintro v (rfl | rfl) <;> decide
  have ta := nat ha
  have tb := nat hb
  have group : ∀ {t : Nat}, t = 13 ∨ t = 14 → groupOf t = 8 := by rintro t (rfl | rfl) <;> rfl
  have size : Quad.mmaGroup w = 8 := by rw [mmaGroup_eq (by omega) (by omega), group ta, group tb]; rfl
  have steps : Quad.mmaGroups w * 8 = ((w.extractLsb' 16 8).toNat + 1) * 32 := by rw [mmaGroups_eq, size]; omega
  have elA : ∀ k, (s.operandElem q (operandA x da w) i k).1 = intVal (intElem s q a (w.getLsbD 8) (!w.getLsbD 10) i k) := fun k => by
    rw [operandA, hsa, operandElem_eq s q _ (by omega) (by omega) _ _ _ hi]
    exact elemOf_int s q a ta _ _ i k
  have elB : ∀ k, (s.operandElem q (operandB x db w) j k).1 = intVal (intElem s q b (w.getLsbD 9) (w.getLsbD 11) j k) := fun k => by
    rw [operandB, hsb, operandElem_eq s q _ (by omega) (by omega) _ _ _ hj]
    exact elemOf_int s q b tb _ _ j k
  rw [at_mmaAcc s q n da db w mask hi hj, mode_eq (by omega), decide_eq_true ta, size, mmaElem_int 8 elA elB, steps]

/-! ### mrst (R242, R359) -/

/-- A state that an instruction's way through the shared path has not touched but in threads, teams' queues and notes: the bytes, and of
each quad all but the thread of its control core. -/
structure PathOnly (s t : State) : Prop where
  bytes : SameBytes s t
  quads : ∀ (q : Nat) {γ : Type} (p : Quad → γ), (∀ x th, p { x with ctl := th } = p x) → p (t.quad q) = p (s.quad q)

theorem pathOnly_refl (s : State) : PathOnly s s := ⟨sameBytes_refl s, fun _ _ _ _ => rfl⟩

theorem PathOnly.trans {s t u : State} (h : PathOnly s t) (k : PathOnly t u) : PathOnly s u :=
  ⟨sameBytes_trans h.bytes k.bytes, fun q _ p hp => (k.quads q p hp).trans (h.quads q p hp)⟩

theorem pathOnly_mapThr (s : State) (a : Agent) (f : Thr → Thr) : PathOnly s (s.mapThr a f) :=
  ⟨sameBytes_mapThr s a f, fun q _ p hp => quad_mapThr s a f q p hp⟩

theorem pathOnly_finishNow (g : Go) (ws : List RegW) (s : State) : PathOnly s (finishNow g ws s) := pathOnly_mapThr s _ _

theorem pathOnly_noted (n : Ins) (x : BitVec 32) (s : State) : PathOnly s (noted n x s) :=
  (pathOnly_mapThr s _ _).trans (pathOnly_mapThr _ _ _)

theorem pathOnly_join (s : State) (a : Agent) (scope : Nat) (cs : List Carry) : PathOnly s (s.join a scope cs) := by
  dsimp only [State.join, State.note]
  split_ifs
  · exact pathOnly_refl s
  · exact pathOnly_mapThr _ _ _

theorem pathOnly_consumeUq (s : State) (a : Agent) : PathOnly s (s.consumeUq a) := by
  cases a with
  | ctl q => exact pathOnly_refl s
  | grp t g =>
    have freed : PathOnly (s.mapThr (.grp t g) fun th => { (th.noteFence 1 5) with uqPos := th.uqPos + 1 })
        ((s.mapThr (.grp t g) fun th => { (th.noteFence 1 5) with uqPos := th.uqPos + 1 }).mapTeam t Team.freeQueue) :=
      ⟨sameBytes_mapTeam _ _ _, fun _ _ _ _ => rfl⟩
    exact ((pathOnly_mapThr _ _ _).trans freed).trans ((pathOnly_mapThr _ _ _).trans (pathOnly_join _ _ _ _))

theorem pathOnly_finish (n : Ins) (g : Go) (before : Thr) (f : Fin) : PathOnly f.s (finish n g before f) := by
  unfold finish
  by_cases hc : f.cancel = true
  · rw [if_pos hc]
    exact pathOnly_refl _
  · rw [if_neg hc]
    refine PathOnly.trans (t := if n.readsUq g.scal && before.ra.isNone then f.s.consumeUq f.s.cur else f.s) ?_ (pathOnly_mapThr _ _ _)
    split_ifs
    · exact pathOnly_consumeUq _ _
    · exact pathOnly_refl _

theorem quadOf_mapThr (s : State) (a b : Agent) (f : Thr → Thr) : (s.mapThr a f).quadOf b = s.quadOf b := by
  cases b with
  | ctl q => rfl
  | grp t g => simp only [State.quadOf, State.mapThr]; rw [State.team_setThr]

theorem dieOf_noted (n : Ins) (x : BitVec 32) (s : State) (a : Agent) : (noted n x s).dieOf a = s.dieOf a := by
  simp only [State.dieOf, noted, landed, quadOf_mapThr]

theorem sameBytes_resetMatrix (s : State) (q : Nat) : SameBytes s (s.resetMatrix q) := by
  refine sameBytes_trans (sameBytes_foldl State.abandon (fun s c => ?_) _ s) (sameBytes_mapQuad _ _ _)
  unfold State.abandon
  cases c.a with
  | grp t g => exact sameBytes_mapThr _ _ _
  | ctl q => exact sameBytes_trans (sameBytes_mapThr _ _ _) (sameBytes_mapQuad _ _ _)

/-- An engine that has been reset (R242). -/
def EngineReset (y : Quad) : Prop :=
  y.mq = [] ∧ (∀ i, y.accum i = ⟨false, [], []⟩) ∧ y.feedA = ⟨[], false⟩ ∧ y.feedB = ⟨[], false⟩ ∧
    ∀ i, Sparse.get 0x7F i y.scaleA.tab = 0x7F ∧ Sparse.get 0x7F i y.scaleB.tab = 0x7F

theorem engineReset_resetMatrix (s : State) (q : Nat) : EngineReset ((s.resetMatrix q).quad q) := by
  rw [State.resetMatrix, State.quad_mapQuad_same]
  exact ⟨rfl, fun _ => rfl, rfl, rfl, fun _ => ⟨rfl, rfl⟩⟩

theorem engineReset_of_pathOnly {s t : State} (h : PathOnly s t) {q : Nat} (hs : EngineReset (s.quad q)) : EngineReset (t.quad q) := by
  have same := h.quads q EngineReset fun _ _ => rfl
  rwa [same]

theorem exec_mrst {c : Ctl} {p : PayA} {s : State} (h : Clear (p.ins Rows.rowMrst c) {} s) :
    let n := p.ins Rows.rowMrst c
    let k := uni32 n s 0
    (40 ≤ k → exec (.mrst c p) s = .next (illegalOf n 0 s)) ∧
    (k < 40 → ∃ t, exec (.mrst c p) s = .next t ∧ SameBytes s t ∧ EngineReset (t.quad (40 * s.dieOf s.cur + k))) := by
  intro n k
  have named : (zext 32 ((sight n 0 s).uni 0)).toNat = k := by
    rw [zext, BitVec.toNat_setWidth_of_le (by decide)]
    rfl
  have run : exec (.mrst c p) s = .next (match mrstBody (sight n 0 s) (noted n 0 s) with
      | .error ts => deliver n (noted n 0 s) ts 0
      | .ok f => finish n (sight n 0 s) ((noted n 0 s).thr s.cur) f) :=
    congrArg Host.Outcome.next (Laws.issue_clear h mrstBody fun _ => 0)
  refine ⟨fun hk => ?_, fun hk => ?_⟩
  · have body : mrstBody (sight n 0 s) (noted n 0 s) = .error [(sight n 0 s).illegal] := by
      dsimp only [mrstBody]
      rw [named, if_pos (show Config.quadsPerDie ≤ k from hk)]
    rw [run, body]
    rfl
  · have body : mrstBody (sight n 0 s) (noted n 0 s) = .ok
        { s := finishNow (sight n 0 s) [] ((noted n 0 s).resetMatrix (40 * s.dieOf s.cur + k)) } := by
      dsimp only [mrstBody]
      rw [named, if_neg (show ¬Config.quadsPerDie ≤ k from Nat.not_le.mpr hk), Laws.cur_noted, dieOf_noted, Nat.mul_comm]
      rfl
    rw [run, body]
    have ends := pathOnly_finish n (sight n 0 s) ((noted n 0 s).thr s.cur)
      { s := finishNow (sight n 0 s) [] ((noted n 0 s).resetMatrix (40 * s.dieOf s.cur + k)) }
    have after := (pathOnly_finishNow (sight n 0 s) [] _).trans ends
    exact ⟨_, rfl, sameBytes_trans (sameBytes_trans (pathOnly_noted n 0 s).bytes (sameBytes_resetMatrix _ _)) after.bytes,
      engineReset_of_pathOnly after (engineReset_resetMatrix _ _)⟩

/-- Settles O49: the turn of each command by its own rule, the groups of an mma by induction on the k-steps, mrst by its body. -/
theorem theMatrixEnginePerformsTheCommandWhoseTurnItIs : Obligations.TheMatrixEnginePerformsTheCommandWhoseTurnItIs := by
  unfold Obligations.TheMatrixEnginePerformsTheCommandWhoseTurnItIs
  refine ⟨fun s q c o h => ⟨s.performMatrix q c, exec_matrixEngineTurn h, fun n i hc => performs_mmz h hc, fun n d ty hc => performs_mld h hc,
    fun n d ty sat hc _ hL h4 hs fits => performs_mst h hc hL h4 hs fits, fun b src base sh hc => performs_mscl h hc,
    fun b k last m v hc => performs_mfeed h hc, fun n sel ty sat w p hc hw ht hd => performs_mdrain h hc hw ht hd,
    fun n da db w mask hc met ha hb hsa hsb => ?_, fun n da db w mask hc met => ?_⟩, fun c p s h => exec_mrst h⟩
  · obtain ⟨done, scr, acc, feedA, feedB⟩ := performs_mma h hc met
    refine ⟨done, scr, ?_, feedA, feedB, fun i hi j hj => ?_⟩
    · rw [acc, mmaAcc, int_accFrom]
    · rw [acc]
      exact int_mma ha hb hsa hsb hi hj
  · intro ta tb int K G a b ha hb _
    obtain ⟨done, scr, acc, -, -⟩ := performs_mma h hc met
    refine ⟨done, scr, fun i hi j hj hm => ?_⟩
    rw [acc]
    exact groups_of_mma ha hb hi hj hm

end Sys2Proof.Proofs
end

section
/-! PROOFS. What a lane-wise instruction gives (R43, R53, R60): the state that the shared path leaves after a result on its way, from the
result alone. -/
namespace Sys2Proof.Proofs

open Sys2Proof Sys2Proof.Machine Sys2Proof.Safety Sys2Proof.Claims

theorem fpTrap_no_flags (fsr : BitVec 32) (m : Mask) : fpTrap fsr m [] = [] := by
  rw [fpTrap, if_pos (maskOf_eq_zero.mpr fun l _ => by simp)]

/-- A fixed-latency instruction that raises no flag leaves its result on its way. -/
theorem issueFixed_result {r : Row} {c : Ctl} {bits : BitVec 32} {w : Option (BitVec 64)} {x : Extra} {s : State}
    {f : Go → Res} {res : Res}
    (ht : r.opc ≠ 0x6A) (hf : f (sight ⟨c, r, bits, w⟩ x.warn s) = res) (htr : res.traps = []) (hfl : res.flags = [])
    (h : Clear ⟨c, r, bits, w⟩ x s) : issueFixed ⟨c, r, bits, w⟩ x f s = fixedNext ⟨c, r, bits, w⟩ x.warn res s := by
  rw [Laws.issueFixed_clear h f ht (by rw [hf, htr]) (by rw [hf, hfl, fpTrap_no_flags]), hf]

/-- What `Gives` says of an instruction whose result has the entry's values and tag. -/
theorem gives_issueFixed {r : Row} {c : Ctl} {bits : BitVec 32} {w : Option (BitVec 64)} {x : Extra} {s : State} {f : Go → Res}
    {v : Go → Nat → BitVec 64} {t : Go → Tag} (ht : r.opc ≠ 0x6A)
    (hf : let g := sight ⟨c, r, bits, w⟩ x.warn s
      f g = { vals := lanewise g (v g), tag := t g }) :
    Gives ⟨c, r, bits, w⟩ x s (.next (issueFixed ⟨c, r, bits, w⟩ x f s)) v t :=
  fun h => congrArg Host.Outcome.next (issueFixed_result ht hf rfl rfl h)

theorem result_congr {g : Go} {v v' : Nat → BitVec 64} {t t' : Tag} (hv : ∀ l, v l = v' l) (ht : t = t') :
    ({ vals := g.lanes v, tag := t } : Res) = { vals := lanewise g v', tag := t' } := by
  rw [ht, funext hv]
  rfl

end Sys2Proof.Proofs
end

section
/-! PROOFS. Integer arithmetic (R76, R91, R93, R94, Table 6.1): an exact result is reduced to the width of its type or clamped to its
range, and what a register holds of it depends on the bits of that width alone. -/
namespace Sys2Proof.Proofs

open Sys2Proof Sys2Proof.Machine Sys2Proof.Safety Sys2Proof.Claims

/-! ### The width of a type -/

theorem w_wide {g : Go} (h : is64 g.ty = true) : g.w = 64 := if_pos h
theorem w_narrow {g : Go} (h : is64 g.ty = false) : g.w = 32 := by rw [Go.w, h]; rfl

theorem w_le (g : Go) : g.w ≤ 64 := by
  cases h : is64 g.ty
  · rw [w_narrow h]; decide
  · rw [w_wide h]

/-- What a register holds of a value depends on the bits of the type's width alone. -/
theorem fit_congr {g : Go} {x y : BitVec 64} (h : x.setWidth g.w = y.setWidth g.w) : g.fit x = g.fit y := by
  unfold Go.fit
  cases h64 : is64 g.ty
  · rw [w_narrow h64] at h
    simp only [Bool.false_eq_true, if_false, sext, zext, h]
  · rw [w_wide h64, BitVec.setWidth_eq, BitVec.setWidth_eq] at h
    rw [h]

/-! ### Exact results -/

theorem ofInt_intOf (signed : Bool) (w : Nat) (x : BitVec 64) : BitVec.ofInt w (intOf signed w x) = x.setWidth w := by
  cases signed
  · rw [intOf, if_neg Bool.false_ne_true, BitVec.ofInt_natCast, BitVec.ofNat_toNat, BitVec.setWidth_eq]
  · exact BitVec.ofInt_toInt

theorem ofInt_int (g : Go) (i l : Nat) : BitVec.ofInt g.w (g.int i l) = (g.val i l).setWidth g.w := ofInt_intOf _ _ _

theorem setWidth_neg {v w : Nat} (h : w ≤ v) (x : BitVec v) : (-x).setWidth w = -x.setWidth w := by
  rw [← BitVec.ofInt_toInt (x := x), ← BitVec.ofInt_neg, setWidth_ofInt h, setWidth_ofInt h, BitVec.ofInt_neg]

theorem ofInt_sum (g : Go) (i j l : Nat) : BitVec.ofInt g.w (g.int i l + g.int j l) = (g.val i l + g.val j l).setWidth g.w := by
  rw [BitVec.ofInt_add, ofInt_int, ofInt_int, BitVec.setWidth_add _ _ (w_le g)]

theorem ofInt_negated (g : Go) (i l : Nat) : BitVec.ofInt g.w (-g.int i l) = (-g.val i l).setWidth g.w := by
  rw [BitVec.ofInt_neg, ofInt_int, setWidth_neg (w_le g)]

theorem ofInt_difference (g : Go) (i j l : Nat) : BitVec.ofInt g.w (g.int i l - g.int j l) = (g.val i l - g.val j l).setWidth g.w := by
  rw [Int.sub_eq_add_neg, BitVec.ofInt_add, ofInt_negated, ofInt_int, BitVec.sub_eq_add_neg, BitVec.setWidth_add _ _ (w_le g)]

theorem ofInt_product (g : Go) (i j l : Nat) : BitVec.ofInt g.w (g.int i l * g.int j l) = (g.val i l * g.val j l).setWidth g.w := by
  rw [BitVec.ofInt_mul, ofInt_int, ofInt_int, BitVec.setWidth_mul _ _ (w_le g)]

theorem ofInt_productSum (g : Go) (i j k l : Nat) :
    BitVec.ofInt g.w (g.int i l * g.int j l + g.int k l) = (g.val i l * g.val j l + g.val k l).setWidth g.w := by
  rw [BitVec.ofInt_add, ofInt_product, ofInt_int, BitVec.setWidth_add _ _ (w_le g)]

/-- An exact result is clamped under SAT, else reduced modulo the width (R76, R93). -/
theorem exact_eq (g : Go) (x : Int) : g.exact x = if g.sat then clamped g x else g.fit (BitVec.ofInt 64 x) := by
  have kept (y : Int) : g.fit ((BitVec.ofInt g.w y).setWidth 64) = g.fit (BitVec.ofInt 64 y) :=
    fit_congr (by rw [BitVec.setWidth_setWidth_of_le _ (w_le g), BitVec.setWidth_eq, setWidth_ofInt (w_le g)])
  unfold Go.exact narrow
  cases g.sat
  · exact kept x
  · exact kept _

/-- Where the machine word `y` has the low bits of the exact result, the reduced result is that of `y`. -/
theorem exact_of_word {g : Go} {x : Int} {y : BitVec 64} (h : BitVec.ofInt g.w x = y.setWidth g.w) :
    g.exact x = if g.sat then clamped g x else g.fit y := by
  rw [exact_eq, fit_congr (y := y) (by rw [setWidth_ofInt (w_le g), h])]

/-- An operand lies in the range of its type (R76). -/
theorem int_bounds (g : Go) (i l : Nat) : minOf (isSigned g.ty) g.w ≤ g.int i l ∧ g.int i l ≤ maxOf (isSigned g.ty) g.w := by
  unfold Go.int intOf minOf maxOf
  cases isSigned g.ty
  · have := ((g.val i l).setWidth g.w).isLt
    simp only [Bool.false_eq_true, if_false]
    omega
  · have lo := BitVec.le_toInt ((g.val i l).setWidth g.w)
    have hi := BitVec.toInt_lt (x := (g.val i l).setWidth g.w)
    simp only [if_true]
    push_cast
    omega

/-- A result within the range of its type is the same with or without a clamp. -/
theorem exact_of_bounds {g : Go} {x : Int} (lo : minOf (isSigned g.ty) g.w ≤ x) (hi : x ≤ maxOf (isSigned g.ty) g.w) :
    g.exact x = g.fit (BitVec.ofInt 64 x) := by
  have held : clamped g x = g.fit (BitVec.ofInt 64 x) := by
    show g.fit (BitVec.ofInt 64 (clampInt (minOf (isSigned g.ty) g.w) (maxOf (isSigned g.ty) g.w) x)) = _
    rw [clampInt, if_neg (by omega), if_neg (by omega)]
  rw [exact_eq, held, ite_self]

theorem exact_int (g : Go) (i l : Nat) : g.exact (g.int i l) = g.fit (g.val i l) := by
  rw [exact_of_bounds (int_bounds g i l).1 (int_bounds g i l).2]
  exact fit_congr (by rw [setWidth_ofInt (w_le g), ofInt_int])

/-! ### The upper half of a product -/

theorem ediv_emod_half (z : Int) {m : Int} (hm : m ≠ 0) : z % (m * m) / m % m = z / m % m := by
  have split : z = z % (m * m) + m * (m * (z / (m * m))) := by rw [← mul_assoc, Int.emod_add_mul_ediv]
  conv_rhs => rw [split, Int.add_mul_ediv_left _ _ hm, Int.add_mul_emod_self_left]

/-- The upper half of an integer's double-width word holds the integer divided by the weight of that half. -/
theorem upper_half_ofInt (w : Nat) (z : Int) : (BitVec.ofInt (w + w) z >>> w).setWidth w = BitVec.ofInt w (z / (2 ^ w : Nat)) := by
  have hm : ((2 ^ w : Nat) : Int) ≠ 0 := by positivity
  refine BitVec.eq_of_toNat_eq ?_
  rw [BitVec.toNat_setWidth, BitVec.toNat_ushiftRight, BitVec.toNat_ofInt, BitVec.toNat_ofInt, Nat.shiftRight_eq_div_pow, Nat.pow_add]
  zify
  rw [Int.toNat_of_nonneg (Int.emod_nonneg _ (by positivity)), Int.toNat_of_nonneg (Int.emod_nonneg _ (by positivity))]
  exact_mod_cast ediv_emod_half z hm

/-- The double-width product of two machine words, signed or not, is the word of the product of their integers. -/
theorem product_ofInt {w : Nat} (signed : Bool) (x y : BitVec 64) :
    BitVec.ofInt (w + w) (intOf signed w x * intOf signed w y) =
      if signed then (x.setWidth w).signExtend (w + w) * (y.setWidth w).signExtend (w + w)
      else (x.setWidth w).setWidth (w + w) * (y.setWidth w).setWidth (w + w) := by
  rw [BitVec.ofInt_mul]
  cases signed
  · simp only [intOf, Bool.false_eq_true, if_false, BitVec.ofInt_natCast, BitVec.ofNat_toNat]
  · rfl

/-- A value in a register is that of the 32-bit or of the 64-bit operation, by the width of its type (R91). -/
theorem fit_eq_byWidth {g : Go} {x f64 : BitVec 64} {f32 : BitVec 32} (h64 : is64 g.ty = true → x = f64)
    (h32 : is64 g.ty = false → x.setWidth 32 = f32) : g.fit x = byWidth g f32 f64 := by
  unfold byWidth
  cases h : is64 g.ty
  · rw [if_neg Bool.false_ne_true, ← h32 h]
    exact fit_congr (by rw [w_narrow h, BitVec.setWidth_setWidth_of_le _ (by decide), BitVec.setWidth_eq])
  · rw [if_pos rfl, h64 h]

/-- The upper half of the double-width product (Table 6.1). -/
theorem fit_upper_half (g : Go) (l : Nat) : g.fit (BitVec.ofInt 64 ((g.int 0 l * g.int 1 l) / (2 ^ g.w : Nat))) = byWidth g
    (if isSigned g.ty then (((low g 0 l).signExtend 64 * (low g 1 l).signExtend 64) >>> 32).setWidth 32
      else (((low g 0 l).setWidth 64 * (low g 1 l).setWidth 64) >>> 32).setWidth 32)
    (if isSigned g.ty then (((g.val 0 l).signExtend 128 * (g.val 1 l).signExtend 128) >>> 64).setWidth 64
      else (((g.val 0 l).setWidth 128 * (g.val 1 l).setWidth 128) >>> 64).setWidth 64) := by
  refine fit_eq_byWidth (fun h => ?_) (fun h => ?_)
  · rw [Go.int, Go.int, w_wide h, ← upper_half_ofInt, product_ofInt]
    cases isSigned g.ty <;> simp only [BitVec.setWidth_eq] <;> rfl
  · rw [Go.int, Go.int, w_narrow h, setWidth_ofInt (by decide), ← upper_half_ofInt, product_ofInt]
    cases isSigned g.ty <;> rfl

/-! ### The entries of Table 6.1 -/

section
variable (g : Go)

/-- An operation on two integers has the values and the tag of its entry, where each lane's exact result has the entry's value. -/
theorem intRes_eq {f : Int → Int → Int} {t : Mask → Opd → Opd → Tag} {v : Nat → BitVec 64}
    (h : ∀ l, g.exact (f (g.int 0 l) (g.int 1 l)) = v l) :
    intRes f t g = { vals := lanewise g v, tag := intTag (fun g => t g.act (g.op 0) (g.op 1)) g } := result_congr h rfl

theorem resAdd_eq : resAdd g =
    { vals := lanewise g fun l => if g.sat then clamped g (g.int 0 l + g.int 1 l) else g.fit (g.val 0 l + g.val 1 l)
      tag := intTag (fun g => sumTag (· + ·) g.act (g.op 0) (g.op 1)) g } := intRes_eq g fun l => exact_of_word (ofInt_sum g 0 1 l)

theorem resSub_eq : resSub g =
    { vals := lanewise g fun l => if g.sat then clamped g (g.int 0 l - g.int 1 l) else g.fit (g.val 0 l - g.val 1 l)
      tag := intTag (fun g => sumTag (· - ·) g.act (g.op 0) (g.op 1)) g } := intRes_eq g fun l => exact_of_word (ofInt_difference g 0 1 l)

theorem resMul_eq : resMul g =
    { vals := lanewise g fun l => if g.sat then clamped g (g.int 0 l * g.int 1 l) else g.fit (g.val 0 l * g.val 1 l)
      tag := intTag (fun g => scaleTag g.act (g.op 0) (g.op 1)) g } := intRes_eq g fun l => exact_of_word (ofInt_product g 0 1 l)

theorem resNeg_eq : resNeg g =
    { vals := lanewise g fun l => if g.sat then clamped g (-g.int 0 l) else g.fit (-g.val 0 l)
      tag := intTag (fun g => negTag (g.op 0)) g } := intRes_eq g fun l => exact_of_word (ofInt_negated g 0 l)

theorem resAbs_eq : resAbs g =
    { vals := lanewise g fun l => if g.sat then clamped g (g.int 0 l).natAbs
        else if g.int 0 l < 0 then g.fit (-g.val 0 l) else g.fit (g.val 0 l)
      tag := intTag (fun g => laneTag [g.op 0]) g } := by
  refine intRes_eq g fun l => ?_
  by_cases neg : g.int 0 l < 0
  · rw [if_pos neg, if_pos neg, exact_of_word (ofInt_negated g 0 l), Int.ofNat_natAbs_of_nonpos neg.le]
  · rw [if_neg neg, if_neg neg, exact_of_word (ofInt_int g 0 l), Int.natAbs_of_nonneg (not_lt.mp neg)]

theorem resMin_eq : resMin g =
    { vals := lanewise g fun l => if g.int 1 l < g.int 0 l then g.fit (g.val 1 l) else g.fit (g.val 0 l)
      tag := intTag (fun g => laneTag [g.op 0, g.op 1]) g } := by
  refine intRes_eq g fun l => ?_
  simp only [apply_ite g.exact, exact_int, ← not_lt, ite_not]

theorem resMax_eq : resMax g =
    { vals := lanewise g fun l => if g.int 0 l < g.int 1 l then g.fit (g.val 1 l) else g.fit (g.val 0 l)
      tag := intTag (fun g => laneTag [g.op 0, g.op 1]) g } := by
  refine intRes_eq g fun l => ?_
  have greater : (if g.int 0 l ≤ g.int 1 l then g.int 1 l else g.int 0 l) = if g.int 0 l < g.int 1 l then g.int 1 l else g.int 0 l := by
    split_ifs <;> omega
  rw [greater, apply_ite g.exact, exact_int, exact_int]

end

/-- Settles O1: the exact result of each entry has the low bits of its machine word (`exact_of_word`); the upper half of a product by
`fit_upper_half`. -/
theorem integerArithmeticWritesReducedOrClampedResults : Obligations.IntegerArithmeticWritesReducedOrClampedResults := by
  unfold Obligations.IntegerArithmeticWritesReducedOrClampedResults
  intro c p q s
  exact ⟨gives_issueFixed (by decide) (resAdd_eq _), gives_issueFixed (by decide) (resSub_eq _), gives_issueFixed (by decide) (resMul_eq _),
    gives_issueFixed (by decide) (result_congr (fun l => exact_of_word (ofInt_productSum _ 0 1 2 l)) rfl),
    gives_issueFixed (by decide) (result_congr (fit_upper_half _) rfl), gives_issueFixed (by decide) (resNeg_eq _),
    gives_issueFixed (by decide) (resAbs_eq _), gives_issueFixed (by decide) (resMin_eq _), gives_issueFixed (by decide) (resMax_eq _)⟩

end Sys2Proof.Proofs
end

section
/-! PROOFS. What the shared path leaves after an instruction's own effect on the state (`passes`, `jumps`): the effect, a queue entry
consumed, and the thread's step (R18, R38, R42, R53, R56). -/
namespace Sys2Proof.Proofs

open Sys2Proof Sys2Proof.Machine Sys2Proof.Safety Sys2Proof.Claims

theorem ra_of_clear {n : Ins} {x : Extra} {s : State} (h : Clear n x s) : ((noted n x.warn s).thr s.cur).ra = none :=
  (ra_noted n x.warn s).trans h.awake

/-- An effect that leaves the clock, the executing agent and the mode of its thread alone. -/
structure OwnEffect (u v : State) : Prop where
  cur : v.cur = u.cur
  clk : v.clk = u.clk
  scalar : (v.thr u.cur).scalar = (u.thr u.cur).scalar

theorem OwnEffect.trans {u v w : State} (h : OwnEffect u v) (k : OwnEffect v w) : OwnEffect u w where
  cur := k.cur.trans h.cur
  clk := k.clk.trans h.clk
  scalar := (h.cur ▸ k.scalar).trans h.scalar

theorem ownEffect_mapThr (u : State) (a : Agent) {f : Thr → Thr} (hf : ∀ th, (f th).scalar = th.scalar) :
    OwnEffect u (u.mapThr a f) where
  cur := State.mapThr_cur ..
  clk := State.mapThr_clk ..
  scalar := by
    by_cases e : u.cur = a
    · rw [e, State.thr_mapThr_same, hf]
    · rw [State.thr_mapThr_other _ e]

section
variable {n : Ins} {x : Extra} {s : State} (h : Clear n x s) (ht : n.row.opc ≠ 0x6A) {e : State → State}
  (he : OwnEffect (noted n x.warn s) (e (noted n x.warn s)))
include h ht he

/-- Whether the present lanes go on or the lanes move to `pcs`, the rest of the way is the same. -/
theorem finish_ownEffect (pcs : Option (List (BitVec 48))) :
    finish n (sight n x.warn s) ((noted n x.warn s).thr s.cur) { s := e (noted n x.warn s), pcs := pcs } =
      (consumed n (e (noted n x.warn s))).mapThr s.cur fun th =>
        let t := stepped n (sight n x.warn s) ((noted n x.warn s).thr s.cur) s.clk Latch.invalid th
        match pcs with
        | some p => { t with pcv := p }
        | none => goesOn (sight n x.warn s) t := by
  have cur := he.cur.trans (Laws.cur_noted n x.warn s)
  have scalar : ((e (noted n x.warn s)).thr s.cur).scalar = (sight n x.warn s).scal := by
    rw [← Laws.cur_noted n x.warn s, he.scalar, Laws.cur_noted]
    rfl
  have queue : (if (n.readsUq (sight n x.warn s).scal && ((noted n x.warn s).thr s.cur).ra.isNone) = true
      then (e (noted n x.warn s)).consumeUq s.cur else e (noted n x.warn s)) = consumed n (e (noted n x.warn s)) := by
    rw [ra_of_clear h, consumed, cur, scalar, Option.isNone_none, Bool.and_true]
  have clk : (consumed n (e (noted n x.warn s))).clk = s.clk := by
    refine Eq.trans ?_ (he.clk.trans (Laws.clk_noted n x.warn s))
    unfold consumed
    split
    · exact Laws.clk_consumeUq _ _
    · rfl
  unfold finish
  simp only [Bool.false_eq_true, if_false, cur, queue, ht, clk]
  congr 1
  funext th
  cases pcs <;> simp only [stepped, Thr.pushLatch, Thr.dropLatches] <;> split <;> rfl

theorem finish_passes : finish n (sight n x.warn s) ((noted n x.warn s).thr s.cur) { s := e (noted n x.warn s) } = passes n x.warn e s :=
  finish_ownEffect h ht he none

theorem finish_jumps (pcs : List (BitVec 48)) :
    finish n (sight n x.warn s) ((noted n x.warn s).thr s.cur) { s := e (noted n x.warn s), pcs := some pcs } = jumps n x.warn e pcs s :=
  finish_ownEffect h ht he (some pcs)

theorem issue_passes {body : Body}
    (hb : body (sight n x.warn s) (noted n x.warn s) = .ok { s := e (noted n x.warn s) }) (fl : Go → BitVec 5) :
    issue n x body s fl = passes n x.warn e s := by
  rw [Laws.issue_clear h, hb]
  exact finish_passes h ht he

theorem issue_jumps {body : Body} {pcs : List (BitVec 48)}
    (hb : body (sight n x.warn s) (noted n x.warn s) = .ok { s := e (noted n x.warn s), pcs := some pcs }) (fl : Go → BitVec 5) :
    issue n x body s fl = jumps n x.warn e pcs s := by
  rw [Laws.issue_clear h, hb]
  exact finish_jumps h ht he pcs

end

/-- An instruction that issues without a cause and puts its result in flight leaves what `varNext` says (R43). -/
theorem issue_commitVar {n : Ins} {x : Extra} {s : State} (h : Clear n x s) (ht : n.row.opc ≠ 0x6A) {body : Body} {fl : Go → BitVec 5}
    {r : Res} (hb : body (sight n x.warn s) (noted n x.warn s) = commitVar (sight n x.warn s) r (noted n x.warn s)) (hr : r.traps = []) :
    issue n x body s fl = varNext n x.warn false 8 false (.result (regWrites n ((noted n x.warn s).thr s.cur) (sight n x.warn s).act
      (sight n x.warn s).alive r 0) 0) s := by
  let k := VKind.result (regWrites n ((noted n x.warn s).thr s.cur) (sight n x.warn s).act (sight n x.warn s).alive r 0) 0
  have put : commitVar (sight n x.warn s) r (noted n x.warn s) = .ok
      { s := (noted n x.warn s).mapThr s.cur (opens n false 8 false k none []) } := by
    rw [commitVar, hr, Laws.cur_noted, State.mapThr, State.mapThr, Laws.opens_eq]
    rfl
  exact issue_passes h ht (e := fun u => u.mapThr s.cur (opens n false 8 false k none []))
    (ownEffect_mapThr _ _ fun _ => rfl) (hb.trans put) fl

/-! ### Division (R103, R104) -/

theorem zeroDivisors_eq_zero (g : Go) : zeroDivisors g = 0 ↔ ∀ l < 32, g.act.getLsbD l = true → g.int 1 l ≠ 0 := by
  rw [zeroDivisors, maskOf_eq_zero]
  refine forall₂_congr fun l _ => ?_
  rw [Bool.and_eq_false_imp, beq_eq_false_iff_ne]

section
variable {n : Ins} {s : State} (h : Clear n {} s) (f : Int → Int → Int)
include h

/-- Without a zero divisor the results are in flight. -/
theorem division_opens (ht : n.row.opc ≠ 0x6A) {v : Go → Nat → BitVec 64}
    (hv : ∀ l, (sight n 0 s).exact (f ((sight n 0 s).int 0 l) ((sight n 0 s).int 1 l)) = v (sight n 0 s) l)
    (hz : ∀ l < 32, (sight n 0 s).act.getLsbD l = true → (sight n 0 s).int 1 l ≠ 0) :
    Opens n {} s (.next (issue n {} (divBody f) s)) v anyTag := by
  refine congrArg Host.Outcome.next (issue_commitVar h ht ?_ rfl)
  rw [divBody, if_pos ((zeroDivisors_eq_zero _).mpr hz)]
  exact congrArg (commitVar _ · _) (result_congr hv rfl)

/-- A zero divisor in an active lane takes DIVZERO in the lanes that hold one (R104). -/
theorem division_traps (hz : ∃ l < 32, (sight n 0 s).act.getLsbD l = true ∧ (sight n 0 s).int 1 l = 0) :
    issue n {} (divBody f) s = deliver n (noted n 0 s) [{ cause := .divzero, lmask := zeroDivisors (sight n 0 s), tval := 0 }] := by
  have some : zeroDivisors (sight n 0 s) ≠ 0 := by
    rw [Ne, zeroDivisors_eq_zero]
    obtain ⟨l, hl, ha, h0⟩ := hz
    exact fun none => none l hl ha h0
  rw [Laws.issue_clear h]
  dsimp only [divBody]
  rw [if_neg some]

end

/-- The remainder lies in the range of its type, so that it is the same with or without a clamp (R103). -/
theorem exact_tmod (g : Go) (l : Nat) :
    g.exact (Int.tmod (g.int 0 l) (g.int 1 l)) = g.fit (BitVec.ofInt 64 (Int.tmod (g.int 0 l) (g.int 1 l))) := by
  obtain ⟨lo, hi⟩ := int_bounds g 0 l
  have size := Int.natAbs_tmod (g.int 0 l) (g.int 1 l)
  have le := Nat.mod_le (g.int 0 l).natAbs (g.int 1 l).natAbs
  have zero : minOf (isSigned g.ty) g.w ≤ 0 ∧ 0 ≤ maxOf (isSigned g.ty) g.w := by
    have h := Nat.one_le_two_pow (n := g.w - 1)
    have h' := Nat.one_le_two_pow (n := g.w)
    unfold minOf maxOf
    split <;> omega
  rcases le_total 0 (g.int 0 l) with pos | neg
  · have sign := Int.tmod_nonneg (g.int 1 l) pos
    exact exact_of_bounds (by omega) (by omega)
  · have sign := Int.tmod_nonneg (g.int 1 l) (Int.neg_nonneg_of_nonpos neg)
    rw [Int.neg_tmod] at sign
    exact exact_of_bounds (by omega) (by omega)

/-- Settles O5: without a zero divisor `division_opens`, with one `division_traps`. -/
theorem divisionRoundsTowardZeroAndTrapsOnZero : Obligations.DivisionRoundsTowardZeroAndTrapsOnZero := by
  unfold Obligations.DivisionRoundsTowardZeroAndTrapsOnZero
  intro c p s
  exact ⟨fun h => ⟨division_opens h _ (show Rows.rowDiv.opc ≠ 0x6A by decide) fun l => exact_eq _ _,
      fun hz => congrArg Host.Outcome.next (division_traps h _ hz)⟩,
    fun h => ⟨division_opens h _ (show Rows.rowRem.opc ≠ 0x6A by decide) fun l => exact_tmod _ l,
      fun hz => congrArg Host.Outcome.next (division_traps h _ hz)⟩⟩

end Sys2Proof.Proofs
end

section
/-! PROOFS. Logic, shifts, rotates and counts (R93, Table 6.1): what each does to the bits of the width of its type. -/
namespace Sys2Proof.Proofs

open Sys2Proof Sys2Proof.Machine Sys2Proof.Safety Sys2Proof.Claims

/-! ### Logic -/

/-- Logic acts on each bit, so that the low bits of its result are those of its operands' low bits. -/
theorem bitRes_eq {g : Go} {f : BitVec 64 → BitVec 64 → BitVec 64} {f32 : BitVec 32 → BitVec 32 → BitVec 32}
    (h : ∀ x y : BitVec 64, (f x y).setWidth 32 = f32 (x.setWidth 32) (y.setWidth 32)) :
    bitRes f g = { vals := lanewise g fun l => byWidth g (f32 (low g 0 l) (low g 1 l)) (f (g.val 0 l) (g.val 1 l)), tag := anyTag g } :=
  result_congr (fun _ => fit_eq_byWidth (fun _ => rfl) fun _ => h _ _) rfl

/-! ### Shifts -/

theorem zext_wide {g : Go} (h : is64 g.ty = true) (x : BitVec 64) : zext g.w x = x := by
  rw [zext, w_wide h, BitVec.setWidth_eq, BitVec.setWidth_eq]

theorem sext_wide {g : Go} (h : is64 g.ty = true) (x : BitVec 64) : sext g.w x = x := by
  rw [sext, w_wide h, BitVec.setWidth_eq, BitVec.signExtend_eq]

theorem shift_eq_count (g : Go) (l : Nat) : g.shift l = count g l := rfl

theorem count_lt {g : Go} (h : is64 g.ty = false) (l : Nat) : count g l < 32 := by
  rw [count, h]
  exact Nat.mod_lt _ (by decide)

theorem setWidth_shl (x : BitVec 64) (k : Nat) : (x <<< k).setWidth 32 = x.setWidth 32 <<< k := by
  refine BitVec.eq_of_getLsbD_eq fun i hi => ?_
  have : i < 64 := by omega
  have : i - k < 32 := by omega
  simp [*]

theorem setWidth_zext_shr (x : BitVec 64) (k : Nat) : (zext 32 x >>> k).setWidth 32 = x.setWidth 32 >>> k := by
  rw [zext, ← BitVec.setWidth_ushiftRight (by decide), BitVec.setWidth_setWidth_of_le _ (by decide), BitVec.setWidth_eq]

theorem setWidth_sext_sar (x : BitVec 64) {k : Nat} (hk : k < 32) :
    ((sext 32 x).sshiftRight k).setWidth 32 = (x.setWidth 32).sshiftRight k := by
  refine BitVec.eq_of_getLsbD_eq fun i hi => ?_
  have inside : k + i < 64 := by omega
  rw [BitVec.getLsbD_setWidth, BitVec.getLsbD_sshiftRight, BitVec.getLsbD_sshiftRight, if_pos inside, sext, BitVec.getLsbD_signExtend,
    decide_eq_true hi, decide_eq_true inside, decide_eq_false (show ¬64 ≤ i by omega), decide_eq_false (show ¬32 ≤ i by omega)]
  rfl

/-- A rotate to the left joins what is shifted up with what leaves at the top (Table 6.1). -/
theorem rotateLeft_eq {w : Nat} (x : BitVec w) {k : Nat} (hk : k < w) :
    x.rotateLeft k = x <<< k ||| (if k = 0 then 0 else x >>> (w - k)) := by
  rw [BitVec.rotateLeft_def, Nat.mod_eq_of_lt hk]
  split_ifs with h
  · rw [h, Nat.sub_zero, BitVec.ushiftRight_eq_zero (le_refl w)]
    rfl
  · rfl

theorem setWidth_zext_rot (x : BitVec 64) {k : Nat} (hk : k < 32) :
    (zext 32 x <<< k ||| (if k = 0 then 0 else zext 32 x >>> (32 - k))).setWidth 32 = (x.setWidth 32).rotateLeft k := by
  have low : (zext 32 x).setWidth 32 = x.setWidth 32 := BitVec.setWidth_setWidth_of_le _ (by decide)
  rw [rotateLeft_eq _ hk, BitVec.setWidth_or, setWidth_shl, low, apply_ite (BitVec.setWidth 32), setWidth_zext_shr]
  rfl

/-! ### Counts -/

/-- The leading zeros of a machine word are those that Table 6.1 counts. -/
theorem leadingZeros_eq_clz {w : Nat} (hw : 0 < w) (x : BitVec 64) : leadingZeros w x = (x.setWidth w).clz.toNat := by
  unfold leadingZeros
  generalize x.setWidth w = y
  split_ifs with h0
  · rw [BitVec.clz_eq_iff_eq_zero.mpr (BitVec.eq_of_toNat_eq h0)]
    exact (Nat.mod_eq_of_lt Nat.lt_two_pow_self).symm
  · have hi : y.toNat < 2 ^ (w - y.clz.toNat) := BitVec.toNat_lt_two_pow_sub_clz
    have lo := BitVec.two_pow_sub_clz_le_toNat_of_ne_zero hw fun h => h0 (congrArg BitVec.toNat h)
    have inside : y.clz.toNat < w := by
      by_contra out
      rw [Nat.sub_eq_zero_of_le (not_lt.mp out)] at hi
      omega
    have log : Nat.log2 y.toNat = w - 1 - y.clz.toNat :=
      (Nat.log2_eq_iff h0).mpr ⟨lo, by rwa [show w - 1 - y.clz.toNat + 1 = w - y.clz.toNat by omega]⟩
    omega

/-! ### The entries of Table 6.1 -/

section
variable (g : Go)

theorem resShl_eq : resShl g =
    { vals := lanewise g fun l => byWidth g (low g 0 l <<< count g l) (g.val 0 l <<< count g l)
      tag := if is64 g.ty then anyTag g else shlTag (g.op 0) (g.op 1) (count g (lowestLane g.act)) } :=
  result_congr (fun _ => fit_eq_byWidth (fun _ => rfl) fun _ => setWidth_shl _ _) rfl

theorem resShr_eq : resShr g =
    { vals := lanewise g fun l => byWidth g (low g 0 l >>> count g l) (g.val 0 l >>> count g l), tag := anyTag g } := by
  refine result_congr (fun l => fit_eq_byWidth (fun h => ?_) fun h => ?_) rfl
  · rw [zext_wide h, shift_eq_count]
  · rw [w_narrow h, setWidth_zext_shr]
    rfl

theorem resSar_eq : resSar g =
    { vals := lanewise g fun l => byWidth g ((low g 0 l).sshiftRight (count g l)) ((g.val 0 l).sshiftRight (count g l)),
      tag := anyTag g } := by
  refine result_congr (fun l => fit_eq_byWidth (fun h => ?_) fun h => ?_) rfl
  · rw [sext_wide h, shift_eq_count]
  · rw [w_narrow h, shift_eq_count, setWidth_sext_sar _ (count_lt h l)]
    rfl

theorem resRot_eq : resRot g =
    { vals := lanewise g fun l => byWidth g ((low g 0 l).rotateLeft (count g l)) ((g.val 0 l).rotateLeft (count g l)),
      tag := anyTag g } := by
  refine result_congr (fun l => fit_eq_byWidth (fun h => ?_) fun h => ?_) rfl
  · have less : count g l < 64 := by
      rw [count, h]
      exact Nat.mod_lt _ (by decide)
    rw [zext_wide h, w_wide h, shift_eq_count, rotateLeft_eq _ less]
  · rw [w_narrow h, shift_eq_count, setWidth_zext_rot _ (count_lt h l)]
    rfl

theorem resPopc_eq : resPopc g =
    { vals := lanewise g fun l => BitVec.ofNat 64 ((List.range (if is64 g.ty then 64 else 32)).filter fun k => (g.val 0 l).getLsbD k).length
      tag := anyTag g } :=
  result_congr (fun _ => congrArg _ List.countP_eq_length_filter) rfl

theorem resClz_eq : resClz g =
    { vals := lanewise g fun l => if is64 g.ty then (g.val 0 l).clz else (low g 0 l).clz.setWidth 64, tag := anyTag g } := by
  refine result_congr (fun l => ?_) rfl
  cases h : is64 g.ty
  · rw [w_narrow h, leadingZeros_eq_clz (by decide), BitVec.ofNat_toNat]
    rfl
  · rw [w_wide h, leadingZeros_eq_clz (by decide), BitVec.ofNat_toNat, BitVec.setWidth_eq]
    rfl

end

/-- Settles O2: a fit value depends on the bits of the width of TYPE alone (`fit_eq_byWidth`), and each operation's low bits are those of
the 32-bit operation on its operands' low bits. -/
theorem bitOperationsActOnTheWidthOfTheirType : Obligations.BitOperationsActOnTheWidthOfTheirType := by
  unfold Obligations.BitOperationsActOnTheWidthOfTheirType
  intro c p s
  exact ⟨gives_issueFixed (by decide) (bitRes_eq (f := (· &&& ·)) (f32 := (· &&& ·)) fun _ _ => BitVec.setWidth_and),
    gives_issueFixed (by decide) (bitRes_eq (f := (· ||| ·)) (f32 := (· ||| ·)) fun _ _ => BitVec.setWidth_or),
    gives_issueFixed (by decide) (bitRes_eq (f := (· ^^^ ·)) (f32 := (· ^^^ ·)) fun _ _ => BitVec.setWidth_xor),
    gives_issueFixed (by decide) (bitRes_eq (f := fun a _ => ~~~a) (f32 := fun a _ => ~~~a) fun _ _ => BitVec.setWidth_not (by decide)),
    gives_issueFixed (by decide) (resShl_eq _), gives_issueFixed (by decide) (resShr_eq _), gives_issueFixed (by decide) (resSar_eq _),
    gives_issueFixed (by decide) (resRot_eq _), gives_issueFixed (by decide) (resPopc_eq _), gives_issueFixed (by decide) (resClz_eq _)⟩

end Sys2Proof.Proofs
end

section
/-! PROOFS. Bit fields (R96, Table 6.2). -/
namespace Sys2Proof.Proofs

open Sys2Proof Sys2Proof.Machine Sys2Proof.Safety Sys2Proof.Claims

theorem bitAt_toNat {w : Nat} (x : BitVec w) (i : Nat) : bitAt x.toNat i = x.getLsbD i := by
  rw [bitAt, BitVec.getLsbD, Nat.testBit_eq_decide_div_mod_eq, beq_eq_decide]

/-! ### bfe -/

/-- What lies below the top of a range, cut into parts of one size. -/
theorem div_below_top {x m k t : Nat} (hk : 0 < k) (hx : x < m) (ht : t = m * k) : (t - 1 - x * k) / k = m - 1 - x := by
  obtain ⟨y, rfl⟩ : ∃ y, m = y + 1 + x := ⟨m - 1 - x, by omega⟩
  have split : t - 1 - x * k = k * y + (k - 1) := by
    rw [ht, Nat.add_mul, Nat.add_mul, Nat.mul_comm k y]
    omega
  rw [split, Nat.mul_add_div hk, Nat.div_eq_of_lt (by omega)]
  omega

section
variable {pos n : Nat} (h : pos + n ≤ 32) (a : BitVec 64)
include h

/-- A field shifted to the top of a word. -/
theorem toNat_field_top : ((a.setWidth 32 >>> pos) <<< (32 - n)).toNat = bitsOf a.toNat pos n * 2 ^ (32 - n) := by
  have word : (2 : Nat) ^ 32 = 2 ^ n * 2 ^ (32 - n) := by rw [← Nat.pow_add]; congr 1; omega
  have low : (2 : Nat) ^ 32 = 2 ^ pos * 2 ^ (32 - pos) := by rw [← Nat.pow_add]; congr 1; omega
  rw [BitVec.toNat_shiftLeft, BitVec.toNat_ushiftRight, BitVec.toNat_setWidth, Nat.shiftLeft_eq, Nat.shiftRight_eq_div_pow]
  conv_lhs => rw [word, Nat.mul_mod_mul_right, ← word, low, Nat.mod_mul_right_div_self]
  rw [Nat.mod_mod_of_dvd _ (pow_dvd_pow 2 (by omega)), bitsOf]

theorem field_unsigned : (((a.setWidth 32 >>> pos) <<< (32 - n)) >>> (32 - n)).setWidth 64 = BitVec.ofNat 64 (bitsOf a.toNat pos n) := by
  refine BitVec.eq_of_toNat_eq ?_
  have small : bitsOf a.toNat pos n < 2 ^ n := Nat.mod_lt _ (by positivity)
  have fits : (2 : Nat) ^ n ≤ 2 ^ 64 := Nat.pow_le_pow_right (by decide) (by omega)
  rw [BitVec.toNat_setWidth_of_le (by decide), BitVec.toNat_ushiftRight, toNat_field_top h, Nat.shiftRight_eq_div_pow,
    Nat.mul_div_cancel _ (by positivity), BitVec.toNat_ofNat, Nat.mod_eq_of_lt (by omega)]

theorem msb_field_top (hn : 0 < n) : ((a.setWidth 32 >>> pos) <<< (32 - n)).msb = bitAt (bitsOf a.toNat pos n) (n - 1) := by
  obtain ⟨k, rfl⟩ : ∃ k, n = k + 1 := ⟨n - 1, by omega⟩
  have small : bitsOf a.toNat pos (k + 1) < 2 ^ k * 2 := Nat.mod_lt _ (by positivity)
  have word : (2 : Nat) ^ (32 - 1) = 2 ^ k * 2 ^ (32 - (k + 1)) := by rw [← Nat.pow_add]; congr 1; omega
  have top := Nat.div_lt_of_lt_mul small
  have reached : 2 ^ k ≤ bitsOf a.toNat pos (k + 1) ↔ 1 ≤ bitsOf a.toNat pos (k + 1) / 2 ^ k := (Nat.one_le_div_iff (by positivity)).symm
  rw [BitVec.msb_eq_decide, toNat_field_top h, word, bitAt, Nat.add_sub_cancel, beq_eq_decide, decide_eq_decide,
    Nat.mul_le_mul_right_iff (by positivity), reached]
  generalize bitsOf a.toNat pos (k + 1) / 2 ^ k = q at top
  omega

theorem field_signed (top : ((a.setWidth 32 >>> pos) <<< (32 - n)).msb = true) :
    (((a.setWidth 32 >>> pos) <<< (32 - n)).sshiftRight (32 - n)).setWidth 64 = BitVec.ofNat 64 (2 ^ 32 - 2 ^ n + bitsOf a.toNat pos n) := by
  refine BitVec.eq_of_toNat_eq ?_
  have small : bitsOf a.toNat pos n < 2 ^ n := Nat.mod_lt _ (by positivity)
  have fits : (2 : Nat) ^ n ≤ 2 ^ 32 := Nat.pow_le_pow_right (by decide) (by omega)
  have word : (2 : Nat) ^ 32 = 2 ^ n * 2 ^ (32 - n) := by rw [← Nat.pow_add]; congr 1; omega
  rw [BitVec.toNat_setWidth_of_le (by decide), BitVec.toNat_sshiftRight_of_msb_true top, toNat_field_top h, Nat.shiftRight_eq_div_pow,
    div_below_top (by positivity) small word, BitVec.toNat_ofNat, Nat.mod_eq_of_lt (by omega)]
  omega

end

theorem toNat_extract_lt (x : BitVec 64) (lo : Nat) : (x.extractLsb' lo 5).toNat < 32 := (x.extractLsb' lo 5).isLt

/-- bfe by the bits of its control word (Table 6.2). -/
theorem bfe_eq (a ctl : BitVec 64) : bfe a ctl =
    let pos := ctl.extractLsb' 0 5
    let len := (ctl.extractLsb' 8 6).toNat
    let n := min len (32 - pos.toNat)
    let x : BitVec 32 := (a.setWidth 32 >>> pos.toNat) <<< (32 - n)
    if len = 0 then 0
    else if ctl.getLsbD 16 ∧ n = len then (x.sshiftRight (32 - n)).setWidth 64
    else (x >>> (32 - n)).setWidth 64 := by
  unfold bfe
  simp only [bitsOf_toNat ctl, bitAt_toNat]
  generalize hp : (ctl.extractLsb' 0 5).toNat = pos
  generalize hl : (ctl.extractLsb' 8 6).toNat = len
  generalize hn : min len (32 - pos) = n
  have below : pos < 32 := hp ▸ toNat_extract_lt ctl 0
  have inside : pos + n ≤ 32 := by omega
  by_cases empty : len = 0
  · rw [if_pos empty, if_pos empty]
  · have some : 0 < n := by omega
    rw [if_neg empty, if_neg empty, field_unsigned inside]
    by_cases whole : ctl.getLsbD 16 = true ∧ n = len
    · rw [if_pos whole, ← msb_field_top inside a some]
      cases top : ((a.setWidth 32 >>> pos) <<< (32 - n)).msb
      · rw [BitVec.sshiftRight_eq_of_msb_false top, field_unsigned inside]
        simp
      · rw [field_signed inside a top]
        simp [whole]
    · rw [if_neg whole, if_neg]
      simp only [Bool.and_eq_true, beq_iff_eq]
      exact fun h => whole h.1

/-! ### bfi -/

section
variable {pos n : Nat} (h : pos + n ≤ 32)

/-- The bits of a field. -/
def fieldMask (pos n : Nat) : BitVec 32 := BitVec.ofNat 32 (2 ^ n - 1) <<< pos

theorem parts_apart (a b m : BitVec 32) : (a &&& ~~~m) &&& (b &&& m) = 0#32 := by
  refine BitVec.eq_of_getLsbD_eq fun i hi => ?_
  rw [BitVec.getLsbD_and, BitVec.getLsbD_and, BitVec.getLsbD_and, BitVec.getLsbD_not, BitVec.getLsbD_zero]
  cases m.getLsbD i <;> simp

theorem split_by_mask (a m : BitVec 32) : (a &&& ~~~m).toNat + (a &&& m).toNat = a.toNat := by
  have whole : (a &&& ~~~m) ||| (a &&& m) = a := by
    refine BitVec.eq_of_getLsbD_eq fun i hi => ?_
    rw [BitVec.getLsbD_or, BitVec.getLsbD_and, BitVec.getLsbD_and, BitVec.getLsbD_not, decide_eq_true hi]
    cases a.getLsbD i <;> cases m.getLsbD i <;> rfl
  rw [← BitVec.toNat_add_of_and_eq_zero (parts_apart a a m), BitVec.add_eq_or_of_and_eq_zero _ _ (parts_apart a a m), whole]

theorem toNat_join_by_mask (a b m : BitVec 32) : ((a &&& ~~~m) ||| (b &&& m)).toNat = (a &&& ~~~m).toNat + (b &&& m).toNat := by
  rw [← BitVec.add_eq_or_of_and_eq_zero _ _ (parts_apart a b m), BitVec.toNat_add_of_and_eq_zero (parts_apart a b m)]

include h

theorem getLsbD_fieldMask (i : Nat) : (fieldMask pos n).getLsbD i = (decide (pos ≤ i) && decide (i < pos + n)) := by
  rw [fieldMask, BitVec.getLsbD_shiftLeft, BitVec.getLsbD_ofNat, Nat.testBit_two_pow_sub_one]
  by_cases lo : pos ≤ i
  · by_cases hi : i < pos + n
    · simp [lo, hi, show i < 32 by omega, show i - pos < n by omega, show i - pos < 32 by omega]
    · simp [lo, hi, show ¬i - pos < n by omega]
  · simp [lo, show i < pos by omega]

/-- What a word holds in a field. -/
theorem toNat_and_fieldMask (a : BitVec 32) : (a &&& fieldMask pos n).toNat = bitsOf a.toNat pos n * 2 ^ pos := by
  refine Nat.eq_of_testBit_eq fun i => ?_
  rw [bitsOf, ← Nat.shiftLeft_eq, Nat.testBit_shiftLeft, Nat.testBit_mod_two_pow, ← Nat.shiftRight_eq_div_pow, Nat.testBit_shiftRight]
  show (a &&& fieldMask pos n).getLsbD i = (decide (i ≥ pos) && (decide (i - pos < n) && a.getLsbD (pos + (i - pos))))
  rw [BitVec.getLsbD_and, getLsbD_fieldMask h]
  by_cases lo : pos ≤ i
  · rw [show pos + (i - pos) = i by omega, Bool.and_comm]
    simp [lo, show i - pos < n ↔ i < pos + n by omega]
  · simp [lo]

/-- A value shifted into a field. -/
theorem toNat_into_field (b : BitVec 64) : ((b.setWidth 32 <<< pos) &&& fieldMask pos n).toNat = bitsOf b.toNat 0 n * 2 ^ pos := by
  have word : (2 : Nat) ^ 32 = 2 ^ (32 - pos) * 2 ^ pos := by rw [← Nat.pow_add]; congr 1; omega
  have field : bitsOf (b.setWidth 32 <<< pos).toNat pos n = bitsOf b.toNat 0 n := by
    rw [bitsOf, bitsOf, BitVec.toNat_shiftLeft, BitVec.toNat_setWidth, Nat.shiftLeft_eq]
    conv_lhs => rw [word, Nat.mul_mod_mul_right, ← word, Nat.mul_div_cancel _ (by positivity), Nat.mod_mod_of_dvd _ (pow_dvd_pow 2 (by omega)),
      Nat.mod_mod_of_dvd _ (pow_dvd_pow 2 (by omega))]
    rw [Nat.pow_zero, Nat.div_one]
  rw [toNat_and_fieldMask h, field]

end

/-- bfi by the bits of its control word (R96). -/
theorem bfi_eq (a b ctl : BitVec 64) : bfi a b ctl =
    let pos := (ctl.extractLsb' 0 5).toNat
    let n := min (ctl.extractLsb' 8 6).toNat (32 - pos)
    let m : BitVec 32 := BitVec.ofNat 32 (2 ^ n - 1) <<< pos
    ((a.setWidth 32 &&& ~~~m) ||| ((b.setWidth 32 <<< pos) &&& m)).setWidth 64 := by
  unfold bfi
  simp only [bitsOf_toNat ctl]
  generalize hp : (ctl.extractLsb' 0 5).toNat = pos
  generalize hn : min (ctl.extractLsb' 8 6).toNat (32 - pos) = n
  have below : pos < 32 := hp ▸ toNat_extract_lt ctl 0
  have inside : pos + n ≤ 32 := by omega
  have kept := split_by_mask (a.setWidth 32) (fieldMask pos n)
  have joined := toNat_join_by_mask (a.setWidth 32) (b.setWidth 32 <<< pos) (fieldMask pos n)
  rw [toNat_and_fieldMask inside] at kept
  rw [toNat_into_field inside] at joined
  have small := (a.setWidth 32 &&& ~~~fieldMask pos n ||| b.setWidth 32 <<< pos &&& fieldMask pos n).isLt
  refine BitVec.eq_of_toNat_eq ?_
  show (BitVec.ofNat 64 ((a.setWidth 32).toNat - bitsOf (a.setWidth 32).toNat pos n * 2 ^ pos + bitsOf b.toNat 0 n * 2 ^ pos)).toNat
    = (BitVec.setWidth 64 (a.setWidth 32 &&& ~~~fieldMask pos n ||| b.setWidth 32 <<< pos &&& fieldMask pos n)).toNat
  rw [BitVec.toNat_setWidth_of_le (w := 32) (by decide), BitVec.toNat_ofNat]
  omega

end Sys2Proof.Proofs
end

section
/-! PROOFS. nop, immediates, mov and lea (R95, R99 to R101, R156): the payload fields that they read, and what they write. -/
namespace Sys2Proof.Proofs

open Sys2Proof Sys2Proof.Machine Sys2Proof.Safety Sys2Proof.Claims

/-! ### An instruction without operands -/

theorem put_put {α : Type} (k : Nat) (v w : α) : ∀ m : List (Nat × α), Sparse.put k v (Sparse.put k w m) = Sparse.put k v m
  | [] => by simp [Sparse.put]
  | (i, x) :: r => by
    simp only [Sparse.put]
    split_ifs with before here
    · simp [Sparse.put]
    · simp [Sparse.put]
    · simp [Sparse.put, before, here, put_put k v w r]

theorem setThr_setThr (s : State) (a : Agent) (t u : Thr) : (s.setThr a t).setThr a u = s.setThr a u := by
  cases a with
  | grp k g => simp [State.setThr, State.mapTeam, State.setTeam, State.team, Sparse.get_put_same, put_put]
  | ctl q => simp [State.setThr, State.mapQuad, State.quad, Sparse.get_put_same, put_put]

theorem mapThr_mapThr (s : State) (a : Agent) (f g : Thr → Thr) : (s.mapThr a f).mapThr a g = s.mapThr a fun th => g (f th) := by
  rw [State.mapThr, State.thr_mapThr_same]
  exact setThr_setThr s a _ _

/-- An instruction that names no source reads no queue entry. -/
theorem consumed_of_no_sources {n : Ins} (h : ∀ scal, n.sources scal = []) (v : State) : consumed n v = v := by
  rw [consumed, Ins.readsUq, h]
  rfl

/-- nop puts only its flag on its way (R95). -/
theorem exec_nop {c : Ctl} {p : PayA} {s : State} (h : Clear (p.ins Rows.rowNop c) {} s) :
    let n := p.ins Rows.rowNop c
    let g := sight n 0 s
    exec (.nop c p) s = .next ((noted n 0 s).mapThr s.cur fun th =>
      goesOn g (stepped n g ((noted n 0 s).thr s.cur) s.clk Latch.invalid (sends n s.clk (if g.scal then 2 else 4) [] th))) := by
  intro n g
  let e (u : State) : State := u.mapThr s.cur (sends n s.clk (if g.scal then 2 else 4) [])
  have body : commitPlain g (noted n 0 s) = { s := e (noted n 0 s) } := by
    rw [commitPlain, Laws.cur_noted, Laws.clk_noted, State.mapThr, Laws.sends_eq]
    rfl
  refine congrArg Host.Outcome.next ((issue_passes h (show Rows.rowNop.opc ≠ 0x6A by decide) (e := e) (ownEffect_mapThr _ _ fun _ => rfl)
    (congrArg Except.ok body) _).trans ?_)
  rw [passes, consumed_of_no_sources fun _ => rfl]
  exact mapThr_mapThr ..

/-! ### Payload fields (R45) -/

theorem imm_payI (i : PayI) : i.bits.extractLsb' 0 16 = i.imm := BitVec.extractLsb'_append_eq_right

theorem s1_payA (p : PayA) : p.bits.extractLsb' 16 8 = p.s1 := congrArg PayA.s1 (payA_bits p)

theorem simm_payI (i : PayI) (r : Row) (c : Ctl) : Ins.simm (i.ins r c) = i.imm.signExtend 64 := congrArg _ (imm_payI i)

theorem low_signExtend {w : Nat} (x : BitVec w) : (x.signExtend 64).setWidth 32 = x.signExtend 32 := by
  refine BitVec.eq_of_getLsbD_eq fun i hi => ?_
  rw [BitVec.getLsbD_setWidth, BitVec.getLsbD_signExtend, BitVec.getLsbD_signExtend, decide_eq_true hi, decide_eq_true (show i < 64 by omega)]
  rfl

/-! ### Immediates (R99, Table 6.3) -/

section
variable {g : Go} {i : PayI} {r : Row} {c : Ctl} (h : g.n = i.ins r c)
include h

theorem resAddi_eq : resAddi g =
    { vals := lanewise g fun l => if g.scal then g.val 0 l + i.imm.signExtend 64 else (low g 0 l + i.imm.signExtend 32).setWidth 64
      tag := sumTag (· + ·) g.act (g.op 0) (Opd.const (i.imm.signExtend 64)) } := by
  unfold resAddi
  rw [h, simm_payI]
  refine result_congr (fun l => ?_) rfl
  rw [natFit, zext, BitVec.setWidth_add _ _ (by decide), low_signExtend]
  rfl

theorem resLi_eq : resLi g =
    { vals := lanewise g fun _ => if g.scal then i.imm.signExtend 64 else (i.imm.signExtend 32).setWidth 64, tag := .U } := by
  unfold resLi
  rw [h, simm_payI]
  refine result_congr (fun l => ?_) rfl
  rw [natFit, zext, low_signExtend]

omit h in
/-- The second half word of a value replaced. -/
theorem half_put (x : BitVec 64) (m : BitVec 16) :
    (x &&& ~~~0xFFFF0000#64) ||| (m.setWidth 64 <<< 16) = x.extractLsb' 32 32 ++ m ++ x.extractLsb' 0 16 := by
  refine BitVec.eq_of_getLsbD_eq fun i hi => ?_
  have mask : (0xFFFF0000#64).getLsbD i = (decide (16 ≤ i) && decide (i < 32)) := by
    rw [show 0xFFFF0000#64 = (BitVec.allOnes 16).setWidth 64 <<< 16 by decide, BitVec.getLsbD_shiftLeft, BitVec.getLsbD_setWidth,
      BitVec.getLsbD_allOnes]
    by_cases lo : 16 ≤ i
    · simp [lo, hi, show i - 16 < 64 by omega, show i - 16 < 16 ↔ i < 32 by omega]
    · simp [lo, show i < 16 by omega]
  rw [BitVec.getLsbD_or, BitVec.getLsbD_and, BitVec.getLsbD_not, mask, BitVec.getLsbD_shiftLeft, BitVec.getLsbD_setWidth,
    BitVec.getLsbD_append, BitVec.getLsbD_append, BitVec.getLsbD_extractLsb', BitVec.getLsbD_extractLsb']
  rcases Nat.lt_or_ge i 16 with lo | lo
  · simp [lo, hi]
  · rcases Nat.lt_or_ge i 32 with mid | hi'
    · simp [lo, hi, mid, show ¬i < 16 by omega, show i - 16 < 16 by omega, show i - 16 < 64 by omega]
    · have out : m.getLsbD (i - 16) = false := BitVec.getLsbD_of_ge _ _ (by omega)
      simp [hi, out, show ¬i < 16 by omega, show ¬i - 16 < 16 by omega, show ¬i < 32 by omega, show i - 16 - 16 < 32 by omega,
        show 32 + (i - 16 - 16) = i by omega]

omit h in
theorem setWidth_low_append (x : BitVec 32) (m y : BitVec 16) : (x ++ m ++ y).setWidth 32 = m ++ y := by
  refine BitVec.eq_of_getLsbD_eq fun i hi => ?_
  rw [BitVec.getLsbD_setWidth, BitVec.getLsbD_append, BitVec.getLsbD_append, BitVec.getLsbD_append, decide_eq_true hi, Bool.true_and,
    if_pos (show i - 16 < 16 by omega)]

theorem resLih_eq : resLih g =
    { vals := lanewise g fun l =>
        if g.scal then (g.val 0 l).extractLsb' 32 32 ++ i.imm ++ (g.val 0 l).extractLsb' 0 16
        else (i.imm ++ (g.val 0 l).extractLsb' 0 16).setWidth 64
      tag := if (g.op 0).tag = .U then .U else .G } := by
  unfold resLih
  rw [h, show (i.ins r c).bits 0 16 = i.imm from imm_payI i]
  refine result_congr (fun l => ?_) rfl
  rw [natFit, half_put, zext]
  congr 2
  exact setWidth_low_append ..

end

/-! ### mov and lea (R100, R101) -/

theorem resMov_eq {g : Go} {p : PayA} {r : Row} {c : Ctl} (h : g.n = p.ins r c) : resMov g =
    { vals := lanewise g fun l => if g.scal ∧ p.s1 = 0xFF ∧ g.ty = 0 then (low g 0 l).signExtend 64 else g.val 0 l
      poison := (g.op 0).poison
      tag := if is64 g.ty then anyTag g else (g.op 0).tag } := by
  have literal : g.n.fld .s1 = p.s1 := by rw [h]; exact s1_payA p
  have lane (l : Nat) : (if g.scal then (if (g.n.fld .s1 == 0xFF && g.ty == 0) = true then sext 32 (g.val 0 l) else g.val 0 l) else g.val 0 l) =
      if g.scal ∧ p.s1 = 0xFF ∧ g.ty = 0 then (low g 0 l).signExtend 64 else g.val 0 l := by
    simp only [literal, ite_and, Bool.and_eq_true, beq_iff_eq]
    rfl
  unfold resMov Go.lanes
  simp only [lane]
  rfl

theorem resLea_eq {g : Go} {p : PayA} {r : Row} {c : Ctl} (h : g.n = p.ins r c) : resLea g =
    { vals := lanewise g fun l => g.val 0 l + ((if g.ty = 0 then (low g 1 l).signExtend 64 else (low g 1 l).setWidth 64) <<<
        (if p.mod.getLsbD 0 then 2 else 0))
      tag := anyTag g } := by
  unfold resLea
  rw [h, show (p.ins r c).pay = p.bits from rfl, getLsbD_zero_bits]
  rfl

/-- Settles O3: the fields of `bfe_eq` and `bfi_eq`, the immediates from their payload field, mov and lea by their entries. -/
theorem fieldsImmediatesAndMovesWriteWhatTheirEntriesSay : Obligations.FieldsImmediatesAndMovesWriteWhatTheirEntriesSay := by
  unfold Obligations.FieldsImmediatesAndMovesWriteWhatTheirEntriesSay
  intro c p q i s
  exact ⟨exec_nop, gives_issueFixed (by decide) (result_congr (fun l => bfe_eq _ _) rfl),
    gives_issueFixed (by decide) (result_congr (fun l => bfi_eq _ _ _) rfl), gives_issueFixed (by decide) (resAddi_eq rfl),
    gives_issueFixed (by decide) (resLi_eq rfl), gives_issueFixed (by decide) (resLih_eq rfl),
    fun h => congrArg Host.Outcome.next (issueFixed_result (by decide) (resMov_eq rfl) rfl rfl h), gives_issueFixed (by decide) (resLea_eq rfl)⟩

end Sys2Proof.Proofs
end

section
/-! PROOFS. sel, cmp and cvt (R97, R98, R102). -/
namespace Sys2Proof.Proofs

open Sys2Proof Sys2Proof.Machine Sys2Proof.Safety Sys2Proof.Claims

/-! ### sel (R97) -/

theorem predicate_payB (p : PayB) : p.bits.extractLsb' 0 3 = p.s3.extractLsb' 0 3 := BitVec.extractLsb'_append_eq_of_add_le (by decide)

theorem unionFlags_none (m : Mask) : unionFlags m [] = 0 := by
  rw [unionFlags]
  exact foldl_keeps id _ (fun _ _ => BitVec.or_zero) _ _

/-- Frost on the operands makes no difference in normal mode. -/
theorem commitFixed_ops {n : Ins} {x : Extra} {s : State} (h : Clear n x s) (ops : List Opd) (r : Res) :
    commitFixed { sight n x.warn s with ops := ops } r (noted n x.warn s) = fixedBody (fun _ => r) (sight n x.warn s) (noted n x.warn s) := by
  simp only [fixedBody, commitFixed, Laws.cur_noted, ra_of_clear h]
  rfl

/-- The effect of sel with the predicate k. -/
def selBody (k : Nat) : Body := fun g s =>
  let pr := (s.thr s.cur).readP s.freeCtr k
  commitFixed { g with ops := g.ops.map fun o => { o with frost := o.frost ||| pr.frost } } (resSel pr.v g) s

theorem issue_sel {n : Ins} {x : Extra} {s : State} (h : Clear n x s) (ht : n.row.opc ≠ 0x6A) (k : Nat) :
    issue n x (selBody k) s =
      fixedNext n x.warn (resSel (((noted n x.warn s).thr s.cur).readP s.freeCtr k).v (sight n x.warn s)) s := by
  let r := resSel (((noted n x.warn s).thr s.cur).readP s.freeCtr k).v (sight n x.warn s)
  have body : selBody k (sight n x.warn s) (noted n x.warn s) = fixedBody (fun _ => r) (sight n x.warn s) (noted n x.warn s) := by
    dsimp only [selBody]
    rw [commitFixed_ops h, Laws.cur_noted, freeCtr_noted]
  have way := Laws.issueFixed_clear h (fun _ => r) ht rfl (fpTrap_no_flags _ _)
  rw [issueFixed, Laws.issue_clear h] at way
  rw [Laws.issue_clear h, body, ← way, show r.flags = [] from rfl, unionFlags_none]

theorem exec_sel (c : Ctl) (q : PayB) (s : State) :
    let n := q.ins Rows.rowSel c
    let g := sight n 0 s
    let k := (q.s3.extractLsb' 0 3).toNat
    let kp := ((noted n 0 s).thr s.cur).readP s.freeCtr k
    ∀ _ : Clear n { mode := (s.thr s.cur).scalar && k != 0 } s,
      exec (.sel c q) s = .next (fixedNext n 0
        { vals := lanewise g fun l => if kp.v.getLsbD l then g.val 0 l else g.val 1 l
          poison := ((g.op 0).poison &&& kp.v) ||| ((g.op 1).poison &&& ~~~kp.v)
          tag := if isU g.act (lanewise g fun l => if kp.v.getLsbD l then g.val 0 l else g.val 1 l) then laneTag g.ops else .G } s) := by
  intro n g k kp h
  have run (j : Nat) (hj : (n.bits 0 3).toNat = j) :
      exec (.sel c q) s = .next (issue n { mode := (s.thr s.cur).scalar && j != 0 } (selBody j) s) := by
    subst hj
    rfl
  rw [run k (congrArg BitVec.toNat (predicate_payB q)), issue_sel h (show Rows.rowSel.opc ≠ 0x6A by decide)]
  rfl

/-! ### cmp (R98) -/

theorem condition_payA (p : PayA) : p.bits.extractLsb' 1 3 = p.mod.extractLsb' 1 3 := BitVec.extractLsb'_append_eq_of_add_le (by decide)

/-- cmp gives 1 where its condition holds of the integers, else 0. -/
theorem cmp_gives {c : Ctl} {p : PayA} {s : State} {f : Int → Int → Bool} {x : BitVec 3} (hx : p.mod.extractLsb' 1 3 = x) (h6 : x.toNat < 6)
    (hf : ∀ a b, cmpInt x.toNat a b = f a b) :
    Gives (p.ins Rows.rowCmp c) {} s (exec (.cmp c p) s) (fun g l => bit64 (f (g.int 0 l) (g.int 1 l))) anyTag := by
  have run (j : Nat) (hj : ((p.ins Rows.rowCmp c).bits 1 3).toNat = j) :
      exec (.cmp c p) s = .next (issueFixed (p.ins Rows.rowCmp c) { bad := decide (6 ≤ j) } (resCmp j) s) := by
    subst hj
    rfl
  rw [run x.toNat (congrArg BitVec.toNat ((condition_payA p).trans hx)), decide_eq_false (by omega)]
  exact gives_issueFixed (by decide) (result_congr (fun l => congrArg bit64 (hf _ _)) rfl)

/-! ### cvt (R102) -/

theorem sext_ofInt {w : Nat} (h : w ≤ 64) (y : Int) : sext w ((BitVec.ofInt w y).setWidth 64) = sext w (BitVec.ofInt 64 y) := by
  rw [sext, sext, BitVec.setWidth_setWidth_of_le _ h, BitVec.setWidth_eq, setWidth_ofInt h]

theorem zext_ofInt {w : Nat} (h : w ≤ 64) (y : Int) : zext w ((BitVec.ofInt w y).setWidth 64) = zext w (BitVec.ofInt 64 y) := by
  rw [zext, zext, BitVec.setWidth_setWidth_of_le _ h, BitVec.setWidth_eq, setWidth_ofInt h]

/-- A converted integer in its register: the low bits of the exact one at the width of its type, extended as R68 and R91 give. -/
theorem placeInt_eq (scal : Bool) (t : Nat) (y : Int) : placeInt scal t ((BitVec.ofInt (intWidth t) y).setWidth 64) =
    if intWidth t = 64 then BitVec.ofInt 64 y
    else if scal then (if isSigned t then sext (intWidth t) (BitVec.ofInt 64 y) else zext (intWidth t) (BitVec.ofInt 64 y))
    else if t = 13 then (((BitVec.ofInt 64 y).setWidth 8).signExtend 32).setWidth 64
    else ((BitVec.ofInt 64 y).setWidth (intWidth t)).setWidth 64 := by
  by_cases wide : t = 2 ∨ t = 3
  · rcases wide with rfl | rfl <;> exact BitVec.setWidth_eq _
  by_cases i8 : t = 13
  · subst i8
    cases scal
    · show zext 32 (sext 8 ((BitVec.ofInt 8 y).setWidth 64)) = (((BitVec.ofInt 64 y).setWidth 8).signExtend 32).setWidth 64
      rw [sext_ofInt (by decide), zext, sext, low_signExtend]
    · exact sext_ofInt (w := 8) (by decide) y
  by_cases n8 : t = 14
  · subst n8
    cases scal <;> exact zext_ofInt (w := 8) (by decide) y
  by_cases i32 : t = 0
  · subst i32
    cases scal
    · exact zext_ofInt (w := 32) (by decide) y
    · exact sext_ofInt (w := 32) (by decide) y
  · have w32 : intWidth t = 32 := by simp [intWidth, not_or.mp wide, i8, n8]
    have unsigned : isSigned t = false := by simp [isSigned, not_or.mp wide, i8, i32]
    have place (x : BitVec 64) : placeInt scal t x = zext 32 x := by
      unfold placeInt
      split <;> simp_all
    rw [place, w32, unsigned, zext_ofInt (by decide), if_neg (by decide), if_neg i8]
    cases scal <;> rfl

/-- Settles O4: sel by the bit of its predicate, cmp by its condition, cvt by the place of its destination type. -/
theorem selectCompareAndConvertWriteWhatTheirEntriesSay : Obligations.SelectCompareAndConvertWriteWhatTheirEntriesSay := by
  unfold Obligations.SelectCompareAndConvertWriteWhatTheirEntriesSay
  intro c p q k s
  refine ⟨?_, fun h => cmp_gives (f := (· == ·)) h (by decide) fun a b => (beq_eq_decide a b).symm,
    fun h => cmp_gives (f := (· != ·)) h (by decide) fun a b => by rw [bne, beq_eq_decide, ← decide_not]; rfl,
    fun h => cmp_gives (f := (decide <| · < ·)) h (by decide) fun a b => rfl,
    fun h => cmp_gives (f := (decide <| · ≤ ·)) h (by decide) fun a b => rfl,
    fun h => cmp_gives (f := fun a b => decide (b < a)) h (by decide) fun a b => rfl,
    fun h => cmp_gives (f := fun a b => decide (b ≤ a)) h (by decide) fun a b => rfl,
    gives_issueFixed (by decide) (result_congr (fun l => ?_) rfl)⟩
  · intro n g kp h
    rw [exec_sel c q s h]
  · exact placeInt_eq _ _ _

end Sys2Proof.Proofs
end

section
/-! PROOFS. Where a branch takes its lanes, and what stops it (R18, R105, R305, R310). -/
namespace Sys2Proof.Proofs

open Sys2Proof Sys2Proof.Machine Sys2Proof.Safety Sys2Proof.Claims

/-! ### The least of some words -/

theorem foldl_minWord (r : List (BitVec 64)) (x : BitVec 64) :
    let m := r.foldl (fun m y => if y.toNat < m.toNat then y else m) x
    (m = x ∨ m ∈ r) ∧ m.toNat ≤ x.toNat ∧ ∀ y ∈ r, m.toNat ≤ y.toNat := by
  induction r generalizing x with
  | nil => exact ⟨.inl rfl, le_refl _, fun y hy => nomatch hy⟩
  | cons y r ih =>
    obtain ⟨mem, first, rest⟩ := ih (if y.toNat < x.toNat then y else x)
    rw [List.foldl_cons]
    by_cases less : y.toNat < x.toNat
    · rw [if_pos less] at mem first rest
      rw [if_pos less]
      exact ⟨.inr (List.mem_cons.mpr mem), by omega, fun z hz => (List.mem_cons.mp hz).elim (fun e => e ▸ first) (rest z)⟩
    · rw [if_neg less] at mem first rest
      rw [if_neg less]
      exact ⟨mem.imp_right (List.mem_cons_of_mem y), first, fun z hz => (List.mem_cons.mp hz).elim (fun e => e ▸ by omega) (rest z)⟩

theorem minWord_least {l : List (BitVec 64)} (h : l ≠ []) : minWord l ∈ l ∧ ∀ x ∈ l, (minWord l).toNat ≤ x.toNat := by
  cases l with
  | nil => exact absurd rfl h
  | cons x r =>
    obtain ⟨mem, first, rest⟩ := foldl_minWord r x
    exact ⟨List.mem_cons.mpr mem, fun y hy => (List.mem_cons.mp hy).elim (fun e => e ▸ first) (rest y)⟩

/-! ### Targets -/

/-- The page of the header bitmap that a lane's target needs and that is not resident (R305). -/
def absentPage (u : State) (a : Agent) (m : Mask) (target : Nat → Int) (l : Nat) : Option Nat :=
  if m.getLsbD l ∧ 0 ≤ target l ∧ target l < 2 ^ 48 then u.headerAbsent a (target l).toNat else none

/-- A lane whose target the header bitmap refuses (R105). -/
def IllegalTarget (u : State) (a : Agent) (m : Mask) (target : Nat → Int) (l : Nat) : Prop :=
  m.getLsbD l = true ∧ u.targetOk a (target l) = false ∧ absentPage u a m target l = none

section
variable {u : State} {m : Mask} {target : Nat → Int}

theorem targetsAbsent_eq (a : Agent) :
    u.targetsAbsent a m target = (List.range 32).filterMap fun l => (absentPage u a m target l).map fun p => (l, p) := by
  rw [State.targetsAbsent, lanesOf, laneIds, List.filterMap_filter]
  refine List.filterMap_congr fun l _ => ?_
  unfold absentPage
  cases m.getLsbD l
  · simp
  · simp only [if_true, true_and]
    split_ifs <;> rfl

theorem mem_targetsAbsent {a : Agent} {l p : Nat} :
    (l, p) ∈ u.targetsAbsent a m target ↔ l < 32 ∧ absentPage u a m target l = some p := by
  rw [targetsAbsent_eq]
  simp only [List.mem_filterMap, List.mem_range, Option.map_eq_some_iff, Prod.mk.injEq]
  constructor
  · rintro ⟨k, hk, q, hq, rfl, rfl⟩
    exact ⟨hk, hq⟩
  · rintro ⟨hl, hp⟩
    exact ⟨l, hl, p, hp, rfl, rfl⟩

theorem pages_targetsAbsent (a : Agent) :
    (u.targetsAbsent a m target).map (·.2) = (List.range 32).filterMap (absentPage u a m target) := by
  rw [targetsAbsent_eq, List.map_filterMap]
  refine List.filterMap_congr fun l _ => ?_
  cases absentPage u a m target l <;> rfl

theorem any_targetsAbsent {a : Agent} {l : Nat} (hl : l < 32) :
    (u.targetsAbsent a m target).any (·.1 == l) = false ↔ absentPage u a m target l = none := by
  rw [List.any_eq_false, Option.eq_none_iff_forall_not_mem]
  constructor
  · exact fun none p hp => none (l, p) (mem_targetsAbsent.mpr ⟨hl, hp⟩) (beq_self_eq_true l)
  · rintro none ⟨k, p⟩ hk hkl
    obtain rfl : k = l := beq_iff_eq.mp hkl
    exact none p (mem_targetsAbsent.mp hk).2

/-- The lanes with an illegal target, as a branch lists them. -/
theorem mem_illegalLanes {a : Agent} {l : Nat} :
    l ∈ ((lanesOf m).filter fun l => !u.targetOk a (target l) && !(u.targetsAbsent a m target).any (·.1 == l)) ↔
      l < 32 ∧ IllegalTarget u a m target l := by
  rw [List.mem_filter, mem_lanesOf, and_assoc, Bool.and_eq_true, Bool.not_eq_true', Bool.not_eq_true']
  exact and_congr_right fun hl => and_congr_right fun _ => and_congr_right fun _ => any_targetsAbsent hl

/-! ### What a branch does -/

section
variable {g : Go} {ws : List RegW} {a : Agent} (hc : u.cur = a)
include hc

/-- A target that is illegal stops the branch with ILLEGAL in its lanes; tval is the least of their targets as words. -/
theorem branchTo_illegal (h : ∃ l < 32, IllegalTarget u a m target l) :
    ∃ lm tv, branchTo g m target ws u = .error [{ cause := .illegal, lmask := lm, tval := tv }] ∧
      (∀ l < 32, lm.getLsbD l = true ↔ IllegalTarget u a m target l) ∧
      (∃ l < 32, IllegalTarget u a m target l ∧ tv = BitVec.ofInt 64 (target l)) ∧
      (∀ l < 32, IllegalTarget u a m target l → tv.toNat ≤ (BitVec.ofInt 64 (target l)).toNat) := by
  subst hc
  let bad := (lanesOf m).filter fun l => !u.targetOk u.cur (target l) && !(u.targetsAbsent u.cur m target).any (·.1 == l)
  have mem (l : Nat) : l ∈ bad ↔ l < 32 ∧ IllegalTarget u u.cur m target l := mem_illegalLanes
  have some : bad ≠ [] := by
    obtain ⟨l, hl, ill⟩ := h
    exact List.ne_nil_of_mem ((mem l).mpr ⟨hl, ill⟩)
  obtain ⟨least, below⟩ := minWord_least (l := bad.map fun l => BitVec.ofInt 64 (target l)) (by simpa [List.isEmpty_iff] using some)
  refine ⟨maskOf fun l => bad.contains l, minWord (bad.map fun l => BitVec.ofInt 64 (target l)), ?_, fun l hl => ?_, ?_, fun l hl ill => ?_⟩
  · rw [branchTo]
    show (if bad.isEmpty then _ else _) = _
    rw [if_neg (by rwa [List.isEmpty_iff])]
  · rw [getLsbD_maskOf _ hl, List.contains_iff_mem, mem]
    exact and_iff_right hl
  · obtain ⟨l, hl, e⟩ := List.mem_map.mp least
    exact ⟨l, ((mem l).mp hl).1, ((mem l).mp hl).2, e.symm⟩
  · exact below _ (List.mem_map.mpr ⟨l, (mem l).mpr ⟨hl, ill⟩, rfl⟩)

variable (legal : ∀ l < 32, ¬IllegalTarget u a m target l)
include legal

/-- Without an illegal target a branch looks at the pages that are not resident. -/
theorem branchTo_legal : branchTo g m target ws u =
    (let miss := u.targetsAbsent a m target
     let lost := miss.filter fun x => (u.thr a).stErr.contains x.2
     if !lost.isEmpty then
       .error [{ cause := .storageErr, lmask := maskOf fun l => lost.any (·.1 == l)
                 tval := minWord (lost.map fun x => BitVec.ofInt 64 (target x.1)) }]
     else if !miss.isEmpty then .ok { s := u.storageFault a (miss.map (·.2)), cancel := true }
     else .ok { s := finishNow g ws u, pcs := some (branchPcs g (u.thr a) m fun l => BitVec.ofInt 48 (target l)) }) := by
  subst hc
  rw [branchTo]
  refine if_pos (List.isEmpty_iff.mpr (List.eq_nil_iff_forall_not_mem.mpr fun l hl => ?_))
  obtain ⟨h, ill⟩ := mem_illegalLanes.mp hl
  exact legal l h ill

/-- Where every target is legal and its page resident, the lanes move. -/
theorem branchTo_moves (here : ∀ l < 32, absentPage u a m target l = none) : branchTo g m target ws u =
    .ok { s := finishNow g ws u, pcs := some (branchPcs g (u.thr a) m fun l => BitVec.ofInt 48 (target l)) } := by
  have none : u.targetsAbsent a m target = [] := List.eq_nil_iff_forall_not_mem.mpr fun ⟨l, p⟩ hp => by
    obtain ⟨hl, e⟩ := mem_targetsAbsent.mp hp
    exact absurd (e.symm.trans (here l hl)) (Option.some_ne_none p)
  rw [branchTo_legal hc legal, none]
  rfl

/-- A page that is not resident, and whose fill has not failed, is waited for (R305). -/
theorem branchTo_waits (away : ∃ l < 32, absentPage u a m target l ≠ none)
    (sound : ∀ l < 32, ∀ p, absentPage u a m target l = some p → p ∉ (u.thr a).stErr) : branchTo g m target ws u =
    .ok { s := u.storageFault a ((List.range 32).filterMap (absentPage u a m target)), cancel := true } := by
  have lost : (u.targetsAbsent a m target).filter (fun x => (u.thr a).stErr.contains x.2) = [] :=
    List.filter_eq_nil_iff.mpr fun ⟨l, p⟩ hp => by
      obtain ⟨hl, e⟩ := mem_targetsAbsent.mp hp
      rw [List.contains_iff_mem]
      exact sound l hl p e
  have some : u.targetsAbsent a m target ≠ [] := by
    obtain ⟨l, hl, h⟩ := away
    obtain ⟨p, hp⟩ := Option.ne_none_iff_exists'.mp h
    exact List.ne_nil_of_mem (mem_targetsAbsent.mpr ⟨hl, hp⟩)
  rw [branchTo_legal hc legal]
  dsimp only
  rw [lost, ← pages_targetsAbsent]
  rw [List.isEmpty_nil, List.isEmpty_eq_false_iff.mpr some]
  rfl

/-- A page whose fill has failed stops the branch with STORAGE_ERR in the lanes that need it (R310). -/
theorem branchTo_storageErr (failed : ∃ l < 32, ∃ p, absentPage u a m target l = some p ∧ p ∈ (u.thr a).stErr) :
    ∃ lm tv, branchTo g m target ws u = .error [{ cause := .storageErr, lmask := lm, tval := tv }] ∧
      ∀ l < 32, lm.getLsbD l = true ↔ ∃ p, absentPage u a m target l = some p ∧ p ∈ (u.thr a).stErr := by
  let lost := (u.targetsAbsent a m target).filter fun x => (u.thr a).stErr.contains x.2
  have mem (l p : Nat) : (l, p) ∈ lost ↔ l < 32 ∧ absentPage u a m target l = some p ∧ p ∈ (u.thr a).stErr := by
    rw [List.mem_filter, mem_targetsAbsent, List.contains_iff_mem, and_assoc]
  have some : lost ≠ [] := by
    obtain ⟨l, hl, p, hp⟩ := failed
    exact List.ne_nil_of_mem ((mem l p).mpr ⟨hl, hp⟩)
  refine ⟨maskOf fun l => lost.any (·.1 == l), minWord (lost.map fun x => BitVec.ofInt 64 (target x.1)), ?_, fun l hl => ?_⟩
  · rw [branchTo_legal hc legal]
    show (if !lost.isEmpty then _ else _) = _
    rw [List.isEmpty_eq_false_iff.mpr some]
    rfl
  · rw [getLsbD_maskOf _ hl, List.any_eq_true]
    constructor
    · rintro ⟨⟨k, p⟩, hk, hkl⟩
      obtain rfl : k = l := beq_iff_eq.mp hkl
      exact ⟨p, ((mem k p).mp hk).2⟩
    · rintro ⟨p, hp⟩
      exact ⟨(l, p), (mem l p).mpr ⟨hl, hp⟩, beq_self_eq_true l⟩

end
end

/-! ### The shared path of branches -/

theorem noteWrites_nil (th : Thr) : th.noteWrites [] = th := by
  simp [Thr.noteWrites]

/-- A blocking instruction without results only clears its flag in the next cycle (R59). -/
theorem finishNow_nil (n : Ins) (x : BitVec 32) (s u : State) : finishNow (sight n x s) [] u = flagNext n u := by
  simp only [finishNow, flagNext, List.foldl_nil, positions, List.filterMap_nil, noteWrites_nil]
  congr 1
  funext th
  exact Laws.sends_eq ..

theorem length_setPc (th : Thr) (m : Mask) (f : Nat → BitVec 48) : (th.setPc m f).pcv.length = th.pcv.length := by simp [Thr.setPc]

theorem getD_pcv_setPc (th : Thr) (m : Mask) (f : Nat → BitVec 48) {l : Nat} (hl : l < th.pcv.length) :
    (th.setPc m f).pcv.getD l exitedPc = if m.getLsbD l then f l else th.pcv.getD l exitedPc := by simp [Thr.setPc, hl]

theorem branchPcs_eq (g : Go) (th : Thr) (m : Mask) (t : Nat → BitVec 48) : branchPcs g th m t = (List.range th.pcv.length).map fun l =>
    if m.getLsbD l then t l
    else if g.pres.getLsbD l then th.pcv.getD l exitedPc + BitVec.ofNat 48 (8 * g.n.len) else th.pcv.getD l exitedPc := by
  rw [branchPcs, Thr.advance, Thr.setPc, length_setPc]
  refine List.map_congr_left fun l hl => ?_
  rw [getD_pcv_setPc _ _ _ (List.mem_range.mp hl), BitVec.getLsbD_and, BitVec.getLsbD_not]
  cases moves : m.getLsbD l
  · have inside (h : g.pres.getLsbD l = true) : l < 32 := BitVec.lt_of_getLsbD h
    cases here : g.pres.getLsbD l
    · rfl
    · simp [inside here]
  · simp

theorem movedPcs_eq (n : Ins) (s : State) (m : Mask) (t : Nat → BitVec 48) :
    branchPcs (sight n 0 s) ((noted n 0 s).thr s.cur) m t = movedPcs n s m t := branchPcs_eq _ _ _ _

/-- What `Branches` says of an instruction whose effect is to take the lanes `m` to their targets, with the results `ws`. -/
theorem branches_issue {n : Ins} {s : State} {body : Body} {m : Mask} {target : Nat → Int} {ws : List RegW} {e : State → State}
    (ht : n.row.opc ≠ 0x6A) (hb : Clear n {} s → body (sight n 0 s) (noted n 0 s) = branchTo (sight n 0 s) m target ws (noted n 0 s))
    (hf : finishNow (sight n 0 s) ws (noted n 0 s) = e (noted n 0 s)) (he : OwnEffect (noted n 0 s) (e (noted n 0 s))) :
    Branches n s (.next (issue n {} body s)) m target e := by
  intro h
  have cur := Laws.cur_noted n 0 s
  rw [Laws.issue_clear h, show body (sight n _ s) (noted n _ s) = _ from hb h]
  refine ⟨fun all => ?_, fun legal away sound => ?_, fun legal failed => ?_, fun ill => ?_⟩
  · rw [branchTo_moves cur (fun l hl => (all l hl).1) (fun l hl => (all l hl).2), hf, movedPcs_eq]
    exact congrArg Host.Outcome.next (finish_jumps h ht he _)
  · rw [branchTo_waits cur legal away sound]
    rfl
  · obtain ⟨lm, tv, stops, lanes⟩ := branchTo_storageErr cur legal failed
    exact ⟨lm, tv, by rw [stops], lanes⟩
  · obtain ⟨lm, tv, stops, lanes⟩ := branchTo_illegal cur ill
    exact ⟨lm, tv, by rw [stops], lanes⟩

end Sys2Proof.Proofs
end

section
/-! PROOFS. Branches, call and ret by their entries (R105 to R108). -/
namespace Sys2Proof.Proofs

open Sys2Proof Sys2Proof.Machine Sys2Proof.Safety Sys2Proof.Claims

theorem tgt_payJ (j : PayJ) (r : Row) (c : Ctl) : Ins.tgt (j.ins r c) = j.tgt.toInt :=
  congrArg BitVec.toInt BitVec.extractLsb'_append_eq_right

theorem target_payJ (j : PayJ) (r : Row) (c : Ctl) (x : BitVec 32) (s : State) :
    (sight (j.ins r c) x s).target = ((sight (j.ins r c) x s).addr.toNat : Int) + 8 * j.tgt.toInt := by
  rw [Go.target, show (sight (j.ins r c) x s).n = j.ins r c from rfl, tgt_payJ]

theorem ownEffect_flagNext (n : Ins) (u : State) : OwnEffect u (flagNext n u) := ownEffect_mapThr u _ fun _ => rfl

/-- A branch without results. -/
theorem branches_plain {r : Row} {c : Ctl} {bits : BitVec 32} {w : Option (BitVec 64)} {s : State} {body : Body} {m : Mask}
    {target : Nat → Int} (ht : r.opc ≠ 0x6A)
    (hb : Clear ⟨c, r, bits, w⟩ {} s → body (sight ⟨c, r, bits, w⟩ 0 s) (noted ⟨c, r, bits, w⟩ 0 s) =
      branchTo (sight ⟨c, r, bits, w⟩ 0 s) m target [] (noted ⟨c, r, bits, w⟩ 0 s)) :
    Branches ⟨c, r, bits, w⟩ s (.next (issue ⟨c, r, bits, w⟩ {} body s)) m target (flagNext ⟨c, r, bits, w⟩) :=
  branches_issue ht hb (finishNow_nil _ 0 s _) (ownEffect_flagNext _ _)

/-- An instruction that no predicate masks acts in every present lane (R44). -/
theorem full_eq_pres {n : Ins} {x : Extra} {s : State} (h : Clear n x s) (hp : n.row.noPred = true) :
    (sight n x.warn s).full = (sight n x.warn s).pres := by
  have hra := ra_of_clear h
  simp only [sight, readOperands, hra, hp, Option.isSome_none, Bool.false_and, Bool.false_eq_true, if_false, true_or, if_true]
  exact BitVec.and_allOnes

/-- The active lanes of an instruction that issues without a cause. -/
theorem act_of_clear {n : Ins} {x : Extra} {s : State} (h : Clear n x s) : (sight n x.warn s).act = (sight n x.warn s).full :=
  Laws.act_full h.sound

/-! ### call (R107) -/

theorem scalar_land (th : Thr) (seq : Nat) (w : RegW) : (th.land seq w).scalar = th.scalar := by
  unfold Thr.land
  split_ifs
  · rfl
  · exact writeW_keeps Thr.scalar (fun _ _ => rfl) (fun _ _ => rfl) (fun _ _ => rfl) (fun _ _ => rfl) th w

theorem call_branches (c : Ctl) (j : PayJ) (s : State) :
    let n := j.ins Rows.rowCall c
    let g := sight n 0 s
    let link : Res := { vals := lanewise g fun _ => (g.addr + 8).setWidth 64, tag := .U }
    Branches n s (exec (.call c j) s) g.act (fun _ => (g.addr.toNat : Int) + 8 * j.tgt.toInt) fun u => u.mapThr s.cur fun th =>
      let ws := regWrites n (u.thr s.cur) g.act g.alive link 0
      sends n s.clk 1 [] ((ws.foldl (fun t w => t.land th.seq w) th).noteWrites (positions ws)) := by
  intro n g link
  refine branches_issue (ws := regWrites n ((noted n 0 s).thr s.cur) g.act g.alive link 0) (show Rows.rowCall.opc ≠ 0x6A by decide)
    (fun h => ?_) ?_
    (ownEffect_mapThr _ _ fun th => foldl_keeps Thr.scalar _ (fun t w => scalar_land t _ w) _ th)
  · dsimp only [callBody]
    rw [target_payJ, Laws.cur_noted]
    rfl
  · rw [finishNow, Laws.cur_noted, Laws.clk_noted]
    congr 1
    funext th
    exact Laws.sends_eq ..

/-- The uniform operand of an instruction that no predicate masks is that of the lowest present lane (R33). -/
theorem uni_of_noPred {n : Ins} {x : Extra} {s : State} (h : Clear n x s) (hp : n.row.noPred = true) (i : Nat) :
    (sight n x.warn s).uni i = (sight n x.warn s).val i (lowestLane (sight n x.warn s).pres) := by
  rw [Go.uni, full_eq_pres h hp]
  rfl

/-- Settles O17: what a branch does with its lanes is `branches_issue`; each entry names its lanes and targets. -/
theorem branchesMoveTheLanesOfTheirEntries : Obligations.BranchesMoveTheLanesOfTheirEntries := by
  unfold Obligations.BranchesMoveTheLanesOfTheirEntries
  intro c j p s jump
  refine ⟨branches_plain (by decide) fun _ => ?_, branches_plain (by decide) fun h => ?_, branches_plain (by decide) fun _ => ?_,
    branches_plain (by decide) fun _ => rfl, branches_plain (by decide) fun _ => rfl, call_branches c j s⟩
  · exact congrArg (fun t => branchTo _ _ (fun _ => t) [] _) (target_payJ j _ c 0 s)
  · exact congrArg₂ (fun v t => branchTo _ (if v = 0 then 0 else _) (fun _ => t) [] _) (uni_of_noPred h rfl 0) (target_payJ j _ c 0 s)
  · exact congrArg (fun t => branchTo _ _ (fun _ => t) [] _) (target_payJ j _ c 0 s)

end Sys2Proof.Proofs
end

section
/-! PROOFS. exit, halt and yield (R109 to R111). -/
namespace Sys2Proof.Proofs

open Sys2Proof Sys2Proof.Machine Sys2Proof.Safety Sys2Proof.Claims

/-! ### A program that closes leaves its thread's mode alone (R229, R231) -/

theorem ownEffect_refl (u : State) : OwnEffect u u := ⟨rfl, rfl, rfl⟩

theorem ownEffect_foldl {α : Type} (f : State → α → State) (h : ∀ u a, OwnEffect u (f u a)) (l : List α) (u : State) :
    OwnEffect u (l.foldl f u) := by
  induction l generalizing u with
  | nil => exact ownEffect_refl u
  | cons a r ih => exact (h u a).trans (ih _)

theorem thr_mapTeam (u : State) (k : Nat) {f : Team → Team} (hf : ∀ t, (f t).groups = t.groups) (a : Agent) :
    (u.mapTeam k f).thr a = u.thr a := by
  cases a with
  | ctl q => rfl
  | grp t g =>
    by_cases e : t = k
    · subst e
      simp [State.thr, hf]
    · simp [State.thr, State.team_mapTeam_other _ e]

theorem ownEffect_mapTeam (u : State) (k : Nat) {f : Team → Team} (hf : ∀ t, (f t).groups = t.groups) : OwnEffect u (u.mapTeam k f) :=
  ⟨rfl, rfl, by rw [thr_mapTeam u k hf]⟩

theorem ownEffect_mapQuad (u : State) (q : Nat) {f : Quad → Quad} (hf : ∀ x, (f x).ctl = x.ctl) : OwnEffect u (u.mapQuad q f) :=
  ⟨rfl, rfl, by rw [thr_mapQuad u q hf]⟩

theorem ownEffect_closeProgram (u : State) (q : Nat) : OwnEffect u (u.closeProgram q) := by
  dsimp only [State.closeProgram]
  refine ((ownEffect_foldl _ (fun v p => ?team) _ u).trans (ownEffect_mapThr _ _ fun th => ?thread)).trans (ownEffect_mapQuad _ _ ?quad)
  case team => exact ownEffect_mapTeam v _ fun _ => rfl
  case thread =>
    refine foldl_keeps Thr.scalar _ (fun t o => ?_) _ th
    exact Thr.clearFlag_scalar t o.flag
  case quad => exact fun _ => rfl

theorem ownEffect_leaveProgram (u : State) (a : Agent) : OwnEffect u (u.leaveProgram a) := by
  cases a with
  | grp t g => exact ownEffect_refl u
  | ctl q => exact ownEffect_closeProgram u q

/-! ### exit, halt and yield -/

section
variable {c : Ctl} {p : PayA} {s : State}

/-- exit takes its lanes out of the program (R109). -/
theorem exec_exit (h : Clear (p.ins Rows.rowExit c) {} s) :
    let n := p.ins Rows.rowExit c
    let g := sight n 0 s
    ((noted n 0 s).thr s.cur).handler = false ∨ g.alive &&& ~~~g.act = 0 →
      exec (.exit c p) s = .next (jumps n 0 (fun u => (flagNext n u).leaveProgram s.cur) (movedPcs n s g.act fun _ => exitedPc) s) := by
  intro n g all
  let e (u : State) : State := (flagNext n u).leaveProgram s.cur
  have body : exitBody g (noted n 0 s) = .ok { s := e (noted n 0 s), pcs := some (movedPcs n s g.act fun _ => exitedPc) } := by
    have reaches : (((noted n 0 s).thr s.cur).handler && (g.alive &&& ~~~g.act) != 0) = false := by
      rcases all with normal | none
      · rw [normal, Bool.false_and]
      · rw [none]
        exact Bool.and_false _
    rw [exitBody, Laws.cur_noted, reaches, if_neg Bool.false_ne_true, finishNow_nil, movedPcs_eq]
  exact congrArg Host.Outcome.next (issue_jumps h (show Rows.rowExit.opc ≠ 0x6A by decide) (e := e)
    ((ownEffect_flagNext n _).trans (ownEffect_leaveProgram _ _)) body _)

/-- In handler mode exit must reach every lane (R109). -/
theorem exec_exit_illegal (h : Clear (p.ins Rows.rowExit c) {} s) :
    let n := p.ins Rows.rowExit c
    let g := sight n 0 s
    ((noted n 0 s).thr s.cur).handler = true → g.alive &&& ~~~g.act ≠ 0 →
      exec (.exit c p) s = .next (deliver n (noted n 0 s) [{ cause := .illegal, lmask := g.full, tval := n.word0 }]) := by
  intro n g handler left
  have body : exitBody g (noted n 0 s) = .error [g.illegal] := by
    rw [exitBody, Laws.cur_noted, if_pos]
    rw [handler, bne_iff_ne.mpr left]
    rfl
  refine congrArg Host.Outcome.next ?_
  rw [Laws.issue_clear h, show exitBody (sight _ _ s) (noted _ _ s) = _ from body]
  rfl

/-- halt ends the program of a control core for good (R110). -/
theorem exec_halt {q : Nat} (hq : s.cur = .ctl q) (h : Clear (p.ins Rows.rowHalt c) {} s) :
    let n := p.ins Rows.rowHalt c
    exec (.halt c p) s = .next (jumps n 0 (fun u => ((flagNext n u).closeProgram q).mapQuad q fun x => { x with halted := true })
      (movedPcs n s (sight n 0 s).act fun _ => exitedPc) s) := by
  intro n
  let e (u : State) : State := ((flagNext n u).closeProgram q).mapQuad q fun x => { x with halted := true }
  have body : haltBody (sight n 0 s) (noted n 0 s) =
      .ok { s := e (noted n 0 s), pcs := some (movedPcs n s (sight n 0 s).act fun _ => exitedPc) } := by
    rw [← movedPcs_eq]
    simp only [haltBody, Laws.cur_noted, hq, finishNow_nil]
    rfl
  exact congrArg Host.Outcome.next (issue_jumps h (show Rows.rowHalt.opc ≠ 0x6A by decide) (e := e)
    (((ownEffect_flagNext n _).trans (ownEffect_closeProgram _ q)).trans (ownEffect_mapQuad _ q fun _ => rfl)) body _)

/-- yield gives up the next cycle (R111). -/
theorem exec_yield (h : Clear (p.ins Rows.rowYield c) {} s) :
    let n := p.ins Rows.rowYield c
    exec (.yield c p) s = .next (passes n 0 (fun u => (flagNext n u).mapThr s.cur fun th => { th with yielded := some s.clk }) s) := by
  intro n
  let e (u : State) : State := (flagNext n u).mapThr s.cur fun th => { th with yielded := some s.clk }
  have body : yieldBody (sight n 0 s) (noted n 0 s) = .ok { s := e (noted n 0 s) } := by
    rw [yieldBody, finishNow_nil, Laws.cur_noted, Laws.clk_noted]
  exact congrArg Host.Outcome.next (issue_passes h (show Rows.rowYield.opc ≠ 0x6A by decide) (e := e)
    ((ownEffect_flagNext n _).trans (ownEffect_mapThr _ _ fun _ => rfl)) body _)

end

/-- Settles O18: one lemma for each of the instructions, two for exit. -/
theorem exitHaltAndYieldEndOrPause : Obligations.ExitHaltAndYieldEndOrPause := by
  unfold Obligations.ExitHaltAndYieldEndOrPause
  exact fun c p s => ⟨fun h => ⟨exec_exit h, exec_exit_illegal h⟩, fun q hq h => exec_halt hq h, exec_yield⟩

end Sys2Proof.Proofs
end

section
/-! PROOFS. Software traps (R112, R272) and the return from a trap (R113, R273, R274). -/
namespace Sys2Proof.Proofs

open Sys2Proof Sys2Proof.Machine Sys2Proof.Safety Sys2Proof.Claims

/-! ### trap and brk -/

theorem merge_single (t : Trap) (h : t.also = 0) : Trap.merge [t] = some t := by
  obtain ⟨c, m, v, a⟩ := t
  subst h
  simp [Trap.merge, pickBy]

/-- SWTRAP and BRK enter the handler at their trap entry, to return after the instruction (R272). -/
theorem deliver_software {n : Ins} {u : State} {t : Trap} (ht : t.cause = .swtrap ∨ t.cause = .brk) (ha : t.also = 0)
    (hh : (u.thr u.cur).handler = false) (he : u.trapEntry u.cur ≠ 0) (fl : BitVec 5) :
    deliver n u [t] fl = (((u.meetMatrix u.cur).mapThr u.cur fun th => th.enterHandler
      ((u.thr u.cur).issueAddr + BitVec.ofNat 48 (8 * n.len)) (BitVec.ofNat 48 (u.trapEntry u.cur)) t).mapThr u.cur fun th =>
        { th with seq := th.seq + 1, stErr := [] }) := by
  have notFloat : t.cause ≠ .fptrap := by
    rcases ht with h | h <;> rw [h] <;> decide
  have taken : u.takeTrap u.cur n.len (n.readsLatch (u.thr u.cur).scalar) t = (u.meetMatrix u.cur).mapThr u.cur fun th => th.enterHandler
      ((u.thr u.cur).issueAddr + BitVec.ofNat 48 (8 * n.len)) (BitVec.ofNat 48 (u.trapEntry u.cur)) t := by
    simp only [State.takeTrap, State.enterTrap, hh, Bool.false_eq_true, if_false, ht, if_true, he]
  unfold deliver
  rw [merge_single t ha]
  simp only [notFloat, if_false, taken, hh, Bool.false_eq_true]

/-- The PCs of the lanes outside a mask stay. -/
theorem getD_pcv_setPc_outside (th : Thr) {m : Mask} (f : Nat → BitVec 48) {l : Nat} (hm : m.getLsbD l = false) :
    (th.setPc m f).pcv.getD l exitedPc = th.pcv.getD l exitedPc := by
  rcases Nat.lt_or_ge l th.pcv.length with hl | hl
  · rw [getD_pcv_setPc _ _ _ hl, hm, if_neg Bool.false_ne_true]
  · rw [List.getD_eq_default _ _ hl, List.getD_eq_default _ _ (by rwa [length_setPc])]

/-- What is left of a thread that a software trap has taken to its handler (R272). -/
def EntersHandler (n : Ins) (s : State) (out : Out) (code : BitVec 32) (tval : BitVec 64) : Prop :=
  let u := noted n 0 s
  let g := sight n 0 s
  let th := u.thr s.cur
  ∃ t, out = .next t ∧ SameBytes s t ∧
    let h := t.thr s.cur
    h.handler = true ∧ h.cause = code ∧ h.tval = tval ∧ h.lmask = g.act ∧ h.also = 0 ∧ h.pendBits = 0 ∧
    h.epc = g.addr + BitVec.ofNat 48 (8 * n.len) ∧ h.recPcv = th.pcv ∧
    h.latches = List.replicate 4 Latch.invalid ∧ h.fsr = th.fsr ∧ h.busy = th.busy ∧ h.ops = th.ops ∧ h.pend = th.pend ∧
    h.lastIssue = none ∧ h.regs = th.regs ∧ h.preds = th.preds ∧
    (∀ l < 32, l < th.pcv.length → th.alive.getLsbD l = true → h.pcv.getD l exitedPc = BitVec.ofNat 48 (u.trapEntry s.cur)) ∧
    (∀ l < 32, th.alive.getLsbD l = false → h.pcv.getD l exitedPc = th.pcv.getD l exitedPc)

/-- An instruction whose effect is the cause SWTRAP or BRK in its active lanes. -/
theorem entersHandler_issue {n : Ins} {s : State} {body : Body} {x : Cause} {tval : BitVec 64} (hx : x = .swtrap ∨ x = .brk)
    (h : Clear n {} s)
    (hh : ((noted n 0 s).thr s.cur).handler = false) (he : (noted n 0 s).trapEntry s.cur ≠ 0)
    (hb : body (sight n 0 s) (noted n 0 s) = .error [(sight n 0 s).all x tval]) :
    EntersHandler n s (.next (issue n {} body s)) (x.code.setWidth 32) tval := by
  have cur := Laws.cur_noted n 0 s
  let u := noted n 0 s
  let t : Trap := (sight n 0 s).all x tval
  let entered (th : Thr) : Thr := th.enterHandler ((u.thr s.cur).issueAddr + BitVec.ofNat 48 (8 * n.len)) (BitVec.ofNat 48 (u.trapEntry s.cur)) t
  let v := ((u.meetMatrix s.cur).mapThr s.cur entered).mapThr s.cur fun th => { th with seq := th.seq + 1, stErr := [] }
  have run : issue n {} body s = v := by
    rw [Laws.issue_clear h, show body (sight n _ s) (noted n _ s) = _ from hb]
    have := deliver_software (n := n) (u := u) (t := t) hx rfl (by rwa [cur]) (by rwa [cur]) 0
    rw [cur] at this
    exact this
  have here : v.thr s.cur = { entered (u.thr s.cur) with seq := (u.thr s.cur).seq + 1, stErr := [] } := by
    rw [State.thr_mapThr_same, State.thr_mapThr_same, thr_meetMatrix]
    rfl
  have bytes : SameBytes s v := sameBytes_trans (pathOnly_noted n 0 s).bytes (sameBytes_trans (sameBytes_meetMatrix _ _)
    (sameBytes_trans (sameBytes_mapThr _ _ _) (sameBytes_mapThr _ _ _)))
  refine ⟨v, congrArg Host.Outcome.next run, bytes, ?_⟩
  rw [here]
  refine ⟨rfl, rfl, rfl, rfl, rfl, rfl, rfl, rfl, rfl, rfl, rfl, rfl, rfl, rfl, rfl, rfl, fun l _ hl alive => ?_, fun l _ exited => ?_⟩
  · exact (getD_pcv_setPc (u.thr s.cur).dropLatches _ _ hl).trans (if_pos alive)
  · exact getD_pcv_setPc_outside (u.thr s.cur).dropLatches _ exited

theorem low_half_payA (p : PayA) : p.bits.extractLsb' 0 16 = p.s2 ++ p.mod := by
  refine BitVec.eq_of_getLsbD_eq fun i hi => ?_
  rw [PayA.bits, BitVec.getLsbD_extractLsb', decide_eq_true hi, Bool.true_and, Nat.zero_add, BitVec.getLsbD_append, BitVec.getLsbD_append,
    BitVec.getLsbD_append, if_pos (show i - 8 < 8 by omega), BitVec.getLsbD_append]

/-- A uniform operand is read in the lowest active lane (R33). -/
theorem uni_of_clear {n : Ins} {x : Extra} {s : State} (h : Clear n x s) (i : Nat) :
    (sight n x.warn s).uni i = (sight n x.warn s).val i (lowestLane (sight n x.warn s).act) := by
  rw [act_of_clear h]
  rfl

/-- Settles O19: the body of each is its cause, and what the delivery of that leaves is `entersHandler_issue`. -/
theorem softwareTrapsEnterTheHandler : Obligations.SoftwareTrapsEnterTheHandler := by
  unfold Obligations.SoftwareTrapsEnterTheHandler
  intro c p s enters
  refine ⟨fun h hh he => entersHandler_issue (x := .swtrap) (.inl rfl) h hh he ?_,
    fun h hh he => entersHandler_issue (x := .brk) (.inr rfl) h hh he ?_⟩
  · exact congrArg (fun v => Except.error [Go.all _ .swtrap v]) (uni_of_clear h 0)
  · exact congrArg (fun v : BitVec 16 => Except.error [Go.all _ .brk (v.setWidth 64)]) (low_half_payA p)

end Sys2Proof.Proofs
end

section
/-! PROOFS. The return from a trap (R113, R273, R274). -/
namespace Sys2Proof.Proofs

open Sys2Proof Sys2Proof.Machine Sys2Proof.Safety Sys2Proof.Claims

/-! ### The causes held pending -/

section
variable {th : Thr}

theorem lowestPending_none (h : ∀ r < 24, th.pendBits.getLsbD r = false) : th.lowestPending = none := by
  rw [Thr.lowestPending, List.find?_eq_none]
  exact fun r hr => by rw [h r (List.mem_range.mp hr)]; exact Bool.false_ne_true

theorem lowestPending_some {r : Nat} (hr : r < 24) (held : th.pendBits.getLsbD r = true)
    (low : ∀ q < r, th.pendBits.getLsbD q = false) :
    th.lowestPending = some r := by
  rw [Thr.lowestPending, List.find?_range_eq_some]
  exact ⟨held, List.mem_range.mpr hr, fun q hq => by rw [low q hq]; rfl⟩

/-! ### What a return leaves -/

variable (entry : BitVec 48)

/-- Whatever cause is held, a return keeps what the trap has recorded. -/
theorem returnTrap_keeps : (th.returnTrap entry).epc = th.epc ∧ (th.returnTrap entry).lmask = th.lmask ∧
    (th.returnTrap entry).recPcv = th.recPcv := by
  unfold Thr.returnTrap
  split <;> exact ⟨rfl, rfl, rfl⟩

theorem returnTrap_returns (h : th.lowestPending = none) : th.returnTrap entry =
    { (th.dropLatches.setPc th.alive fun l => if th.lmask.getLsbD l then th.epc else th.recPcv.getD l exitedPc) with
      handler := false, chain := none, lastIssue := none, skipCmp := if th.cause = 0x41 then some th.epc else th.skipCmp } := by
  rw [Thr.returnTrap, h]

theorem returnTrap_delivers {r : Nat} (h : th.lowestPending = some r) : th.returnTrap entry =
    { (th.dropLatches.setPc th.alive fun _ => entry) with
      cause := ((Cause.ofRank r).code.setWidth 32) ||| 0x100, tval := Sparse.get 0 r th.pendTval, also := 0,
      pendBits := th.pendBits &&& ~~~(1#24 <<< r), pendTval := Sparse.del r th.pendTval, chain := none, lastIssue := none } := by
  rw [Thr.returnTrap, h]

end

/-! ### tret -/

/-- What a thread that has issued tret holds of the one that the return gives. -/
structure Returned (r h : Thr) : Prop where
  epc : h.epc = r.epc
  lmask : h.lmask = r.lmask
  recPcv : h.recPcv = r.recPcv
  handler : h.handler = r.handler
  cause : h.cause = r.cause
  also : h.also = r.also
  tval : h.tval = r.tval
  pendBits : h.pendBits = r.pendBits
  pcv : h.pcv = r.pcv
  latches : h.latches = List.replicate 4 Latch.invalid
  lastIssue : h.lastIssue = none

/-- Tracking what results depend on changes nothing but that record. -/
theorem track_eq (th : Thr) (n : Ins) (g : Go) (before : Thr) :
    ∃ d l c, th.track n g before = { th with deps := d, latchDeps := l, ctlDeps := c } := by
  unfold Thr.track
  split
  · exact ⟨th.deps, th.latchDeps, th.ctlDeps, rfl⟩
  · exact ⟨_, _, _, rfl⟩

/-- The step that ends tret gives the thread that the return has given, whatever flag the return gives in the next cycle. -/
theorem finish_returned {c : Ctl} {p : PayA} {g : Go} {before r : Thr} {u : State} {a : Agent} (ha : u.cur = a) :
    Returned r ((finish (p.ins Rows.rowTret c) g before
      { s := flagNext (p.ins Rows.rowTret c) (u.setThr a r), pcs := some r.pcv }).thr a) := by
  let n := p.ins Rows.rowTret c
  let v := flagNext n (u.setThr a r)
  have cur : (u.setThr a r).cur = a := (State.setThr_cur ..).trans ha
  let clk := (u.setThr a r).clk
  have flag : v = (u.setThr a r).mapThr a (sends n clk 1 []) := congrArg (State.mapThr _ · _) cur
  have here : v.cur = a := by rw [flag, State.mapThr_cur, cur]
  have held : v.thr a = sends n clk 1 [] r := by rw [flag, State.thr_mapThr_same, State.thr_setThr_same]
  show Returned r ((finish n g before { s := v, pcs := some r.pcv }).thr a)
  have queue : (n.readsUq g.scal && before.ra.isNone) = false := rfl
  have latch : n.readsLatch g.scal = false := rfl
  have opc : n.row.opc = 0x6A := rfl
  simp only [finish, here, queue, latch, opc, Bool.false_eq_true, if_false, if_true, State.thr_mapThr_same, held]
  generalize hb : Thr.pushLatch _ _ = b
  obtain ⟨d, l, k, track⟩ := track_eq b n g before
  rw [track, ← hb]
  constructor <;> rfl

theorem exec_tret {c : Ctl} {p : PayA} {s : State} :
    let n := p.ins Rows.rowTret c
    let u := noted n 0 s
    Clear n { bad := !(s.thr s.cur).handler || n.c.pred != 0 || n.c.pn == 1 } s →
      ∃ t, exec (.tret c p) s = .next t ∧ SameBytes s t ∧
        Returned ((u.thr s.cur).returnTrap (BitVec.ofNat 48 (u.trapEntry s.cur))) (t.thr s.cur) := by
  intro n u h
  have cur := Laws.cur_noted n 0 s
  let r := (u.thr s.cur).returnTrap (BitVec.ofNat 48 (u.trapEntry s.cur))
  let f : Fin := { s := flagNext n (u.setThr s.cur r), pcs := some r.pcv }
  have body : tretBody (sight n 0 s) u = .ok f := by
    dsimp only [tretBody]
    rw [finishNow_nil, cur]
  have run : exec (.tret c p) s = .next (finish n (sight n 0 s) (u.thr s.cur) f) := by
    refine congrArg Host.Outcome.next ?_
    rw [Laws.issue_clear h, show tretBody (sight _ _ s) (noted _ _ s) = _ from body]
  have bytes : SameBytes s f.s := sameBytes_trans (pathOnly_noted n 0 s).bytes (sameBytes_trans (sameBytes_mapThr u s.cur fun _ => r)
    (sameBytes_mapThr _ _ _))
  refine ⟨_, run, sameBytes_trans bytes (pathOnly_finish n (sight n 0 s) (u.thr s.cur) f).bytes, finish_returned cur⟩

/-- Settles O20: the case of no held cause and that of the lowest rank held, from the equation of `Thr.returnTrap` for each. -/
theorem tretDeliversTheNextCauseOrReturns : Obligations.TretDeliversTheNextCauseOrReturns := by
  unfold Obligations.TretDeliversTheNextCauseOrReturns
  intro c p s n u th h
  obtain ⟨t, run, bytes, left⟩ := exec_tret h
  obtain ⟨epc, lmask, recPcv⟩ := returnTrap_keeps (th := th) (BitVec.ofNat 48 (u.trapEntry s.cur))
  refine ⟨t, run, bytes, left.epc.trans epc, left.lmask.trans lmask, left.recPcv.trans recPcv, left.latches, left.lastIssue,
    fun none => ?_, fun r hr held low => ?_⟩
  · have eq := returnTrap_returns (BitVec.ofNat 48 (u.trapEntry s.cur)) (lowestPending_none none)
    rw [left.handler, left.cause, left.pcv, eq]
    exact ⟨rfl, rfl, fun l _ hl alive => (getD_pcv_setPc th.dropLatches _ _ hl).trans (if_pos alive)⟩
  · have eq := returnTrap_delivers (BitVec.ofNat 48 (u.trapEntry s.cur)) (lowestPending_some hr held low)
    rw [left.handler, left.cause, left.also, left.tval, left.pendBits, left.pcv, eq]
    exact ⟨rfl, rfl, rfl, rfl, rfl, fun l _ hl alive => (getD_pcv_setPc th.dropLatches _ _ hl).trans (if_pos alive)⟩

end Sys2Proof.Proofs
end

section
/-! PROOFS. Halves of a register (R130, R133), and float arithmetic lane by lane (R119, R120, R123, R125, R130, R133). -/
namespace Sys2Proof.Proofs

open Sys2Proof Sys2Proof.Machine Sys2Proof.Safety Sys2Proof.Claims

/-! ### Halves -/

theorem and_lowMask (k : Nat) (a : BitVec 64) : a &&& BitVec.ofNat 64 (2 ^ k - 1) = (a.setWidth k).setWidth 64 := by
  refine BitVec.eq_of_getLsbD_eq fun i hi => ?_
  simp only [BitVec.getLsbD_and, BitVec.getLsbD_ofNat, Nat.testBit_two_pow_sub_one, BitVec.getLsbD_setWidth]
  cases decide (i < k) <;> simp [hi]

theorem half_eq (x : BitVec 64) (i : Nat) : half x i = (x.extractLsb' (16 * i) 16).setWidth 64 := by
  refine (and_lowMask 16 _).trans (BitVec.eq_of_getLsbD_eq fun j hj => ?_)
  simp only [BitVec.getLsbD_setWidth, BitVec.getLsbD_ushiftRight, BitVec.getLsbD_extractLsb']

/-- Two halves side by side. -/
theorem halves_eq (lo hi : BitVec 64) : halves lo hi = ((hi.setWidth 16 ++ lo.setWidth 16 : BitVec 32)).setWidth 64 := by
  show (lo &&& BitVec.ofNat 64 (2 ^ 16 - 1)) ||| ((hi &&& BitVec.ofNat 64 (2 ^ 16 - 1)) <<< 16) = _
  rw [and_lowMask, and_lowMask]
  refine BitVec.eq_of_getLsbD_eq fun i hi => ?_
  simp only [BitVec.getLsbD_or, BitVec.getLsbD_shiftLeft, BitVec.getLsbD_setWidth, BitVec.getLsbD_append]
  by_cases low : i < 16
  · simp [low, hi]
  · by_cases high : i - 16 < 16
    · simp [low, hi, high, show i - 16 < 64 by omega]
    · simp [low, high]

/-- The packed result of two halves, with the flags of both (R133). -/
theorem halves_onHalves (f : Nat → BitVec 64 × BitVec 5) : (halves (f 0).1 (f 1).1, (f 0).2 ||| (f 1).2) = onHalves f :=
  congrArg (·, _) (halves_eq _ _)

/-- A lane-wise instruction that acts on each half of its operands. -/
theorem fgives_halves {r : Row} (c : Ctl) (bits : BitVec 32) (w : Option (BitVec 64)) {s : State}
    {f v : Go → Nat → Nat → BitVec 64 × BitVec 5} (ht : r.opc ≠ 0x6A) (hv : ∀ g l h, f g l h = v g l h) :
    FGives ⟨c, r, bits, w⟩ {} s (.next (issueFixed ⟨c, r, bits, w⟩ {} (halvesRes f) s)) fun g l => onHalves (v g l) :=
  fgives_ins c bits w ht fun l => (halves_onHalves _).trans (congrArg onHalves (funext (hv _ l)))

/-! ### Arithmetic -/

/-- Settles O6: each instruction is lane-wise (`fgives_ins`) or acts on each half (`fgives_halves`). -/
theorem floatArithmeticGivesRoundedResultsOrFptrap : Obligations.FloatArithmeticGivesRoundedResultsOrFptrap := by
  unfold Obligations.FloatArithmeticGivesRoundedResultsOrFptrap
  intro c p q s
  refine ⟨fgives_ins _ _ _ (by decide) fun _ => rfl, fgives_ins _ _ _ (by decide) fun _ => rfl, fgives_ins _ _ _ (by decide) fun _ => rfl,
    fgives_ins _ _ _ (by decide) fun _ => rfl, fgives_ins _ _ _ (by decide) fun _ => ?_, fgives_ins _ _ _ (by decide) fun _ => rfl,
    fgives_ins _ _ _ (by decide) fun _ => rfl, fgives_halves _ _ _ (by decide) fun g l h => ?_,
    fgives_halves _ _ _ (by decide) fun g l h => ?_, fgives_halves _ _ _ (by decide) fun g l h => ?_⟩
  · exact congrArg (Fp.roundInt _ _ · _) (getLsbD_zero_bits p)
  all_goals simp only [half_eq, halfOf, Go.fmt]

end Sys2Proof.Proofs
end

section
/-! PROOFS. fdiv and fsqrt (R121, R135): in flight while no exception is enabled, else within the instruction. -/
namespace Sys2Proof.Proofs

open Sys2Proof Sys2Proof.Machine Sys2Proof.Safety Sys2Proof.Claims

/-! ### A float result committed within the instruction (R60, R73, R74) -/

/-- The float flags and the results on their way of a result that raises no enabled flag. -/
def sendsRaising (n : Ins) (x : BitVec 32) (s : State) (r : Res) (th : Thr) : Thr :=
  raises (unionFlags (sight n x s).act r.flags) (sends n s.clk (latency n.row.cls (sight n x s).scal)
    (regWrites n ((noted n x s).thr s.cur) (r.mask.getD (sight n x s).act) (sight n x s).alive r 0) th)

theorem commitFixed_ok {n : Ins} {x : Extra} {s : State} (h : Clear n x s) {r : Res} (hr : r.traps = [])
    (hf : fpTrap ((noted n x.warn s).thr s.cur).fsr (sight n x.warn s).act r.flags = []) :
    commitFixed (sight n x.warn s) r (noted n x.warn s) = .ok
      { s := (noted n x.warn s).mapThr s.cur (sendsRaising n x.warn s r)
        latch := resLatch (sight n x.warn s) (wideResult n (sight n x.warn s)) r 0 } := by
  have all : (sight n x.warn s).act &&& ~~~(0 : Mask) = (sight n x.warn s).act := BitVec.and_allOnes
  simp only [commitFixed, Laws.cur_noted, Laws.clk_noted, ra_of_clear h, hr, all, hf, Laws.sends_eq]
  rfl

theorem commitFixed_error {n : Ins} {x : Extra} {s : State} (h : Clear n x s) {r : Res} {t : Trap} (hr : r.traps = [])
    (hf : fpTrap ((noted n x.warn s).thr s.cur).fsr (sight n x.warn s).act r.flags = [t]) :
    commitFixed (sight n x.warn s) r (noted n x.warn s) = .error [t] := by
  have all : (sight n x.warn s).act &&& ~~~(0 : Mask) = (sight n x.warn s).act := BitVec.and_allOnes
  simp only [commitFixed, Laws.cur_noted, ra_of_clear h, hr, all, hf]
  rfl

/-! ### Both ways of fdiv and fsqrt -/

section
variable {n : Ins} {s : State} (ht : n.row.opc ≠ 0x6A) (v : Go → Nat → BitVec 64 × BitVec 5)
include ht

theorem slowFloat_inFlight (h : Clear n {} s) (he : enabled n 0 s = 0) (fl : Go → BitVec 5) :
    let g := sight n 0 s
    issue n {} (slowFloat (floatRes v)) s fl = varNext n 0 false 8 false (.result
      (regWrites n ((noted n 0 s).thr s.cur) g.act g.alive { vals := lanewise g fun l => (v g l).1, tag := anyTag g, flags := laneFlags g (v g) } 0)
      (unionFlags g.act (laneFlags g (v g)))) s := by
  intro g
  let r : Res := { vals := lanewise g fun l => (v g l).1, tag := anyTag g, flags := laneFlags g (v g) }
  let k := VKind.result (regWrites n ((noted n 0 s).thr s.cur) g.act g.alive r 0) (unionFlags g.act r.flags)
  refine issue_passes h ht (e := fun u => u.mapThr s.cur (opens n false 8 false k none [])) (ownEffect_mapThr _ _ fun _ => rfl) ?_ fl
  rw [enabled, ← enables] at he
  simp only [slowFloat, Laws.cur_noted, he, if_true, floatRes_eq, Laws.opens_eq, State.mapThr]
  rfl

theorem slowFloat_holds (he : enabled n 0 s ≠ 0) :
    FGives n {} s (.next (issue n {} (slowFloat (floatRes v)) s fun g => unionFlags g.act (floatRes v g).flags)) v
      (next := fun r => sentNext n 0 r Latch.invalid s) := by
  intro h
  let g := sight n 0 s
  let r : Res := { vals := lanewise g fun l => (v g l).1, tag := anyTag g, flags := laneFlags g (v g) }
  have result : floatRes v g = r := floatRes_eq v g
  have body : slowFloat (floatRes v) g (noted n 0 s) = (commitFixed g r (noted n 0 s)).map fun f => { f with latch := Latch.invalid } := by
    rw [enabled, ← enables] at he
    rw [slowFloat, Laws.cur_noted, if_neg he, result]
  have flags := fpTrap_laneFlags ((noted n 0 s).thr s.cur).fsr g (v g)
  refine ⟨fun quiet => congrArg Host.Outcome.next ?_, fun raised => congrArg Host.Outcome.next ?_⟩
  · have sent := commitFixed_ok h (r := r) rfl (flags.trans (if_pos (trapLanes_eq_zero.mpr quiet)))
    exact issue_passes h ht (e := fun u => u.mapThr s.cur (sendsRaising n 0 s r)) (ownEffect_mapThr _ _ fun _ => rfl)
      (body.trans (congrArg (Except.map _) sent)) _
  · have some : trapLanes g (enabled n 0 s) (v g) ≠ 0 := by
      rw [Ne, trapLanes_eq_zero]
      obtain ⟨l, hl, ha, hn⟩ := raised
      exact fun none => hn (none l hl ha)
    have trapped := commitFixed_error h (r := r) rfl (flags.trans (if_neg some))
    rw [Laws.issue_clear h, body.trans (congrArg (Except.map _) trapped)]
    show deliver n (noted n 0 s) _ (unionFlags g.act (floatRes v g).flags) = _
    rw [result]
    rfl

end

/-- Settles O9: `slowFloat_inFlight` while no exception is enabled, `slowFloat_holds` while one is. -/
theorem floatDivisionRunsInFlightOrHoldsItsGroup : Obligations.FloatDivisionRunsInFlightOrHoldsItsGroup := by
  unfold Obligations.FloatDivisionRunsInFlightOrHoldsItsGroup
  intro c p s
  exact ⟨⟨fun h he => congrArg Host.Outcome.next (slowFloat_inFlight (show Rows.rowFdiv.opc ≠ 0x6A by decide) _ h he _),
      slowFloat_holds (show Rows.rowFdiv.opc ≠ 0x6A by decide) _⟩,
    ⟨fun h he => congrArg Host.Outcome.next (slowFloat_inFlight (show Rows.rowFsqrt.opc ≠ 0x6A by decide) _ h he _),
      slowFloat_holds (show Rows.rowFsqrt.opc ≠ 0x6A by decide) _⟩⟩

end Sys2Proof.Proofs
end

section
/-! PROOFS. Float selection, sign, comparison, classification and exponents (R119, R122, R124, R126), byte sums and packing (R131, R132). -/
namespace Sys2Proof.Proofs

open Sys2Proof Sys2Proof.Machine Sys2Proof.Safety Sys2Proof.Claims

/-! ### Signs (R119) -/

theorem abs_ofTy (t : Nat) (x : BitVec 64) : Fp.abs (Fp.ofTy t) x =
    if t = 5 then x &&& 0x7FFFFFFFFFFFFFFF else if t = 6 ∨ t = 7 then x &&& 0x7FFF else if t = 8 ∨ t = 9 then x &&& 0x7F
    else x &&& 0x7FFFFFFF := by
  unfold Fp.ofTy
  split
  case h_6 h5 h6 h7 h8 h9 => rw [if_neg h5, if_neg (not_or.mpr ⟨h6, h7⟩), if_neg (not_or.mpr ⟨h8, h9⟩)]; rfl
  all_goals rfl

theorem neg_ofTy (t : Nat) (x : BitVec 64) : Fp.neg (Fp.ofTy t) x =
    if t = 5 then x ^^^ 0x8000000000000000 else if t = 6 ∨ t = 7 then (x ^^^ 0x8000) &&& 0xFFFF
    else if t = 8 ∨ t = 9 then (x ^^^ 0x80) &&& 0xFF else (x ^^^ 0x80000000) &&& 0xFFFFFFFF := by
  unfold Fp.ofTy
  split
  case h_1 => exact BitVec.and_allOnes
  case h_6 h5 h6 h7 h8 h9 => rw [if_neg h5, if_neg (not_or.mpr ⟨h6, h7⟩), if_neg (not_or.mpr ⟨h8, h9⟩)]; rfl
  all_goals rfl

/-! ### Comparison (R122, Table 7.2) -/

theorem sigNV_pair (a b : Fp.Val) : Fp.sigNV [a, b] = if a = .nan true ∨ b = .nan true then 1 else 0 := by
  have listed : [a, b].contains (.nan true) = true ↔ a = .nan true ∨ b = .nan true := by
    rw [List.contains_iff_mem, List.mem_pair, eq_comm, eq_comm (b := b)]
  rw [sigNV_eq]
  exact if_congr listed rfl rfl

/-- A signalling NaN is among the NaNs that make two values unordered. -/
theorem unordered_of_signalling {a b : Fp.Val} (h : a = .nan true ∨ b = .nan true) : (a.isNan || b.isNan) = true := by
  rcases h with rfl | rfl
  · rfl
  · exact Bool.or_true _

/-- What condition k of fcmp gives of two values: equality and the unordered conditions raise NV for a signalling NaN, the four orders
for any NaN. -/
def compareVals (k : Nat) (a b : Fp.Val) : Bool × BitVec 5 :=
  let un := a.isNan || b.isNan
  let o := Fp.cmpV a b
  (if k = 0 then !un && o == .eq else if k = 1 then un || o != .eq else if k = 2 then !un && o == .lt
    else if k = 3 then !un && o != .gt else if k = 4 then !un && o == .gt else if k = 5 then !un && o != .lt
    else if k = 6 then un else !un,
   if (2 ≤ k ∧ k ≤ 5 ∧ un = true) ∨ a = .nan true ∨ b = .nan true then 1 else 0)

theorem compare_eq (f : Fp.Fmt) (k : Nat) (x y : BitVec 64) : Fp.compare f k x y = compareVals k (Fp.decode f x) (Fp.decode f y) := by
  unfold Fp.compare compareVals
  generalize Fp.decode f x = a
  generalize Fp.decode f y = b
  have quiet (h : ¬(2 ≤ k ∧ k ≤ 5)) :
      Fp.sigNV [a, b] = if (2 ≤ k ∧ k ≤ 5 ∧ (a.isNan || b.isNan) = true) ∨ a = .nan true ∨ b = .nan true then 1 else 0 :=
    (sigNV_pair a b).trans (if_congr (or_iff_right fun c => h ⟨c.1, c.2.1⟩).symm rfl rfl)
  have any (h : 2 ≤ k ∧ k ≤ 5) :
      (if a.isNan || b.isNan then Fp.NV else 0) =
        if (2 ≤ k ∧ k ≤ 5 ∧ (a.isNan || b.isNan) = true) ∨ a = .nan true ∨ b = .nan true then 1 else 0 :=
    if_congr ⟨fun c => .inl ⟨h.1, h.2, c⟩, fun c => c.elim (·.2.2) unordered_of_signalling⟩ rfl rfl
  dsimp only
  split
  case h_8 h0 h1 h2 h3 h4 h5 h6 =>
    rw [if_neg h0, if_neg h1, if_neg h2, if_neg h3, if_neg h4, if_neg h5, if_neg h6]
    have order : k ≠ 2 ∧ k ≠ 3 ∧ k ≠ 4 ∧ k ≠ 5 := ⟨h2, h3, h4, h5⟩
    exact congrArg _ (quiet (by omega))
  case h_1 | h_2 | h_7 => exact congrArg _ (quiet (by omega))
  all_goals exact congrArg _ (any (by omega))

/-! ### Classes and exponents (R124, R126) -/

/-- The subnormal numbers are those below the least normal exponent. -/
theorem subnormal_iff {f : Fp.Fmt} (P : Proper f) {x : BitVec 64} {s : Bool} {m : Nat} {e : Int} (h : Fp.decode f x = .num s m e) (hm : m ≠ 0) :
    Fp.expOf m e < f.emin ↔ m < 2 ^ f.fb ∧ e = f.emin - f.fb := by
  have canon := canon_of_decode P h
  have low := canon.low
  by_cases sub : m < 2 ^ f.fb
  · have : Nat.log2 m < f.fb := (Nat.log2_lt hm).mpr sub
    have := canon.subn sub
    unfold Fp.expOf
    omega
  · rw [expOf_eq (not_lt.mp sub) canon.bits]
    omega

/-- The class of a value (Table 7.3). -/
def classOf (f : Fp.Fmt) : Fp.Val → BitVec 64
  | .nan sg => if sg then 0x100 else 0x200
  | .inf sg => if sg then 0x001 else 0x080
  | .num sg m e =>
    if m = 0 then (if sg then 0x008 else 0x010)
    else if m < 2 ^ f.fb ∧ e = f.emin - f.fb then (if sg then 0x004 else 0x020)
    else (if sg then 0x002 else 0x040)

theorem classify_eq {f : Fp.Fmt} (P : Proper f) (x : BitVec 64) : Fp.classify f x = classOf f (Fp.decode f x) := by
  unfold Fp.classify classOf
  cases h : Fp.decode f x with
  | nan sg => rfl
  | inf sg => rfl
  | num sg m e =>
    by_cases hm : m = 0
    · simp only [hm, if_true]
    · simp only [hm, if_false, subnormal_iff P h hm]

/-- The exponent that fgetx reads, in 32 bits, with its flags. -/
def exponent32 (f : Fp.Fmt) (x : BitVec 64) : BitVec 32 × BitVec 5 :=
  match Fp.decode f x with
  | .nan sg => (0x80000001, if sg then 1 else 0)
  | .inf _ => (0x7FFFFFFF, 0)
  | .num _ m e => if m = 0 then (0x80000000, 0) else (BitVec.ofInt 32 ((Nat.log2 m : Int) + e), 0)

theorem getExp_eq (f : Fp.Fmt) (x : BitVec 64) : Fp.getExp f x = ((exponent32 f x).1.setWidth 64, (exponent32 f x).2) := by
  unfold Fp.getExp exponent32
  cases Fp.decode f x with
  | nan sg => rfl
  | inf sg => rfl
  | num sg m e => by_cases hm : m = 0 <;> simp only [hm, if_true, if_false] <;> rfl

/-- In scalar mode the exponent is sign-extended. -/
theorem getExp_placed (scal : Bool) (f : Fp.Fmt) (x : BitVec 64) :
    (if scal then sext 32 (Fp.getExp f x).1 else (Fp.getExp f x).1, (Fp.getExp f x).2) =
      (if scal then (exponent32 f x).1.signExtend 64 else (exponent32 f x).1.setWidth 64, (exponent32 f x).2) := by
  rw [getExp_eq, sext, BitVec.setWidth_setWidth_of_le _ (by decide), BitVec.setWidth_eq]

/-! ### dot4 (R131) -/

theorem intOf_byteAt (g : Go) (signed : Bool) (i l j : Nat) : intOf signed 8 (byteAt (g.val i l) j) = byteOf g signed i l j := by
  have byte : (byteAt (g.val i l) j).setWidth 8 = (g.val i l).extractLsb' (8 * j) 8 := by
    refine (congrArg _ (and_mask8 _)).trans ?_
    rw [BitVec.setWidth_setWidth_of_le _ (by decide), BitVec.setWidth_eq]
    rfl
  rw [intOf, byte, byteOf]

/-- The sum of four products of bytes and a 32-bit addend, clamped under SAT, else reduced; the bytes are signed as `sa` and `sb` say. -/
def dot4Lane (sa sb : Bool) (g : Go) (l : Nat) : BitVec 64 :=
  let x : Int := byteOf g sa 0 l 0 * byteOf g sb 1 l 0 + byteOf g sa 0 l 1 * byteOf g sb 1 l 1
    + byteOf g sa 0 l 2 * byteOf g sb 1 l 2 + byteOf g sa 0 l 3 * byteOf g sb 1 l 3 + (low g 2 l).toInt
  (BitVec.ofInt 32 (if g.sat then (if x < -2147483648 then -2147483648 else if 2147483647 < x then 2147483647 else x) else x)).setWidth 64

theorem resDot4_eq (g : Go) : resDot4 g =
    { vals := lanewise g (dot4Lane (Ins.dotSigned g.n 16) (Ins.dotSigned g.n 17) g), tag := anyTag g } := by
  refine result_congr (fun l => ?_) rfl
  simp only [intOf_byteAt]
  rfl

theorem exec_dot4 {c : Ctl} {q : PayB} {s : State} (h : Clear (q.ins Rows.rowDot4 c) {} s) :
    let n := q.ins Rows.rowDot4 c
    let g := sight n 0 s
    exec (.dot4 c q) s = .next (fixedNext n 0
      { vals := lanewise g (dot4Lane (Ins.dotSigned n 16) (Ins.dotSigned n 17) g), tag := anyTag g } s) :=
  congrArg Host.Outcome.next (issueFixed_result (f := resDot4) (show Rows.rowDot4.opc ≠ 0x6A by decide) (resDot4_eq _) rfl rfl h)

/-- Settles O7: each entry is lane-wise (`fgives_ins`) with its own equation for a lane; dot4, which raises no flag, by `exec_dot4`. -/
theorem floatSelectionClassesAndPackingWriteWhatTheirEntriesSay :
    Obligations.FloatSelectionClassesAndPackingWriteWhatTheirEntriesSay := by
  unfold Obligations.FloatSelectionClassesAndPackingWriteWhatTheirEntriesSay
  intro c p q s
  refine ⟨fgives_ins _ _ _ (by decide) fun _ => rfl, fgives_ins _ _ _ (by decide) fun _ => rfl,
    fgives_ins _ _ _ (by decide) fun _ => congrArg (·, _) (abs_ofTy _ _), fgives_ins _ _ _ (by decide) fun _ => congrArg (·, _) (neg_ofTy _ _),
    fgives_ins _ _ _ (by decide) fun l => ?_, fgives_ins _ _ _ (by decide) fun l => ?_, fgives_ins _ _ _ (by decide) fun l => ?_,
    fun h => exec_dot4 h, fgives_ins _ _ _ (by decide) fun l => ?_,
    fgives_ins _ _ _ (by decide) fun l => ?_⟩
  · refine (congrArg (fun r : Bool × BitVec 5 => (bit64 r.1, r.2)) (compare_eq _ _ _ _)).trans ?_
    rw [show (p.ins Rows.rowFcmp c).bits 1 3 = p.mod.extractLsb' 1 3 from condition_payA p]
    rfl
  · exact congrArg (·, _) (classify_eq (proper_ofTy _) _)
  · exact getExp_placed _ _ _
  · exact halves_onHalves fun h => Fp.convert Fp.f32 (Fp.ofTy _) _ false (Go.val _ h l)
  · rw [half_eq]
    exact congrArg (fun b : Bool => Fp.convert _ Fp.f32 0 false (halfOf _ 0 l (if b then 1 else 0))) (getLsbD_zero_bits p)

end Sys2Proof.Proofs
end

section
/-! PROOFS. What leaves every byte of the memory, the scratchpads and the drives as it was (R136, R298, R309). -/
namespace Sys2Proof.Proofs

open Sys2Proof Sys2Proof.Machine Sys2Proof.Safety Sys2Proof.Claims

/-! ### The bytes of a state -/

/-- Every byte of every space is as before: `SameBytes`, each part of which rewrites. -/
@[simp] abbrev Unchanged (s t : State) : Prop := t.mem = s.mem ∧ t.scr = s.scr ∧ t.dsp = s.dsp ∧ t.drive = s.drive

theorem sameBytes_iff {s t : State} : SameBytes s t ↔ Unchanged s t := Iff.rfl

@[simp] theorem unchanged_ite (c : Prop) [Decidable c] (s t : State) :
    (if c then s else t).mem = (if c then s.mem else t.mem) ∧ (if c then s else t).scr = (if c then s.scr else t.scr) ∧
      (if c then s else t).dsp = (if c then s.dsp else t.dsp) ∧ (if c then s else t).drive = (if c then s.drive else t.drive) :=
  ⟨apply_ite .., apply_ite .., apply_ite .., apply_ite ..⟩

/-- What every step of a fold leaves alone, the fold leaves alone. -/
@[simp] theorem unchanged_foldl {α : Type} (f : State → α → State) (h : ∀ s a, Unchanged s (f s a)) (l : List α) (s : State) :
    Unchanged s (l.foldl f s) := sameBytes_foldl f h l s

/-! ### What leaves the bytes alone: Ops -/

@[simp] theorem unchanged_meetMatrix (s : State) (a : Agent) : Unchanged s (s.meetMatrix a) := by
  cases a <;> dsimp only [State.meetMatrix] <;> repeat' split
  all_goals simp

@[simp] theorem unchanged_closeProgram (s : State) (q : Nat) : Unchanged s (s.closeProgram q) := by simp [State.closeProgram]

@[simp] theorem unchanged_endProgram (s : State) (q : Nat) : Unchanged s (s.endProgram q) := by simp [State.endProgram]

@[simp] theorem unchanged_stopFor (s : State) (a : Agent) (c : BitVec 8) : Unchanged s (s.stopFor a c) := by
  unfold State.stopFor
  dsimp only
  split <;> [skip; split] <;> simp

@[simp] theorem unchanged_thaw (s : State) (a : Agent) : Unchanged s (s.thaw a) := by simp [State.thaw]

@[simp] theorem unchanged_enterTrap (s : State) (a : Agent) (epc : BitVec 48) (t : Trap) :
    Unchanged s (s.enterTrap a epc t) := by simp [State.enterTrap]

@[simp] theorem unchanged_takeTrap (s : State) (a : Agent) (len : Nat) (reads : Bool) (t : Trap) :
    Unchanged s (s.takeTrap a len reads t) := by simp [State.takeTrap]

@[simp] theorem unchanged_takeCause (s : State) (a : Agent) (t : Trap) : Unchanged s (s.takeCause a t) := by simp [State.takeCause]

/-! ### What leaves the bytes alone: Boot -/

@[simp] theorem unchanged_extend (s : State) (is_ : List Nat) : Unchanged s (s.extend is_) := by simp [State.extend]

@[simp] theorem unchanged_bootStep (s : State) : Unchanged s (s.bootStep) := by
  unfold State.bootStep
  dsimp only
  split <;> simp

/-! ### What leaves the bytes alone: Order -/

@[simp] theorem unchanged_note (s : State) (a : Agent) (ks : List Know) : Unchanged s (s.note a ks) := by simp [State.note]

@[simp] theorem unchanged_acquire (s : State) (a : Agent) (scope : Nat) : Unchanged s (s.acquire a scope) := by simp [State.acquire]

@[simp] theorem unchanged_join (s : State) (a : Agent) (scope : Nat) (cs : List Carry) : Unchanged s (s.join a scope cs) := by
  simp [State.join]

@[simp] theorem unchanged_meetRead (s : State) (a : Agent) (o : VOp) (e : Elem) (at_ : Nat) :
    Unchanged s (s.meetRead a o e at_) := by simp [State.meetRead]

@[simp] theorem unchanged_meetStore (s : State) (a : Agent) (o : VOp) (x : Elem) : Unchanged s (s.meetStore a o x) := by
  simp [State.meetStore]

@[simp] theorem unchanged_passLate (s : State) (a : Agent) (o : VOp) : Unchanged s (s.passLate a o) := by simp [State.passLate]

@[simp] theorem unchanged_meetStores (s : State) (a : Agent) (o : VOp) (els : List Elem) :
    Unchanged s (s.meetStores a o els) := by simp [State.meetStores]

/-! ### What leaves the bytes alone: Issue -/

@[simp] theorem unchanged_consumeUq (s : State) (a : Agent) : Unchanged s (s.consumeUq a) := by
  unfold State.consumeUq
  split <;> simp

@[simp] theorem unchanged_skip (n : Ins) (g : Go) (s : State) : Unchanged s (skip n g s) := by simp [skip]

/-! ### What leaves the bytes alone: Lane -/

@[simp] theorem unchanged_takeOrder (s : State) (a : Agent) (es : List RgEntry) : Unchanged s (s.takeOrder a es) := by
  simp [State.takeOrder]

/-! ### What leaves the bytes alone: Mem -/

@[simp] theorem unchanged_setPoison (s : State) (sp : Sp) (p : List Nat) : Unchanged s (s.setPoison sp p) := by
  unfold State.setPoison
  split <;> simp

@[simp] theorem unchanged_addPoison (s : State) (sp : Sp) (n : Nat) : Unchanged s (s.addPoison sp n) := by simp [State.addPoison]

@[simp] theorem unchanged_clearPoison (s : State) (sp : Sp) (n : Nat) : Unchanged s (s.clearPoison sp n) := by simp [State.clearPoison]

@[simp] theorem unchanged_dropTlb (s : State) (p : TlbEnt → Bool) : Unchanged s (s.dropTlb p) := by simp [State.dropTlb]

@[simp] theorem unchanged_poisonRun (s : State) (sp : Sp) (a n : Nat) (poison : Bool) :
    Unchanged s (s.poisonRun sp a n poison) := by simp [State.poisonRun]

/-! ### What leaves the bytes alone: Lsu -/

@[simp] theorem unchanged_softFill (s : State) (die pte part : Nat) :
    Unchanged s (s.softFill die pte part) := by simp [State.softFill]

@[simp] theorem unchanged_thawTeam (s : State) (t : Nat) : Unchanged s (s.thawTeam t) := by simp [State.thawTeam]

@[simp] theorem unchanged_beginSwap (s : State) (t reason : Nat) : Unchanged s (s.beginSwap t reason) := by
  unfold State.beginSwap
  split <;> simp

@[simp] theorem unchanged_beginSwapSet (s : State) (t reason : Nat) : Unchanged s (s.beginSwapSet t reason) := by simp [State.beginSwapSet]

@[simp] theorem unchanged_storageFault (s : State) (a : Agent) (ptes : List Nat) : Unchanged s (s.storageFault a ptes) := by
  unfold State.storageFault
  split <;> simp

@[simp] theorem unchanged_keepCopy (s : State) (core line : Nat) (keep : Bool) :
    Unchanged s (s.keepCopy core line keep) := by simp [State.keepCopy]

@[simp] theorem unchanged_storePoison (s : State) (els : List Elem) : Unchanged s (s.storePoison els) := by simp [State.storePoison]

@[simp] theorem unchanged_fibrePut (s : State) (q way line : Nat) : Unchanged s (s.fibrePut q way line) := by simp [State.fibrePut]

@[simp] theorem unchanged_fibreTouch (s : State) (q line : Nat) : Unchanged s (s.fibreTouch q line) := by
  unfold State.fibreTouch
  dsimp only
  repeat' split
  all_goals simp

@[simp] theorem unchanged_scanAdvance (s : State) (q : Nat) (els : List Elem) : Unchanged s (s.scanAdvance q els) := by
  unfold State.scanAdvance
  split <;> simp

@[simp] theorem unchanged_cacheLoad (s : State) (a : Agent) (ch : Nat) (els : List Elem) :
    Unchanged s (s.cacheLoad a ch els) := by simp [State.cacheLoad]

@[simp] theorem unchanged_dropCopies (s : State) (a : Agent) (els : List Elem) (ch : Nat) :
    Unchanged s (s.dropCopies a els ch) := by simp [State.dropCopies]

@[simp] theorem unchanged_landOp (s : State) (a : Agent) (seq : Nat) (ws : List RegW) : Unchanged s (s.landOp a seq ws) := by
  simp [State.landOp]

@[simp] theorem unchanged_afterReads (s : State) (a : Agent) (o : VOp) (ch : Nat) (rs : List (Elem × Option Copy)) :
    Unchanged s (s.afterReads a o ch rs) := by simp [State.afterReads]

@[simp] theorem unchanged_finishLoad (s : State) (a : Agent) (o : VOp) (ws : List RegW) :
    Unchanged s (s.finishLoad a o ws) := by simp [State.finishLoad]

/-! ### What leaves the bytes alone: Control -/

@[simp] theorem unchanged_finishNow (g : Go) (ws : List RegW) (s : State) : Unchanged s (finishNow g ws s) := by simp [finishNow]

@[simp] theorem unchanged_leaveProgram (s : State) (a : Agent) : Unchanged s (s.leaveProgram a) := by
  unfold State.leaveProgram
  split <;> simp

/-! ### What leaves the bytes alone: Sync -/

@[simp] theorem unchanged_startWait (g : Go) (h : Hold) (s : State) : Unchanged s (startWait g h s) := by simp [startWait]

@[simp] theorem unchanged_arrive (s : State) (a : Agent) (scope id count : Nat) :
    Unchanged s (s.arrive a scope id count) := by
  unfold State.arrive
  split <;> simp

@[simp] theorem unchanged_setTags (s : State) (a : Agent) (ready err : BitVec 64) (cs : List (Nat × BitVec 8)) :
    Unchanged s (s.setTags a ready err cs) := by
  unfold State.setTags
  split <;> simp

@[simp] theorem unchanged_enqueue (s : State) (a : Agent) (core : Bool) (n : Nat) : Unchanged s (s.enqueue a core n) := by
  unfold State.enqueue
  split <;> simp

/-! ### What leaves the bytes alone: Views -/

@[simp] theorem unchanged_mapRegion (s : State) (part k : Nat) (f : Region → Region) :
    Unchanged s (s.mapRegion part k f) := by simp [State.mapRegion]

@[simp] theorem unchanged_setView (s : State) (part slot : Nat) (v : View) : Unchanged s (s.setView part slot v) := by simp [State.setView]

@[simp] theorem unchanged_openView (s : State) (part slot k lo hi : Nat) :
    Unchanged s (s.openView part slot k lo hi) := by simp [State.openView]

@[simp] theorem unchanged_endRegion (s : State) (part k : Nat) : Unchanged s (s.endRegion part k) := by simp [State.endRegion]

/-! ### What leaves the bytes alone: Engines -/

@[simp] theorem unchanged_noteWrite (s : State) (c : EngCmd) (p : Place) (n : Nat) : Unchanged s (s.noteWrite c p n) := by
  unfold State.noteWrite
  dsimp only
  repeat' split
  all_goals simp

@[simp] theorem unchanged_endCmd (s : State) (c : EngCmd) (failed : Option Cause) : Unchanged s (s.endCmd c failed) := by
  unfold State.endCmd
  dsimp only
  split <;> simp

@[simp] theorem unchanged_stallOn (s : State) (c : EngCmd) (pte : Nat) : Unchanged s (s.stallOn c pte) := by simp [State.stallOn]

/-! ### What leaves the bytes alone: Matrix -/

@[simp] theorem unchanged_endMatrix (s : State) (q : Nat) (c : MCmd) (vals : List (BitVec 64)) (poison : Mask) :
    Unchanged s (s.endMatrix q c vals poison) := by
  unfold State.endMatrix
  dsimp only
  split <;> simp

@[simp] theorem unchanged_mmaPart (s : State) (q n : Nat) (da db : BitVec 128) (w : BitVec 64) (mask : BitVec 128) (g0 g1 : Nat) :
    Unchanged s (s.mmaPart q n da db w mask g0 g1) := by simp [State.mmaPart]

@[simp] theorem unchanged_spillAll (s : State) (q : Nat) : Unchanged s (s.spillAll q) := by simp [State.spillAll]

@[simp] theorem unchanged_reloadAll (s : State) (q : Nat) : Unchanged s (s.reloadAll q) := by simp [State.reloadAll]

@[simp] theorem unchanged_abandon (s : State) (c : MCmd) : Unchanged s (s.abandon c) := by
  unfold State.abandon
  split <;> simp

@[simp] theorem unchanged_resetMatrix (s : State) (q : Nat) : Unchanged s (s.resetMatrix q) := by simp [State.resetMatrix]

/-! ### What leaves the bytes alone: Launch -/

@[simp] theorem unchanged_newTeam (s : State) (k teamid die : Nat) (quad producer : Option Nat) :
    Unchanged s (s.newTeam k teamid die quad producer) := by simp [State.newTeam]

@[simp] theorem unchanged_addLaunch (s : State) (l : Launch) : Unchanged s (s.addLaunch l) := by simp [State.addLaunch]

@[simp] theorem unchanged_startGrid (s : State) (l : Launch) : Unchanged s (s.startGrid l) := by simp [State.startGrid]

@[simp] theorem unchanged_queueProgram (s : State) (q k : Nat) : Unchanged s (s.queueProgram q k) := by simp [State.queueProgram]

@[simp] theorem unchanged_startSingle (s : State) (l : Launch) (q n : Nat) (producer : Option Nat) :
    Unchanged s (s.startSingle l q n producer) := by simp [State.startSingle]

@[simp] theorem unchanged_takeChunk (s : State) (d k : Nat) : Unchanged s (s.takeChunk d k) := by
  unfold State.takeChunk
  dsimp only
  split <;> simp

@[simp] theorem unchanged_takeChunks (s : State) (d : Nat) : Unchanged s (s.takeChunks d) := by simp [State.takeChunks]

@[simp] theorem unchanged_askPreempt (s : State) (k : Nat) : Unchanged s (s.askPreempt k) := by simp [State.askPreempt]

@[simp] theorem unchanged_preemptFor (s : State) (k : Nat) : Unchanged s (s.preemptFor k) := by
  unfold State.preemptFor
  dsimp only
  split <;> simp

@[simp] theorem unchanged_countEntry (s : State) (q n : Nat) : Unchanged s (s.countEntry q n) := by simp [State.countEntry]

@[simp] theorem unchanged_pastHead (s : State) (q : Nat) (bs : List Byte) : Unchanged s (s.pastHead q bs) := by simp [State.pastHead]

@[simp] theorem unchanged_hostUp (s : State) : Unchanged s (s.hostUp) := by simp [State.hostUp]

/-! ### What leaves the bytes alone: System -/

@[simp] theorem unchanged_freeFrame (s : State) (part f : Nat) : Unchanged s (s.freeFrame part f) := by simp [State.freeFrame]

/-! ### What leaves the bytes alone: Tap -/

@[simp] theorem unchanged_tapNote (s : State) (w : Who) (va n : Nat) : Unchanged s (s.tapNote w va n) := by
  unfold State.tapNote
  split <;> simp

@[simp] theorem unchanged_mapCmd (s : State) (die id : Nat) (f : TapCmd → TapCmd) :
    Unchanged s (s.mapCmd die id f) := by simp [State.mapCmd]

@[simp] theorem unchanged_endTap (s : State) (a : Agent) (id : Nat) : Unchanged s (s.endTap a id) := by simp [State.endTap]

@[simp] theorem unchanged_failTap (s : State) (a : Agent) (id tval : Nat) : Unchanged s (s.failTap a id tval) := by simp [State.failTap]

@[simp] theorem unchanged_answer (s : State) (die : Nat) (r : Rec) (mode : Nat) : Unchanged s (s.answer die r mode) := by
  unfold State.answer
  dsimp only
  repeat' split
  all_goals simp

/-! ### What leaves the bytes alone: Sched -/

@[simp] theorem unchanged_fetchTrap (s : State) (a : Agent) (c : Cause) (tval : Nat) :
    Unchanged s (s.fetchTrap a c tval) := by simp [State.fetchTrap]

@[simp] theorem unchanged_wordTrap (s : State) (a : Agent) : Unchanged s (s.wordTrap a) := by simp [State.wordTrap]

@[simp] theorem unchanged_endRunahead (s : State) (a : Agent) : Unchanged s (s.endRunahead a) := by simp [State.endRunahead]

@[simp] theorem unchanged_countSlot (s : State) (core leaf : Nat) (a : Option Agent) :
    Unchanged s (s.countSlot core leaf a) := by
  unfold State.countSlot
  split <;> simp

@[simp] theorem unchanged_chargeIdle (s : State) : Unchanged s (s.chargeIdle) := by simp [State.chargeIdle]

@[simp] theorem unchanged_countSplit (s : State) (core : Nat) (a : Agent) : Unchanged s (s.countSplit core a) := by simp [State.countSplit]

@[simp] theorem unchanged_tally (s : State) (gs : List (Nat × Agent)) (elig : List (Nat × Agent)) (picked pin : Option Agent) :
    Unchanged s (s.tally gs elig picked pin) := by simp [State.tally]

@[simp] theorem unchanged_takeReset (s : State) (a : Agent) (n : Ins) (bits : BitVec 12) :
    Unchanged s (s.takeReset a n bits) := by simp [State.takeReset]

/-! ### What leaves the bytes alone: Group -/

@[simp] theorem unchanged_takeLate (s : State) (a : Agent) (epc : BitVec 48) (t : Trap) :
    Unchanged s (s.takeLate a epc t) := by simp [State.takeLate]

@[simp] theorem unchanged_mapAll (s : State) (f : Thr → Thr) : Unchanged s (s.mapAll f) := by simp [State.mapAll]

@[simp] theorem unchanged_publish (s : State) (a : Agent) (pair : Nat) : Unchanged s (s.publish a pair) := by simp [State.publish]

@[simp] theorem unchanged_completeRecord (s : State) (a : Agent) (o : VOp) (ws : List RegW) :
    Unchanged s (completeRecord s a o ws) := by
  unfold completeRecord
  dsimp only
  repeat' split
  all_goals simp

/-! ### What leaves the bytes alone: Preempt -/

@[simp] theorem unchanged_settle (s : State) (a : Agent) : Unchanged s (s.settle a) := by
  unfold State.settle
  dsimp only
  repeat' split
  all_goals simp

@[simp] theorem unchanged_saveTeam (s : State) (k reason : Nat) : Unchanged s (s.saveTeam k reason) := by simp [State.saveTeam]

@[simp] theorem unchanged_resumeProgram (s : State) (q : Nat) : Unchanged s (s.resumeProgram q) := by
  unfold State.resumeProgram
  split <;> simp

@[simp] theorem unchanged_tick (s : State) : Unchanged s (s.tick) := by simp [State.tick]

/-! ### What leaves the bytes alone: Storage -/

@[simp] theorem unchanged_wake (s : State) (die pte : Nat) (failed : Bool) : Unchanged s (s.wake die pte failed) := by simp [State.wake]

@[simp] theorem unchanged_countSqe (s : State) (k : Nat) : Unchanged s (s.countSqe k) := by simp [State.countSqe]

@[simp] theorem unchanged_dropFrame (s : State) (frame : Nat) : Unchanged s (s.dropFrame frame) := by simp [State.dropFrame]

@[simp] theorem unchanged_failFill (s : State) (sqe : Nat) (x : Sqe) : Unchanged s (s.failFill sqe x) := by simp [State.failFill]

/-! ### What leaves the bytes alone: Firmware -/

@[simp] theorem unchanged_endCall (s : State) (q : Nat) (st : BitVec 8) : Unchanged s (s.endCall q st) := by simp [State.endCall]

@[simp] theorem unchanged_dropCall (s : State) (q : Nat) : Unchanged s (s.dropCall q) := by simp [State.dropCall]

@[simp] theorem unchanged_noteMapped (s : State) (l : BitVec 128) : Unchanged s (s.noteMapped l) := by simp [State.noteMapped]

@[simp] theorem unchanged_noteUnmapped (s : State) (l : BitVec 128) : Unchanged s (s.noteUnmapped l) := by simp [State.noteUnmapped]

@[simp] theorem unchanged_handOver (s : State) (k : Nat) : Unchanged s (s.handOver k) := by simp [State.handOver]

@[simp] theorem unchanged_vacate (s : State) (c : Nat) : Unchanged s (s.vacate c) := by
  unfold State.vacate
  dsimp only
  split <;> simp

@[simp] theorem unchanged_unbind (s : State) (touched : List Nat) : Unchanged s (s.unbind touched) := by simp [State.unbind]

@[simp] theorem unchanged_setFrame (s : State) (part : Nat) (f : Nat × Bool) : Unchanged s (s.setFrame part f) := by simp [State.setFrame]

/-! ### What leaves the bytes alone: Security -/

@[simp] theorem unchanged_zeroise (s : State) (p : Nat) : Unchanged s (s.zeroise p) := by simp [State.zeroise]

@[simp] theorem unchanged_abandonCalls (s : State) (p : Nat) : Unchanged s (s.abandonCalls p) := by simp [State.abandonCalls]

@[simp] theorem unchanged_reply (s : State) (bs : List Byte) : Unchanged s (s.reply bs) := by simp [State.reply]

@[simp] theorem unchanged_ring (s : State) (q : Nat) : Unchanged s (s.ring q) := by simp [State.ring]

@[simp] theorem unchanged_writeCallreq (s : State) (q off : Nat) (bs : List Byte) :
    Unchanged s (s.writeCallreq q off bs) := by simp [State.writeCallreq]

@[simp] theorem unchanged_mapPort (s : State) (n : Nat) (f : Port → Port) : Unchanged s (s.mapPort n f) := by simp [State.mapPort]

/-! ### What leaves the bytes alone: Issue -/

@[simp] theorem unchanged_deliver (n : Ins) (s : State) (ts : List Trap) (fl : BitVec 5) : Unchanged s (deliver n s ts fl) := by
  unfold deliver
  dsimp only
  split <;> simp

/-! ### What leaves the bytes alone: Matrix -/

@[simp] theorem unchanged_mmaSplit (q n : Nat) (da db : BitVec 128) (w : BitVec 64) (mask : BitVec 128) (g1 met g0 : Nat) (s : State) :
    Unchanged s (State.mmaSplit q n da db w mask g1 met g0 s) := by
  induction met generalizing g0 s with
  | zero => simp [State.mmaSplit]
  | succ met ih => simp [State.mmaSplit, ih]

/-! ### What leaves the bytes alone: Views -/

@[simp] theorem unchanged_commitView (s : State) (part k : Nat) (f : State → State) (h : Unchanged s (f s)) :
    Unchanged s (s.commitView part k f) := by
  simpa [State.commitView] using h

/-! ### What leaves the bytes alone: Group -/

@[simp] theorem unchanged_toFront (s : State) (a : Agent) (o : VOp) (els : List Elem) : Unchanged s (s.toFront a o els).1 := by
  simp [State.toFront]

/-! ### What leaves the bytes alone: Tap -/

@[simp] theorem unchanged_finishTap (s : State) (c : TapCmd) : Unchanged s (s.finishTap c).1 := by simp [State.finishTap]

@[simp] theorem unchanged_handlerTeam (s : State) (die : Nat) (c : TapCmd) (cls : Nat) : Unchanged s (s.handlerTeam die c cls).1 := by
  unfold State.handlerTeam
  split <;> simp

/-! ### What leaves the bytes alone: Issue -/

@[simp] theorem unchanged_finish (n : Ins) (g : Go) (before : Thr) (f : Fin) : Unchanged f.s (finish n g before f) := by
  simp [finish]

end Sys2Proof.Proofs
end

section
/-! PROOFS. The writes of the model keep the canonical form of the memories, and so do the meanings of the instructions (R136, R298, R309). -/
namespace Sys2Proof.Proofs

open Sys2Proof Sys2Proof.Machine Sys2Proof.Safety Sys2Proof.Claims

/-- The four memories are in the canonical form: `Form`, each part of which rewrites. -/
@[simp] abbrev Canonical (s : State) : Prop :=
  Memory.wf s.mem = true ∧ Memory.wf s.scr = true ∧ Memory.wf s.dsp = true ∧ Memory.wf s.drive = true

theorem form_iff {s : State} : Form s ↔ Canonical s := Iff.rfl

theorem canonical_ite {c : Prop} [Decidable c] {s t : State} (hs : Canonical s) (ht : Canonical t) : Canonical (if c then s else t) := by
  split <;> assumption

/-! ### Writes to the memories -/

theorem canonical_setMem {s : State} (h : Canonical s) {m : List Host.Cell} (hm : Memory.wf m = true) : Canonical { s with mem := m } :=
  ⟨hm, h.2.1, h.2.2.1, h.2.2.2⟩

@[simp] theorem canonical_setSpace {s : State} (h : Canonical s) (sp : Sp) {m : List Host.Cell} (hm : Memory.wf m = true) :
    Canonical (s.setSpace sp m) := by
  cases sp <;> simp_all [State.setSpace]

theorem wf_space {s : State} (h : Canonical s) (sp : Sp) : Memory.wf (s.space sp) = true := by
  cases sp <;> simp_all [State.space]

@[simp] theorem canonical_putSector {s : State} (h : Canonical s) (key n : Nat) (bs : List Byte) : Canonical (s.putSector key n bs) :=
  canonical_setMem h (Memory.wf_write _ _ _ h.1)

@[simp] theorem canonical_writeAt {s : State} (h : Canonical s) (sp : Sp) (key a : Nat) (bs : List Byte) :
    Canonical (s.writeAt sp key a bs) := by
  unfold State.writeAt
  split
  · exact h
  · split
    · exact List.foldlRecOn _ _ h fun s h n _ => canonical_putSector h _ _ _
    · exact canonical_setSpace h _ (Memory.wf_write _ _ _ (wf_space h sp))

@[simp] theorem canonical_writeTable {s : State} (h : Canonical s) (part a : Nat) (bs : List Byte) : Canonical (s.writeTable part a bs) := by
  unfold State.writeTable
  split
  · exact canonical_writeAt h _ _ _ _
  · split
    · exact h
    · exact List.foldlRecOn _ _ h fun s h n _ => canonical_setMem h (Memory.wf_write _ _ _ h.1)

@[simp] theorem canonical_noteAccess {s : State} (h : Canonical s) (w : Who) (need : Need) (va : Nat) : Canonical (s.noteAccess w need va) := by
  unfold State.noteAccess
  split
  · cases hc : w.core <;> dsimp only <;> split_ifs <;> simp [h]
  · exact h

/-- Where a write of the device succeeds, the state that it leaves is canonical. -/
def CanonicalOk {ε : Type} : Except ε State → Prop
  | .ok s => Canonical s
  | .error _ => True

theorem CanonicalOk.of_eq {ε : Type} {r : Except ε State} {s : State} (h : CanonicalOk r) (hr : r = .ok s) : Canonical s := by
  subst hr
  exact h

@[simp] theorem canonicalOk_ok {ε : Type} (s : State) : CanonicalOk (.ok s : Except ε State) ↔ Canonical s := Iff.rfl

@[simp] theorem canonicalOk_error {ε : Type} (e : ε) : CanonicalOk (.error e) := trivial

theorem canonical_writeRuns {s : State} (h : Canonical s) (rs : List (Nat × Nat × Nat)) (bs : List Byte) (poison : Bool) :
    Canonical (rs.foldl (fun (p : State × List Byte) r =>
      ((p.1.writeAt .mem r.2.1 r.1 (p.2.take r.2.2)).poisonRun .mem r.1 r.2.2 poison, p.2.drop r.2.2)) (s, bs)).1 :=
  List.foldlRecOn (motive := fun p : State × List Byte => Canonical p.1) rs _ h fun p h r _ => by
    simpa using canonical_writeAt h .mem r.2.1 r.1 (p.2.take r.2.2)

@[simp] theorem canonical_writeVirt {s : State} (h : Canonical s) (w : Who) (acc : Access) (va : Nat) (bs : List Byte) (p : Bool) :
    CanonicalOk (s.writeVirt w acc va bs p) := by
  unfold State.writeVirt
  split
  · trivial
  · have noted : Canonical ((List.range (bs.length / 32 + 2)).foldl
        (fun s i => if 32 * i < bs.length then s.noteAccess w acc.need (va + 32 * i) else s) s) :=
      List.foldlRecOn _ _ h fun s h i _ => canonical_ite (canonical_noteAccess h _ _ _) h
    exact canonical_writeRuns (canonical_ite noted (canonical_noteAccess noted _ _ _)) _ _ _

/-! ### Stores -/

@[simp] theorem canonical_storePlain {s : State} (h : Canonical s) (els : List Elem) : Canonical (s.storePlain els) :=
  List.foldlRecOn _ _ h fun _ h _ _ => canonical_writeAt h _ _ _ _

@[simp] theorem canonical_storeBlocks {s : State} (h : Canonical s) (fmt : Nat) (els : List Elem) : Canonical (s.storeBlocks fmt els) :=
  List.foldlRecOn _ _ h fun _ h _ _ => canonical_writeAt h _ _ _ _

@[simp] theorem canonical_storeElems {s : State} (h : Canonical s) (fmt : Nat) (els : List Elem) : Canonical (s.storeElems fmt els) := by
  simp only [State.storeElems]
  split <;> simp [h]

@[simp] theorem canonical_atomicElems (op ty : Nat) (els : List Elem) {s : State} (h : Canonical s) :
    Canonical (State.atomicElems op ty s els).1 := by
  induction els generalizing s with
  | nil => exact h
  | cons e r ih => exact ih (canonical_ite h (canonical_writeAt h _ _ _ _))

@[simp] theorem canonical_performLoad {s : State} (h : Canonical s) (a : Agent) (o : VOp) (els : List Elem) (ty : Nat) (ws : List RegW)
    (ch : Nat) : Canonical (s.performLoad a o els ty ws ch) := by
  simpa [State.performLoad] using h

@[simp] theorem canonical_performAtomic {s : State} (h : Canonical s) (a : Agent) (o : VOp) (els : List Elem) (op ty : Nat)
    (ws : List RegW) : Canonical (s.performAtomic a o els op ty ws) := by
  simp [State.performAtomic, h]

@[simp] theorem canonical_performHld {s : State} (h : Canonical s) (a : Agent) (o : VOp) (e : Elem) (n ch lanes : Nat) :
    Canonical (s.performHld a o e n ch lanes) := by
  simpa [State.performHld] using h

/-! ### Storage -/

@[simp] theorem canonical_writeBack {s : State} (h : Canonical s) (part : Nat) (l : BitVec 128) (frame : Nat) :
    Canonical (s.writeBack part l frame) := by
  simp [State.writeBack, h, Memory.wf_write]

@[simp] theorem canonical_readIn {s : State} (h : Canonical s) (part : Nat) (l : BitVec 128) (frame : Nat) :
    Canonical (s.readIn part l frame) :=
  List.foldlRecOn _ _ h fun s h i _ => by simp [h]

@[simp] theorem canonical_newNode {s : State} (h : Canonical s) (part a n : Nat) : Canonical (s.newNode part a n) := by
  have filtered := Memory.wf_filter s.mem (fun c => decide (c.1 < a) || decide (a + n ≤ c.1)) h.1
  simp [State.newNode]
  split <;> simp [h, filtered]

@[simp] theorem canonical_loseContents {s : State} (h : Canonical s) (p : Nat) : Canonical (s.loseContents p) :=
  List.foldlRecOn _ _ h fun _ h _ _ => canonical_ite (canonical_setMem h (Memory.wf_write _ _ _ h.1)) h

@[simp] theorem canonical_bringUp {s : State} (h : Canonical s) (digests : List (BitVec 256)) (unlock : Bool) :
    Canonical (s.bringUp digests unlock) :=
  ⟨Memory.wf_filter _ _ h.1, rfl, rfl, h.2.2.2⟩

/-! ### Teams, launches and partitions -/

@[simp] theorem canonical_placeTeam {s : State} (h : Canonical s) (k c : Nat) : Canonical (s.placeTeam k c) := by
  simp only [State.placeTeam]
  split
  · simp [h]
  · simp [h]

@[simp] theorem canonical_scrub {s : State} (h : Canonical s) (t : Team) : Canonical (s.scrub t) := by
  simp [State.scrub, h]

@[simp] theorem canonical_retireTeam {s : State} (h : Canonical s) (k : Nat) : Canonical (s.retireTeam k) := by
  simp only [State.retireTeam]
  split <;> split <;> simp [h]

@[simp] theorem canonical_finishEntry {s : State} (h : Canonical s) (q n addr status : Nat) : Canonical (s.finishEntry q n addr status) := by
  have w := canonical_writeVirt h (s.walkerWho q) devWrite addr (leBytes 8 (n % 2 ^ 48 + status % 256 * 2 ^ 48)) false
  simp only [State.finishEntry]
  split
  · rename_i hs
    simpa using CanonicalOk.of_eq w hs
  · simp [h]

@[simp] theorem canonical_finishAll {s : State} (h : Canonical s) (p status : Nat) : Canonical (s.finishAll p status) :=
  List.foldlRecOn _ _ h fun s h l _ => by
    split
    · split
      · exact canonical_finishEntry h _ _ _ _
      · exact h
    · exact h

@[simp] theorem canonical_stopWork {s : State} (h : Canonical s) (p : Nat) : Canonical (s.stopWork p) := by
  simp only [State.stopWork]
  refine List.foldlRecOn _ _ (List.foldlRecOn _ _ h fun _ h _ _ => canonical_retireTeam h _) fun _ h _ _ => ?_
  simpa using h

@[simp] theorem canonical_kill {s : State} (h : Canonical s) (p : Nat) : Canonical (s.kill p) := by
  have w := canonical_stopWork (canonical_finishAll h p 0x1A) p
  simp only [State.kill]
  split <;> [skip; split] <;> simp [h, w]

@[simp] theorem canonical_setIface {s : State} (h : Canonical s) (i : IfaceArgs) : Canonical (s.setIface i) := by
  exact canonical_ite (by simpa using h) (canonical_newNode (by simpa using h) _ _ _)

/-! ### What a meaning gives back -/

/-- Where there is a state, it is canonical. -/
def CanonicalSome : Option State → Prop
  | some s => Canonical s
  | none => True

@[simp] theorem canonicalSome_some (s : State) : CanonicalSome (some s) ↔ Canonical s := Iff.rfl

@[simp] theorem canonicalSome_none : CanonicalSome none := trivial

/-- Where a body has an effect, its state is canonical. -/
def CanonicalFin : Except (List Trap) Fin → Prop
  | .ok f => Canonical f.s
  | .error _ => True

@[simp] theorem canonicalFin_ok (f : Fin) : CanonicalFin (.ok f) ↔ Canonical f.s := Iff.rfl

@[simp] theorem canonicalFin_error (ts : List Trap) : CanonicalFin (.error ts) := trivial

theorem canonicalFin_map {r : Except (List Trap) Fin} (h : CanonicalFin r) {k : Fin → Fin} (hk : ∀ f, (k f).s = f.s) :
    CanonicalFin (r.map k) := by
  cases r with
  | error ts => trivial
  | ok f => simpa [Except.map, CanonicalFin, hk] using h

/-- Where a blocking instruction goes on or completes, its state is canonical. -/
def CanonicalTry : Try → Prop
  | .further s => Canonical s
  | .done s _ => Canonical s
  | .wait => True
  | .trap _ => True

@[simp] theorem canonicalTry_further (s : State) : CanonicalTry (.further s) ↔ Canonical s := Iff.rfl

@[simp] theorem canonicalTry_done (s : State) (ws : List RegW) : CanonicalTry (.done s ws) ↔ Canonical s := Iff.rfl

@[simp] theorem canonicalTry_wait : CanonicalTry .wait := trivial

@[simp] theorem canonicalTry_trap (t : Trap) : CanonicalTry (.trap t) := trivial

/-- Where a step has a next state, that is canonical. -/
def CanonicalOut : Out → Prop
  | .next s => Canonical s
  | .fault _ => True
  | .refused _ => True

@[simp] theorem canonicalOut_next (s : State) : CanonicalOut (.next s) ↔ Canonical s := Iff.rfl

@[simp] theorem canonicalOut_fault (f : Fault) : CanonicalOut (.fault f) := trivial

@[simp] theorem canonical_tryOrWait {s : State} (h : Canonical s) (w : Hold) {f : State → Agent → Try}
    (hf : CanonicalTry (f s s.cur)) (g : Go) : CanonicalFin (tryOrWait w f g s) := by
  unfold tryOrWait
  split <;> simp_all

@[simp] theorem canonical_poolBody {s : State} (h : Canonical s) (w : Hold) (core : Bool) (n : Nat) {f : State → Agent → Try}
    (hf : CanonicalTry (f s s.cur)) (g : Go) : CanonicalFin (poolBody w core n f g s) := by
  unfold poolBody
  split <;> simp_all

@[simp] theorem canonical_served {s : State} (h : Canonical s) (g : Go) (p : Plan) (whole : Bool) {k : List (Elem × Nat) → Fin}
    (hk : ∀ els, Canonical (k els).s) : CanonicalFin (Machine.served g s p whole k) := by
  unfold Machine.served
  dsimp only
  split_ifs <;> simp [h, hk]

/-- Where a view change succeeds, the state that it leaves is canonical. -/
def CanonicalView : ViewRes → Prop
  | .ok r => Canonical r.1
  | .error _ => True

@[simp] theorem canonicalView_ok (r : State × Option (Nat × BitVec 128)) : CanonicalView (.ok r) ↔ Canonical r.1 := Iff.rfl

@[simp] theorem canonicalView_error (t : Trap) : CanonicalView (.error t) := trivial

@[simp] theorem canonical_viewBody {s : State} {f : Go → State → ViewRes} (g : Go) (hf : CanonicalView (f g s)) :
    CanonicalFin (viewBody f g s) := by
  unfold viewBody
  split <;> simp_all

@[simp] theorem canonical_accept {s : State} (h : Canonical s) (f : Go → State → Except Trap EngCmd) (g : Go) :
    CanonicalFin (accept f g s) := by
  unfold accept
  split
  · trivial
  · split <;> simp [h]

@[simp] theorem canonical_track {f : Fin} (h : Canonical f.s) (n : Nat) (int : Bool) : Canonical (f.track n int).s := by
  unfold Fin.track
  split <;> simp [h]

/-! ### Meanings: Issue -/

@[simp] theorem canonical_commitFixed {s : State} (h : Canonical s) (g : Go) (r : Res) : CanonicalFin (commitFixed g r s) := by
  unfold commitFixed
  dsimp only
  split <;> split <;> simp [h]

@[simp] theorem canonical_fixedBody {s : State} (h : Canonical s) (f : Go → Res) (g : Go) : CanonicalFin (fixedBody f g s) := by
  simp [fixedBody, h]

@[simp] theorem canonical_commitPlain {s : State} (h : Canonical s) (g : Go) : Canonical (commitPlain g s).s := by simp [commitPlain, h]

/-! ### Meanings: Integer -/

@[simp] theorem canonical_commitVar {s : State} (h : Canonical s) (g : Go) (r : Res) : CanonicalFin (commitVar g r s) := by
  unfold commitVar
  split <;> simp [h]

@[simp] theorem canonical_divBody {s : State} (h : Canonical s) (f : Int → Int → Int) (g : Go) : CanonicalFin (divBody f g s) := by
  unfold divBody
  dsimp only
  split <;> simp [h]

/-! ### Meanings: Lane -/

@[simp] theorem canonical_sortBody {s : State} (h : Canonical s) (f : Go → List KeyId) (g : Go) : CanonicalFin (sortBody f g s) := by
  simp [sortBody, h]

@[simp] theorem canonical_rgputBody {s : State} (h : Canonical s) (g : Go) : CanonicalFin (rgputBody g s) := by
  unfold rgputBody
  dsimp only
  split <;> simp [h]

@[simp] theorem canonical_rggetBody {s : State} (h : Canonical s) (g : Go) : CanonicalFin (rggetBody g s) := by simp [rggetBody, h]

/-! ### Meanings: Control -/

@[simp] theorem canonical_branchTo {s : State} (h : Canonical s) (g : Go) (m : Mask) (target : Nat → Int) (ws : List RegW) :
    CanonicalFin (branchTo g m target ws s) := by
  unfold branchTo
  dsimp only
  split_ifs <;> simp [h]

@[simp] theorem canonical_brBody {s : State} (h : Canonical s) (g : Go) : CanonicalFin (brBody g s) := by simp [brBody, h]

@[simp] theorem canonical_brcBody {s : State} (h : Canonical s) (g : Go) : CanonicalFin (brcBody g s) := by simp [brcBody, h]

@[simp] theorem canonical_brlBody {s : State} (h : Canonical s) (g : Go) : CanonicalFin (brlBody g s) := by simp [brlBody, h]

@[simp] theorem canonical_callBody {s : State} (h : Canonical s) (g : Go) : CanonicalFin (callBody g s) := by simp [callBody, h]

@[simp] theorem canonical_brxBody {s : State} (h : Canonical s) (g : Go) : CanonicalFin (brxBody g s) := by simp [brxBody, h]

@[simp] theorem canonical_retBody {s : State} (h : Canonical s) (g : Go) : CanonicalFin (retBody g s) := by simp [retBody, h]

@[simp] theorem canonical_exitBody {s : State} (h : Canonical s) (g : Go) : CanonicalFin (exitBody g s) := by
  unfold exitBody
  dsimp only
  split <;> simp [h]

@[simp] theorem canonical_haltBody {s : State} (h : Canonical s) (g : Go) : CanonicalFin (haltBody g s) := by
  unfold haltBody
  split <;> simp [h]

@[simp] theorem canonical_yieldBody {s : State} (h : Canonical s) (g : Go) : CanonicalFin (yieldBody g s) := by simp [yieldBody, h]

@[simp] theorem canonical_trapBody (g : Go) (s : State) : CanonicalFin (trapBody g s) := by simp [trapBody]

@[simp] theorem canonical_brkBody (g : Go) (s : State) : CanonicalFin (brkBody g s) := by simp [brkBody]

@[simp] theorem canonical_tretBody {s : State} (h : Canonical s) (g : Go) : CanonicalFin (tretBody g s) := by simp [tretBody, h]

/-! ### Meanings: Sync -/

@[simp] theorem canonical_tryFence {s : State} (h : Canonical s) (kind scope : Nat) (a : Agent) :
    CanonicalTry (State.tryFence kind scope s a) := by
  unfold State.tryFence
  split <;> simp [h]

@[simp] theorem canonical_fenceBody {s : State} (h : Canonical s) (kind : Nat) (g : Go) : CanonicalFin (fenceBody kind g s) := by
  simp [fenceBody, h]

@[simp] theorem canonical_tryBarrier {s : State} (h : Canonical s) (scope id inst : Nat) (tokens : List (BitVec 32)) (a : Agent) :
    CanonicalTry (State.tryBarrier scope id inst tokens s a) := by
  unfold State.tryBarrier
  split <;> simp [h]

@[simp] theorem canonical_barwBody {s : State} (h : Canonical s) (g : Go) : CanonicalFin (barwBody g s) := by
  unfold barwBody
  dsimp only
  split <;> simp [h]

@[simp] theorem canonical_tryTags {s : State} (h : Canonical s) (all : Bool) (mask : BitVec 64) (a : Agent) :
    CanonicalTry (State.tryTags all mask s a) := by
  unfold State.tryTags
  dsimp only
  repeat' split
  all_goals simp [h]

@[simp] theorem canonical_twBody {s : State} (h : Canonical s) (all : Bool) (g : Go) : CanonicalFin (twBody all g s) := by simp [twBody, h]

@[simp] theorem canonical_tffsBody {s : State} (h : Canonical s) (g : Go) : CanonicalFin (tffsBody g s) := by
  unfold tffsBody
  dsimp only
  split <;> simp [h]

@[simp] theorem canonical_tclrBody {s : State} (h : Canonical s) (g : Go) : CanonicalFin (tclrBody g s) := by simp [tclrBody, h]

@[simp] theorem canonical_tryRacq {s : State} (h : Canonical s) (c : Nat) (a : Agent) : CanonicalTry (State.tryRacq c s a) := by
  unfold State.tryRacq
  dsimp only
  split
  · simp
  · split <;> simp [h]

@[simp] theorem canonical_tryTshrink {s : State} (h : Canonical s) (c : Nat) (a : Agent) : CanonicalTry (State.tryTshrink c s a) := by
  unfold State.tryTshrink
  dsimp only
  split
  · simp
  · split <;> simp [h]

@[simp] theorem canonical_tryTgrow {s : State} (h : Canonical s) (c : Nat) (a : Agent) : CanonicalTry (State.tryTgrow c s a) := by
  unfold State.tryTgrow
  dsimp only
  split
  · simp
  · split <;> simp [h]

@[simp] theorem canonical_racqBody {s : State} (h : Canonical s) (g : Go) : CanonicalFin (racqBody g s) := by
  unfold racqBody
  dsimp only
  split
  · simp [h]
  · split <;> simp [h]

@[simp] theorem canonical_rrelBody {s : State} (h : Canonical s) (g : Go) : CanonicalFin (rrelBody g s) := by
  unfold rrelBody
  dsimp only
  split <;> simp [h]

@[simp] theorem canonical_tgrowBody {s : State} (h : Canonical s) (g : Go) : CanonicalFin (tgrowBody g s) := by
  unfold tgrowBody
  repeat' split
  all_goals simp_all

@[simp] theorem canonical_tshrinkBody {s : State} (h : Canonical s) (g : Go) : CanonicalFin (tshrinkBody g s) := by
  unfold tshrinkBody
  repeat' split
  all_goals simp_all

@[simp] theorem canonical_tagsetBody {s : State} (h : Canonical s) (g : Go) : CanonicalFin (tagsetBody g s) := by
  unfold tagsetBody
  dsimp only
  split <;> simp [h]

/-! ### Meanings: LoadStore -/

@[simp] theorem canonical_raLds {s : State} (h : Canonical s) (g : Go) : Canonical (raLds g s).s := by simp [raLds, h]

@[simp] theorem canonical_hmkBody {s : State} (h : Canonical s) (g : Go) : CanonicalFin (hmkBody g s) := by
  unfold hmkBody
  split <;> simp [h]

@[simp] theorem canonical_hgetBody {s : State} (h : Canonical s) (g : Go) : CanonicalFin (hgetBody g s) := by simp [hgetBody, h]

/-! ### Meanings: Views -/

@[simp] theorem canonical_vinfoBody {s : State} (h : Canonical s) (g : Go) : CanonicalFin (vinfoBody g s) := by simp [vinfoBody, h]

@[simp] theorem canonical_hpubBody {s : State} (h : Canonical s) (g : Go) : CanonicalFin (hpubBody g s) := by
  unfold hpubBody
  dsimp only
  split <;> simp [h]

/-! ### Meanings: Engines -/

@[simp] theorem canonical_fbsetBody {s : State} (h : Canonical s) (g : Go) : CanonicalFin (fbsetBody g s) := by
  unfold fbsetBody
  dsimp only
  split
  · simp
  · split <;> simp [h]

@[simp] theorem canonical_fbclrBody {s : State} (h : Canonical s) (g : Go) : CanonicalFin (fbclrBody g s) := by simp [fbclrBody, h]

/-! ### Meanings: Matrix -/

@[simp] theorem canonical_performMatrix {s : State} (h : Canonical s) (q : Nat) (c : MCmd) : Canonical (s.performMatrix q c) := by
  unfold State.performMatrix
  split <;> simp [h]

@[simp] theorem canonical_acceptMatrix {s : State} (h : Canonical s) (g : Go) (op : MOp) (ws : List RegW) :
    Canonical (acceptMatrix g s op ws).s := by
  unfold acceptMatrix
  dsimp only
  split <;> simp [h]

@[simp] theorem canonical_mmaBody {s : State} (h : Canonical s) (g : Go) : CanonicalFin (mmaBody g s) := by
  unfold mmaBody
  dsimp only
  repeat' split
  all_goals simp [h]

@[simp] theorem canonical_mmzBody {s : State} (h : Canonical s) (g : Go) : CanonicalFin (mmzBody g s) := by simp [mmzBody, h]

@[simp] theorem canonical_mstBody {s : State} (h : Canonical s) (g : Go) : CanonicalFin (mstBody g s) := by
  unfold mstBody
  dsimp only
  split <;> simp [h]

@[simp] theorem canonical_mldBody {s : State} (h : Canonical s) (g : Go) : CanonicalFin (mldBody g s) := by
  unfold mldBody
  dsimp only
  split <;> simp [h]

@[simp] theorem canonical_msclBody {s : State} (h : Canonical s) (g : Go) : CanonicalFin (msclBody g s) := by
  unfold msclBody
  dsimp only
  split <;> simp [h]

@[simp] theorem canonical_mfeedBody {s : State} (h : Canonical s) (g : Go) : CanonicalFin (mfeedBody g s) := by
  unfold mfeedBody
  dsimp only
  split <;> simp [h]

@[simp] theorem canonical_mdrainBody {s : State} (h : Canonical s) (g : Go) : CanonicalFin (mdrainBody g s) := by simp [mdrainBody, h]

/-! ### Meanings: Queue -/

@[simp] theorem canonical_tlaunchBody {s : State} (h : Canonical s) (g : Go) : CanonicalFin (tlaunchBody g s) := by
  unfold tlaunchBody
  dsimp only
  repeat' split
  all_goals simp [h]

@[simp] theorem canonical_tryQpush {s : State} (h : Canonical s) (mask : BitVec 16) (v : BitVec 32) (a : Agent) :
    CanonicalTry (State.tryQpush mask v s a) := by
  unfold State.tryQpush
  dsimp only
  split
  · simp
  · split <;> simp [h]

@[simp] theorem canonical_qpushBody {s : State} (h : Canonical s) (g : Go) : CanonicalFin (qpushBody g s) := by
  unfold qpushBody
  split <;> simp [h]

@[simp] theorem canonical_qcloseBody {s : State} (h : Canonical s) (g : Go) : CanonicalFin (qcloseBody g s) := by
  unfold qcloseBody
  dsimp only
  split <;> simp [h]

/-! ### Meanings: System -/

@[simp] theorem canonical_srdBody {s : State} (h : Canonical s) (n : Nat) (g : Go) : CanonicalFin (srdBody n g s) := by simp [srdBody, h]

@[simp] theorem canonical_swrBody {s : State} (h : Canonical s) (n : Nat) (g : Go) : CanonicalFin (swrBody n g s) := by
  unfold swrBody
  dsimp only
  repeat' split
  all_goals simp [h]

@[simp] theorem canonical_segsetBody {s : State} (h : Canonical s) (g : Go) : CanonicalFin (segsetBody g s) := by
  unfold segsetBody
  dsimp only
  split <;> simp [h]

@[simp] theorem canonical_fpaddBody {s : State} (h : Canonical s) (g : Go) : CanonicalFin (fpaddBody g s) := by
  unfold fpaddBody
  dsimp only
  repeat' split
  all_goals simp [h]

@[simp] theorem canonical_tryEvict {s : State} (h : Canonical s) (va pte : Nat) (begun : Option (BitVec 128)) (ops : List (Agent × Nat))
    (ws : List RegW) (a : Agent) :
    CanonicalTry (State.tryEvict va pte begun ops ws s a) := by
  unfold State.tryEvict
  dsimp only
  repeat' split
  all_goals simp [h]

@[simp] theorem canonical_tryDrain {s : State} (h : Canonical s) (ops : List (Agent × Nat)) (a : Agent) :
    CanonicalTry (State.tryDrain ops s a) := by
  unfold State.tryDrain
  split <;> simp [h]

@[simp] theorem canonical_tlbiBody {s : State} (h : Canonical s) (drop : Go → TlbEnt → Bool) (mine : Go → Nat → Bool) (g : Go) :
    CanonicalFin (tlbiBody drop mine g s) := by simp [tlbiBody, h]

@[simp] theorem canonical_dbgsetBody {s : State} (h : Canonical s) (g : Go) : CanonicalFin (dbgsetBody g s) := by
  unfold dbgsetBody
  dsimp only
  split
  · simp
  · split <;> simp [h]

@[simp] theorem canonical_mrstBody {s : State} (h : Canonical s) (g : Go) : CanonicalFin (mrstBody g s) := by
  unfold mrstBody
  dsimp only
  split <;> simp [h]

/-! ### Meanings: Tap -/

@[simp] theorem canonical_tapBody {s : State} (h : Canonical s) (g : Go) : CanonicalFin (tapBody g s) := by
  unfold tapBody
  split <;> simp [h]

@[simp] theorem canonical_askBody {s : State} (h : Canonical s) (lo : Nat) (req : Go → Nat → TapReq) (count : Nat) (g : Go) :
    CanonicalFin (askBody lo req count g s) := by
  unfold askBody
  split <;> simp [h]

@[simp] theorem canonical_rowselBody {s : State} (h : Canonical s) (g : Go) : CanonicalFin (rowselBody g s) := by simp [rowselBody, h]

@[simp] theorem canonical_rsetBody {s : State} (h : Canonical s) (g : Go) : CanonicalFin (rsetBody g s) := by simp [rsetBody, h]

@[simp] theorem canonical_tapgetBody {s : State} (h : Canonical s) (g : Go) : CanonicalFin (tapgetBody g s) := by simp [tapgetBody, h]

@[simp] theorem canonical_wrdBody {s : State} (h : Canonical s) (g : Go) : CanonicalFin (wrdBody g s) := by
  unfold wrdBody
  dsimp only
  split <;> simp [h]

@[simp] theorem canonical_tryWret {s : State} (h : Canonical s) (mode : Nat) (a : Agent) : CanonicalTry (State.tryWret mode s a) := by
  unfold State.tryWret
  dsimp only
  split
  · simp
  · split <;> simp [h]

@[simp] theorem canonical_wretBody {s : State} (h : Canonical s) (g : Go) : CanonicalFin (wretBody g s) := by
  unfold wretBody
  dsimp only
  split
  · simp
  · split <;> simp [h]

/-! ### Chains of writes that can fail -/

theorem canonicalOk_bind {ε : Type} {r : Except ε State} (h : CanonicalOk r) {f : State → Except ε State}
    (hf : ∀ s, Canonical s → CanonicalOk (f s)) : CanonicalOk (r >>= f) := by
  cases r with
  | error e => trivial
  | ok s => exact hf s h

theorem canonicalOk_read {ε α : Type} (r : Except ε α) {f : α → Except ε State} (hf : ∀ x, CanonicalOk (f x)) : CanonicalOk (r >>= f) := by
  cases r with
  | error e => trivial
  | ok x => exact hf x

theorem canonicalOk_foldl {ε α : Type} {f : Except ε State → α → Except ε State} (hf : ∀ r x, CanonicalOk r → CanonicalOk (f r x))
    (l : List α) {r : Except ε State} (h : CanonicalOk r) : CanonicalOk (l.foldl f r) :=
  List.foldlRecOn l f h fun r h x _ => hf r x h

/-! ### Bodies with a shape of their own -/

@[simp] theorem canonical_lpermBody {s : State} (h : Canonical s) (g : Go) : CanonicalFin (lpermBody g s) :=
  canonicalFin_map (canonical_commitFixed h g _) fun _ => rfl

@[simp] theorem canonical_slowFloat {s : State} (h : Canonical s) (f : Go → Res) (g : Go) : CanonicalFin (slowFloat f g s) := by
  unfold slowFloat
  dsimp only
  split
  · simp [h]
  · exact canonicalFin_map (canonical_commitFixed h g _) fun _ => rfl

theorem CanonicalTry.of_done {r : Try} {s : State} {ws : List RegW} (h : CanonicalTry r) (hr : r = .done s ws) : Canonical s := by
  subst hr
  exact h

theorem CanonicalTry.of_further {r : Try} {s : State} (h : CanonicalTry r) (hr : r = .further s) : Canonical s := by
  subst hr
  exact h

@[simp] theorem canonical_tryArrive {s : State} (h : Canonical s) (scope id count : Nat) (bar : Bool) (ws : List RegW) (a : Agent) :
    CanonicalTry (State.tryArrive scope id count bar ws s a) := by
  have hb := canonical_tryBarrier (s := (s.mapThr a (Thr.passFence 2 scope)).arrive a scope id count) (by simpa using h) scope id
    (s.barInst a scope) [s.phase a scope id (s.barInst a scope)] a
  unfold State.tryArrive
  dsimp only
  split
  · trivial
  · split
    · simp [h]
    · split
      · rename_i hd
        exact hb.of_done hd
      · simp [h]

@[simp] theorem canonical_barBody {s : State} (h : Canonical s) (bar : Bool) (g : Go) : CanonicalFin (barBody bar g s) := by
  unfold barBody
  extract_lets a scope id count ws
  split
  · trivial
  · have ha := canonical_tryArrive h scope id count bar ws a
    split
    · simp [h]
    · rename_i hf
      simpa using ha.of_further hf
    · rename_i hd
      simpa using ha.of_done hd
    · trivial

theorem canonical_mapThr {s : State} (h : Canonical s) (a : Agent) (f : Thr → Thr) : Canonical (s.mapThr a f) := by
  simpa using h

@[simp] theorem canonical_sfpreBody {s : State} (h : Canonical s) (g : Go) : CanonicalFin (sfpreBody g s) := by
  refine canonical_mapThr ?_ _ _
  split
  · exact h
  · refine List.foldlRecOn _ _ h fun s h _ _ => ?_
    split
    · simpa using h
    · exact h

/-! ### Accesses to memory -/

@[simp] theorem canonical_noteAll {s : State} (h : Canonical s) (need : Need) (els : List (Elem × Nat)) : Canonical (s.noteAll need els) :=
  List.foldlRecOn _ _ h fun _ h _ _ => canonical_ite (canonical_noteAccess h _ _ _) h

@[simp] theorem canonical_sendMem {s : State} (h : Canonical s) (g : Go) (need : Need) (els : List (Elem × Nat)) (strong : Bool)
    (scope : Nat) (k : VKind) (view : Option (Nat × Nat)) : Canonical (sendMem g need els strong scope k s view).s := by
  simpa [sendMem] using canonical_noteAll h need els

theorem unchanged_softFills (s : State) (d p : Nat) (l : List (Nat × Nat × Nat)) : Unchanged s (l.foldl (fun s x => s.softFill d x.1 p) s) :=
  unchanged_foldl _ (fun s x => by simp) l s

@[simp] theorem canonical_raPrefetch {s : State} (h : Canonical s) (ch : Nat) (whole : Bool) (plan : Mask → Go → State → Plan) (g : Go) :
    Canonical (raPrefetch ch whole plan g s).s := by
  have noted := fun els => canonical_noteAll h .read els
  simp [raPrefetch, noted]

@[simp] theorem canonical_ldBody {s : State} (h : Canonical s) (p : Plan) (g : Go) : CanonicalFin (ldBody p g s) :=
  canonical_served h g p false fun _ => canonical_sendMem h g _ _ _ _ _ _

@[simp] theorem canonical_stBody {s : State} (h : Canonical s) (p : Plan) (g : Go) : CanonicalFin (stBody p g s) := by
  unfold stBody
  extract_lets part
  split
  · trivial
  · exact canonical_served h g p false fun _ => canonical_sendMem h g _ _ _ _ _ _

@[simp] theorem canonical_pfBody {s : State} (h : Canonical s) (g : Go) : CanonicalFin (pfBody g s) := by
  refine canonical_sendMem ?_ g _ _ _ _ _ _
  simp [h]

@[simp] theorem canonical_ldsBody {s : State} (h : Canonical s) (p : Plan) (g : Go) : CanonicalFin (ldsBody p g s) :=
  canonical_served h g p false fun _ => canonical_sendMem h g _ _ _ _ _ _

@[simp] theorem canonical_stsBody {s : State} (h : Canonical s) (p : Plan) (g : Go) : CanonicalFin (stsBody p g s) :=
  canonical_served h g p false fun _ => canonical_sendMem h g _ _ _ _ _ _

@[simp] theorem canonical_atomicBody {s : State} (h : Canonical s) (op scope : Nat) (global : Bool) (p : Plan) (g : Go) :
    CanonicalFin (atomicBody op scope global p g s) :=
  canonical_served h g p false fun _ => canonical_sendMem h g _ _ _ _ _ _

@[simp] theorem canonical_hldBody {s : State} (h : Canonical s) (p : Plan) (g : Go) : CanonicalFin (hldBody p g s) :=
  canonical_served h g p true fun els => by
    split
    · exact canonical_sendMem h g _ _ _ _ _ _
    · exact canonical_commitPlain h g

@[simp] theorem canonical_hstBody {s : State} (h : Canonical s) (p : Plan) (g : Go) : CanonicalFin (hstBody p g s) :=
  canonical_served h g p true fun els => by
    split
    · exact canonical_sendMem h g _ _ _ _ _ _
    · exact canonical_commitPlain h g

@[simp] theorem canonical_pgevBody {s : State} (h : Canonical s) (g : Go) : CanonicalFin (pgevBody g s) := by
  unfold pgevBody
  dsimp only
  split
  · simp [h]
  · split
    · split
      · simp [h]
      · rename_i l pte _ _
        have he := fun ws => canonical_tryEvict (s := startWait g (.evict (g.uni 0).toNat pte none [] ws) s) (by simpa using h)
          (g.uni 0).toNat pte none [] ws s.cur
        split
        · simp [h]
        · rename_i hf
          exact (he _).of_further hf
        · simp [h]
    · simp [h]

/-! ### The shared paths of issue -/

/-- What an instruction does in runahead by its `ra` keeps the form. -/
def RaKeepsForm (x : Extra) : Prop := ∀ k, x.ra = some k → ∀ g s, Canonical s → Canonical (k g s).s

theorem raKeepsForm_none {x : Extra} (h : x.ra = none) : RaKeepsForm x := fun k hk => by simp [h] at hk

theorem raKeepsForm_some {x : Extra} {k : Go → State → Fin} (h : x.ra = some k) (hk : ∀ g s, Canonical s → Canonical (k g s).s) :
    RaKeepsForm x := fun k' hk' => by
  rw [h] at hk'
  cases hk'
  exact hk

theorem canonical_issueRa {s : State} (h : Canonical s) (n : Ins) {x : Extra} {body : Body}
    (hb : ∀ g s, Canonical s → CanonicalFin (body g s)) (hx : RaKeepsForm x) : Canonical (issueRa n x body s) := by
  unfold issueRa
  extract_lets a th stop _ m g frostHandle uq ok _ drop runs
  have hstop : Canonical stop := by simpa [stop] using h
  have hok (f : Fin) (hf : Canonical f.s) : Canonical (ok f) := by simpa [ok] using hf
  have hdrop : Canonical drop := hok _ (by simpa using h)
  have hruns : Canonical runs := by
    have := hb g s h
    simp only [runs]
    split
    · rename_i f hf
      exact hok f (by simpa [hf] using this)
    · exact hstop
  split
  · exact hstop
  · split
    case h_1 => exact hstop
    case h_2 => exact hok _ h
    case h_3 => exact canonical_ite hstop hdrop
    case h_4 => exact canonical_ite (canonical_ite hstop (hok _ (by simpa using h))) (canonical_ite hdrop hruns)
    case h_5 =>
      split
      · exact hdrop
      · split
        · rename_i k hk
          exact hok _ (hx k hk g s h)
        · exact hdrop
    case h_6 => exact canonical_ite hstop (canonical_ite (hok _ h) hruns)
    case h_7 => exact canonical_ite (hok _ h) hruns

theorem canonical_issue {s : State} (h : Canonical s) (n : Ins) {x : Extra} {body : Body}
    (hb : ∀ g s, Canonical s → CanonicalFin (body g s)) (hx : RaKeepsForm x) (fl : Go → BitVec 5 := fun _ => 0) :
    Canonical (issue n x body s fl) := by
  unfold issue
  extract_lets a s1 th s2 g
  have h1 : Canonical s1 := by simpa [s1] using h
  have h2 : Canonical s2 := by simpa [s2] using h1
  split
  · exact canonical_issueRa h1 n hb hx
  · split
    · simp [h1]
    · split
      · simp [h2]
      · split
        · simp [h2]
        · have := hb g s2 h2
          split
          · simp [h2]
          · rename_i f hf
            rw [hf] at this
            exact canonical_ite (by simpa using this) (by simp [h2])

theorem canonical_issueFixed {s : State} (h : Canonical s) (n : Ins) {x : Extra} (f : Go → Res) (hx : RaKeepsForm x) :
    Canonical (issueFixed n x f s) :=
  canonical_issue h n (fun g _ h => canonical_fixedBody h f g) hx _

theorem canonical_issueM {s : State} (h : Canonical s) (n : Ins) {x : Extra} (plan : Mask → Go → State → Plan) {body : Plan → Body}
    (hb : ∀ p g s, Canonical s → CanonicalFin (body p g s)) (hx : RaKeepsForm x) : CanonicalOut (issueM n x plan body s) := by
  unfold issueM
  extract_lets a s0 th g runs
  split
  · trivial
  · exact canonical_issue h n (fun g s h => hb _ g s h) hx

theorem canonical_issueRead {s : State} (h : Canonical s) (n : Ins) {x : Extra} (hole : Go → State → Bool) {body : Body}
    (hb : ∀ g s, Canonical s → CanonicalFin (body g s)) (hx : RaKeepsForm x) : CanonicalOut (issueRead n x hole body s) := by
  unfold issueRead
  extract_lets a s0 th g runs
  split
  · trivial
  · exact canonical_mapThr (canonical_issue h n hb hx) _ _

theorem canonical_issueCmd {s : State} (h : Canonical s) (n : Ins) (f : Go → State → Except Trap EngCmd) (mode : Bool) :
    CanonicalOut (issueCmd n s f mode) :=
  canonical_issue h n (fun g _ h => canonical_accept h f g) (raKeepsForm_none rfl)

theorem canonical_issueBad {s : State} (h : Canonical s) (n : Ins) (w : Code) : Canonical (s.issueBad n w) := by
  unfold State.issueBad
  split
  · exact canonical_issue h n (fun _ _ _ => canonicalFin_error _) (raKeepsForm_none rfl)
  · dsimp only
    exact canonical_ite (by simpa using h) (by simpa using h)

end Sys2Proof.Proofs
end

section
/-! PROOFS. What serves commands, tap items, launches, calls and requests keeps the canonical form of the memories (R136, R298, R309). -/
namespace Sys2Proof.Proofs

open Sys2Proof Sys2Proof.Machine Sys2Proof.Safety Sys2Proof.Claims

/-! ### Engine commands -/

@[simp] theorem canonical_writePlace {s : State} (h : Canonical s) (wh : Who) (p : Place) (bs : List Byte) (poison : Bool) :
    CanonicalOk (s.writePlace wh p bs poison) := by
  unfold State.writePlace
  split
  case h_1 => exact h
  case h_2 => simpa using canonical_writeAt h .scr 0 _ bs
  case h_3 d va =>
    have hw := canonical_writeVirt h wh (d.access .write) va bs poison
    split
    case h_4 s' hs =>
      split
      · exact hw.of_eq hs
      · trivial
    all_goals trivial

@[simp] theorem canonical_runMoves (s0 : State) (c : EngCmd) (keep : Nat → Bool) (k : Nat) (ms : List Move) (done : List Place)
    {s : State} (h : Canonical s) : Canonical (State.runMoves s0 c keep k ms done s) := by
  induction ms generalizing k done s with
  | nil => exact h
  | cons m rest ih =>
    refine ih _ _ ?_
    split
    · exact h
    · split
      · rename_i bs p _
        have hw := canonical_writePlace h c.who m.dst bs p
        split
        · rename_i s2 hs
          simpa using hw.of_eq hs
        · exact h
      · exact h

/-- Where a command ends or waits, its state is canonical. -/
def CanonicalRun : EngRun → Prop
  | .wait s => Canonical s
  | .done s => Canonical s
  | .hole => True

@[simp] theorem canonicalRun_wait (s : State) : CanonicalRun (.wait s) ↔ Canonical s := Iff.rfl

@[simp] theorem canonicalRun_done (s : State) : CanonicalRun (.done s) ↔ Canonical s := Iff.rfl

@[simp] theorem canonicalRun_hole : CanonicalRun .hole := trivial

@[simp] theorem canonical_runCmd {s : State} (h : Canonical s) (c : EngCmd) : CanonicalRun (s.runCmd c) := by
  unfold State.runCmd
  extract_lets wh failWith stall
  have hf (k : Cause) (ms : List Move) : CanonicalRun (failWith k ms) := by simp [failWith, h]
  have hs (pte : Nat) (ms : List Move) : CanonicalRun (stall pte ms) := by
    dsimp only [stall]
    split
    · exact hf _ _
    · simp [h]
  split
  · exact hf _ _
  · exact hs _ _
  · trivial
  · dsimp only
    split
    · exact hf _ _
    · split
      · exact hs _ _
      · split <;> simp [h]

@[simp] theorem canonical_runRound {s : State} (h : Canonical s) (cs : List EngCmd) : CanonicalRun (s.runRound cs) := by
  unfold State.runRound
  extract_lets plans
  split
  · trivial
  · split
    · simp [h]
    · refine List.foldlRecOn (motive := Canonical) plans _ h fun s h p _ => ?_
      dsimp only
      split <;> simp [h]

theorem canonical_engineCommandComplete {s : State} (h : Canonical s) (k : Nat) : CanonicalOut (execEngineCommandComplete k s) := by
  unfold execEngineCommandComplete
  split
  · exact h
  · rename_i c _
    extract_lets run
    have hr : CanonicalRun run := by
      dsimp only [run]
      split
      · split
        · exact h
        · split
          · exact h
          · exact canonical_runRound h _
      · split
        · exact h
        · exact canonical_runCmd h c
    clear_value run
    cases run <;> simp_all

/-! ### Placement -/

/-- The next team is placed where a core fits it. `bestCore` is taken out of the way first: it searches the list of every core. -/
theorem placeAll_cons (k : Nat) (r : List Nat) (s : State) :
    State.placeAll (k :: r) s = (s.bestCore (s.team k)).bind fun c => State.placeAll r (s.placeTeam k c) := by
  delta State.placeAll State.placeAll._f
  generalize State.bestCore = f
  cases h : f s (s.team k) <;> simp [h]

@[simp] theorem canonical_placeAll (ks : List Nat) {s : State} (h : Canonical s) : CanonicalSome (State.placeAll ks s) := by
  induction ks generalizing s with
  | nil => exact (canonicalSome_some s).2 h
  | cons k r ih =>
    rw [placeAll_cons]
    cases s.bestCore (s.team k) with
    | none => trivial
    | some c => exact ih (canonical_placeTeam h k c)

theorem CanonicalSome.of_eq {r : Option State} {s : State} (h : CanonicalSome r) (hr : r = some s) : Canonical s := by
  subst hr
  exact h

@[simp] theorem canonical_placeFirst {s : State} (h : Canonical s) (ks : List Nat) : CanonicalSome (s.placeFirst ks) := by
  induction ks with
  | nil => trivial
  | cons k r ih =>
    unfold State.placeFirst
    dsimp only
    split
    · rename_i s' hs
      split at hs
      · exact (canonical_placeAll _ h).of_eq hs
      · cases hs
    · exact ih

@[simp] theorem unchanged_preemptAll (l : List Nat) (s : State) : Unchanged s (l.foldl State.preemptFor s) :=
  unchanged_foldl _ (fun s k => by simp) l s

theorem canonical_distributorPlace {s : State} (h : Canonical s) (d : Nat) : CanonicalOut (execDistributorPlace d s) := by
  unfold execDistributorPlace
  extract_lets cs s' starved
  have hs : Canonical s' := by
    dsimp only [s']
    split
    · rename_i t ht
      split at ht
      · cases ht
      · simpa using (canonical_placeFirst h cs).of_eq ht
    · exact h
  simp [hs]

/-! ### Tap commands -/

@[simp] theorem canonical_tapWrite {s : State} (h : Canonical s) (w : Who) (va : Nat) (bs : List Byte) : CanonicalOk (s.tapWrite w va bs) := by
  have hw := canonical_writeVirt h w devWrite va bs false
  unfold State.tapWrite
  split
  · rename_i s' hs
    simpa using hw.of_eq hs
  · trivial
  · split <;> trivial
  · trivial

@[simp] theorem canonical_appendLog {s : State} (h : Canonical s) (w : Who) (b : List Byte) (es : List (List Byte)) :
    CanonicalOk (s.appendLog w b es) := by
  unfold State.appendLog
  split
  · exact h
  · refine canonicalOk_read _ fun pos => canonicalOk_bind (canonicalOk_foldl (fun r e hr => ?_) _ ((canonicalOk_ok s).2 h)) fun s h =>
      canonical_tapWrite h _ _ _
    exact canonicalOk_bind hr fun s h => canonical_tapWrite h _ _ _

@[simp] theorem canonical_setRow {s : State} (h : Canonical s) (w : Who) (b : List Byte) (r st : Nat) : CanonicalOk (s.setRow w b r st) :=
  canonicalOk_read _ fun _ => canonical_tapWrite h _ _ _

@[simp] theorem canonical_failRow {s : State} (h : Canonical s) (w : Who) (c : TapCmd) (r : Nat) : CanonicalOk (s.failRow w c r) := by
  have hr := canonical_setRow h w c.desc r 3
  unfold State.failRow
  split
  · rename_i s' hs
    simpa using hr.of_eq hs
  · simp [h]
  · trivial

@[simp] theorem canonical_dropServed {s : State} (h : Canonical s) (die cmd cls : Nat) : CanonicalOk (s.dropServed die cmd cls) := by
  unfold State.dropServed
  split
  · exact h
  · rename_i c _
    refine canonicalOk_foldl (fun r row hr => ?_) _ ((canonicalOk_ok s).2 h)
    split
    · trivial
    · rename_i s
      extract_lets one
      have ho : CanonicalOk one := canonicalOk_bind (canonical_appendLog hr _ _ _) fun s h => canonical_setRow h _ _ _ _
      clear_value one
      split
      · simpa using ho
      · exact canonical_failRow hr _ _ _
      · trivial

theorem canonical_teamRetire {s : State} (h : Canonical s) (k : Nat) : CanonicalOut (execTeamRetire k s) := by
  unfold execTeamRetire
  split
  · exact h
  · split
    · rename_i die cmd cls _
      have hd := canonical_dropServed h die cmd cls
      split
      · rename_i s' hs
        simpa using canonical_retireTeam (hd.of_eq hs) k
      all_goals simp [h]
    · simp [h]

/-- Where an item of a tap FIFO has been served, the state is canonical. -/
def CanonicalServe : Serve → Prop
  | .done s _ _ => Canonical s
  | .wait _ => True
  | .hole => True

@[simp] theorem canonicalServe_done (s : State) (x y : List TapItem) : CanonicalServe (.done s x y) ↔ Canonical s := Iff.rfl

@[simp] theorem canonicalServe_wait (pte : Nat) : CanonicalServe (.wait pte) := trivial

@[simp] theorem canonicalServe_hole : CanonicalServe .hole := trivial

/-- Where a chain of writes ends with a state, that is canonical. -/
def CanonicalPair {ε α : Type} : Except ε (State × α) → Prop
  | .ok p => Canonical p.1
  | .error _ => True

theorem canonicalPair_bind {ε α : Type} {r : Except ε State} (h : CanonicalOk r) {f : State → Except ε (State × α)}
    (hf : ∀ s, Canonical s → CanonicalPair (f s)) : CanonicalPair (r >>= f) := by
  cases r with
  | error e => trivial
  | ok s => exact hf s h

theorem canonicalPair_read {ε α β : Type} (r : Except ε β) {f : β → Except ε (State × α)} (hf : ∀ x, CanonicalPair (f x)) :
    CanonicalPair (r >>= f) := by
  cases r with
  | error e => trivial
  | ok x => exact hf x

@[simp] theorem canonical_serveRow {s : State} (h : Canonical s) (w : Who) (c : TapCmd) (r : Nat) (x : Except Stop (List (BitVec 16)))
    (watched : Bool) (rest : List TapItem) : CanonicalServe (s.serveRow w c r x watched rest) := by
  unfold State.serveRow
  extract_lets rs res
  have hres : CanonicalPair res := by
    refine canonicalPair_read _ fun xs => canonicalPair_read _ fun e => ?_
    extract_lets noted logged
    have hnote (s : State) (h : Canonical s) : CanonicalPair (noted s) := by
      change Canonical (s.mapDie _ _)
      simpa using h
    have hlog (s : State) (h : Canonical s) : CanonicalPair (logged s) := by
      refine canonicalPair_bind (canonical_appendLog h _ _ _) fun s h => ?_
      split
      · exact canonicalPair_bind (canonical_setRow h _ _ _ _) hnote
      · exact canonicalPair_bind ((canonicalOk_ok s).2 h) hnote
    split
    · exact canonicalPair_bind (canonical_tapWrite h _ _ _) hlog
    · exact canonicalPair_bind ((canonicalOk_ok s).2 h) hlog
  clear_value res
  have hf := canonical_failRow h w c r
  split
  · trivial
  · trivial
  · split
    · rename_i s' hs
      exact hf.of_eq hs
    · trivial
    · trivial
  · rename_i s' recs
    have h' : Canonical s' := hres
    split
    · exact h'
    · split <;> simp [h']

@[simp] theorem canonical_acceptTap {s : State} (h : Canonical s) (w : Who) (c : TapCmd) (desc : Nat) (mask : BitVec 128) :
    CanonicalServe (s.acceptTap w c desc mask) := by
  unfold State.acceptTap
  extract_lets fail row
  have hfail (v : Nat) : CanonicalServe (fail v) := by simp [fail, h]
  split
  · trivial
  · trivial
  · exact hfail _
  · rename_i b _
    split
    · trivial
    · trivial
    · exact hfail _
    · exact hfail _
    · extract_lets reads stops mark
      split
      · trivial
      · split
        · trivial
        · have hm (p : State × List TapRow) (r : RowRead) (hp : Canonical p.1) : Canonical (mark p r).1 := by
            dsimp only [mark]
            split
            · split
              · rename_i s' hs
                exact (canonical_tapWrite hp _ _ _).of_eq hs
              · exact hp
            · exact hp
          have hfold : Canonical (reads.foldl mark (s, [])).1 :=
            List.foldlRecOn (motive := fun p : State × List TapRow => Canonical p.1) reads mark h fun p hp r _ => hm p r hp
          dsimp only
          split <;> simp [hfold]

@[simp] theorem canonical_serveItem {s : State} (h : Canonical s) (die : Nat) (it : TapItem) : CanonicalServe (s.serveItem die it) := by
  cases it with
  | command c desc mask n =>
    simp only [State.serveItem]
    split <;> simp [h]
  | watched id rows =>
    simp only [State.serveItem]
    split
    · simp [h]
    · split <;> simp [h]
  | push id recs close =>
    simp only [State.serveItem]
    split
    · split
      · simp [h]
      · split
        · simp [h]
        · split <;> simp [h]
    · simp [h]
  | encode id r =>
    simp only [State.serveItem]
    split <;> simp [h]
  | fate id r mode =>
    simp only [State.serveItem]
    split
    · simp [h]
    · rename_i c _
      have hr := fun st => canonical_setRow h (s.tapWho die c.launch) c.desc r st
      split
      · simp [h]
      · split
        · simp [h]
        · split
          · rename_i s' hs
            simpa using (hr _).of_eq hs
          · trivial
          · trivial
          · simp [h]

theorem canonical_serveHead {s : State} (h : Canonical s) (die : Nat) (p : TapItem → Bool) : CanonicalOut (serveHead die p s) := by
  unfold serveHead
  extract_lets mine others
  split
  · simp [h]
  · rename_i it rest _
    split
    · simp [h]
    · have hi := canonical_serveItem h die it
      split
      · rename_i hs
        rw [hs] at hi
        simpa using hi
      · simp [h]
      · trivial

/-- Where a request has been answered, the state is canonical. -/
def CanonicalAsked : Asked → Prop
  | .done s _ => Canonical s
  | .trap _ _ => True
  | .wait _ => True
  | .hole => True

@[simp] theorem canonicalAsked_done (s : State) (vals : List (BitVec 64)) : CanonicalAsked (.done s vals) ↔ Canonical s := Iff.rfl

@[simp] theorem canonical_serveReq {s : State} (h : Canonical s) (w : Who) (q : TapReq) : CanonicalAsked (s.serveReq w q) := by
  unfold State.serveReq
  extract_lets desc tapf
  have ht (v : Nat) (e : Stop) : CanonicalAsked (tapf v e) := by
    cases e <;> trivial
  split
  · exact ht _ _
  · rename_i b _
    split
    · trivial
    · cases q with
      | rowsel d layer =>
        dsimp only
        split
        · exact ht _ _
        · exact h
      | rset d mask word =>
        dsimp only
        split
        · rename_i s' hs
          refine CanonicalOk.of_eq (canonicalOk_foldl (fun r i hr => ?_) _ ((canonicalOk_ok s).2 h)) hs
          refine canonicalOk_bind hr fun s h => canonicalOk_read _ fun x => ?_
          split
          · exact h
          · exact canonical_tapWrite h _ _ _
        · exact ht _ _
      | tapget d f row =>
        dsimp only
        split
        · trivial
        · split
          · split
            · exact h
            · exact ht _ _
          · split
            · exact h
            all_goals trivial
          · split
            · exact h
            · exact ht _ _

theorem canonical_completeRequest {s : State} (h : Canonical s) (a : Agent) (o : VOp) (q : TapReq) (ws : List RegW) :
    CanonicalOut (completeRequest s a o q ws) := by
  unfold completeRequest
  extract_lets die
  split
  · simp [h]
  · have hq := canonical_serveReq h { (s.who a) with core := none } q
    split
    · rename_i hs
      rw [hs] at hq
      simpa using hq
    all_goals simp [h]

/-! ### Completion -/

theorem canonical_startTeams {s s' : State} (h : Canonical s) {q : Nat} {e : Entry} {hargs : List (BitVec 128)} {m : BitVec 64}
    (hs : s.startTeams q e hargs = some (s', m)) : Canonical s' := by
  unfold State.startTeams at hs
  dsimp only at hs
  split at hs
  · cases hs
  · cases hs
    simp [h]

theorem canonical_completeOp {s : State} (h : Canonical s) (a : Agent) (o : VOp) : CanonicalOut (s.completeOp a o) := by
  unfold State.completeOp
  extract_lets done s1
  have h1 : Canonical s1 := by simpa [s1] using h
  have hd (s : State) (h : Canonical s) : CanonicalOut (done s) := by simpa [done] using h
  clear_value done s1
  split
  case h_1 => exact hd _ (by simp [h1])
  case h_2 => exact hd _ (by simp [h1])
  case h_3 => simp [h1]
  case h_4 => exact hd _ (by simp [h1])
  case h_5 => simp [h1]
  case h_6 => exact hd _ (by simp [h1])
  case h_7 => exact hd _ (by simp [h1])
  case h_8 => exact hd _ (by simp [h1])
  case h_9 => exact hd _ h1
  case h_10 =>
    split
    · exact h1
    · exact hd _ (by simp [h1])
  case h_11 => exact h1
  case h_12 => exact canonical_completeRequest h1 _ _ _ _
  case h_13 => split <;> simp [h1]
  case h_14 =>
    split
    · rename_i hs
      exact hd _ (by simp [canonical_startTeams h1 hs])
    · exact h1
  case h_15 => simp [h1]

theorem canonical_variableOpComplete {s : State} (h : Canonical s) (a : Agent) (k : Nat) : CanonicalOut (execVariableOpComplete a k s) := by
  unfold execVariableOpComplete
  dsimp only
  split
  · simp [h]
  · split
    · exact canonical_completeOp (by simp [h]) _ _
    · simp [h]

@[simp] theorem canonical_tryHold {s : State} (h : Canonical s) (a : Agent) (w : Hold) : CanonicalTry (s.tryHold a w) := by
  cases w <;> simp [State.tryHold, h]

theorem canonical_blockingOpComplete {s : State} (h : Canonical s) (a : Agent) : CanonicalOut (execBlockingOpComplete a s) := by
  unfold execBlockingOpComplete
  extract_lets s1 th
  have h1 : Canonical s1 := by simpa [s1] using h
  clear_value th s1
  split
  · exact h1
  · rename_i w _
    split
    · exact h1
    · have ht := canonical_tryHold h1 a w.hold
      split
      · exact h1
      · rename_i hf
        exact ht.of_further hf
      · rename_i hd
        simpa using ht.of_done hd
      · dsimp only
        split <;> simp [h1]

theorem canonical_headerPass {s : State} (h : Canonical s) : CanonicalOut (execHeaderPass s) := by
  unfold execHeaderPass
  extract_lets a th pc
  split
  · exact h
  · split
    · trivial
    · split <;> simp [h]
    · split <;> simp [h]
    · split
      · split <;> simp [h]
      · split <;> simp [h]

/-! ### Chains of launch entries -/

theorem canonical_headEntry {s s' : State} (h : Canonical s) {q : Nat} (hs : s.headEntry q = .stop s') : Canonical s' := by
  unfold State.headEntry at hs
  dsimp only at hs
  split at hs
  · cases hs
  · split at hs <;> cases hs <;> simp [h]

theorem canonical_chainStep {s : State} (h : Canonical s) (q : Nat) (op : Nat → Bool) {f : List Byte → State → Out}
    (hf : ∀ bs, CanonicalOut (f bs s)) : CanonicalOut (chainStep q op f s) := by
  unfold chainStep
  split
  · exact h
  · rename_i s' hs
    exact canonical_headEntry h hs
  · trivial
  · split
    · exact hf _
    · exact h

theorem canonical_chainLaunch {s : State} (h : Canonical s) (q : Nat) : CanonicalOut (execChainLaunch q s) := by
  refine canonical_chainStep h q _ fun bs => ?_
  dsimp only
  split
  · simp [h]
  · trivial
  · simp [h]
  · split
    · simp [h]
    · split <;> simp [h]

theorem canonical_waitEntryFinish {s : State} (h : Canonical s) (q : Nat) : CanonicalOut (execWaitEntryFinish q s) := by
  unfold execWaitEntryFinish
  split
  · split <;> simp [h]
  · exact h

theorem canonical_chainSignal {s : State} (h : Canonical s) (q : Nat) : CanonicalOut (execChainSignal q s) := by
  unfold execChainSignal
  dsimp only
  split
  · rename_i n addr va v _
    have hw := canonical_writeVirt h (s.walkerWho q) devWrite va (leBytes 8 v.toNat) false
    split
    · rename_i s' hs
      simp [hw.of_eq hs]
    · simp [h]
    · simp [h]
    · trivial
  · exact canonical_chainStep h q _ fun bs => by simp [h]

theorem canonical_launchFinish {s : State} (h : Canonical s) (k : Nat) : CanonicalOut (execLaunchFinish k s) := by
  unfold execLaunchFinish
  dsimp only
  split
  · exact h
  · split
    · split <;> simp [h]
    · simp [h]

/-! ### Calls of firmware -/

/-- Where a call has an effect, its state is canonical. -/
def CanonicalVerdict : Verdict → Prop
  | .effect s _ => Canonical s
  | .refuse _ => True
  | .skip => True
  | .hole => True

@[simp] theorem canonicalVerdict_effect (s : State) (ops : List (Agent × Nat)) : CanonicalVerdict (.effect s ops) ↔ Canonical s := Iff.rfl

@[simp] theorem canonicalVerdict_refuse (st : BitVec 8) : CanonicalVerdict (.refuse st) := trivial

theorem canonical_firmwareCall {s : State} (h : Canonical s) (c : CallHdr) (code : Byte → Bool) (least : Nat) {body : State → Verdict}
    (hb : ∀ s, Canonical s → CanonicalVerdict (body s)) : CanonicalOut (firmwareCall c code least body s) := by
  unfold firmwareCall
  split
  · exact canonical_ite (by simp [h]) h
  · exact h
  · split
    · exact h
    · extract_lets t
      have ht : Canonical t := h
      have hv := hb t ht
      split
      · simp [ht]
      · split
        · simp [ht]
        · split
          · simp [ht]
          · rename_i hs
            rw [hs] at hv
            simpa using hv
          · rename_i hs
            rw [hs] at hv
            simpa using hv
          · exact h
          · trivial

theorem canonical_placeLeaf {part va target : Nat} {l : BitVec 128} {rest : List (Nat × Nat × Option Nat)} {i node : Nat}
    {nodes : List Nat} {s s' : State} {old : BitVec 128} {pte : Nat} (h : Canonical s)
    (hs : State.placeLeaf part va target l rest i node nodes s = .ok s' old pte) : Canonical s' := by
  induction rest generalizing i node nodes s with
  | nil => cases hs
  | cons x rest ih =>
    obtain ⟨sh, bits, ps⟩ := x
    simp only [State.placeLeaf] at hs
    split at hs
    · cases hs
    · split at hs
      · split at hs
        · cases hs
        · cases hs
          simp [h]
      · split at hs
        · split at hs
          · exact ih h hs
          · cases hs
        · split at hs
          · cases hs
          · split at hs
            · cases hs
            · exact ih (by simp [h]) hs

@[simp] theorem canonical_shootDown {s : State} (h : Canonical s) (iface pte : Nat) : CanonicalVerdict (s.shootDown iface pte) := by
  simp [State.shootDown, h]

theorem canonical_mapCall {s : State} (h : Canonical s) (a : MapArgs) (q : Nat) : CanonicalVerdict (State.mapCall a q s) := by
  unfold State.mapCall
  dsimp only
  split
  · trivial
  · split
    · trivial
    · split
      · trivial
      · trivial
      · trivial
      · rename_i hs
        have := canonical_placeLeaf h hs
        split <;> simp [this]

theorem canonical_unmapCall {s : State} (h : Canonical s) (iface va q : Nat) : CanonicalVerdict (State.unmapCall iface va q s) := by
  unfold State.unmapCall
  split
  · trivial
  · split
    · trivial
    · split
      · trivial
      · exact h
      · simp [h]

theorem canonical_firstViews {part k : Nat} {vs : List (Nat × Nat)} {s s' : State} (h : Canonical s)
    (hs : State.firstViews part k vs s = some s') : Canonical s' := by
  induction vs generalizing s with
  | nil =>
    cases hs
    exact h
  | cons v r ih =>
    obtain ⟨lo, hi⟩ := v
    simp only [State.firstViews] at hs
    split at hs
    · exact ih (by simp [h]) hs
    · cases hs

theorem canonical_regionCall {s : State} (h : Canonical s) (a : RegionArgs) (q : Nat) : CanonicalVerdict (State.regionCall a q s) := by
  unfold State.regionCall
  dsimp only
  split
  · trivial
  · split
    · trivial
    · split
      · rename_i hs
        exact canonical_firstViews (by simpa using h) hs
      · trivial

theorem canonical_keynewCall {s : State} (h : Canonical s) (part : Nat) (session : BitVec 256) (id : Nat) (key : BitVec 512) :
    CanonicalVerdict (State.keynewCall part session id key s) := by
  unfold State.keynewCall
  split
  · trivial
  · split
    · trivial
    · split
      · trivial
      · exact h

theorem canonical_keynewMail {s : State} (h : Canonical s) (q id : Nat) (key : BitVec 512) :
    CanonicalVerdict (State.keynewMail q id key s) := by
  unfold State.keynewMail
  split
  · trivial
  · exact canonical_keynewCall h _ _ _ _

theorem canonical_keydelCall {s : State} (h : Canonical s) (q id : Nat) : CanonicalVerdict (State.keydelCall q id s) := by
  unfold State.keydelCall
  split
  · trivial
  · split
    · trivial
    · exact h

theorem canonical_preemptCall {s : State} (h : Canonical s) (cores ctls : List Nat) : CanonicalVerdict (State.preemptCall cores ctls s) := by
  unfold State.preemptCall
  dsimp only
  split
  · trivial
  · simp [h]

@[simp] theorem canonical_setIfaces {s : State} (h : Canonical s) (is : List IfaceArgs) : Canonical (is.foldl State.setIface s) :=
  List.foldlRecOn is _ h fun _ h i _ => canonical_setIface h i

theorem canonical_partConfigCall {s : State} (h : Canonical s) (a : PartArgs) : CanonicalVerdict (State.partConfigCall a s) := by
  unfold State.partConfigCall
  dsimp only
  split
  · trivial
  · simp [h]

theorem canonical_extentCall {s : State} (h : Canonical s) (part index : Nat) (e : ExtentArgs) :
    CanonicalVerdict (State.extentCall part index e s) := by
  unfold State.extentCall
  split
  · trivial
  · simp [h]

/-! ### Requests from outside -/

theorem canonical_serveSpdm {s : State} (h : Canonical s) (vs : List (BitVec 8)) (r : SpdmReq) (ok : State → Bool) {run : State → State}
    (hr : ∀ s, Canonical s → Canonical (run s)) : CanonicalOut (serveSpdm vs r ok run s) := by
  unfold serveSpdm
  extract_lets t
  have ht : Canonical t := by simpa [t] using h
  change Canonical _
  split_ifs
  · exact ht
  · simp [ht]
  · simp [ht]
  · simp [ht]
  · simp [ht]
  · exact hr t ht

theorem canonical_serveTdisp {s : State} (h : Canonical s) (r : SpdmReq) (q : Nat) {f : State → List Nat × State}
    (hf : ∀ s, Canonical s → Canonical (f s).2) : CanonicalOut (serveTdisp r q f s) :=
  canonical_serveSpdm h _ _ _ fun s h => by
    dsimp only
    split <;> simp [hf s h, h]

theorem canonical_moveTdi {s : State} (h : Canonical s) (q code : Nat) (p : Qif → Part → Bool) (next : Tdi) :
    Canonical (moveTdi q code p next s).2 := by
  unfold moveTdi
  dsimp only
  split <;> simp [h]

theorem canonical_keynewSecured {s : State} (h : Canonical s) (id n : Nat) (key : BitVec 512) : Canonical (s.keynewSecured id n key) := by
  unfold State.keynewSecured
  split
  · exact h
  · split
    · simp [h]
    · split
      · simp [h]
      · split
        · simp [h]
        · rename_i x _ _ p _
          have hv := canonical_keynewCall h p x.key id key
          split
          · simp [h]
          · rename_i hs
            rw [hs] at hv
            simpa using hv
          · exact h

theorem canonical_hostAct {s : State} (h : Canonical s) (a : HostAct) : CanonicalOut (s.hostAct a) := by
  cases a with
  | callReq q off bs => simp [State.hostAct, h]
  | bell q => simp [State.hostAct, h]
  | trace r p on =>
    simp only [State.hostAct, State.setTrace]
    exact canonical_serveSpdm h _ _ _ fun s h => by simp [h]
  | congestion pkg rate =>
    simp only [State.hostAct]
    split <;> simp [h]

/-! ### Views -/

theorem canonical_vopen {s : State} (h : Canonical s) (part : Nat) (hp : BitVec 128) (lo hi dst : Nat) :
    CanonicalView (s.vopen part hp lo hi dst) := by
  unfold State.vopen
  extract_lets go
  have hgo (k : Nat) (wide : Bool) (f : Nat → BitVec 128) : CanonicalView (go k wide f) := by
    dsimp only [go]
    split
    · trivial
    · split <;> simp [h]
  split
  · split
    · trivial
    · exact hgo _ _ _
  · split
    · split
      · trivial
      · exact hgo _ _ _
    · trivial

theorem canonical_vnar {s : State} (h : Canonical s) (part : Nat) (hd : BitVec 128) (lo hi : Nat) : CanonicalView (s.vnar part hd lo hi) := by
  unfold State.vnar
  split
  · trivial
  · split <;> simp [h]

theorem canonical_vsplit {s : State} (h : Canonical s) (part : Nat) (hd : BitVec 128) (m dst : Nat) :
    CanonicalView (s.vsplit part hd m dst) := by
  unfold State.vsplit
  split
  · trivial
  · split
    · trivial
    · split <;> simp [h]

theorem canonical_vclose {s : State} (h : Canonical s) (part : Nat) (hd : BitVec 128) : CanonicalView (s.vclose part hd) := by
  unfold State.vclose
  split <;> simp [h]

/-! ### Events of the device -/

theorem canonical_fillComplete {s : State} (h : Canonical s) (sqe : Nat) : CanonicalOut (execFillComplete sqe s) := by
  unfold execFillComplete
  split
  · exact h
  · dsimp only
    split
    · exact h
    · split
      · simp [h]
      · split <;> simp [h]

theorem canonical_harvestFree {s : State} (h : Canonical s) (die : Nat) : CanonicalOut (execHarvestFree die s) := by
  unfold execHarvestFree
  split
  · exact h
  · split
    · exact h
    · dsimp only
      split <;> simp [h]

@[simp] theorem canonical_killAll {s : State} (h : Canonical s) (ps : List Nat) : Canonical (ps.foldl State.kill s) :=
  List.foldlRecOn ps _ h fun _ h p _ => canonical_kill h p

theorem canonical_hostLinkReset {s : State} (h : Canonical s) : CanonicalOut (execHostLinkReset s) :=
  List.foldlRecOn (motive := Canonical) _ _ h fun s h p _ => by simp [h]

theorem canonical_eccUncorrectable {s : State} (h : Canonical s) (w : EccPlace) : CanonicalOut (execEccUncorrectable w s) := by
  cases w with
  | memory pa =>
    simp only [execEccUncorrectable]
    split
    · split <;> simp [h]
    · exact h
  | code a =>
    simp only [execEccUncorrectable]
    split <;> simp [h]
  | coreScratch c off => exact canonical_ite (by simp [h]) h
  | dieScratch d off => exact canonical_ite (by simp [h]) h
  | register a reg lane => exact canonical_ite (by simp [h]) h
  | handle a n => exact canonical_ite (by simp [h]) h
  | accumulator q n e => simp [execEccUncorrectable, h]
  | metadata p => simp [execEccUncorrectable, h]

theorem canonical_sharedTagParityError {s : State} (h : Canonical s) (bank : Nat) : CanonicalOut (execSharedTagParityError bank s) := by
  unfold execSharedTagParityError
  split
  · simp [h]
  · split <;> simp [h]

theorem canonical_linkRetrain {s : State} (h : Canonical s) (n : Nat) : CanonicalOut (execLinkRetrain n s) := by
  unfold execLinkRetrain
  dsimp only
  split
  · exact h
  · split
    · simp [h]
    · split <;> simp [h]

theorem canonical_thermalShutdown {s : State} (h : Canonical s) : CanonicalOut (execThermalShutdown s) := by
  unfold execThermalShutdown
  extract_lets p due
  split
  · exact h
  · exact canonical_bringUp (canonical_killAll h _) _ _

end Sys2Proof.Proofs
end

section
/-! PROOFS. Every step keeps the canonical form of the memories (R136, R298, R309). -/
namespace Sys2Proof.Proofs

open Sys2Proof Sys2Proof.Machine Sys2Proof.Safety Sys2Proof.Claims

/-! ### Every instruction and event -/

/-- One case for each shared path of the instructions, and one for each event that has a lemma above; the other events choose
between states that hold the same bytes. -/
theorem canonical_exec (i : Instr) {s : State} (h : Canonical s) : CanonicalOut (exec i s) := by
  cases i
  case add | sub | mul | mulhi | mad | min | max | abs | neg | and | or | xor | not | shl | shr | sar | rot | popc | clz | bfe | bfi
      | addi | li | lih | mov | lea | cvt | fadd | fsub | fmul | fma | fmin | fmax | fabs | fneg | fround | fclass | fscl | fgetx | rcps
      | rsqs | exs | lgs | sns | css | dot2 | dot4 | pk2 | upk2 | upk4 | hadd2 | hmul2 | hfma2 | shfl | match_ | cmpct | bcast | ffs
      | cmp | fcmp | fcvt | pk4 | vote | scan | red | segred =>
    exact canonical_issueFixed h _ _ (raKeepsForm_none rfl)
  case nop | div | rem | fdiv | fsqrt | srt | topk | kmerge | lperm | br | brc | brl | brx | call | ret | exit | yield | halt | trap | brk
      | bar | barv | barw | fenceFull | fenceAcq | fenceRel | twany | twall | tffs | tclr | racq | rrel | tgrow | tshrink | hmk | vinfo
      | hpub | fbset | fbclr | sfpre | mmz | mst | mld | mscl | mfeed | mdrain | tap | rowsel | rset | wret | wrd | qpush | qclose | segset
      | fpadd | tlbiPage | tlbiInterface | tlbiAll | dbgset | mrst | sel | rgput | rgget | tret | tag | tagset | hget | mma | tapget
      | srd | swr =>
    exact canonical_issue h _ (fun g s h => by simp [h]) (raKeepsForm_none rfl) _
  case vopen => exact canonical_issue h _ (fun g s h => canonical_viewBody g (canonical_vopen h _ _ _ _ _)) (raKeepsForm_none rfl)
  case vnar => exact canonical_issue h _ (fun g s h => canonical_viewBody g (canonical_vnar h _ _ _ _)) (raKeepsForm_none rfl)
  case vsplit => exact canonical_issue h _ (fun g s h => canonical_viewBody g (canonical_vsplit h _ _ _ _)) (raKeepsForm_none rfl)
  case vclose => exact canonical_issue h _ (fun g s h => canonical_viewBody g (canonical_vclose h _ _)) (raKeepsForm_none rfl)
  case cpy | cpy2 | gth | sct | coll | fill => exact canonical_issueCmd h _ _ _
  case st | sts | atom | cas | atoms | hst => exact canonical_issueM h _ _ (fun p g s h => by simp [h]) (raKeepsForm_none rfl)
  case ld | hld =>
    exact canonical_issueM h _ _ (fun p g s h => by simp [h]) (raKeepsForm_some rfl fun g s h => canonical_raPrefetch h _ _ _ g)
  case lds => exact canonical_issueM h _ _ (fun p g s h => by simp [h]) (raKeepsForm_some rfl fun g s h => canonical_raLds h g)
  case pf => exact canonical_issue h _ (fun g s h => by simp [h]) (raKeepsForm_some rfl fun g s h => canonical_raPrefetch h _ _ _ g)
  case tlaunch | pgev =>
    dsimp only [exec, execTlaunch, execPgev]
    exact canonical_issueRead h _ _ (fun g s h => by simp [h]) (raKeepsForm_none rfl)
  case getVersion | getCapabilities | negotiateAlgorithms | getDigests | getCertificate | challenge | getMeasurements | finish | endSession =>
    dsimp only [exec, execGetVersion, execGetCapabilities, execNegotiateAlgorithms, execGetDigests, execGetCertificate, execChallenge,
      execGetMeasurements, execFinish, execEndSession]
    exact canonical_serveSpdm h _ _ _ fun s h => by simp [h]
  case keyExchange =>
    dsimp only [exec, execKeyExchange]
    refine canonical_serveSpdm h _ _ _ fun s h => ?_
    split <;> simp [h]
  case unsupportedRequest =>
    dsimp only [exec, execUnsupportedRequest]
    split
    · exact h
    · exact canonical_serveSpdm h _ _ _ fun s h => by simp [h]
  case getTdispVersion | getTdispCapabilities | getDeviceInterfaceReport | getDeviceInterfaceState | stopInterfaceRequest =>
    dsimp only [exec, execGetTdispVersion, execGetTdispCapabilities, execGetDeviceInterfaceReport, execGetDeviceInterfaceState,
      execStopInterfaceRequest]
    exact canonical_serveTdisp h _ _ fun s h => by simp [h]
  case startInterfaceRequest =>
    dsimp only [exec, execStartInterfaceRequest]
    exact canonical_serveTdisp h _ _ fun s h => canonical_moveTdi h _ _ _ _
  case lockInterfaceRequest =>
    dsimp only [exec, execLockInterfaceRequest]
    exact canonical_serveTdisp h _ _ fun s h => canonical_ite (canonical_moveTdi h _ _ _ _) (canonical_moveTdi h _ _ _ _)
  case map =>
    dsimp only [exec, execMap]
    exact canonical_firmwareCall h _ _ _ fun s h => canonical_mapCall h _ _
  case unmap =>
    dsimp only [exec, execUnmap]
    exact canonical_firmwareCall h _ _ _ fun s h => canonical_unmapCall h _ _ _
  case region =>
    dsimp only [exec, execRegion]
    exact canonical_firmwareCall h _ _ _ fun s h => canonical_regionCall h _ _
  case keydel =>
    dsimp only [exec, execKeydel]
    exact canonical_firmwareCall h _ _ _ fun s h => canonical_keydelCall h _ _
  case preempt =>
    dsimp only [exec, execPreempt]
    exact canonical_firmwareCall h _ _ _ fun s h => canonical_preemptCall h _ _
  case partConfig =>
    dsimp only [exec, execPartConfig]
    exact canonical_firmwareCall h _ _ _ fun s h => canonical_partConfigCall h _
  case extent =>
    dsimp only [exec, execExtent]
    exact canonical_firmwareCall h _ _ _ fun s h => canonical_extentCall h _ _ _
  case unknownCall =>
    dsimp only [exec, execUnknownCall]
    exact canonical_firmwareCall h _ _ _ fun s h => canonicalVerdict_refuse _
  case keynew c id key =>
    dsimp only [exec, execKeynew]
    split
    · exact canonical_firmwareCall h _ _ _ fun s h => canonical_keynewMail h _ _ _
    · exact canonical_keynewSecured h _ _ _
  case headerPass => exact canonical_headerPass h
  case variableOpComplete => exact canonical_variableOpComplete h _ _
  case blockingOpComplete => exact canonical_blockingOpComplete h _
  case teamRetire => exact canonical_teamRetire h _
  case tapCommandServe | backgroundEncode | rowFate => exact canonical_serveHead h _ _
  case engineCommandComplete => exact canonical_engineCommandComplete h _
  case distributorPlace => exact canonical_distributorPlace h _
  case chainLaunch => exact canonical_chainLaunch h _
  case chainWait | chainInvalidOp =>
    dsimp only [exec, execChainWait, execChainInvalidOp]
    exact canonical_chainStep h _ _ fun bs => by simp [h]
  case waitEntryFinish => exact canonical_waitEntryFinish h _
  case chainSignal => exact canonical_chainSignal h _
  case launchFinish => exact canonical_launchFinish h _
  case fillComplete => exact canonical_fillComplete h _
  case harvestFree => exact canonical_harvestFree h _
  case hostLinkReset => exact canonical_hostLinkReset h
  case eccUncorrectable => exact canonical_eccUncorrectable h _
  case sharedTagParityError => exact canonical_sharedTagParityError h _
  case linkRetrain => exact canonical_linkRetrain h _
  case thermalShutdown => exact canonical_thermalShutdown h
  case packageReset => exact canonical_bringUp h _ _
  case matrixEngineTurn q =>
    dsimp only [exec, execMatrixEngineTurn]
    split
    · exact h
    · split <;> simp [h]
  case controlCoreRestart | eccCorrectable | cacheCopyExpiry | fixedResultLand =>
    simp [exec, execControlCoreRestart, execEccCorrectable, execCacheCopyExpiry, execFixedResultLand, h]
  case storageDmaReject | firmwareEndsProgram | dieFirmwareReset | leaseClockResync | ideKm | clockStepDown | clockStepUp | powerCapSet =>
    dsimp only [exec, execStorageDmaReject, execFirmwareEndsProgram, execDieFirmwareReset, execLeaseClockResync, execIdeKm,
      execClockStepDown, execClockStepUp, execPowerCapSet]
    split_ifs <;> simp [h]
  case latchPinRelease | runaheadEntry | runaheadLimit | thaw | swapOut | sqeFillRead | fillReadFail | nvmeReadTimeout | registerDeadlock
      | tail | controlProgramStart | finperFlit | finperReplay | groupEnd | equinoxStop | solsticeSave | stealRequest | fibreScanner
      | controlCoreSave =>
    dsimp only [exec, execLatchPinRelease, execRunaheadEntry, execRunaheadLimit, execThaw, execSwapOut, execSqeFillRead, execFillReadFail,
      execNvmeReadTimeout, execRegisterDeadlock, execTail, execControlProgramStart, execFinperFlit, execFinperReplay, execGroupEnd,
      execEquinoxStop, execSolsticeSave, execStealRequest, execFibreScanner, execControlCoreSave]
    repeat' split
    all_goals simp [h]

/-! ### Turns -/

/-- Where what a turn comes to has a state, that is canonical. -/
def CanonicalGiven : Given → Prop
  | .next s => Canonical s
  | .exec _ s => Canonical s
  | .hole => True

@[simp] theorem canonicalGiven_next (s : State) : CanonicalGiven (.next s) ↔ Canonical s := Iff.rfl

@[simp] theorem canonicalGiven_exec (i : Instr) (s : State) : CanonicalGiven (.exec i s) ↔ Canonical s := Iff.rfl

theorem canonical_run {g : Given} (h : CanonicalGiven g) : CanonicalOut g.run := by
  cases g with
  | next s => exact h
  | exec i s => exact canonical_exec i h
  | hole => trivial

/-- Where an upkeep is a state, that is canonical. -/
def CanonicalUpkeep : Option Upkeep → Prop
  | some (.state s) => Canonical s
  | _ => True

theorem canonicalUpkeep_ite {c : Prop} [Decidable c] {u v : Option Upkeep} (hu : CanonicalUpkeep u) (hv : CanonicalUpkeep v) :
    CanonicalUpkeep (if c then u else v) := by
  split <;> assumption

theorem canonical_upkeep {s : State} (h : Canonical s) (a : Agent) : CanonicalUpkeep (s.upkeep a) := by
  unfold State.upkeep
  extract_lets th
  refine canonicalUpkeep_ite trivial (canonicalUpkeep_ite trivial (canonicalUpkeep_ite trivial (canonicalUpkeep_ite trivial ?_)))
  split
  case h_4 => exact canonical_ite (by simp [h]) (by simp [h])
  case h_5 => exact canonical_ite (by simp [h]) (by simp [h])
  case h_6 =>
    refine canonical_ite (by simp [h]) ?_
    split <;> simp [h]
  case h_7 => exact canonicalUpkeep_ite (canonical_mapThr h _ _) (canonicalUpkeep_ite trivial trivial)
  all_goals trivial

theorem canonical_firstUpkeep {s : State} (h : Canonical s) {l : List Agent} {a : Agent} {u : Upkeep}
    (hu : s.firstUpkeep l = some (a, u)) : CanonicalUpkeep (some u) := by
  induction l with
  | nil => cases hu
  | cons b r ih =>
    unfold State.firstUpkeep at hu
    split at hu
    · rename_i hb
      cases hu
      exact hb ▸ canonical_upkeep h a
    · exact ih hu

theorem canonical_doUpkeep {s : State} (h : Canonical s) (t : Turn) (a : Agent) {u : Upkeep} (hu : CanonicalUpkeep (some u)) :
    CanonicalGiven (s.doUpkeep t a u) := by
  cases u with
  | step i => exact h
  | state s' => exact hu
  | hole => trivial

theorem canonical_give {s : State} (h : Canonical s) (a : Agent) (n : Ins) (w : Code) : CanonicalGiven (s.give a n w) := by
  unfold State.give
  extract_lets th s1 s2 s3
  have h2 : Canonical s2 := canonical_noteAccess (s := s1) h _ _ _
  have h3 : Canonical s3 := canonical_ite (canonical_mapThr h2 _ _) h2
  clear_value s2 s3
  split
  · simp [h2]
  · split
    · split <;> simp [h2]
    · split
      · exact h3
      · exact canonical_issueBad h3 n _

theorem canonical_quarterTurn {s : State} (h : Canonical s) (core q : Nat) : CanonicalGiven (s.quarterTurn core q) := by
  unfold State.quarterTurn
  extract_lets gs elig pin awake cand held pick s'
  have h' : Canonical s' := by simp [s', h]
  clear_value s' pick
  split
  · exact h
  · split
    · rename_i hu
      exact canonical_doUpkeep h _ _ (canonical_firstUpkeep h hu)
    · split
      · exact h
      · split
        · split
          · exact canonical_give (by simp [h']) _ _ _
          · exact h'
        · simp [h']

theorem canonical_controlTurn {s : State} (h : Canonical s) (q : Nat) : CanonicalGiven (s.controlTurn q) := by
  unfold State.controlTurn
  extract_lets a
  split
  · rename_i hu
    exact canonical_doUpkeep h _ _ (hu ▸ canonical_upkeep h _)
  · split
    · split
      · exact canonical_give (by simp [h]) _ _ _
      · exact h
    · exact h

theorem canonical_turn {s : State} (h : Canonical s) (t : Turn) : CanonicalOut (s.turn t) := by
  cases t with
  | tick => simp [State.turn, h]
  | quarter c q => exact canonical_run (canonical_quarterTurn h c q)
  | control q => exact canonical_run (canonical_controlTurn h q)
  | event i =>
    dsimp only [State.turn]
    split
    · exact canonical_exec i h
    · exact h
  | host a => exact canonical_hostAct h a

theorem canonical_step {s : State} (h : Canonical s) : CanonicalOut (Sys2Proof.Machine.step s) := by
  refine canonical_turn ?_ _
  unfold State.takeTurn
  split <;> exact h

/-- Settles O31, by the same for every write of the model: the memories change by `Memory.write`, by a filter, and by reset alone. -/
theorem everyStepKeepsTheCanonicalFormOfMemory : Obligations.EveryStepKeepsTheCanonicalFormOfMemory := by
  unfold Obligations.EveryStepKeepsTheCanonicalFormOfMemory
  intro s t hs hst
  have h := canonical_step hs
  rw [show Sys2Proof.Machine.step s = .next t from hst] at h
  exact h

end Sys2Proof.Proofs
end

section
/-! PROOFS. A store to a formatted page whose frame lies in no region of Table 20.4 is no step, also where it leaves part of a block
(R84, R298, R301). -/
namespace Sys2Proof.Proofs

open Sys2Proof Sys2Proof.Machine Sys2Proof.Safety Sys2Proof.Claims

/-- The leaf of a resident page of format 0x0A that may be read and written, in frame 2^24: its bytes begin at 2^40, where the HBM
ends and nothing follows. -/
def strayLeaf : BitVec 128 := BitVec.ofNat 128 (0xC7 + 0x0A * 2 ^ 20 + 2 ^ 24 * 2 ^ 30)

/-- A group of 32 lanes at address 0, with 16 registers of zeros and in h0 one element of 4 bytes at address 0. -/
def strayThread : Thr :=
  { Thr.idle false with pcv := List.replicate 32 0, chunks := 1, hs := [(0, ⟨Hd.make 0 0 0 1 4 0, false, false⟩)] }

/-- The group on core 0, whose TLB holds the leaf for page 0; the frame is recorded as its partition's. -/
def strayState : State :=
  { State.reset with
    cur := .grp 0 0
    teams := [(0, { Team.absent with groups := [(0, strayThread)] })]
    frames := [(2 ^ 24, ⟨some 0, some 0, 1, false⟩)]
    cores := [(0, { Core.reset with tlb := [⟨0, 0, 0, strayLeaf, 0⟩] })] }

/-- st.f32 of v1 through h0 at index v0, with flag 0. -/
def strayStore : PayM := ⟨1, 0, 0, 4, 0, 0, 0, 0, none⟩
@[inherit_doc strayStore]
def strayCtl : Ctl := ⟨0, 0, 0, 0, 0, 0⟩
@[inherit_doc strayStore]
def strayIns : Ins := strayStore.ins (pageRow Rows.rowSt (strayState.pageFmt strayStore.h)) strayCtl

theorem clear_strayStore : Clear strayIns {} strayState where
  awake := by decide +kernel
  early := by decide +kernel
  late := by decide +kernel
  some := by decide +kernel
  sound := by decide +kernel

theorem traps_strayStore : (globalPlan strayIns strayState .write).traps = [] := by decide +kernel

/-- Every lane stores element 0, so that element 1 of its block is supplied by none. -/
theorem short_strayStore :
    let u := noted strayIns 0 strayState
    let h := ((u.thr strayState.cur).hreg strayStore.h.toNat).v
    let fg := u.baseFormat (u.who strayState.cur) h
    let place (l : Nat) : Nat × Nat := Block.place fg.1 fg.2 (Hd.stride h) ((sight strayIns 0 strayState).index l)
    fg.1 ≠ 0 ∧ (sight strayIns 0 strayState).act.getLsbD 0 = true ∧
      ∃ j < Block.elems fg.1, ∀ m < 32, (sight strayIns 0 strayState).act.getLsbD m = true → place m ≠ ((place 0).1, j) := by
  refine ⟨?_, ?_, 1, ?_, ?_⟩ <;> decide +kernel

/-- The store does not take a step: its translation names no memory. -/
theorem exec_strayStore (t : State) : exec (.st strayCtl strayStore) strayState ≠ .next t := by
  have stops : (match exec (.st strayCtl strayStore) strayState with | .next _ => false | _ => true) = true := by decide +kernel
  intro h
  rw [h] at stops
  cases stops

/-- Refutes O40, by its clause on FMTPART: the store of `strayState` issues clear, raises no cause in any lane and leaves part of a
block, but its lanes' translation ends at an address without memory, where the machine stops (R298, R301) before FMTPART is taken. -/
theorem not_accessesTrapWaitOrAreInFlight : ¬ Obligations.AccessesTrapWaitOrAreInFlight := by
  unfold Obligations.AccessesTrapWaitOrAreInFlight
  intro h
  obtain ⟨-, ⟨-, -, fmtpart⟩, -⟩ := h strayCtl strayStore ⟨0, 0, 0, 0, 0, none⟩ ⟨0, 0, 0, 0, 0, 0, 0, 0, 0⟩ ⟨0, 0, 0, 0, 0, 0⟩ strayState
  obtain ⟨_, _, taken, -⟩ := fmtpart clear_strayStore traps_strayStore ⟨0, by decide, short_strayStore⟩
  exact exec_strayStore _ taken

end Sys2Proof.Proofs
end

section
/-! PROOFS. The checks of a lane of an access and the place of its element: through a handle whose base lies on a plain page, and in
the four local spaces (R137, R138, R140, R144). -/
namespace Sys2Proof.Proofs

open Sys2Proof Sys2Proof.Machine Sys2Proof.Safety Sys2Proof.Claims

/-! ### The fields of a handle (Table 8.2) -/

theorem toNat_field {w : Nat} (h : BitVec w) (lo n : Nat) : bitsOf h.toNat lo n = (h.extractLsb' lo n).toNat := by
  rw [BitVec.extractLsb'_toNat, bitsOf, Nat.shiftRight_eq_div_pow]

theorem hd_base (h : BitVec 128) : Hd.base h = (h.extractLsb' 0 52).toNat := toNat_field h _ _
theorem hd_kind (h : BitVec 128) : Hd.kind h = (h.extractLsb' 52 4).toNat := toNat_field h _ _
theorem hd_extent (h : BitVec 128) : Hd.extent h = (h.extractLsb' 64 32).toNat := toNat_field h _ _
theorem hd_stride (h : BitVec 128) : Hd.stride h = (h.extractLsb' 96 16).toNat := toNat_field h _ _
theorem hd_slot (h : BitVec 128) : Hd.slot h = (h.extractLsb' 112 16).toNat := toNat_field h _ _
theorem hd_swiz (h : BitVec 128) : Hd.swiz h = (h.extractLsb' 56 8).toNat := toNat_field h _ _

theorem hd_mode (h : BitVec 128) : Hd.mode h = (h.extractLsb' 62 2).toNat := by
  simp only [Hd.mode, Hd.swiz, bitsOf, BitVec.extractLsb'_toNat, Nat.shiftRight_eq_div_pow]
  omega
theorem hd_b (h : BitVec 128) : Hd.b h = (h.extractLsb' 59 3).toNat := by
  simp only [Hd.b, Hd.swiz, bitsOf, BitVec.extractLsb'_toNat, Nat.shiftRight_eq_div_pow]
  omega
theorem hd_s (h : BitVec 128) : Hd.s h = (h.extractLsb' 56 3).toNat := by
  simp only [Hd.s, Hd.swiz, bitsOf, BitVec.extractLsb'_toNat, Nat.shiftRight_eq_div_pow]
  omega

theorem swizOk_iff (h : BitVec 128) : Hd.swizOk h = true ↔ Hd.mode h = 1 ∨ (Hd.mode h = 0 ∧ Hd.b h = 0 ∧ Hd.s h = 0) := by
  simp [Hd.swizOk, or_comm, and_assoc]

theorem swiz_ne_zero_iff (h : BitVec 128) : Hd.swiz h ≠ 0 ↔ h.extractLsb' 56 8 ≠ (0 : BitVec 8) := by
  rw [hd_swiz, Ne, Ne, ← BitVec.toNat_inj]
  rfl

theorem inView_iff (s : State) (part slot o n : Nat) :
    s.inView part slot o n = true ↔ (s.view part slot).isOpen = true ∧
      (s.region part (s.view part slot).region).rbase + (s.view part slot).lo * 2 ^ (s.region part (s.view part slot).region).esh ≤ o ∧
      o + n ≤ (s.region part (s.view part slot).region).rbase + (s.view part slot).hi * 2 ^ (s.region part (s.view part slot).region).esh := by
  simp [State.inView, and_assoc]

/-! ### The checks of a lane through a handle whose base lies on a plain page (R144) -/

/-- Whether a leaf is of a page that is not plain. -/
def unlikePlain (lf : BitVec 128) : Bool := (Leaf.fmt lf, Leaf.geo lf) != (0, 0)

theorem unlikePlain_iff (lf : BitVec 128) : unlikePlain lf = true ↔ ¬(Leaf.fmt lf = 0 ∧ Leaf.geo lf = 0) := by
  simp [unlikePlain]

/-- The element of a lane at a physical address of a plain page. -/
def plainElem (s : State) (wh : Who) (h : BitVec 128) (w l e va pa : Nat) (lf : BitVec 128) : Elem :=
  { lane := l, sp := .mem, a := pa, w := w, key := Leaf.key lf, fmt := 0, pos := (Block.place 0 0 (Hd.stride h) e).2, data := 0, data2 := 0
    poison := false
    alt := if Leaf.cls lf = 3 then
        some (wh.part * 65536 + Hd.slot h, canon (s.frameOf wh.part (Hd.slot h) true lf * 65536 + va % 2 ^ pageBits (Leaf.ps lf)))
      else none }

/-- What the translation of a lane's address comes to, where the handle's base lies on a plain page: the last steps of R144. -/
def plainReach (s : State) (wh : Who) (need : Need) (h : BitVec 128) (w l e va : Nat) : Tr → LaneR
  | .hole => .hole
  | .cause c =>
    let bad : Bool := match s.leafOf wh need va with | (.leaf lf _, _) => unlikePlain lf | _ => false
    .trap (if c = .keyalias ∧ bad then .perm else c) va
  | .absent pte lf => if unlikePlain lf then .trap .perm va else if va % w ≠ 0 then .trap .align va else .absent pte va
  | .ok pa lf =>
    if unlikePlain lf then .trap .perm va else if va % w ≠ 0 then .trap .align va else .el (plainElem s wh h w l e va pa lf) va

section
variable {s : State} {wh : Who} {need : Need} {h : BitVec 128} {w l e : Nat} (plainBase : s.baseFormat wh h = (0, 0))
include plainBase

theorem laneCheck_illegal (bad : ¬(Hd.kind h < 3 ∧ Hd.swizOk h = true)) : s.laneCheck wh need h w l e = .trap .perm 0 := by
  have : 3 ≤ Hd.kind h ∨ (!Hd.swizOk h) = true := by
    by_contra none
    simp only [not_or, Bool.not_eq_true', Bool.not_eq_false] at none
    exact bad ⟨Nat.lt_of_not_le none.1, none.2⟩
  unfold State.laneCheck
  rw [plainBase]
  exact if_pos (this.imp id .inl)

variable (legal : Hd.kind h < 3 ∧ Hd.swizOk h = true)
include legal

/-- After the first check of R144. -/
theorem laneCheck_legal : s.laneCheck wh need h w l e =
    if Hd.extent h ≤ e then .trap .bounds e
    else if Hd.kind h = 1 ∧ Hd.swiz h ≠ 0 then .trap .perm 0
    else if Hd.kind h = 1 ∧ !s.inView wh.part (Hd.slot h) (Hd.base h + Hd.offset h w e) w then .trap .viewclosed e
    else plainReach s wh need h w l e (Hd.base h + Hd.offset h w e)
      (s.translate wh ⟨need, Hd.kind h, Hd.slot h, false⟩ (Hd.base h + Hd.offset h w e)) := by
  obtain ⟨kind, swiz⟩ := legal
  have ok : ¬(3 ≤ Hd.kind h ∨ (!Hd.swizOk h) = true ∨ Hd.swiz h ≠ 0 ∧ (0 : Nat) ≠ 0) := by
    rw [swiz]
    simpa using kind
  unfold State.laneCheck
  rw [plainBase]
  dsimp only
  rw [if_neg ok, if_neg (show ¬((0 : Nat) ≠ 0 ∧ _) from fun h => h.1 rfl)]
  have plain (lf : BitVec 128) : ((Leaf.fmt lf, Leaf.geo lf) != (0, 0) || (0 : Nat) == 15 && need != .read ||
      (0 : Nat) != 0 && need == .rmw) = unlikePlain lf := by
    simp [unlikePlain]
  simp only [if_true, plain, true_and]
  cases s.translate wh ⟨need, Hd.kind h, Hd.slot h, false⟩ (Hd.base h + Hd.offset h w e) <;> rfl

/-- The lane reaches its address: where the checks of the handle pass (R144). -/
theorem laneCheck_reaches (within : Hd.extent h > e) (seen : Hd.kind h = 1 → Hd.swiz h = 0 ∧
    s.inView wh.part (Hd.slot h) (Hd.base h + Hd.offset h w e) w = true) : s.laneCheck wh need h w l e =
    plainReach s wh need h w l e (Hd.base h + Hd.offset h w e)
      (s.translate wh ⟨need, Hd.kind h, Hd.slot h, false⟩ (Hd.base h + Hd.offset h w e)) := by
  rw [laneCheck_legal plainBase legal, if_neg (Nat.not_le.mpr within), if_neg fun h => h.2 (seen h.1).1, if_neg]
  intro ⟨view, shut⟩
  rw [(seen view).2] at shut
  exact absurd shut (by decide)

end

theorem translate_beyond {s : State} {wh : Who} {acc : Access} {va : Nat} (far : 2 ^ 52 ≤ va) : s.translate wh acc va = .cause .nomap :=
  if_pos far

/-- An address that translates is one of the 52 bits, and its leaf permits the access (R144, R297). -/
theorem of_translate_ok {s : State} {wh : Who} {acc : Access} {va pa : Nat} {lf : BitVec 128}
    (ok : s.translate wh acc va = .ok pa lf) : va < 2 ^ 52 ∧ permits acc.need lf = true := by
  unfold State.translate at ok
  split at ok
  case isTrue => exact absurd ok (by simp)
  case isFalse near =>
  refine ⟨Nat.lt_of_not_le near, ?_⟩
  split at ok
  case h_1 => exact absurd ok (by simp)
  case h_2 => exact absurd ok (by simp)
  case h_3 =>
  split at ok
  case isTrue => exact absurd ok (by simp)
  case isFalse =>
  split at ok
  case isTrue => exact absurd ok (by simp)
  case isFalse allowed =>
  split at ok
  case isTrue => exact absurd ok (by simp)
  case isFalse =>
  dsimp only at ok
  split at ok
  case isTrue => exact absurd ok (by simp)
  case isFalse =>
  split at ok
  case isTrue => exact absurd ok (by simp)
  case isFalse =>
  split at ok
  case isTrue => exact absurd ok (by simp)
  case isFalse =>
  cases ok
  simp only [Bool.or_eq_true, Bool.not_eq_true', not_or, Bool.not_eq_false] at allowed
  exact allowed.1.1

/-- What the address of a lane that passes the checks of its handle comes to, case by case (R144). -/
theorem plainReach_cause {s : State} {wh : Who} {need : Need} {h : BitVec 128} {w l e va : Nat} {c : Cause} (other : c ≠ .keyalias) :
    plainReach s wh need h w l e va (.cause c) = .trap c va := by
  simp [plainReach, other]

theorem plainReach_keyalias {s : State} {wh : Who} {need : Need} {h : BitVec 128} {w l e va pte : Nat} {lf : BitVec 128} {b : Bool}
    (leaf : s.leafOf wh need va = (.leaf lf pte, b)) :
    plainReach s wh need h w l e va (.cause .keyalias) = .trap (if unlikePlain lf then .perm else .keyalias) va := by
  simp [plainReach, leaf]

/-! ### The local spaces (R137, R138) -/

theorem seg_limit (sg : BitVec 64) : (sg >>> 32).toNat = (sg.extractLsb' 32 32).toNat := by
  rw [BitVec.toNat_ushiftRight, BitVec.extractLsb'_toNat, Nat.shiftRight_eq_div_pow]
  omega

theorem seg_base (sg : BitVec 64) : sg.toNat % 2 ^ 32 = (sg.extractLsb' 0 32).toNat := by
  rw [BitVec.extractLsb'_toNat, Nat.shiftRight_zero]

section
variable {s : State} {a : Agent} {sp w l b : Nat}

theorem laneLocal_bounds (none : s.localPlace a sp l b w = none) : s.laneLocal a sp w l b = .trap .bounds b := by
  rw [State.laneLocal, none]

theorem localPlace_beyond (out : (((s.thr a).seg sp).extractLsb' 32 32).toNat < b + w) : s.localPlace a sp l b w = none := by
  rw [← seg_limit] at out
  exact if_pos out

theorem localPlace_quad_beyond (out : 4 * (s.quad (s.quadOf a)).quadPart < (((s.thr a).seg 2).extractLsb' 0 32).toNat + b + w) :
    s.localPlace a 2 l b w = none := by
  rw [← seg_base] at out
  unfold State.localPlace
  dsimp only
  rw [if_pos out]
  exact ite_self _

/-- The place of an element in one of the four local spaces, by the segment register of its space. -/
def localSpot (s : State) (a : Agent) (sp l b : Nat) : Sp × Nat :=
  let lim := (((s.thr a).seg sp).extractLsb' 32 32).toNat
  let q := (((s.thr a).seg sp).extractLsb' 0 32).toNat + b
  match sp with
  | 0 => (.scr, s.coreNo a * Config.scratchBytes + (((s.thr a).seg sp).extractLsb' 0 32).toNat + l * lim + b)
  | 1 => (.scr, s.coreNo a * Config.scratchBytes + (((s.thr a).seg sp).extractLsb' 0 32).toNat + b)
  | 2 => (.scr, s.quadByte (s.quadOf a) q)
  | _ => (.dsp, s.dieOf a * Config.dieScratchBytes + (((s.thr a).seg sp).extractLsb' 0 32).toNat + b)

theorem localSpot_dsp (no0 : sp ≠ 0) (no1 : sp ≠ 1) (no2 : sp ≠ 2) : localSpot s a sp l b =
    (.dsp, s.dieOf a * Config.dieScratchBytes + (((s.thr a).seg sp).extractLsb' 0 32).toNat + b) := by
  unfold localSpot
  split
  · exact absurd rfl no0
  · exact absurd rfl no1
  · exact absurd rfl no2
  · rfl

theorem of_localPlace {x : Sp × Nat} (some : s.localPlace a sp l b w = some x) : x = localSpot s a sp l b := by
  unfold State.localPlace at some
  dsimp only at some
  rw [seg_limit, seg_base] at some
  split at some
  case isTrue => exact absurd some (by simp)
  case isFalse =>
  split at some
  case h_1 => exact (Option.some.inj some).symm
  case h_2 => exact (Option.some.inj some).symm
  case h_4 no0 no1 no2 =>
    rw [← Option.some.inj some]
    exact (localSpot_dsp no0 no1 no2).symm
  case h_3 =>
    split at some
    · exact absurd some (by simp)
    · exact (Option.some.inj some).symm

/-- A lane that is answered has its element at the place of its space (R137). -/
theorem of_laneLocal {el : Elem} {va : Nat} (reaches : s.laneLocal a sp w l b = .el el va) :
    el.lane = l ∧ el.w = w ∧ (el.sp, el.a) = localSpot s a sp l b := by
  unfold State.laneLocal at reaches
  split at reaches
  case h_1 => exact absurd reaches (by simp)
  case h_2 p x place =>
    cases reaches
    exact ⟨rfl, rfl, of_localPlace place⟩

end

/-- Settles O42: the checks of the handle come first, in their order, and what is left is the translation of the lane's address; in a
local space the two limits are the only checks. -/
theorem lanesAreCheckedInOrderAndReachTheirElement : Obligations.LanesAreCheckedInOrderAndReachTheirElement := by
  unfold Obligations.LanesAreCheckedInOrderAndReachTheirElement
  refine ⟨fun s wh need h w l e => ?_, fun s a sp w l b local_ => ?_⟩
  · intro base kind mode b sh slot extent stride o off va r plain legal v rg inside seen plainBase
    have at_ : Hd.base h + Hd.offset h w e = va := by
      simp only [Hd.offset, hd_base, hd_mode, hd_b, hd_s, hd_stride]
      rfl
    have legal_iff : Hd.kind h < 3 ∧ Hd.swizOk h = true ↔ legal := by
      rw [swizOk_iff, hd_kind, hd_mode, hd_b, hd_s]
    have extent_eq : Hd.extent h = extent := hd_extent h
    have kind_eq : Hd.kind h = kind := hd_kind h
    have inside_iff : s.inView wh.part (Hd.slot h) va w = true ↔ inside := by
      rw [inView_iff, hd_slot]
    refine ⟨fun bad => laneCheck_illegal plainBase (bad ∘ legal_iff.mp), fun ok far => ?_, fun ok near view swiz => ?_,
      fun ok near view swiz out => ?_, fun ok near seen_ => ?_⟩
    · rw [show r = _ from laneCheck_legal plainBase (legal_iff.mpr ok), if_pos (extent_eq ▸ far)]
    · rw [show r = _ from laneCheck_legal plainBase (legal_iff.mpr ok), if_neg (extent_eq ▸ Nat.not_le.mpr near),
        if_pos ⟨kind_eq.trans view, (swiz_ne_zero_iff h).mpr swiz⟩]
    · have shut : (!s.inView wh.part (Hd.slot h) va w) = true := by
        rw [Bool.not_eq_true', ← Bool.not_eq_true, inside_iff]
        exact out
      rw [show r = _ from laneCheck_legal plainBase (legal_iff.mpr ok), if_neg (extent_eq ▸ Nat.not_le.mpr near),
        if_neg fun x => (swiz_ne_zero_iff h).mp x.2 swiz, at_, if_pos ⟨kind_eq.trans view, shut⟩]
    · have reach : r = plainReach s wh need h w l e va (s.translate wh ⟨need, kind, slot, false⟩ va) := by
        have reach := laneCheck_reaches plainBase (legal_iff.mpr ok) (w := w) (need := need) (l := l) (extent_eq ▸ near) fun view => by
          obtain ⟨swiz, inView⟩ := seen_ (kind_eq.symm.trans view)
          rw [at_]
          exact ⟨Classical.not_not.mp fun ne => (swiz_ne_zero_iff h).mp ne swiz, inside_iff.mpr inView⟩
        rwa [at_, hd_kind, hd_slot] at reach
      have not_unlike (lf : BitVec 128) (p : plain lf) : ¬unlikePlain lf = true := (unlikePlain_iff lf).not.mpr (not_not_intro p)
      refine ⟨fun far => ?_, fun x cause => ?_, fun pte lf absent => ?_, fun pa lf okay => ?_⟩
      · rw [reach, translate_beyond far, plainReach_cause (by decide)]
      · rw [reach, cause]
        refine ⟨plainReach_cause, fun lf pte b same leaf => ?_⟩
        subst same
        rw [plainReach_keyalias leaf]
        exact ⟨fun p => by rw [if_neg (not_unlike lf p)], fun p => by rw [if_pos ((unlikePlain_iff lf).mpr p)]⟩
      · rw [reach, absent]
        exact ⟨fun p => if_pos ((unlikePlain_iff lf).mpr p), fun p odd => (if_neg (not_unlike lf p)).trans (if_pos odd),
          fun p even => (if_neg (not_unlike lf p)).trans (if_neg (not_not_intro even))⟩
      · rw [reach, okay]
        obtain ⟨near, permit⟩ := of_translate_ok okay
        exact ⟨fun p => if_pos ((unlikePlain_iff lf).mpr p), fun p odd => (if_neg (not_unlike lf p)).trans (if_pos odd),
          fun p even => ⟨plainElem s wh h w l e va pa lf, (if_neg (not_unlike lf p)).trans (if_neg (not_not_intro even)),
            rfl, rfl, rfl, rfl, rfl, permit, near⟩⟩
  · refine ⟨fun out => laneLocal_bounds (localPlace_beyond out), ?_, fun el va reaches => ?_⟩
    · rintro rfl out
      exact laneLocal_bounds (localPlace_quad_beyond out)
    · obtain ⟨lane, width, place⟩ := of_laneLocal reaches
      refine ⟨lane, width, ?_, ?_, ?_, ?_⟩ <;> rintro rfl <;> exact Prod.mk.inj place

end Sys2Proof.Proofs
end

section
/-! PROOFS. What an access that is performed leaves alone: the bookkeeping of what agents have met and of cached copies changes neither the
bytes nor their keys and marks, and of the agent's thread only what it has met (R150, R223, R331, R392). -/
namespace Sys2Proof.Proofs

open Sys2Proof Sys2Proof.Machine Sys2Proof.Safety Sys2Proof.Claims

/-! ### What an access can reach -/

/-- What performing an access reads of the device: the bytes of the spaces with their keys and marks of poison, and the free choices. -/
structure Ground where
  mem     : List Host.Cell
  scr     : List Host.Cell
  dsp     : List Host.Cell
  drive   : List Host.Cell
  keys    : List (Nat × KeySlot)
  linkUp  : Bool
  poisonM : List Nat
  poisonS : List Nat
  poisonD : List Nat
  freeCtr : Nat

def ground (s : State) : Ground :=
  { mem := s.mem, scr := s.scr, dsp := s.dsp, drive := s.drive, keys := s.keys, linkUp := s.linkUp, poisonM := s.poisonM
    poisonS := s.poisonS, poisonD := s.poisonD, freeCtr := s.freeCtr }

/-- With it, the thread of the agent but for what it has met. -/
def scene (a : Agent) (s : State) : Ground × Thr := (ground s, { s.thr a with seen := [] })

theorem ground_mapThr (s : State) (b : Agent) (f : Thr → Thr) : ground (s.mapThr b f) = ground s := by
  simp [ground, State.mapThr]

section
variable (a : Agent)

theorem scene_mapThr (s : State) (f : Thr → Thr) : scene a (s.mapThr a f) = (ground s, { f (s.thr a) with seen := [] }) := by
  rw [scene, ground_mapThr, State.thr_mapThr_same]

theorem scene_log (s : State) (l : List StoreRec) : scene a { s with log := l } = scene a s := by cases a <;> rfl

theorem scene_mapCore (s : State) (k : Nat) (f : Core → Core) : scene a (s.mapCore k f) = scene a s := by cases a <;> rfl

theorem scene_mapQuad (s : State) (q : Nat) {f : Quad → Quad} (ctl : ∀ x, (f x).ctl = x.ctl) : scene a (s.mapQuad q f) = scene a s := by
  rw [scene, thr_mapQuad s q ctl a]
  rfl

/-! ### What an agent has met -/

theorem scene_note (s : State) (ks : List Know) : scene a (s.note a ks) = scene a s := by
  unfold State.note
  dsimp only
  split_ifs
  · rfl
  · exact scene_mapThr a s _

theorem scene_meetRead (s : State) (o : VOp) (e : Elem) (at_ : Nat) : scene a (s.meetRead a o e at_) = scene a s := scene_note a s _

theorem scene_meetStore (s : State) (o : VOp) (x : Elem) : scene a (s.meetStore a o x) = scene a s := by
  unfold State.meetStore
  dsimp only
  rw [scene_note]
  split_ifs
  · rfl
  · exact scene_log a s _

theorem scene_passLate (s : State) (o : VOp) : scene a (s.passLate a o) = scene a s := by
  unfold State.passLate
  dsimp only
  split_ifs
  · rfl
  · exact scene_log a s _

theorem scene_meetStores (s : State) (o : VOp) (els : List Elem) : scene a (s.meetStores a o els) = scene a s :=
  (scene_passLate a _ o).trans (foldl_keeps (scene a) _ (fun s x => scene_meetStore a s o x) els s)

/-! ### Cached copies -/

theorem scene_keepCopy (s : State) (core line : Nat) (keep : Bool) : scene a (s.keepCopy core line keep) = scene a s := scene_mapCore ..

theorem scene_fibrePut (s : State) (q way line : Nat) : scene a (s.fibrePut q way line) = scene a s := by
  unfold State.fibrePut
  dsimp only
  refine (scene_mapQuad a _ q ?_).trans (foldl_keeps (scene a) _ (fun s k => scene_keepCopy a s k line false) _ s)
  exact fun _ => rfl

theorem scene_fibreTouch (s : State) (q line : Nat) : scene a (s.fibreTouch q line) = scene a s := by
  unfold State.fibreTouch
  dsimp only
  split
  · split_ifs
    · exact scene_fibrePut ..
    · exact scene_mapQuad a s q fun _ => rfl
  · split
    · exact scene_fibrePut ..
    · split
      · rfl
      · exact scene_fibrePut ..

theorem scene_scanAdvance (s : State) (q : Nat) (els : List Elem) : scene a (s.scanAdvance q els) = scene a s := by
  unfold State.scanAdvance
  split
  · rfl
  · exact scene_mapQuad a s q fun _ => rfl

theorem scene_cacheLoad (s : State) (b : Agent) (ch : Nat) (els : List Elem) : scene a (s.cacheLoad b ch els) = scene a s := by
  unfold State.cacheLoad
  dsimp only
  split_ifs
  · rw [scene_scanAdvance]
    exact foldl_keeps (scene a) _ (fun s l => scene_fibreTouch a s _ l) _ s
  · rfl
  · refine foldl_keeps (scene a) _ (fun s l => ?_) _ s
    split_ifs
    · rfl
    · exact scene_keepCopy ..

theorem scene_dropCopies (s : State) (b : Agent) (els : List Elem) (ch : Nat) : scene a (s.dropCopies b els ch) = scene a s := by
  refine foldl_keeps (scene a) _ (fun s e => ?_) _ s
  rw [scene_keepCopy]
  exact scene_mapQuad a s _ fun _ => rfl

theorem scene_afterReads (s : State) (o : VOp) (ch : Nat) (rs : List (Elem × Option Copy)) :
    scene a (s.afterReads a o ch rs) = scene a s := by
  unfold State.afterReads
  dsimp only
  rw [scene_cacheLoad]
  exact foldl_keeps (scene a) _ (fun s r => scene_meetRead a s o r.1 _) rs s

end

/-! ### What one scene gives -/

theorem thr_of_scene {a : Agent} {s t : State} (same : scene a t = scene a s) {γ : Type} (p : Thr → γ)
    (seen : ∀ th, p { th with seen := [] } = p th) : p (t.thr a) = p (s.thr a) := by
  rw [← seen (t.thr a), ← seen (s.thr a)]
  exact congrArg (fun x => p x.2) same

theorem ground_of_scene {a : Agent} {s t : State} (same : scene a t = scene a s) : ground t = ground s := congrArg Prod.fst same

section
variable {s t : State} (same : ground t = ground s)
include same

theorem sameBytes_of_ground : SameBytes s t :=
  ⟨congrArg Ground.mem same, congrArg Ground.scr same, congrArg Ground.dsp same, congrArg Ground.drive same⟩

theorem mem_of_ground : t.mem = s.mem := congrArg Ground.mem same

theorem space_of_ground (sp : Sp) : t.space sp = s.space sp := by
  cases sp
  · exact congrArg Ground.mem same
  · exact congrArg Ground.scr same
  · exact congrArg Ground.dsp same

theorem keyOf_of_ground (id : Nat) : t.keyOf id = s.keyOf id := by
  rw [State.keyOf, show t.keys = s.keys from congrArg Ground.keys same, State.keyOf]

theorem hostLost_of_ground (sp : Sp) (x : Nat) : t.hostLost sp x = s.hostLost sp x := by
  rw [State.hostLost, show t.linkUp = s.linkUp from congrArg Ground.linkUp same, State.hostLost]

theorem poisoned_of_ground (sp : Sp) (x n : Nat) : t.poisoned sp x n = s.poisoned sp x n := by
  have marks : t.poisonOf sp = s.poisonOf sp := by
    cases sp
    · exact congrArg Ground.poisonM same
    · exact congrArg Ground.poisonS same
    · exact congrArg Ground.poisonD same
  rw [State.poisoned, marks, hostLost_of_ground same, State.poisoned]

theorem readAt_of_ground (sp : Sp) (key x n : Nat) : t.readAt sp key x n = s.readAt sp key x n := by
  have sector : t.sector key = s.sector key := by
    funext m
    rw [State.sector, keyOf_of_ground same, mem_of_ground same, State.sector]
  rw [State.readAt, sector, space_of_ground same, State.readAt]

theorem throughCopy_of_ground (c : Copy) : ground (t.throughCopy c) = ground (s.throughCopy c) :=
  congrArg (fun g : Ground => { g with mem := Memory.write g.mem (128 * c.line) c.v }) same

end

end Sys2Proof.Proofs
end

section
/-! PROOFS. The values that accesses give and where they land: a loaded value in its register, the results of an operation in the lanes that
they are for, and an operation that leaves flight (R43, R60, R68, R91, R153). -/
namespace Sys2Proof.Proofs

open Sys2Proof Sys2Proof.Machine Sys2Proof.Safety Sys2Proof.Claims

/-! ### Values -/

theorem leValue_eq (bs : List Byte) : leValue bs = BitVec.ofNat 64 (leNat bs) := by
  induction bs with
  | nil => rfl
  | cons b r ih =>
    have apart : b.setWidth 64 &&& leValue r <<< 8 = 0#64 := by
      refine BitVec.eq_of_getLsbD_eq fun i hi => ?_
      by_cases low : i < 8
      · simp [low]
      · simp [BitVec.getLsbD_of_ge b i (Nat.le_of_not_lt low)]
    rw [leValue, ← BitVec.add_eq_or_of_and_eq_zero _ _ apart, ih, leNat, BitVec.ofNat_add]
    congr 1
    · rw [← BitVec.setWidth_ofNat_of_le_of_lt (x := b.toNat) (by decide : 8 ≤ 64) b.isLt, BitVec.ofNat_toNat, BitVec.setWidth_eq]
    · refine BitVec.eq_of_toNat_eq ?_
      simp [BitVec.toNat_shiftLeft, Nat.shiftLeft_eq, Nat.mul_comm]

theorem sext_narrow (x : BitVec 64) : zext 32 (sext 8 x) = ((x.setWidth 8).signExtend 32).setWidth 64 := by
  rw [zext, sext]
  congr 1
  refine BitVec.eq_of_getLsbD_eq fun i hi => ?_
  rw [BitVec.getLsbD_setWidth, BitVec.getLsbD_signExtend, BitVec.getLsbD_signExtend]
  simp only [hi, show i < 64 by omega, decide_true, Bool.true_and]

theorem placeLoad_eq (scal : Bool) (ty : Nat) (x : BitVec 64) : placeLoad scal ty x = loadedValue scal ty x := by
  unfold placeLoad
  split
  case h_4 => cases scal <;> rfl
  case h_5 =>
    cases scal
    · exact sext_narrow x
    · rfl
  case h_11 no2 no3 no5 no0 no13 no14 no6 no7 no8 no9 =>
    have wide : ¬(ty = 2 ∨ ty = 3 ∨ ty = 5) := fun h => h.elim no2 (Or.elim · no3 no5)
    have half : ¬(ty = 6 ∨ ty = 7) := fun h => h.elim no6 no7
    have byte : ¬(ty = 8 ∨ ty = 9 ∨ ty = 14) := fun h => h.elim no8 (Or.elim · no9 no14)
    rw [loadedValue, if_neg wide, if_neg half, if_neg byte, if_neg no13, if_neg fun h => no0 h.1, zext]
  all_goals rfl

/-- The value of an element of plain memory. -/
theorem loadElem_plain (s : State) (scal : Bool) (ty : Nat) {e : Elem} (plain : e.fmt = 0) :
    s.loadElem scal ty e = loadedValue scal ty (leValue (s.readAt e.sp e.key e.a e.w)) := by
  rw [State.loadElem, plain, leValue_eq]
  exact placeLoad_eq ..

theorem intOf_unsigned_le (w : Nat) (x y : BitVec 64) : intOf false w x ≤ intOf false w y ↔ x.setWidth w ≤ y.setWidth w := by
  simp only [intOf, Bool.false_eq_true, if_false, Int.ofNat_le, BitVec.le_def]

theorem intOf_signed_le (w : Nat) (x y : BitVec 64) : intOf true w x ≤ intOf true w y ↔ (x.setWidth w).sle (y.setWidth w) = true := by
  simp [intOf, BitVec.sle_iff_toInt_le]

/-- The order of the values of an atomic's integer type (R193). -/
def atomicLe (ty : Nat) (old a : BitVec 64) : Bool :=
  if ty = 0 then (old.setWidth 32).sle (a.setWidth 32) else if ty = 1 then decide (old.setWidth 32 ≤ a.setWidth 32)
  else if ty = 2 then old.sle a else decide (old ≤ a)

theorem less_eq {ty : Nat} (int : ty < 4) (old a : BitVec 64) :
    decide (intOf (isSigned ty) (if is64 ty then 64 else 32) old ≤ intOf (isSigned ty) (if is64 ty then 64 else 32) a) = atomicLe ty old a := by
  have whole (x : BitVec 64) : x.setWidth 64 = x := BitVec.setWidth_eq x
  rw [Bool.eq_iff_iff, decide_eq_true_iff]
  interval_cases ty
  · exact intOf_signed_le 32 old a
  · exact (intOf_unsigned_le 32 old a).trans decide_eq_true_iff.symm
  · exact (intOf_signed_le 64 old a).trans (by rw [whole, whole]; rfl)
  · exact (intOf_unsigned_le 64 old a).trans (by rw [whole, whole]; exact decide_eq_true_iff.symm)

theorem zext_eq_iff {w : Nat} (small : w ≤ 64) (x y : BitVec 64) : zext w x = zext w y ↔ x.setWidth w = y.setWidth w := by
  refine ⟨fun h => ?_, fun h => by rw [zext, h, zext]⟩
  have back (z : BitVec 64) : (zext w z).setWidth w = z.setWidth w := by
    rw [zext, BitVec.setWidth_setWidth_of_le _ small, BitVec.setWidth_eq]
  rw [← back x, h, back]

theorem same_iff {ty : Nat} (types : ty < 5) (old a : BitVec 64) :
    zext (if is64 ty then 64 else 32) old = zext (if is64 ty then 64 else 32) a ↔
      (if ty = 2 ∨ ty = 3 then old == a else old.setWidth 32 == a.setWidth 32) = true := by
  have wide : zext 64 old = zext 64 a ↔ (old == a) = true := by
    rw [zext_eq_iff le_rfl, BitVec.setWidth_eq, BitVec.setWidth_eq, beq_iff_eq]
  have narrow : zext 32 old = zext 32 a ↔ (old.setWidth 32 == a.setWidth 32) = true := by
    rw [zext_eq_iff (by decide), beq_iff_eq]
  interval_cases ty
  · exact narrow
  · exact narrow
  · exact wide
  · exact wide
  · exact narrow

theorem atomicNew_eq {op ty : Nat} (ops : op < 8) (types : ty < 5) (old a b : BitVec 64) :
    atomicNew op ty old a b = atomicValue op ty old a b := by
  have ordered (f x y : BitVec 64) : (if ty = 4 then f else if decide (intOf (isSigned ty) (if is64 ty then 64 else 32) old ≤
      intOf (isSigned ty) (if is64 ty then 64 else 32) a) = true then x else y) =
      if ty = 4 then f else if atomicLe ty old a = true then x else y := by
    by_cases float : ty = 4
    · rw [if_pos float, if_pos float]
    · rw [less_eq (by omega)]
  interval_cases op
  · rfl
  · exact ordered _ old a
  · exact ordered _ a old
  · rfl
  · rfl
  · rfl
  · rfl
  · exact if_congr (same_iff types old a) rfl rfl

/-- The low bytes of a value. -/
theorem leBytes_value (n : Nat) (x : BitVec 64) : leBytes n x.toNat = (List.range n).map (byteOfVal x) := by
  rw [leBytes_eq]
  exact List.map_congr_left fun j _ => byte_eq_shift x j

/-! ### Landing (R43, R60) -/

theorem alive_congr {t u : Thr} (pcv : t.pcv = u.pcv) (scalar : t.scalar = u.scalar) : t.alive = u.alive := by
  rw [Thr.alive, Thr.width, pcv, scalar, Thr.alive, Thr.width]

/-- What tells whether lanes are left, and their mode. -/
def footing (th : Thr) : List (BitVec 48) × Bool := (th.pcv, th.scalar)

theorem footing_land (th : Thr) (seq : Nat) (w : RegW) : footing (th.land seq w) = footing th := by
  unfold Thr.land
  split_ifs
  · rfl
  · exact writeW_keeps footing (fun _ _ => rfl) (fun _ _ => rfl) (fun _ _ => rfl) (fun _ _ => rfl) th w

theorem footing_clearFlag (th : Thr) (f : Option Nat) : footing (th.clearFlag f) = footing th := by cases f <;> rfl

theorem footing_landCkpt (th : Thr) (seq : Nat) (w : RegW) : footing (th.landCkpt seq w) = footing th := by
  unfold Thr.landCkpt
  cases th.ra with
  | none => rfl
  | some c =>
    dsimp only
    cases w.tgt <;> rfl

theorem footing_landDue (clk : Nat) (th : Thr) : footing (th.landDue clk) = footing th := by
  have due (land : Thr → Nat → RegW → Thr) (keeps : ∀ th seq w, footing (land th seq w) = footing th) (ps : List PendW) (th : Thr) :
      footing (ps.foldl (fun t p => (p.ws.foldl (fun t w => land t p.seq w) t).clearFlag p.flag) th) = footing th :=
    foldl_keeps footing _ (fun t p => (footing_clearFlag _ _).trans (foldl_keeps footing _ (fun t w => keeps t p.seq w) p.ws t)) ps th
  unfold Thr.landDue
  dsimp only
  split
  · exact due Thr.land footing_land _ _
  · exact (due Thr.landCkpt footing_landCkpt _ _).trans (due Thr.land footing_land _ { th with pend := _ })

/-- Lane `l` of result `w` stands in its register. -/
def holdsLane (th : Thr) (w : RegW) (l : Nat) : Prop :=
  match w.tgt with
  | .v p => lane32 (th.vreg p).v l = (lane64 w.v l).setWidth 32 ∧ (th.vreg p).poison.getLsbD l = w.poison.getLsbD l
  | .s n => l = 0 → th.sreg n = ⟨lane64 w.v 0, w.poison.getLsbD 0⟩
  | _ => True

section
variable {w : RegW} {l : Nat} (whole : w.dead = 0) (lane : l < 32) (reaches : w.mask.getLsbD l = true)
include whole lane reaches

theorem holdsLane_writeW (th : Thr) : holdsLane (th.writeW w) w l := by
  have mask : w.mask &&& ~~~w.dead = w.mask := by
    rw [whole]
    exact BitVec.and_allOnes
  have some : w.mask ≠ 0 := fun h => by simp [h] at reaches
  unfold holdsLane
  split
  · next p tgt =>
    refine ⟨writeW_reaches tgt whole lane reaches th, ?_⟩
    simp only [Thr.writeW, mask, tgt, if_neg some, Thr.vreg, Sparse.get_put_same, VReg.put]
    simp [reaches]
  · next n tgt =>
    intro _
    simp only [Thr.writeW, mask, tgt, if_neg some, Thr.sreg, Sparse.get_put_same]
  · trivial

end

theorem vreg_writeW_other {x : RegW} {p : Nat} (other : x.tgt ≠ .v p) (th : Thr) : (th.writeW x).vreg p = th.vreg p := by
  unfold Thr.writeW
  by_cases none : x.mask &&& ~~~x.dead = 0
  · simp only [none, if_true]
  · simp only [none, if_false]
    cases tgt : x.tgt with
    | v q => exact Sparse.get_put_other _ (fun e => other (tgt.trans (congrArg Tgt.v e.symm))) _ _
    | s q => rfl
    | k q => by_cases always : q = 0 <;> simp [always, Thr.vreg]
    | h q => rfl

theorem sreg_writeW_other {x : RegW} {n : Nat} (other : x.tgt ≠ .s n) (th : Thr) : (th.writeW x).sreg n = th.sreg n := by
  unfold Thr.writeW
  by_cases none : x.mask &&& ~~~x.dead = 0
  · simp only [none, if_true]
  · simp only [none, if_false]
    cases tgt : x.tgt with
    | v q => rfl
    | s q => exact Sparse.get_put_other _ (fun e => other (tgt.trans (congrArg Tgt.s e.symm))) _ _
    | k q => by_cases always : q = 0 <;> simp [always, Thr.sreg]
    | h q => rfl

theorem holdsLane_writeW_other {w x : RegW} (other : w.tgt ≠ x.tgt) {l : Nat} {th : Thr} (holds : holdsLane th w l) :
    holdsLane (th.writeW x) w l := by
  unfold holdsLane at holds ⊢
  split at holds
  · next p tgt =>
    rw [vreg_writeW_other fun e => other (tgt.trans e.symm)]
    exact holds
  · next n tgt =>
    rw [sreg_writeW_other fun e => other (tgt.trans e.symm)]
    exact holds
  · trivial

/-! ### The results of an operation, outside runahead and with lanes left -/

theorem landVar_awake {th : Thr} (awake : th.ra = none) (left : th.alive ≠ 0) (seq : Nat) (w : RegW) :
    th.landVar seq w = (th.writeW w).killOlder seq w := by
  rw [Thr.landVar, awake, Thr.land, if_neg left]
  rfl

theorem ra_landVar {th : Thr} (awake : th.ra = none) (seq : Nat) (w : RegW) : (th.landVar seq w).ra = none := by
  rw [Thr.landVar, awake]
  exact (ra_land th seq w).trans awake

theorem alive_landVar {th : Thr} (awake : th.ra = none) (seq : Nat) (w : RegW) : (th.landVar seq w).alive = th.alive := by
  rw [Thr.landVar, awake]
  have same := footing_land th seq w
  exact alive_congr (congrArg Prod.fst same) (congrArg Prod.snd same)

theorem holdsLane_landVar_other {w x : RegW} (other : w.tgt ≠ x.tgt) {l : Nat} {th : Thr} (awake : th.ra = none) (left : th.alive ≠ 0)
    (seq : Nat) (holds : holdsLane th w l) : holdsLane (th.landVar seq x) w l := by
  rw [landVar_awake awake left]
  exact holdsLane_writeW_other other holds

/-- Results for registers of their own all stand in them once they have landed. -/
theorem holdsLane_landed {ws : List RegW} (own : (ws.map (·.tgt)).Nodup) (whole : ∀ w ∈ ws, w.dead = 0) (seq : Nat) {th : Thr}
    (awake : th.ra = none) (left : th.alive ≠ 0) {l : Nat} (lane : l < 32) :
    ∀ w ∈ ws, w.mask.getLsbD l = true → holdsLane (ws.foldl (fun t w => t.landVar seq w) th) w l := by
  have stays : ∀ (w : RegW) (r : List RegW) (th : Thr), th.ra = none → th.alive ≠ 0 → w.tgt ∉ r.map (·.tgt) → holdsLane th w l →
      holdsLane (r.foldl (fun t w => t.landVar seq w) th) w l := by
    intro w r
    induction r with
    | nil => exact fun _ _ _ _ h => h
    | cons x r ih =>
      intro th awake left new holds
      rw [List.map_cons, List.mem_cons, not_or] at new
      exact ih _ (ra_landVar awake _ _) (by rwa [alive_landVar awake]) new.2 (holdsLane_landVar_other new.1 awake left seq holds)
  induction ws generalizing th with
  | nil => exact fun w hw => absurd hw (by simp)
  | cons x r ih =>
    rw [List.map_cons, List.nodup_cons] at own
    have left' : (th.landVar seq x).alive ≠ 0 := by rwa [alive_landVar awake]
    intro w hw reaches
    rcases List.mem_cons.mp hw with rfl | hw
    · refine stays w r _ (ra_landVar awake _ _) left' own.1 ?_
      dsimp only
      rw [landVar_awake awake left]
      exact holdsLane_writeW (whole w (by simp)) lane reaches th
    · exact ih own.2 (fun w hw => whole w (by simp [hw])) (ra_landVar awake _ _) left' w hw reaches

end Sys2Proof.Proofs
end

section
/-! PROOFS. The end of a load or atomic: its values reach the registers and its flag clears, or they are on their way to them (R43, R60). -/
namespace Sys2Proof.Proofs

open Sys2Proof Sys2Proof.Machine Sys2Proof.Safety Sys2Proof.Claims

/-! ### Results with their values -/

/-- Result i of an operation with the values of its lanes: the low halves first. -/
def filled (vals : List (BitVec 64)) (poison : Mask) (w : RegW) (i : Nat) : RegW :=
  { w with v := if i % 2 = 1 then vals.map fun (x : BitVec 64) => x >>> 32 else vals, poison := poison }

theorem fillResults_at (ws : List RegW) (vals : List (BitVec 64)) (poison : Mask) (i : Nat) :
    (fillResults ws vals poison)[i]? = (ws[i]?).map fun w => filled vals poison w i := by
  cases h : ws[i]? <;> simp [fillResults, filled, h]

theorem fillResults_tgt (ws : List RegW) (vals : List (BitVec 64)) (poison : Mask) :
    (fillResults ws vals poison).map (·.tgt) = ws.map (·.tgt) := by
  refine List.ext_getElem? fun i => ?_
  rw [List.getElem?_map, fillResults_at, List.getElem?_map]
  cases ws[i]? <;> rfl

theorem lane64_filled (vals : List (BitVec 64)) (poison : Mask) (w : RegW) {i : Nat} (pair : i < 2) (l : Nat) :
    lane64 (filled vals poison w i).v l = lane64 vals l >>> (32 * i) := by
  have high : lane64 (vals.map fun (x : BitVec 64) => x >>> 32) l = lane64 vals l >>> 32 := by
    simp only [lane64, List.getD_eq_getElem?_getD, List.getElem?_map]
    cases vals[l]? <;> simp
  interval_cases i
  · exact (BitVec.ushiftRight_zero _).symm
  · exact high

section
variable {ws : List RegW} (own : OwnResults ws)
include own

theorem own_index {i : Nat} {w : RegW} (at_ : ws[i]? = some w) : i < 2 :=
  (List.getElem?_eq_some_iff.mp at_).1.trans_le own.1

theorem own_scalar {i n : Nat} {w : RegW} (at_ : ws[i]? = some w) (scalar : w.tgt = .s n) : i = 0 := by
  obtain ⟨bound, rfl⟩ := List.getElem?_eq_some_iff.mp at_
  rcases (own.2.2 _ (List.getElem_mem bound)).2 with ⟨p, vector⟩ | ⟨single, -⟩
  · rw [vector] at scalar
    cases scalar
  · omega

/-- A result that stands in its register is the part of its value that is for it. -/
theorem holdsPart_of_holdsLane {th : Thr} {vals : List (BitVec 64)} {poison : Mask} {i l : Nat} {w : RegW} (at_ : ws[i]? = some w)
    (holds : holdsLane th (filled vals poison w i) l) : holdsPart th w i l (lane64 vals l) (poison.getLsbD l) := by
  have low := lane64_filled vals poison w (own_index own at_)
  unfold holdsLane at holds
  unfold holdsPart
  rw [show (filled vals poison w i).tgt = w.tgt from rfl] at holds
  cases tgt : w.tgt with
  | v p =>
    rw [tgt] at holds
    dsimp only at holds ⊢
    rw [low l] at holds
    exact holds
  | s n =>
    rw [tgt] at holds
    dsimp only at holds ⊢
    rintro rfl
    rw [holds rfl, low 0, own_scalar own at_ tgt, Nat.mul_zero, BitVec.ushiftRight_zero]
    rfl
  | k p => trivial
  | h p => trivial

end

/-! ### The end of a load or atomic -/

theorem ops_retire (o : VOp) (th : Thr) : (Thr.retire o th).ops = th.ops.filter (·.seq != o.seq) := by simp [Thr.retire]

theorem busy_retire {o : VOp} {f : Nat} (flag : o.flag = some f) (th : Thr) : (Thr.retire o th).busy.getLsbD f = false := by
  rw [Thr.retire, flag]
  by_cases inside : f < 12 <;> simp [Thr.clearFlag, inside]

theorem retired_ops (o : VOp) (th : Thr) : (Thr.retire o th).ops.all (fun y => y.seq != o.seq) = true := by
  rw [ops_retire, List.all_eq_true]
  exact fun y hy => (List.mem_filter.mp hy).2

theorem holdsPart_congr {t u : Thr} (regs : t.regs = u.regs) (sregs : t.sregs = u.sregs) {w : RegW} {i l : Nat} {x : BitVec 64} {pz : Bool}
    (holds : holdsPart u w i l x pz) : holdsPart t w i l x pz := by
  unfold holdsPart at holds ⊢
  simp only [Thr.vreg, Thr.sreg, regs, sregs] at holds ⊢
  exact holds

/-- Whether a result has arrived is told by the registers, the operations in flight and the flags. -/
theorem arrives_congr {t u : State} {a : Agent} {o : VOp} {ws : List RegW} {l : Nat} {x : BitVec 64} {pz : Bool}
    (same : scene a t = scene a u) (h : Arrives u a o ws l x pz) : Arrives t a o ws l x pz := by
  have regs : (t.thr a).regs = (u.thr a).regs := thr_of_scene same Thr.regs fun _ => rfl
  have sregs : (t.thr a).sregs = (u.thr a).sregs := thr_of_scene same Thr.sregs fun _ => rfl
  have ops : (t.thr a).ops = (u.thr a).ops := thr_of_scene same Thr.ops fun _ => rfl
  have busy : (t.thr a).busy = (u.thr a).busy := thr_of_scene same Thr.busy fun _ => rfl
  unfold Arrives at h ⊢
  rw [ops, busy]
  exact h.imp_left fun ⟨parts, rest⟩ => ⟨fun i w at_ reaches => holdsPart_congr regs sregs (parts i w at_ reaches), rest⟩

section
variable {s : State} {a : Agent} {o : VOp} {ws : List RegW} (own : OwnResults ws) (awake : (s.thr a).ra = none) (left : (s.thr a).alive ≠ 0)
  (there : ∃ y ∈ (s.thr a).ops, y.seq = o.seq) (vals : List (BitVec 64)) (poison : Mask) {l : Nat} (lane : l < 32)
include own awake left there lane

theorem arrives_finishLoad : Arrives (s.finishLoad a o (fillResults ws vals poison)) a o ws l (lane64 vals l) (poison.getLsbD l) := by
  unfold State.finishLoad
  split_ifs
  · refine .inr ⟨fillResults ws vals poison, ?_, fun i w at_ =>
      ⟨filled vals poison w i, ?_, rfl, rfl, fun _ => ⟨fun p _ => ?_, fun n tgt => ?_, rfl⟩⟩⟩
    · obtain ⟨y, hy, seq⟩ := there
      rw [State.thr_mapThr_same, List.any_eq_true]
      exact ⟨_, List.mem_map_of_mem hy, by simp [seq]⟩
    · rw [fillResults_at, at_]
      rfl
    · rw [lane64_filled _ _ _ (own_index own at_)]
    · rw [lane64_filled _ _ _ (own_index own at_), own_scalar own at_ tgt, Nat.mul_zero, BitVec.ushiftRight_zero]
  · refine .inl ⟨fun i w at_ reaches => ?_, ?_, fun f flag => ?_⟩
    · rw [State.thr_mapThr_same, State.landOp, State.thr_mapThr_same]
      have own_ : ((fillResults ws vals poison).map (·.tgt)).Nodup := by
        rw [fillResults_tgt]
        exact own.2.1
      have whole : ∀ x ∈ fillResults ws vals poison, x.dead = 0 := by
        intro x hx
        obtain ⟨j, at_⟩ := List.mem_iff_getElem?.mp hx
        rw [fillResults_at] at at_
        obtain ⟨y, hy, rfl⟩ := Option.map_eq_some_iff.mp at_
        exact (own.2.2 y (List.mem_of_getElem? hy)).1
      have mem : filled vals poison w i ∈ fillResults ws vals poison := List.mem_of_getElem? (by rw [fillResults_at, at_]; rfl)
      refine holdsPart_congr (u := (fillResults ws vals poison).foldl (fun t w => t.landVar o.seq w) (s.thr a)) ?_ ?_
        (holdsPart_of_holdsLane own at_ (holdsLane_landed own_ whole o.seq awake left lane _ mem reaches))
      · simp [Thr.retire]
      · simp [Thr.retire]
    · rw [State.thr_mapThr_same]
      exact retired_ops o _
    · rw [State.thr_mapThr_same]
      exact busy_retire flag _

end

end Sys2Proof.Proofs
end

section
/-! PROOFS. An operation that is performed: the state in which it is, the copies that may serve it there, and the elements that it reaches
(R43, R164, R331, R336). -/
namespace Sys2Proof.Proofs

open Sys2Proof Sys2Proof.Machine Sys2Proof.Safety Sys2Proof.Claims

/-! ### The state in which an operation is performed -/

/-- That state: results due by now have landed, and what the operation overtakes is noted (R60, R330). -/
def performing (s : State) (a : Agent) (o : VOp) : State := (s.mapThr a (Thr.landDue s.clk)).mapThr a (Thr.overtaken o)

theorem ground_performing (s : State) (a : Agent) (o : VOp) : ground (performing s a o) = ground s :=
  (ground_mapThr _ a _).trans (ground_mapThr s a _)

theorem thr_performing (s : State) (a : Agent) (o : VOp) : (performing s a o).thr a = Thr.overtaken o ((s.thr a).landDue s.clk) := by
  rw [performing, State.thr_mapThr_same, State.thr_mapThr_same]

theorem scalar_performing (s : State) (a : Agent) (o : VOp) : ((performing s a o).thr a).scalar = (s.thr a).scalar := by
  rw [thr_performing]
  exact congrArg Prod.snd (footing_landDue s.clk (s.thr a))

section
variable {s : State} {a : Agent} {k : Nat} {o : VOp} (now : Completing s a k o)
include now

theorem awake_performing : ((performing s a o).thr a).ra = none := by
  obtain ⟨-, -, awake, -⟩ := now
  rw [State.thr_mapThr_same] at awake
  rw [thr_performing]
  exact awake

theorem alive_performing : ((performing s a o).thr a).alive ≠ 0 := by
  obtain ⟨-, -, -, left⟩ := now
  have same := footing_landDue s.clk (s.thr a)
  have alive : ((performing s a o).thr a).alive = (s.thr a).alive := by
    rw [thr_performing]
    exact alive_congr (congrArg Prod.fst same) (congrArg Prod.snd same)
  rwa [alive]

theorem there_performing : ∃ y ∈ ((performing s a o).thr a).ops, y.seq = o.seq := by
  obtain ⟨found, -⟩ := now
  rw [State.thr_mapThr_same] at found
  rw [thr_performing]
  exact ⟨_, List.mem_map_of_mem (List.mem_of_find?_eq_some found), rfl⟩

theorem exec_completing : exec (.variableOpComplete a k) s = (s.mapThr a (Thr.landDue s.clk)).completeOp a o := by
  obtain ⟨found, may, -, -⟩ := now
  show execVariableOpComplete a k s = _
  rw [execVariableOpComplete, found]
  exact if_pos may

end

/-! ### The copies that may serve it -/

theorem coreNo_mapThr (s : State) (a b : Agent) (f : Thr → Thr) : (s.mapThr a f).coreNo b = s.coreNo b := by
  cases b with
  | ctl q => rfl
  | grp t g => simp only [State.coreNo, State.mapThr]; rw [State.team_setThr]

theorem fib_mapThr (s : State) (a : Agent) (f : Thr → Thr) (q : Nat) : ((s.mapThr a f).quad q).fib = (s.quad q).fib := by
  cases a with
  | grp t g => rfl
  | ctl k =>
    by_cases same : q = k
    · subst same
      simp [State.mapThr, State.setThr]
    · simp [State.mapThr, State.setThr, State.quad_mapQuad_other _ same]

theorem contains_mapThr (s : State) (a : Agent) (f : Thr → Thr) (k : Nat) (b : Agent) (x : Observer) :
    (s.mapThr a f).contains k b x = s.contains k b x := by
  simp only [State.contains, State.dieOf, coreNo_mapThr, quadOf_mapThr]

theorem oldCopy_mapThr (s : State) (a : Agent) {f : Thr → Thr} (seen : ∀ th, (f th).seen = th.seen) (o : VOp) (ch : Nat) (e : Elem) :
    (s.mapThr a f).oldCopy a o ch e = s.oldCopy a o ch e := by
  have clk : (s.mapThr a f).clk = s.clk := State.setThr_clk ..
  have log : (s.mapThr a f).log = s.log := State.setThr_log ..
  have lsync : (s.mapThr a f).lsync = s.lsync := State.setThr_lsync ..
  have floor : ((s.mapThr a f).thr a).floor = (s.thr a).floor := by
    rw [State.thr_mapThr_same]
    unfold Thr.floor
    rw [seen]
  have copy : (s.mapThr a f).copyFor a ch e = s.copyFor a ch e := by
    simp only [State.copyFor, State.fibreCopy, State.copyOf, coreNo_mapThr, quadOf_mapThr, fib_mapThr, State.coreOf_mapThr, clk]
  have newer (at_ : Nat) : (s.mapThr a f).strongNewer a o e at_ = s.strongNewer a o e at_ := by
    simp only [State.strongNewer, contains_mapThr, log]
  unfold State.oldCopy
  rw [copy]
  cases s.copyFor a ch e with
  | none => rfl
  | some c =>
    dsimp only
    rw [floor, lsync, newer]

theorem oldCopy_performing (s : State) (a : Agent) (o : VOp) (ch : Nat) (e : Elem) :
    (performing s a o).oldCopy a o ch e = (s.mapThr a (Thr.landDue s.clk)).oldCopy a o ch e :=
  oldCopy_mapThr (f := Thr.overtaken o) _ a (fun _ => rfl) o ch e

/-- The copy through which an element is read may serve it. -/
theorem served_performing {s : State} {a : Agent} {o : VOp} {ch : Nat} {e : Elem} {c : Copy}
    (served : (performing s a o).served a o ch e = some c) : (s.mapThr a (Thr.landDue s.clk)).oldCopy a o ch e = some c := by
  unfold State.served at served
  split_ifs at served
  rwa [oldCopy_performing] at served

/-! ### The elements that it reaches -/

/-- Elements that lie on no shadow pair stay where they are (R205, R336). -/
theorem toFront_unpaired (s : State) (a : Agent) (o : VOp) {els : List Elem} (unpaired : ∀ e ∈ els, e.alt = none) :
    s.toFront a o els = (s, els) := by
  unfold State.toFront
  dsimp only
  refine Prod.ext_iff.mpr ⟨?_, ?_⟩
  · rw [List.filterMap_eq_nil_iff.mpr fun e he => ?_]
    · rfl
    · simp [unpaired e he]
  · refine (List.map_congr_left fun e he => ?_).trans (List.map_id els)
    simp [unpaired e he]

/-- The value of a lane among those of elements in lanes of their own. -/
theorem valuesOf_at {γ : Type} {els : List γ} {lane : γ → Nat} {value : γ → BitVec 64} (apart : (els.map lane).Nodup) {e : γ} (mem : e ∈ els)
    (inside : lane e < 32) : lane64 (valuesOf (els.map fun e => (lane e, value e))) (lane e) = value e := by
  rw [valuesOf, lane64_perLane _ inside]
  suffices h : (els.map fun e => (lane e, value e)).find? (fun x => x.1 = lane e) = some (lane e, value e) by rw [h]; rfl
  induction els with
  | nil => exact absurd mem (by simp)
  | cons x r ih =>
    rw [List.map_cons, List.nodup_cons] at apart
    rcases List.mem_cons.mp mem with rfl | later
    · simp
    · have other : lane x ≠ lane e := fun same => apart.1 (same ▸ List.mem_map_of_mem later)
      rw [List.map_cons, List.find?_cons_of_neg (by simpa using other)]
      exact ih apart.2 later

theorem getLsbD_mark (m : Mask) (b : Bool) (x : Nat) {l : Nat} (inside : l < 32) :
    (if b then m ||| (1 <<< x) else m).getLsbD l = (m.getLsbD l || (b && decide (x = l))) := by
  cases b
  · simp
  · rw [if_pos rfl, BitVec.getLsbD_or, Bool.true_and]
    congr 1
    rw [Nat.one_shiftLeft]
    exact (BitVec.getLsbD_ofNat 32 (2 ^ x) l).trans (by rw [decide_eq_true inside, Bool.true_and, Nat.testBit_two_pow])

/-- The elements that give the mark of a lane: that lane's own, where no two share a lane. -/
theorem any_lane {els : List Elem} (bad : Elem → Bool) (apart : (els.map (·.lane)).Nodup) {e : Elem} (mem : e ∈ els) :
    (els.any fun x => bad x && decide (x.lane = e.lane)) = bad e := by
  have only : ∀ x ∈ els, x.lane = e.lane → x = e := fun x hx same => List.inj_on_of_nodup_map apart hx mem same
  cases known : bad e
  · rw [List.any_eq_false]
    intro x hx marks
    simp only [Bool.and_eq_true, decide_eq_true_iff] at marks
    rw [only x hx marks.2, known] at marks
    exact absurd marks.1 (by decide)
  · rw [List.any_eq_true]
    exact ⟨e, mem, by simp [known]⟩

theorem getLsbD_poisonLanes (s : State) (els : List Elem) {l : Nat} (inside : l < 32) :
    (s.poisonLanes els).getLsbD l = els.any fun x => s.poisoned x.sp x.a x.w && decide (x.lane = l) := by
  suffices fold : ∀ m : Mask, (els.foldl (fun (m : Mask) e => if s.poisoned e.sp e.a e.w then m ||| (1 <<< e.lane) else m) m).getLsbD l =
      (m.getLsbD l || els.any fun x => s.poisoned x.sp x.a x.w && decide (x.lane = l)) by
    rw [State.poisonLanes, fold]
    simp
  induction els with
  | nil => simp
  | cons x r ih =>
    intro m
    rw [List.foldl_cons, ih, getLsbD_mark _ _ _ inside, List.any_cons, Bool.or_assoc]

end Sys2Proof.Proofs
end

section
/-! PROOFS. A load and a handle load that are performed: from home or through a copy that may serve, with the mark of the home
(R153, R156, R160, R331). -/
namespace Sys2Proof.Proofs

open Sys2Proof Sys2Proof.Machine Sys2Proof.Safety Sys2Proof.Claims

/-! ### Where an element is read -/

/-- The state as a core sees it at home, or through a copy. -/
def seenThrough (s : State) : Option Copy → State
  | none => s
  | some c => s.throughCopy c

theorem ground_seenThrough {s t : State} (same : ground t = ground s) (c : Option Copy) :
    ground (seenThrough t c) = ground (seenThrough s c) := by
  cases c with
  | none => exact same
  | some c => exact throughCopy_of_ground same c

/-- Where an element of an operation of an agent is read: home, or the copy that serves it. -/
def readFrom (s : State) (a : Agent) (o : VOp) (ch : Nat) (e : Elem) : State :=
  seenThrough (s.mapThr a (Thr.landDue s.clk)) ((performing s a o).served a o ch e)

theorem readFrom_source (s : State) (a : Agent) (o : VOp) (ch : Nat) (e : Elem) :
    let u := s.mapThr a (Thr.landDue s.clk)
    readFrom s a o ch e = u ∨ ∃ c, u.oldCopy a o ch e = some c ∧ readFrom s a o ch e = u.throughCopy c := by
  dsimp only
  unfold readFrom
  cases served : (performing s a o).served a o ch e with
  | none => exact .inl rfl
  | some c => exact .inr ⟨c, served_performing served, rfl⟩

theorem readAt_readFrom (s : State) (a : Agent) (o : VOp) (ch : Nat) (e : Elem) (n : Nat) :
    (seenThrough (performing s a o) ((performing s a o).served a o ch e)).readAt e.sp e.key e.a n =
      (readFrom s a o ch e).readAt e.sp e.key e.a n :=
  readAt_of_ground (ground_seenThrough (ground_mapThr _ a _) _) ..

/-! ### A load -/

theorem ground_finishLoad (s : State) (a : Agent) (o : VOp) (ws : List RegW) : ground (s.finishLoad a o ws) = ground s := by
  unfold State.finishLoad
  split_ifs
  · exact ground_mapThr s a _
  · exact (ground_mapThr _ a _).trans (ground_mapThr s a _)

/-- A load by what its elements are read through. -/
theorem performLoad_eq (s : State) (a : Agent) (o : VOp) (els : List Elem) (ty : Nat) (ws : List RegW) (ch : Nat) :
    s.performLoad a o els ty ws ch = (s.afterReads a o ch (els.map fun e => (e, s.served a o ch e))).finishLoad a o
      (fillResults ws (valuesOf (els.map fun e => (e.lane, (seenThrough s (s.served a o ch e)).loadElem (s.thr a).scalar ty e)))
        (s.poisonLanes els)) := by
  rw [State.performLoad, List.map_map]
  refine congrArg (fun vals => State.finishLoad _ a o (fillResults ws (valuesOf vals) _)) (List.map_congr_left fun e _ => ?_)
  dsimp only [Function.comp]
  cases s.served a o ch e <;> rfl

theorem completeOp_load {s : State} {a : Agent} {o : VOp} {els : List Elem} {ty fmt ch : Nat} {ws : List RegW}
    (kind : o.kind = .load els ty fmt ws ch) (some : els ≠ []) (unpaired : ∀ e ∈ els, e.alt = none) :
    (s.mapThr a (Thr.landDue s.clk)).completeOp a o =
      .next (((performing s a o).performLoad a o els ty ws ch).passLate a o) := by
  obtain ⟨x, r, rfl⟩ := List.exists_cons_of_ne_nil some
  simp only [State.completeOp, kind, toFront_unpaired _ a o unpaired]
  rfl

section
variable {s : State} {a : Agent} {k : Nat} {o : VOp} (now : Completing s a k o)
include now

theorem performs_load {els : List Elem} {ty ch : Nat} {ws : List RegW} (kind : o.kind = .load els ty 0 ws ch) (own : OwnResults ws)
    (plain : ∀ e ∈ els, e.fmt = 0 ∧ e.alt = none) (some : els ≠ []) (apart : (els.map (·.lane)).Nodup) (lanes : ∀ e ∈ els, e.lane < 32) :
    ∃ t, exec (.variableOpComplete a k) s = .next t ∧ SameBytes s t ∧ ∀ e ∈ els,
      Arrives t a o ws e.lane (loadedValue (s.thr a).scalar ty (leValue ((readFrom s a o ch e).readAt e.sp e.key e.a e.w)))
        (s.poisoned e.sp e.a e.w) := by
  let v := performing s a o
  have quiet : scene a (v.afterReads a o ch (els.map fun e => (e, v.served a o ch e))) = scene a v := scene_afterReads ..
  have run := (exec_completing now).trans (completeOp_load kind some fun e he => (plain e he).2)
  rw [performLoad_eq] at run
  refine ⟨_, run, sameBytes_of_ground ?_, fun e he => arrives_congr (scene_passLate a _ o) ?_⟩
  · calc ground _
      _ = ground _ := ground_of_scene (scene_passLate a _ o)
      _ = ground (v.afterReads a o ch (els.map fun e => (e, v.served a o ch e))) := ground_finishLoad ..
      _ = ground v := ground_of_scene quiet
      _ = ground s := ground_performing s a o
  · have value : lane64 (valuesOf (els.map fun e => (e.lane, (seenThrough v (v.served a o ch e)).loadElem (v.thr a).scalar ty e))) e.lane =
        loadedValue (s.thr a).scalar ty (leValue ((readFrom s a o ch e).readAt e.sp e.key e.a e.w)) := by
      rw [valuesOf_at apart he (lanes e he), loadElem_plain _ _ _ (plain e he).1, readAt_readFrom, scalar_performing]
    have mark : (v.poisonLanes els).getLsbD e.lane = s.poisoned e.sp e.a e.w := by
      rw [getLsbD_poisonLanes _ _ (lanes e he), any_lane _ apart he]
      exact poisoned_of_ground (ground_performing s a o) ..
    rw [← value, ← mark]
    have awake := thr_of_scene quiet Thr.ra fun _ => rfl
    have alive := thr_of_scene quiet Thr.alive fun _ => rfl
    have ops := thr_of_scene quiet Thr.ops fun _ => rfl
    refine arrives_finishLoad own (awake.trans (awake_performing now)) ?_ ?_ _ _ (lanes e he)
    · rw [alive]
      exact alive_performing now
    · rw [ops]
      exact there_performing now

end

/-! ### A handle load -/

theorem completeOp_hld {s : State} {a : Agent} {o : VOp} {e : Elem} {n ch lanes : Nat} (kind : o.kind = .hld e n ch lanes)
    (unpaired : e.alt = none) : (s.mapThr a (Thr.landDue s.clk)).completeOp a o =
      .next ((((performing s a o).performHld a o e n ch lanes).passLate a o).mapThr a (Thr.retire o)) := by
  simp only [State.completeOp, kind, toFront_unpaired _ a o (els := [e]) (by simpa using unpaired), List.headD_cons]
  rfl

/-- What a handle register holds after a load of it (R160). -/
def loadedHandle (h : HReg) (poisoned : Bool) (bytes : List Byte) : HReg :=
  if poisoned then { h with poison := true } else { h with v := BitVec.ofNat 128 (leNat bytes), poison := false }

theorem hreg_performHld {s : State} {a : Agent} {o : VOp} {e : Elem} {n ch lanes : Nat} (left : (s.thr a).alive ≠ 0) :
    ((s.performHld a o e n ch lanes).thr a).hreg n = loadedHandle ((s.thr a).hreg n) (s.poisoned e.sp e.a 16)
      ((seenThrough s (s.served a o ch e)).readAt e.sp e.key e.a 16) := by
  have quiet := scene_afterReads a s o ch (List.replicate lanes (e, s.served a o ch e))
  have alive := thr_of_scene quiet Thr.alive fun _ => rfl
  have handles := thr_of_scene quiet Thr.hs fun _ => rfl
  rw [State.performHld, State.thr_mapThr_same, Thr.hreg]
  dsimp only
  rw [alive, if_neg left, Sparse.get_put_same]
  simp only [loadedHandle, Thr.hreg, handles]
  cases s.served a o ch e <;> rfl

section
variable {s : State} {a : Agent} {k : Nat} {o : VOp} (now : Completing s a k o)
include now

theorem performs_hld {e : Elem} {n ch lanes : Nat} (kind : o.kind = .hld e n ch lanes) (unpaired : e.alt = none) :
    ∃ t, exec (.variableOpComplete a k) s = .next t ∧ SameBytes s t ∧
      (t.thr a).hreg n = loadedHandle (((s.mapThr a (Thr.landDue s.clk)).thr a).hreg n) (s.poisoned e.sp e.a 16)
        ((readFrom s a o ch e).readAt e.sp e.key e.a 16) := by
  refine ⟨_, (exec_completing now).trans (completeOp_hld kind unpaired), ?_, ?_⟩
  · refine sameBytes_of_ground ?_
    calc ground _
      _ = ground _ := ground_mapThr _ a _
      _ = ground ((performing s a o).performHld a o e n ch lanes) := ground_of_scene (scene_passLate a _ o)
      _ = ground ((performing s a o).afterReads a o ch (List.replicate lanes (e, (performing s a o).served a o ch e))) := ground_mapThr _ a _
      _ = ground (performing s a o) := ground_of_scene (scene_afterReads ..)
      _ = ground s := ground_performing s a o
  · have handles : (((((performing s a o).performHld a o e n ch lanes).passLate a o).mapThr a (Thr.retire o)).thr a).hreg n =
        (((performing s a o).performHld a o e n ch lanes).thr a).hreg n := by
      rw [State.thr_mapThr_same, Thr.hreg, show (Thr.retire o _).hs = _ from Thr.clearFlag_hs .., Thr.hreg]
      exact congrArg (Sparse.get _ n) (thr_of_scene (scene_passLate a _ o) Thr.hs fun _ => rfl)
    rw [handles, hreg_performHld (alive_performing now), ← readAt_readFrom, poisoned_of_ground (ground_performing s a o)]
    have held : ((performing s a o).thr a).hreg n = ((s.mapThr a (Thr.landDue s.clk)).thr a).hreg n := by
      rw [thr_performing, State.thr_mapThr_same]
      rfl
    rw [held]

end

end Sys2Proof.Proofs
end

section
/-! PROOFS. A store, a handle store and an atomic that are performed on pages without a key: the bytes that they leave (R154, R160, R193). -/
namespace Sys2Proof.Proofs

open Sys2Proof Sys2Proof.Machine Sys2Proof.Safety Sys2Proof.Claims

/-! ### Writes -/

/-- A write changes the bytes of its space only. -/
theorem writeAt_keeps {γ : Type} (p : State → γ) (bytes : ∀ s sp m, p (State.setSpace s sp m) = p s) (s : State) (sp : Sp) (key x : Nat)
    (bs : List Byte) : p (s.writeAt sp key x bs) = p s := by
  unfold State.writeAt
  split_ifs
  · rfl
  · exact foldl_keeps p _ (fun s n => bytes s .mem _) _ s
  · exact bytes ..

theorem hostLost_setSpace (s : State) (sp : Sp) (m : List Host.Cell) : (s.setSpace sp m).hostLost = s.hostLost := by cases sp <;> rfl

theorem poisoned_setSpace (s : State) (sp : Sp) (m : List Host.Cell) : (s.setSpace sp m).poisoned = s.poisoned := by
  funext sp' x n
  cases sp <;> cases sp' <;> rfl

theorem thr_setSpace (a : Agent) (s : State) (sp : Sp) (m : List Host.Cell) : (s.setSpace sp m).thr a = s.thr a := by
  cases sp <;> cases a <;> rfl

theorem drive_setSpace (s : State) (sp : Sp) (m : List Host.Cell) : (s.setSpace sp m).drive = s.drive := by cases sp <;> rfl

theorem space_setSpace (s : State) (sp sp' : Sp) (m : List Host.Cell) :
    (s.setSpace sp m).space sp' = if sp' = sp then m else s.space sp' := by
  cases sp <;> cases sp' <;> rfl

/-- A byte after a write to a page without a key (R4, R370). -/
theorem byte_writeAt (s : State) (sp sp' : Sp) (x A : Nat) (bs : List Byte) : Memory.byte ((s.writeAt sp 0 x bs).space sp') A =
    if s.hostLost sp x = false ∧ sp' = sp ∧ x ≤ A ∧ A < x + bs.length then bs.getD (A - x) 0 else Memory.byte (s.space sp') A := by
  unfold State.writeAt
  cases lost : s.hostLost sp x
  · rw [if_neg (by decide), if_neg (by simp), space_setSpace]
    by_cases here : sp' = sp
    · subst here
      simp only [if_true, true_and]
      exact Memory.byte_write ..
    · simp [here]
  · simp

/-- A byte after the low bytes of a value have been written. -/
theorem byte_writeAt_value (s : State) (sp sp' : Sp) (x w A : Nat) (v : BitVec 64) :
    Memory.byte ((s.writeAt sp 0 x (leBytes w v.toNat)).space sp') A =
      if s.hostLost sp x = false ∧ sp' = sp ∧ x ≤ A ∧ A < x + w then byteOfVal v (A - x) else Memory.byte (s.space sp') A := by
  rw [byte_writeAt, leBytes_value]
  simp only [List.length_map, List.length_range]
  refine ite_congr rfl (fun within => ?_) fun _ => rfl
  obtain ⟨-, -, low, high⟩ := within
  simp [List.getD_eq_getElem?_getD, show A - x < w by omega]

/-! ### A store -/

theorem covering_append (els : List Elem) (e : Elem) (sp : Sp) (A : Nat) :
    covering (els ++ [e]) sp A = if sp = e.sp ∧ e.a ≤ A ∧ A < e.a + e.w then some e else covering els sp A := by
  rw [covering, List.reverse_append, List.reverse_singleton, List.singleton_append, List.find?_cons]
  by_cases covers : sp = e.sp ∧ e.a ≤ A ∧ A < e.a + e.w
  · obtain ⟨rfl, low, high⟩ := covers
    simp [low, high]
  · rw [if_neg covers]
    have : (decide (e.sp = sp) && decide (e.a ≤ A) && decide (A < e.a + e.w)) = false := by
      simp only [Bool.and_eq_false_iff, decide_eq_false_iff_not]
      by_contra all
      simp only [not_or, not_not] at all
      exact covers ⟨all.1.1.symm, all.1.2, all.2⟩
    rw [this]
    rfl

theorem hostLost_storePlain (els : List Elem) (s : State) : (s.storePlain els).hostLost = s.hostLost :=
  foldl_keeps State.hostLost _ (fun s _ => writeAt_keeps State.hostLost hostLost_setSpace s ..) els s

theorem byte_storePlain {els : List Elem} (plain : ∀ e ∈ els, e.key = 0) (s : State) (there : ∀ e ∈ els, s.hostLost e.sp e.a = false)
    (sp : Sp) (A : Nat) : Memory.byte ((s.storePlain els).space sp) A = match covering els sp A with
      | some e => byteOfVal e.data (A - e.a)
      | none => Memory.byte (s.space sp) A := by
  induction els using List.reverseRecOn with
  | nil => rfl
  | append_singleton r e ih =>
    have ih := ih (fun x hx => plain x (by simp [hx])) fun x hx => there x (by simp [hx])
    have last : s.storePlain (r ++ [e]) = (s.storePlain r).writeAt e.sp 0 e.a (leBytes e.w e.data.toNat) := by
      rw [← plain e (by simp)]
      exact List.foldl_append ..
    rw [last, byte_writeAt_value, hostLost_storePlain, there e (by simp), ih, covering_append]
    by_cases covers : sp = e.sp ∧ e.a ≤ A ∧ A < e.a + e.w
    · rw [if_pos ⟨rfl, covers⟩, if_pos covers]
    · rw [if_neg fun h => covers h.2, if_neg covers]

theorem space_storePoison (els : List Elem) (s : State) (sp : Sp) : (s.storePoison els).space sp = s.space sp :=
  storePoison_keeps (State.space · sp) (fun s sp' _ => by cases sp' <;> cases sp <;> rfl) els s

/-- What a store to pages without a key leaves (R154, R370). -/
theorem byte_storeElems {els : List Elem} (plain : ∀ e ∈ els, e.key = 0) (s : State) (sp : Sp) (A : Nat) :
    Memory.byte ((s.storeElems 0 els).space sp) A = match covering (els.filter fun e => !s.hostLost e.sp e.a) sp A with
      | some e => byteOfVal e.data (A - e.a)
      | none => Memory.byte (s.space sp) A := by
  rw [State.storeElems, space_storePoison]
  refine byte_storePlain (fun e he => plain e (List.mem_filter.mp he).1) s (fun e he => ?_) sp A
  simpa using (List.mem_filter.mp he).2

theorem storeElems_frame {γ : Type} (p : State → γ) (bytes : ∀ s sp m, p (State.setSpace s sp m) = p s)
    (mark : ∀ s sp l, p (State.setPoison s sp l) = p s) (s : State) (els : List Elem) : p (s.storeElems 0 els) = p s := by
  rw [State.storeElems, storePoison_keeps p mark]
  exact foldl_keeps p _ (fun s _ => writeAt_keeps p bytes s ..) _ s

/-- Where the stores of an operation have been performed and noted, and it has left flight. -/
def afterStores (s : State) (a : Agent) (o : VOp) (els : List Elem) (ch : Nat) : State :=
  ((s.dropCopies a els ch).meetStores a o els).mapThr a (Thr.retire o)

theorem ground_afterStores (s : State) (a : Agent) (o : VOp) (els : List Elem) (ch : Nat) : ground (afterStores s a o els ch) = ground s :=
  (ground_mapThr _ a _).trans
    ((ground_of_scene (scene_meetStores a _ o els)).trans (ground_of_scene (scene_dropCopies a s a els ch)))

theorem completeOp_store {s : State} {a : Agent} {o : VOp} {els : List Elem} {fmt ch : Nat} (kind : o.kind = .store els fmt ch)
    (unpaired : ∀ e ∈ els, e.alt = none) : (s.mapThr a (Thr.landDue s.clk)).completeOp a o =
      .next (afterStores ((performing s a o).storeElems fmt els) a o els ch) := by
  simp only [State.completeOp, kind, toFront_unpaired _ a o unpaired]
  rfl

section
variable {s : State} {a : Agent} {k : Nat} {o : VOp} (now : Completing s a k o)
include now

theorem performs_store {els : List Elem} {ch : Nat} (kind : o.kind = .store els 0 ch) (plain : ∀ e ∈ els, e.key = 0 ∧ e.alt = none) :
    ∃ t, exec (.variableOpComplete a k) s = .next t ∧
      (∀ sp A, Memory.byte (t.space sp) A = match covering (els.filter fun e => !s.hostLost e.sp e.a) sp A with
        | some e => byteOfVal e.data (A - e.a)
        | none => Memory.byte (s.space sp) A) ∧
      (∀ f, o.flag = some f → (t.thr a).busy.getLsbD f = false) ∧ (t.thr a).ops.all (fun x => x.seq != o.seq) = true ∧ t.drive = s.drive := by
  have home := ground_performing s a o
  refine ⟨_, (exec_completing now).trans (completeOp_store kind fun e he => (plain e he).2), fun sp A => ?_, fun f flag => ?_, ?_, ?_⟩
  · rw [space_of_ground (ground_afterStores ..), byte_storeElems (fun e he => (plain e he).1), space_of_ground home,
      funext fun e : Elem => congrArg not (hostLost_of_ground home e.sp e.a)]
  · rw [afterStores, State.thr_mapThr_same]
    exact busy_retire flag _
  · rw [afterStores, State.thr_mapThr_same]
    exact retired_ops o _
  · calc State.drive _
      _ = State.drive _ := congrArg Ground.drive (ground_afterStores ..)
      _ = (performing s a o).drive := storeElems_frame State.drive drive_setSpace (fun s sp _ => by cases sp <;> rfl) _ els
      _ = s.drive := congrArg Ground.drive home

/-! ### A handle store -/

theorem performs_hst {e : Elem} {h : BitVec 128} (kind : o.kind = .hst e h) (unpaired : e.alt = none) (plain : e.key = 0)
    (there : s.hostLost e.sp e.a = false) : ∃ t, exec (.variableOpComplete a k) s = .next t ∧ ∀ sp A, Memory.byte (t.space sp) A =
        if sp = e.sp ∧ e.a ≤ A ∧ A < e.a + 16 then (h >>> (8 * (A - e.a))).setWidth 8 else Memory.byte (s.space sp) A := by
  have home := ground_performing s a o
  have run : (s.mapThr a (Thr.landDue s.clk)).completeOp a o =
      .next (afterStores (((performing s a o).writeAt e.sp 0 e.a (leBytes 16 h.toNat)).storePoison [e]) a o [e] 3) := by
    simp only [State.completeOp, kind, toFront_unpaired _ a o (els := [e]) (by simpa using unpaired), List.headD_cons, plain]
    rfl
  refine ⟨_, (exec_completing now).trans run, fun sp A => ?_⟩
  rw [space_of_ground (ground_afterStores ..), space_storePoison, byte_writeAt, hostLost_of_ground home, there, space_of_ground home,
    leBytes_eq]
  simp only [List.length_map, List.length_range, true_and]
  refine ite_congr rfl (fun within => ?_) fun _ => rfl
  obtain ⟨-, low, high⟩ := within
  simp [List.getD_eq_getElem?_getD, show A - e.a < 16 by omega, byte_eq_shift]

end

end Sys2Proof.Proofs
end

section
/-! PROOFS. An atomic that is performed: its lanes one after the other, their old values, and the elements that are poisoned left as they are
(R193). -/
namespace Sys2Proof.Proofs

open Sys2Proof Sys2Proof.Machine Sys2Proof.Safety Sys2Proof.Claims

/-! ### The lanes of an atomic one after the other -/

theorem atomicElems_frame {γ : Type} (p : State → γ) (bytes : ∀ s sp m, p (State.setSpace s sp m) = p s) (op ty : Nat) (els : List Elem)
    (s : State) : p (State.atomicElems op ty s els).1 = p s := by
  induction els generalizing s with
  | nil => rfl
  | cons e r ih =>
    refine (ih _).trans ?_
    split_ifs
    · rfl
    · exact writeAt_keeps p bytes s ..

theorem lanes_oneByOne (op ty : Nat) (bad : Elem → Bool) (els : List Elem) (m : Sp → Nat → Byte) :
    (oneByOne op ty bad m els).2.map (·.1) = els.map (·.lane) := by
  induction els generalizing m with
  | nil => rfl
  | cons e r ih => exact congrArg (e.lane :: ·) (ih _)

/-- The marks of the lanes whose elements are poisoned. -/
theorem marks_atomicElems (op ty : Nat) {l : Nat} (inside : l < 32) (els : List Elem) (s : State) :
    (State.atomicElems op ty s els).2.2.getLsbD l = els.any fun x => s.poisoned x.sp x.a x.w && decide (x.lane = l) := by
  induction els generalizing s with
  | nil => simp [State.atomicElems]
  | cons e r ih =>
    rw [List.any_cons, Bool.or_comm]
    refine (getLsbD_mark _ _ e.lane inside).trans ?_
    rw [ih]
    congr 1
    split_ifs
    · rfl
    · rw [writeAt_keeps State.poisoned poisoned_setSpace]

section
variable {op ty : Nat} (ops : op < 8) (types : ty < 5)
include ops types

/-- On pages without a key the bytes and the old values are those of `oneByOne`. -/
theorem atomicElems_eq_oneByOne {els : List Elem} (plain : ∀ e ∈ els, e.key = 0) (s : State) :
    let q := oneByOne op ty (fun e => s.poisoned e.sp e.a e.w) (fun sp A => Memory.byte (s.space sp) A) els
    (fun sp A => Memory.byte ((State.atomicElems op ty s els).1.space sp) A) = q.1 ∧ (State.atomicElems op ty s els).2.1 = q.2 := by
  induction els generalizing s with
  | nil => exact ⟨rfl, rfl⟩
  | cons e r ih =>
    have key : e.key = 0 := plain e (by simp)
    let old := leValue ((List.range e.w).map fun i => Memory.byte (s.space e.sp) (e.a + i))
    let s' := if s.poisoned e.sp e.a e.w then s else s.writeAt e.sp 0 e.a (leBytes e.w (atomicValue op ty old e.data e.data2).toNat)
    have read : BitVec.ofNat 64 (leNat (s.readAt e.sp e.key e.a e.w)) = old := by
      rw [← leValue_eq, key, State.readAt, if_neg (by simp), Memory.read]
    have step : State.atomicElems op ty s (e :: r) = ((State.atomicElems op ty s' r).1, (e.lane, old) :: (State.atomicElems op ty s' r).2.1,
        if s.poisoned e.sp e.a e.w then (State.atomicElems op ty s' r).2.2 ||| (1 <<< e.lane) else (State.atomicElems op ty s' r).2.2) := by
      rw [State.atomicElems, read, atomicNew_eq ops types, key]
    have poisoned : s'.poisoned = s.poisoned := by
      dsimp only [s']
      split_ifs
      · rfl
      · exact writeAt_keeps State.poisoned poisoned_setSpace s ..
    have bytes : (fun sp A => Memory.byte (s'.space sp) A) = fun sp A =>
        if s.poisoned e.sp e.a e.w = false ∧ sp = e.sp ∧ e.a ≤ A ∧ A < e.a + e.w then byteOfVal (atomicValue op ty old e.data e.data2) (A - e.a)
        else Memory.byte (s.space sp) A := by
      funext sp A
      dsimp only [s']
      cases bad : s.poisoned e.sp e.a e.w
      · have there : s.hostLost e.sp e.a = false := by
          rw [State.poisoned, Bool.or_eq_false_iff] at bad
          exact bad.1
        rw [if_neg Bool.false_ne_true, byte_writeAt_value, there]
      · simp
    obtain ⟨after, olds⟩ := ih (fun x hx => plain x (by simp [hx])) s'
    rw [step]
    rw [poisoned, bytes] at after olds
    exact ⟨after, congrArg ((e.lane, old) :: ·) olds⟩

end

/-! ### An atomic -/

/-- The state in which the lanes of an atomic are performed: the agent has met what it reads. -/
def meetingAll (s : State) (a : Agent) (o : VOp) (els : List Elem) : State := els.foldl (fun s e => s.meetRead a o e s.freeCtr) s

theorem scene_meetingAll (s : State) (a : Agent) (o : VOp) (els : List Elem) : scene a (meetingAll s a o els) = scene a s :=
  foldl_keeps (scene a) _ (fun s e => scene_meetRead a s o e _) els s

/-- The state after the lanes of an atomic, with its stores noted. -/
def atomicDone (s : State) (a : Agent) (o : VOp) (els : List Elem) (op ty : Nat) : State :=
  els.foldl (fun s e => s.meetStore a o e) ((State.atomicElems op ty (meetingAll s a o els) els).1.dropCopies a els)

theorem scene_atomicDone (s : State) (a : Agent) (o : VOp) (els : List Elem) (op ty : Nat) :
    scene a (atomicDone s a o els op ty) = scene a (State.atomicElems op ty (meetingAll s a o els) els).1 :=
  (foldl_keeps (scene a) _ (fun s e => scene_meetStore a s o e) els _).trans (scene_dropCopies ..)

theorem thr_atomicDone (s : State) (a : Agent) (o : VOp) (els : List Elem) (op ty : Nat) {γ : Type} (p : Thr → γ)
    (seen : ∀ th, p { th with seen := [] } = p th) : p ((atomicDone s a o els op ty).thr a) = p (s.thr a) :=
  calc p ((atomicDone s a o els op ty).thr a)
    _ = p ((State.atomicElems op ty (meetingAll s a o els) els).1.thr a) := thr_of_scene (scene_atomicDone ..) p seen
    _ = p ((meetingAll s a o els).thr a) := congrArg p (atomicElems_frame (State.thr · a) (thr_setSpace a) op ty els _)
    _ = p (s.thr a) := thr_of_scene (scene_meetingAll ..) p seen

theorem completeOp_atomic {s : State} {a : Agent} {o : VOp} {els : List Elem} {op ty : Nat} {ws : List RegW}
    (kind : o.kind = .atomic els op ty ws) (unpaired : ∀ e ∈ els, e.alt = none) :
    let v := performing s a o
    let r := State.atomicElems op ty (meetingAll v a o els) els
    (s.mapThr a (Thr.landDue s.clk)).completeOp a o = .next (((atomicDone v a o els op ty).finishLoad a o
      (fillResults ws (valuesOf (r.2.1.map fun x => (x.1, placeLoad (v.thr a).scalar ty x.2))) r.2.2)).passLate a o) := by
  simp only [State.completeOp, kind, toFront_unpaired _ a o unpaired]
  rfl

section
variable {s : State} {a : Agent} {k : Nat} {o : VOp} (now : Completing s a k o)
include now

theorem performs_atomic {els : List Elem} {op ty : Nat} {ws : List RegW} (kind : o.kind = .atomic els op ty ws) (own : OwnResults ws)
    (ops : op < 8) (types : ty < 5) (plain : ∀ e ∈ els, e.key = 0 ∧ e.alt = none) (apart : (els.map (·.lane)).Nodup)
    (lanes : ∀ e ∈ els, e.lane < 32) :
    let q := oneByOne op ty (fun e => s.poisoned e.sp e.a e.w) (fun sp A => Memory.byte (s.space sp) A) els
    ∃ t, exec (.variableOpComplete a k) s = .next t ∧ (∀ sp A, Memory.byte (t.space sp) A = q.1 sp A) ∧
      ∀ e ∈ els, ∀ old, (e.lane, old) ∈ q.2 →
        Arrives t a o ws e.lane (loadedValue (s.thr a).scalar ty old) (s.poisoned e.sp e.a e.w) := by
  intro q
  let v := meetingAll (performing s a o) a o els
  have home : ground v = ground s := (ground_of_scene (scene_meetingAll ..)).trans (ground_performing s a o)
  have poisoned : (fun e : Elem => v.poisoned e.sp e.a e.w) = fun e => s.poisoned e.sp e.a e.w :=
    funext fun e => poisoned_of_ground home ..
  have spaces : (fun sp A => Memory.byte (v.space sp) A) = fun sp A => Memory.byte (s.space sp) A :=
    funext fun sp => funext fun A => by rw [space_of_ground home]
  obtain ⟨bytes, olds⟩ := atomicElems_eq_oneByOne ops types (fun e he => (plain e he).1) v
  rw [poisoned, spaces] at bytes olds
  refine ⟨_, (exec_completing now).trans (completeOp_atomic kind fun e he => (plain e he).2), fun sp A => ?_, fun e he old mem => ?_⟩
  · rw [space_of_ground (ground_of_scene (scene_passLate a _ o)), space_of_ground (ground_finishLoad ..),
      space_of_ground (ground_of_scene (scene_atomicDone ..))]
    exact congrFun (congrFun bytes sp) A
  · refine arrives_congr (scene_passLate a _ o) ?_
    have value : lane64 (valuesOf ((State.atomicElems op ty v els).2.1.map fun x => (x.1, placeLoad ((performing s a o).thr a).scalar ty x.2)))
        e.lane = loadedValue (s.thr a).scalar ty old := by
      rw [olds, scalar_performing, ← placeLoad_eq]
      refine valuesOf_at (lane := Prod.fst) ?_ mem (lanes e he)
      rw [lanes_oneByOne]
      exact apart
    have mark : (State.atomicElems op ty v els).2.2.getLsbD e.lane = s.poisoned e.sp e.a e.w := by
      rw [marks_atomicElems op ty (lanes e he), any_lane _ apart he]
      exact congrFun poisoned e
    rw [← value, ← mark]
    refine arrives_finishLoad own ?_ ?_ ?_ _ _ (lanes e he)
    · rw [thr_atomicDone _ _ _ _ _ _ Thr.ra fun _ => rfl]
      exact awake_performing now
    · rw [thr_atomicDone _ _ _ _ _ _ Thr.alive fun _ => rfl]
      exact alive_performing now
    · rw [thr_atomicDone _ _ _ _ _ _ Thr.ops fun _ => rfl]
      exact there_performing now

end

end Sys2Proof.Proofs
end

section
/-! PROOFS. Accesses within one sector of a page with a key: it is read, decrypted, merged and encrypted (R147, R148). -/
namespace Sys2Proof.Proofs

open Sys2Proof Sys2Proof.Machine Sys2Proof.Safety Sys2Proof.Claims

/-- One sector of memory is merged with new bytes from address x on, and no other byte changes. -/
def MergesSector (kp : BitVec 512) (x : Nat) (new : List Byte) (s t : State) : Prop :=
  t.mem = Memory.write s.mem (32 * (x / 32)) (merged kp (x / 32) (x % 32) new s.mem) ∧ t.scr = s.scr ∧ t.dsp = s.dsp

theorem mergesSector_congr {kp : BitVec 512} {x : Nat} {new : List Byte} {s s' t t' : State} (before : SameBytes s s') (after : SameBytes t t')
    (h : MergesSector kp x new s' t) : MergesSector kp x new s t' := by
  obtain ⟨mem, scr, dsp, -⟩ := before
  obtain ⟨mem', scr', dsp', -⟩ := after
  unfold MergesSector at h ⊢
  rw [mem', scr', dsp', ← mem, ← scr, ← dsp]
  exact h

theorem sectorsOf_one {x n : Nat} (some_ : 0 < n) (within : x % 32 + n ≤ 32) : sectorsOf x n = [x / 32] := by
  rw [sectorsOf, if_neg (by omega), show (x + n - 1) / 32 - x / 32 + 1 = 1 by omega]
  rfl

section
variable {s : State} {key : Nat} {kp : BitVec 512} (keyed : key ≠ 0) (active : s.keyOf key = some kp)
include keyed active

/-- A sector of a page with an active key in plaintext (R147). -/
theorem sector_keyed (m : Nat) : s.sector key m = Aes.xts false kp m (Memory.read s.mem (32 * m) 32) := by
  rw [State.sector, if_neg keyed, active]

variable {x n : Nat} (some_ : 0 < n) (within : x % 32 + n ≤ 32)

include some_ within

theorem readAt_keyed : s.readAt .mem key x n =
    ((Aes.xts false kp (x / 32) (Memory.read s.mem (32 * (x / 32)) 32)).drop (x % 32)).take n := by
  rw [State.readAt, if_pos ⟨rfl, keyed⟩, sectorsOf_one some_ within, List.flatMap_singleton, sector_keyed keyed active]

theorem mergesSector_writeAt {bs : List Byte} (length : bs.length = n) (there : s.hostLost .mem x = false) :
    MergesSector kp x bs s (s.writeAt .mem key x bs) := by
  have whole : (bs.drop (max x (32 * (x / 32)) - x)).take (min (x + bs.length) (32 * (x / 32) + 32) - max x (32 * (x / 32))) = bs := by
    rw [show max x (32 * (x / 32)) - x = 0 by omega, List.drop_zero]
    exact List.take_of_length_le (by omega)
  rw [State.writeAt, there, if_neg Bool.false_ne_true, if_pos ⟨rfl, keyed⟩, length, sectorsOf_one some_ within, ← length]
  simp only [MergesSector, List.foldl_cons, List.foldl_nil, State.putSector, if_neg keyed, active, whole, patch, merged,
    sector_keyed keyed active, show max x (32 * (x / 32)) - 32 * (x / 32) = x % 32 by omega, and_self]

end

section
variable {s : State} {a : Agent} {k : Nat} {o : VOp} (now : Completing s a k o)
  {e : Elem} {kp : BitVec 512} (inMem : e.sp = .mem) (keyed : e.key ≠ 0) (unpaired : e.alt = none) (active : s.keyOf e.key = some kp)
  (some_ : 0 < e.w) (within : e.a % 32 + e.w ≤ 32)
include now inMem keyed unpaired active some_ within

theorem performs_store_keyed {ch : Nat} (kind : o.kind = .store [e] 0 ch) (there : s.hostLost .mem e.a = false) :
    ∃ t, exec (.variableOpComplete a k) s = .next t ∧ MergesSector kp e.a ((List.range e.w).map (byteOfVal e.data)) s t := by
  have home := ground_performing s a o
  have there_ : (performing s a o).hostLost .mem e.a = false := (hostLost_of_ground home ..).trans there
  have written : (performing s a o).storeElems 0 [e] =
      ((performing s a o).writeAt .mem e.key e.a ((List.range e.w).map (byteOfVal e.data))).storePoison [e] := by
    rw [State.storeElems, List.filter_singleton, inMem, there_, Bool.not_false, cond_true, if_pos rfl, State.storePlain, List.foldl_cons,
      List.foldl_nil, inMem, leBytes_value]
  have merges := mergesSector_writeAt keyed ((keyOf_of_ground home _).trans active) some_ within
    (bs := (List.range e.w).map (byteOfVal e.data)) (by simp) there_
  refine ⟨_, (exec_completing now).trans (completeOp_store kind (by simpa using unpaired)),
    mergesSector_congr (sameBytes_of_ground home) ?_ merges⟩
  rw [written]
  exact sameBytes_trans (sameBytes_iff.mpr (unchanged_storePoison _ [e])) (sameBytes_of_ground (ground_afterStores _ a o [e] ch))

theorem performs_atomic_keyed {op ty : Nat} {ws : List RegW} (kind : o.kind = .atomic [e] op ty ws) (ops : op < 8) (types : ty < 5)
    (clean : s.poisoned .mem e.a e.w = false) : ∃ t, exec (.variableOpComplete a k) s = .next t ∧
      MergesSector kp e.a ((List.range e.w).map (byteOfVal (atomicValue op ty
        (leValue ((s.mapThr a (Thr.landDue s.clk)).readAt .mem e.key e.a e.w)) e.data e.data2))) s t := by
  let v := meetingAll (performing s a o) a o [e]
  have home : ground v = ground s := (ground_of_scene (scene_meetingAll ..)).trans (ground_performing s a o)
  have clean_ : v.poisoned .mem e.a e.w = false := (poisoned_of_ground home ..).trans clean
  have there_ : v.hostLost .mem e.a = false := by
    rw [State.poisoned, Bool.or_eq_false_iff] at clean_
    exact clean_.1
  have read : v.readAt .mem e.key e.a e.w = (s.mapThr a (Thr.landDue s.clk)).readAt .mem e.key e.a e.w :=
    readAt_of_ground (home.trans (ground_mapThr s a _).symm) ..
  have written : (State.atomicElems op ty v [e]).1 = v.writeAt .mem e.key e.a ((List.range e.w).map (byteOfVal (atomicValue op ty
      (leValue ((s.mapThr a (Thr.landDue s.clk)).readAt .mem e.key e.a e.w)) e.data e.data2))) := by
    rw [← leBytes_value, ← read, leValue_eq, ← atomicNew_eq ops types]
    simp only [State.atomicElems, inMem, clean_, Bool.false_eq_true, if_false]
  have merges := mergesSector_writeAt keyed ((keyOf_of_ground home _).trans active) some_ within (bs := (List.range e.w).map (byteOfVal
    (atomicValue op ty (leValue ((s.mapThr a (Thr.landDue s.clk)).readAt .mem e.key e.a e.w)) e.data e.data2))) (by simp) there_
  refine ⟨_, (exec_completing now).trans (completeOp_atomic kind (by simpa using unpaired)),
    mergesSector_congr (sameBytes_of_ground home) (sameBytes_of_ground ?_) merges⟩
  rw [← written]
  calc ground _
    _ = ground _ := ground_of_scene (scene_passLate a _ o)
    _ = ground (atomicDone (performing s a o) a o [e] op ty) := ground_finishLoad ..
    _ = ground (State.atomicElems op ty v [e]).1 := ground_of_scene (scene_atomicDone ..)

end

/-- Settles O43: each kind of operation by what performing it leaves; the bookkeeping of what has been met and of the caches keeps the
scene, and a result lands in registers of its own. -/
theorem performedAccessesMoveExactlyTheirBytes : Obligations.PerformedAccessesMoveExactlyTheirBytes := by
  unfold Obligations.PerformedAccessesMoveExactlyTheirBytes
  intro s a k o now u scal apart source
  refine ⟨fun els ch kind plain => performs_store now kind plain, fun els ty ws ch kind own plain ap => ?_,
    fun els op ty ws kind own ops types plain ap => ?_, fun e n ch lanes kind unpaired => ?_,
    fun e h kind unpaired plain there => performs_hst now kind unpaired plain there, fun e kp inMem keyed unpaired active some_ within => ?_⟩
  · obtain ⟨some_, apart_, lanes⟩ := ap
    obtain ⟨t, run, bytes, arrives⟩ := performs_load now kind own plain some_ apart_ lanes
    exact ⟨t, run, bytes, fun e he => ⟨readFrom s a o ch e, readFrom_source s a o ch e, arrives e he⟩⟩
  · obtain ⟨-, apart_, lanes⟩ := ap
    exact performs_atomic now kind own ops types (fun e he => ⟨(plain e he).1, (plain e he).2.1⟩) apart_ lanes
  · obtain ⟨t, run, bytes, held⟩ := performs_hld now kind unpaired
    exact ⟨t, readFrom s a o ch e, run, bytes, readFrom_source s a o ch e, held⟩
  · intro n
    refine ⟨fun v active_ => readAt_keyed keyed active_ some_ within, fun ch kind there => ?_, fun op ty ws kind ops types _ clean => ?_⟩
    · exact performs_store_keyed now inMem keyed unpaired active some_ within kind there
    · exact performs_atomic_keyed now inMem keyed unpaired active some_ within kind ops types clean

end Sys2Proof.Proofs
end
